-- ==== Sys2Proof/Word.lean ====
section
/-! DEFINITION. The word types of the Beldel-7 and the table type its state is built from.

Widths are the spec's: registers and scalar registers are 64 bits (R127, R141), memory is bytes
(R116 and "Multi-byte values in memory are little-endian", 00_scope), a port granule is 256 B (R543). -/

namespace Sys2Proof

abbrev Byte := BitVec 8
abbrev Word := BitVec 64

/-- One 256 B port granule or row cache line: byte `j` is bits `8j+7 .. 8j` (R543). -/
abbrev Granule := BitVec 2048

/-- A finite table: entries by rising key, no entry equal to the table's default (see
`Machine/Tab.lean`).  Equal tables are then equal lists. -/
abbrev Tab (α : Type) := List (Nat × α)

/-- How a memory or port access ended, as the unit that carried it sees it (R546, R551, R477):
answered, refused by the controller (ERR or DECERR), poisoned, or never answered. -/
inductive Rsp where
  | ok | err | poison | timeout
  deriving DecidableEq, Repr

/-- The kinds of reporting unit of a fault record, in the order of R452's codes. -/
inductive UnitKind where
  | mover | stackPort | farPort | tilePort | linkPort | bank | shared | sequencer | sensor
  deriving DecidableEq, Repr

/-- One report on its way to the fault record store (R440, R450, R452). -/
structure Report where
  src     : Nat
  kind    : UnitKind
  unit    : Nat
  ctx     : Option Nat := none
  part    : Option Nat := none
  partner : Nat := 0
  iaddr   : Option (Nat × Word) := none
  /-- None where no rule says what DETAIL holds: an open value (log 5). -/
  detail  : Option Word := none
  /-- Taken at LOG and outside escalation (R447, R198). -/
  exempt  : Bool := false
  /-- The context is aborted whatever the severity (R134). -/
  ends    : Bool := false
  deriving DecidableEq, Repr

/-- A lane of a data port (R541, R542): stack ports have lanes A (0) and B (1), the others lane 0. -/
structure Lane where
  kind : UnitKind
  port : Nat
  lane : Nat
  deriving DecidableEq, Repr

/-- One beat of the RSP channel (R542). `data` lists the bytes the beat carries from the first byte
of its first burst on; an empty list carries what the memory last held. -/
structure RspBeat where
  tag    : Nat
  ptag   : Nat
  kind   : Nat
  status : Nat
  beat   : Nat
  poison : Nat
  last   : Bool
  data   : List Byte
  deriving DecidableEq, Repr

/-- One Dweath frame as it crosses the PCS interface (R402, R558): the 16-byte header and, for a data
frame, the payload. `bad`: the frame fails its CRC, or a word came from an uncorrectable codeword, or
its framing is broken (R405, R561). -/
structure Frame where
  hdr     : BitVec 128
  payload : List Byte
  bad     : Bool
  deriving DecidableEq, Repr

end Sys2Proof
end

