-- ==== Sys2Proof/Syntax.lean ====
section
/-! DEFINITION. The commands of the block: one constructor for every row of `spec/opcode_table.json`.

An instruction row names the context that executes it: its word is the one the context's mover fetches
at CTX_IP.  A register-write row carries the word written; an event row carries what the environment
decides about the event (which lane, which response, which level). -/

namespace Sys2Proof

/-- Names a running rung whose deadline is missed (R481). -/
inductive RungSel where
  | ctx (c : Nat) | mover (m : Nat) | unit (k : UnitKind) (u : Nat) | part (p : Nat) | block
  deriving DecidableEq, Repr

/-- An event on the test access port's inputs: TRST_N falls, or TCK rises with TMS and TDI (R529, R564). -/
inductive TckEv where
  | trst | edge (tms tdi : Bool)
  deriving DecidableEq, Repr

/-- What a dual-rail pair shows: the fault source it carries, the codes of its samples in their order (R439). -/
structure PairCodes where
  pair    : Nat
  samples : List (BitVec 2)
  deriving DecidableEq, Repr

/-- A word of an array: the array, the unit that holds it, its location (R459, R462). -/
structure ArrayWord where
  array : Nat
  kind  : UnitKind
  unit  : Nat
  loc   : Nat
  deriving DecidableEq, Repr

/-- The register write that the bits scanned into the IEEE 1687 network name (R567). -/
structure NetWr where
  off : Nat
  v   : Word
  deriving DecidableEq, Repr

inductive Instr where
  /- Instructions of context `c`, issued at its CTX_IP, and the ends of their waits (chapters 04, 05, 02) -/
  | nop (c : Nat)
  | halt (c : Nat)
  | haltDrainDone (c : Nat)
  | yield (c : Nat)
  | jmp (c : Nat)
  | br (c : Nat)
  | call (c : Nat)
  | ret (c : Nat)
  | loop (c : Nat)
  | endl (c : Nat)
  | sli (c : Nat)
  | slih (c : Nat)
  | sadd (c : Nat)
  | ssub (c : Nat)
  | smul (c : Nat)
  | sand (c : Nat)
  | sor (c : Nat)
  | sxor (c : Nat)
  | sshl (c : Nat)
  | sshr (c : Nat)
  | scmp (c : Nat)
  | ssel (c : Nat)
  | sld (c : Nat)
  | sst (c : Nat)
  | ldtd (c : Nat)
  | sttd (c : Nat)
  | scalarmemComplete (c : Nat) (va : Nat) (size : Nat)
  | tdset (c : Nat)
  | tdget (c : Nat)
  | ksig (c : Nat)
  | kwait (c : Nat)
  | kwaitTimeout (c : Nat)
  | kdrain (c : Nat)
  | kdrainDone (c : Nat)
  | fence (c : Nat)
  | fenceDone (c : Nat)
  | intr (c : Nat)
  | kread (c : Nat)
  | move (c : Nat)
  | moveLdrt (c : Nat)
  | mset (c : Nat)
  | msetDataPass (c : Nat)
  | fill (c : Nat)
  | window (c : Nat)
  | gather (c : Nat)
  | pool (c : Nat)
  | scatter (c : Nat)
  | expand (c : Nat)
  | pack (c : Nat)
  | digest (c : Nat)
  | prefetch (c : Nat)
  /-- `id`: the fill that lands. -/
  | prefetchFillLand (c : Nat) (id : Nat)
  | send (c : Nat)
  | deleg (c : Nat)
  | cinv (c : Nat)
  | creditAcquired (c : Nat)
  | stageAllWritePass (c : Nat)
  | courseComplete (c : Nat)
  | transferRetire (c : Nat)
  | stopEffect (c : Nat)
  | ifetchFill (c : Nat) (m : Nat) (line : Nat)
  /-- `id`: the walk. -/
  | pageWalkComplete (id : Nat) (part : Nat) (va : Nat)
  | translationHalt (c : Nat)
  /-- `id`: the fill that returns. -/
  | rowCacheFill (id : Nat)
  /-- `id`: the segment the bank applies. -/
  | combineSegment (id : Nat)
  /-- `id`: the row update group. -/
  | rowUpdateEnter (id : Nat)
  /-- `id`: the row update group. -/
  | rowUpdateExit (id : Nat)
  /-- `id`: the row update group. -/
  | rowUpdateAbandon (id : Nat)
  | tornRowRetry (c : Nat)
  /- Shadow checker, keystone unit, mover scheduling (chapters 14, 04, 02) -/
  /-- `m`: the originating mover or gang leader. -/
  | shadowReexec (m : Nat)
  /-- `err`: the error, if any, of the partner's digest (bits that differ from a healthy recomputation). -/
  | shadowCompare (m : Nat) (err : Word)
  | shadowTimeout (m : Nat)
  /-- `b`: the bank that applies its next waiting update. -/
  | keystoneUpdate (b : Nat)
  /-- `n`: TCLK edges that pass, the last with its evaluation. -/
  | keystoneTick (n : Nat)
  | moverSwitch (m : Nat)
  | timesliceExpiry (m : Nat)
  | starvationPromote (c : Nat)
  /- Traffic and ports (chapters 12, 17, 15) -/
  | issueWindow
  | quotaWindow
  | portGrant (l : Lane)
  | portReadData (l : Lane) (b : RspBeat)
  | portWriteAck (l : Lane) (b : RspBeat)
  /-- `wdat`: a write-data credit; otherwise a request credit. -/
  | portCreditReturn (l : Lane) (wdat : Bool)
  | txnTimeout (l : Lane) (tag : Nat)
  | tagBarExpiry (l : Lane) (tag : Nat)
  /-- `n`: the far port. -/
  | portHoldWatchdog (n : Nat)
  | progressWatchdog (c : Nat)
  /- Context commands (chapter 02) -/
  | bind (c : Nat)
  | bindComplete (c : Nat)
  | unbind (c : Nat)
  | unbindComplete (c : Nat)
  | start (c : Nat)
  | stop (c : Nat)
  | resume (c : Nat)
  | abort (c : Nat)
  | abortComplete (c : Nat)
  | clear (c : Nat)
  | loadregs (c : Nat)
  | saveregs (c : Nat)
  | regimageComplete (c : Nat) (part : Nat) (save : Bool)
  /- Register writes with a row of their own; `v` is the word written -/
  | gangForm (v : Word)
  | partMov (k : Nat) (v : Word)
  | ksPart (k : Nat) (v : Word)
  | invall (m : Nat)
  | invasid (m : Nat) (asid : BitVec 16)
  | ksVal (n : Nat) (v : Word)
  | ksAdd (n : Nat) (v : Word)
  | kwatchCfg (w : Nat) (v : Word)
  | trInvAll
  | trInvPartition (p : Nat)
  | trInvAsid (p : Nat) (asid : BitVec 16)
  | trInvAsidPage (p : Nat) (asid : BitVec 16)
  | trInvGlobalPage (p : Nat)
  | invalidationComplete
  /-- `r`: offset 0x00, 0x08 or 0x18 in the queue's block. -/
  | trqEnable (q : Nat) (r : Nat) (v : Word)
  /-- `v`: the word written to CMT_CTL. -/
  | autofill (v : Word)
  /-- `v`: the word written to CMT_CTL. -/
  | commit (v : Word)
  | commitComplete
  /-- `off`: TN_CFG, TN_RES, FP_CFGn or TP_WIN. -/
  | regionConfigWrite (off : Nat) (v : Word)
  | fcAck (v : Word)
  | fcSwrep (v : Word)
  | fcInjArm (v : Word)
  | injectionFire
  /-- `off`: SHD_CFG or SHD_SEED. -/
  | shdConfigWrite (off : Nat) (v : Word)
  | rsqMoverReset (t : Nat)
  | rsqPartitionReset (t : Nat)
  | glbRst (v : Word)
  | guard (v : Word)
  | guardExpiry
  | clkGate (v : Word)
  | icPset (k : Nat) (v : Word)
  | icPclr (k : Nat) (v : Word)
  | icMset (k : Nat) (v : Word)
  | icMclr (k : Nat) (v : Word)
  | icEvtcfg (v : Word)
  | icSrc (s : Nat) (v : Word)
  | icSst (s : Nat) (v : Word)
  | icEoi (t : Nat) (v : Word)
  | icTcfg (t : Nat) (v : Word)
  /- Interrupt delivery (chapter 16) -/
  /-- `early`: a source whose selection started before the mask write that now masks it (R521). -/
  | vectorPresent (t : Nat) (early : Option Nat)
  | vectorClaim (t : Nat)
  | vpackTimeout (t : Nat)
  /-- `merged`: a further edge arrived while the capture flop was set (R506). -/
  | evtEdge (i : Nat) (merged : Bool)
  | evtLevelRise (i : Nat)
  | evtLevelFall (i : Nat)
  | stormWindow (s : Nat)
  /- Further register writes -/
  | lkCfg (v : Word)
  | lkPctl (n : Nat) (v : Word)
  /-- `r`: offset 0x00 to 0x18 in the entry. -/
  | rtEntryWrite (p : Nat) (e : Nat) (r : Nat) (v : Word)
  /-- `r`: offset 0x00 to 0x18 in the window. -/
  | lwWrite (w : Nat) (r : Nat) (v : Word)
  | govConfigWrite (off : Nat) (v : Word)
  | rcEmbcfg (v : Word)
  /-- `off`: SNS_Ti or SNS_Vj. -/
  | snsUseroff (off : Nat) (v : Word)
  /-- `off`: SNS_TTHR or SNS_VTHR. -/
  | snsThreshold (off : Nat) (v : Word)
  | trcCfg (v : Word)
  | rsqTmo (v : Word)
  | rsqDump (v : Word)
  | tapNetaccWrite (tck : List TckEv) (r : NetWr)
  /-- `size`: RP_REQ_SIZE (R537). -/
  | registerWrite (off : Nat) (size : Nat) (v : Word)
  /- Power-on, clocks, straps, sensors (chapters 18, 17, 01) -/
  | porstAssert
  /-- The debounced straps and RCLK_OK at the release. -/
  | porstRelease (presenceN : Bool) (ftmN : Bool) (rclkOk : Bool)
  | selfTestDone (pass : Bool)
  | fuseWordAck (w : BitVec 32)
  | fuseTimeout
  | clockStart
  /-- The movers whose arrays failed, whether a shared array failed, and the reports of the failing words. -/
  | marchTestDone (movFail : Word) (shFail : Bool) (reps : List Report)
  | readyPhaseDone
  | hrst
  | rclkOkLoss
  /-- `n`: TCLK pulses counted. -/
  | clockMonitorWindow (n : Nat)
  /-- `level`: the debounced PRESENCE_N. -/
  | presenceChange (level : Bool)
  | aliveToggle
  /-- `i`: 0–15 temperature, 16–19 voltage. -/
  | sensorConversion (i : Nat) (raw : BitVec 16)
  | sensorStale (i : Nat)
  /- Faults and recovery (chapters 14, 15) -/
  /-- A word of the array of ECC-C source `a`, in a unit; of row cache data, the word at location `loc`. `flip`: the
  symbols, the first in the lowest byte, in which the stored codeword differs from the one written. -/
  | scrubRead (w : ArrayWord) (flip : BitVec 288)
  /-- `raised`: reports that hardware errors have raised since the last acceptance. -/
  | reportAccept (raised : List Report)
  | lockstepDisagree
  | rsqWatchdog
  | rungStart
  | rungDeadline (k : RungSel)
  /-- `dur`: the rung's duration in REFCLK. -/
  | moverResetDone (m : Nat) (dur : Nat)
  /-- `part`: the partition dumped, none for the block; `bytes`: none when complete, else the bytes written when it was truncated. -/
  | dumpEnd (part : Option Nat) (bytes : Option Nat)
  | dumpAckTimeout (part : Option Nat)
  | partitionResetDone (p : Nat) (dur : Nat)
  | blockResetDone (dur : Nat)
  /- Dweath link (chapter 13) -/
  /-- `lanes`: the lanes locked. -/
  | pcsLock (n : Nat) (lanes : BitVec 8)
  | trainProposeTimer (n : Nat)
  | train (n : Nat) (f : Frame)
  | trainTimeout (n : Nat)
  | trainRetry (n : Nat)
  | linkctlCredit (n : Nat) (f : Frame)
  | nack (n : Nat) (f : Frame)
  | replayTimer (n : Nat)
  | creditTimer (n : Nat)
  | keepaliveTimer (n : Nat)
  | linkSilence (n : Nat)
  /-- `lanes`: the lanes still locked. -/
  | laneLockLoss (n : Nat) (lanes : BitVec 8)
  | pcsError (n : Nat)
  | rxFifoOverflow (n : Nat)
  /-- `f`: the frame that arrives at port `n`. -/
  | frameForward (n : Nat) (f : Frame)
  /-- Takes the next delivered frame of port `n`, which is a SHEAD. -/
  | shead (n : Nat)
  | sdata (n : Nat)
  /-- `id`: the landing write that is answered. -/
  | landingBurst (id : Nat)
  | dhead (n : Nat)
  | ddata (n : Nat)
  /-- `p`: the partition. -/
  | guestDispatch (p : Nat)
  | cmpl (n : Nat)
  | delegCredit (n : Nat)
  | gone (n : Nat)
  | forwardWatchdog (n : Nat) (vl : Nat)
  | completionTimeout (id : Nat)
  | mtagBarExpiry (tag : Nat)
  | unitResetDone (kind : UnitKind) (u : Nat) (dur : Nat)
  | hrstRelease
  | refclkLoss
  /-- `pair`: the fault source whose pair it is; `sub`: the subsystem of R15, 1–23; `samples`: the codes (E_P, E_N) that
  the pair shows on successive edges of its unit's clock, after a healthy one (R439). -/
  | brokenWire (kind : UnitKind) (u : Nat) (codes : PairCodes) (sub : Nat)
  deriving DecidableEq, Repr

end Sys2Proof
end

