-- ==== Sys2Proof/Decode.lean ====
section
/-! DEFINITION. The commands that a word spells by the bits of `spec/opcode_table.json`: the table gives no
row any bits, so no word spells one. -/

namespace Sys2Proof

/-- The command spelled by a word of the opcode table: the table gives its rows no bits. -/
def decodeTableWord (_nbits _w : Nat) : Option Instr := none

end Sys2Proof
end

