-- ==== Sys2Proof/Config.lean ====
section
/-! DEFINITION. What the spec leaves open (free values) and what an implementation fixes.

A constant here has no body: nothing in Lean can evaluate it, so a statement that holds of the model
holds whatever the hardware does there.  `notes/assumptions/` says for each where the spec leaves the
value open. -/

namespace Sys2Proof

/-- Build parameters (R5): the ranges of the table of R5 are `Build.wf` in `WellFormed.lean`. -/
structure Build where
  nmov   : Nat
  nsp    : Nat
  nfp    : Nat
  ntp    : Nat
  nlp    : Nat
  /-- Row cache capacity in MiB: 0, 24, 48 or 96. -/
  rcache : Nat
  nctx   : Nat
  npart  : Nat
  /-- IDENT.PATCH (R602). -/
  patch  : BitVec 16
  deriving DecidableEq, Repr

/-- Beldel-7 L at patch level 0 (R5, R602; log 2). -/
def Build.beldel7L : Build :=
  { nmov := 64, nsp := 24, nfp := 8, ntp := 128, nlp := 16, rcache := 96, nctx := 256, npart := 8,
    patch := 0 }

/-- The value of the `n`-th open choice of a bit (log 5). -/
opaque Config.freeBit : Nat → Bool
/-- The L2 TLB set of a page: partition, ASID, page number (the spec gives the count of sets, R334; log 3). -/
opaque Config.l2Set : Nat → Nat → Nat → Nat
/-- The row cache set of a line: the spec gives the count of sets (R273, R604), not the index (log 3). -/
opaque Config.rcSet : Nat → Nat
/-- The row cache bank of a line: the spec gives 64 banks, not which holds a line (log 3). -/
opaque Config.rcBank : Nat → Nat
/-- Cells of the wrapper boundary, bits of the IEEE 1687 network's scan path (R564, R565: the spec gives neither; log 98). -/
opaque Config.boundaryLen : Nat
opaque Config.networkLen : Nat
/-- The boundary cell that drives the `k`-th global output, of the updated boundary (R567: the spec gives no order of the
cells; log 98). -/
opaque Config.boundaryCell : Nat → Nat → Bool
/-- The value of the `n`-th open byte (log 5). -/
opaque Config.freeByte : Nat → Byte
/-- The value of the `n`-th open word (log 5). -/
opaque Config.freeWord : Nat → Word

end Sys2Proof
end

