-- ==== Sys2Proof/Machine/Bits.lean ====
section
/-! DEFINITION. Bit fields, masks, sign extension and byte order. -/

namespace Sys2Proof

/-- Field `[lo + n - 1 : lo]` of a word. -/
def fld {m : Nat} (w : BitVec m) (lo n : Nat) : BitVec n := w.extractLsb' lo n

/-- The same field as a number. -/
def fldN {m : Nat} (w : BitVec m) (lo n : Nat) : Nat := (w.extractLsb' lo n).toNat

/-- Bit `i` of a word. -/
def bitB {m : Nat} (w : BitVec m) (i : Nat) : Bool := w.getLsbD i

/-- `n` one bits from bit `lo` up. -/
def maskBits (lo n : Nat) : Word := BitVec.ofNat 64 ((2 ^ n - 1) * 2 ^ lo)

/-- A number placed at bit `lo`. -/
def at64 (lo : Nat) (v : Nat) : Word := BitVec.ofNat 64 (v * 2 ^ lo)

/-- A flag placed at bit `lo`. -/
def flag64 (lo : Nat) (b : Bool) : Word := if b then at64 lo 1 else 0

/-- The bits of `mask` from `new`, the others from `old` (R12, R13). -/
def mergeMask {n : Nat} (mask old new : BitVec n) : BitVec n := (old &&& ~~~mask) ||| (new &&& mask)

/-- Sets or clears one bit. -/
def setBit {n : Nat} (w : BitVec n) (i : Nat) (b : Bool) : BitVec n :=
  if b then w ||| BitVec.ofNat n (2 ^ i) else w &&& ~~~(BitVec.ofNat n (2 ^ i))

/-- The positions of the one bits below `n`. -/
def onesBelow {m : Nat} (w : BitVec m) (n : Nat) : List Nat := (List.range n).filter (bitB w ·)

/-- Sign extension of the low `n` bits of a number to an integer. -/
def sextN (n v : Nat) : Int := if v % 2 ^ n < 2 ^ (n - 1) then (v % 2 ^ n : Nat) else (v % 2 ^ n : Nat) - (2 ^ n : Nat)

/-- Little-endian value of bytes (00_scope, Conventions). -/
def ofBytes : List Byte → Nat
  | [] => 0
  | b :: r => b.toNat + 256 * ofBytes r

/-- The `n` little-endian bytes of a number. -/
def toBytes : Nat → Nat → List Byte
  | 0, _ => []
  | n + 1, v => BitVec.ofNat 8 v :: toBytes n (v / 256)

/-- Saturating count: `cap` is where it stops. -/
def satAdd (cap a b : Nat) : Nat := if a + b ≤ cap then a + b else cap

/-- Rotate left on 32 bits. -/
def rotl32 (w : BitVec 32) (n : Nat) : BitVec 32 := w.rotateLeft (n % 32)

/-- ⌊log₂ n⌋ for `n ≥ 1`. -/
def log2N (n : Nat) : Nat := Nat.log2 n

/-- ⌈a / b⌉ for `b ≥ 1`. -/
def ceilDiv (a b : Nat) : Nat := (a + b - 1) / b

end Sys2Proof
end

