-- ==== Sys2Proof/Machine/Tab.lean ====
section
/-! DEFINITION. Reading and writing tables.

`Tab.get d t k` reads entry `k`, `d` being what an unlisted key reads as; `Tab.set d k v t` writes it
and keeps the canonical form: keys strictly rising and no entry equal to `d`. -/

namespace Sys2Proof

variable {α : Type}

def Tab.get (d : α) : Tab α → Nat → α
  | [], _ => d
  | (j, v) :: r, k => if j = k then v else Tab.get d r k

def Tab.erase : Tab α → Nat → Tab α
  | [], _ => []
  | (j, v) :: r, k => if j = k then Tab.erase r k else (j, v) :: Tab.erase r k

def Tab.insert : Tab α → Nat → α → Tab α
  | [], k, v => [(k, v)]
  | (j, w) :: r, k, v => if k < j then (k, v) :: (j, w) :: r else (j, w) :: Tab.insert r k v

def Tab.set [DecidableEq α] (d : α) (k : Nat) (v : α) (t : Tab α) : Tab α :=
  if v = d then Tab.erase t k else Tab.insert (Tab.erase t k) k v

/-- Applies `f` to entry `k`. -/
def Tab.upd [DecidableEq α] (d : α) (k : Nat) (f : α → α) (t : Tab α) : Tab α :=
  Tab.set d k (f (Tab.get d t k)) t

/-- Applies `f` to the entries of every key of the list. -/
def Tab.updAll [DecidableEq α] (d : Nat → α) (f : Nat → α → α) : List Nat → Tab α → Tab α
  | [], t => t
  | k :: ks, t => Tab.updAll d f ks (Tab.upd (d k) k (f k) t)

/-- Every key of the table is above `k`, keys rise, and no entry reads `d`. -/
def Tab.wfFrom [DecidableEq α] (d : α) : Option Nat → Tab α → Bool
  | _, [] => true
  | lo, (k, v) :: r =>
    (match lo with | none => true | some l => decide (l < k)) && decide (v ≠ d) && Tab.wfFrom d (some k) r

def Tab.wf [DecidableEq α] (d : α) (t : Tab α) : Bool := Tab.wfFrom d none t

end Sys2Proof
end

