-- ==== Sys2Proof/Machine/Regs.lean ====
section
/-! DEFINITION. The register space: offsets, reset values and write masks (19_register_map, R597–R613).

Offsets are numbers; an indexed register is a function of its index.  `Reg.reset b off` is the reset
value of R601 for every register held as a plain word, and `Reg.rwMask` the bits a plain write sets
(fields of access RW; the other bits are reserved or read-only and ignore the write, R12, R13). -/

namespace Sys2Proof

namespace Reg
def ident   : Nat := 0x000000
def config0 : Nat := 0x000008
def config1 : Nat := 0x000010
def glbRst  : Nat := 0x001000
def rstStat : Nat := 0x001008
def clkStat : Nat := 0x001010
def clkGate : Nat := 0x001018
def timebase : Nat := 0x001020
def guard   : Nat := 0x001040
def gangForm : Nat := 0x030000
def partMov (k : Nat) : Nat := 0x030010 + 8 * k
def ksPart (k : Nat) : Nat := 0x030040 + 8 * k
def partState : Nat := 0x030060
/-- Register `r` of the context table entry of context `n` (R76). -/
def ctx (n r : Nat) : Nat := 0x010000 + 0x100 * n + r
/-- Register `r` of the block of mover `m` (R86). -/
def mov (m r : Nat) : Nat := 0x020000 + 0x400 * m + r
def trInv : Nat := 0x040000
def trInvVa : Nat := 0x040008
def trInvStat : Nat := 0x040010
def trWalks : Nat := 0x040020
def trL2hit : Nat := 0x040028
def trq (q r : Nat) : Nat := 0x041000 + 0x40 * q + r
def tnCfg : Nat := 0x050000
def tnRes : Nat := 0x050008
def cmtCtl : Nat := 0x050010
def cmtStat : Nat := 0x050018
def tnStk (s : Nat) : Nat := 0x050100 + 8 * s
def tnChen (s : Nat) : Nat := 0x050200 + 8 * s
def legCfg : Nat := 0x050300
def legNear (k : Nat) : Nat := 0x050308 + 8 * k
def sp (n r : Nat) : Nat := 0x054000 + 0x40 * n + r
def cmt (h : Nat) : Nat := 0x058000 + 8 * h
def fp (n r : Nat) : Nat := 0x060000 + 0x40 * n + r
def tpWin : Nat := 0x068000
def tp (n r : Nat) : Nat := 0x069000 + 0x10 * n + r
def lkCfg : Nat := 0x070000
/-- Register `r` of the block of link port `n` (R435). -/
def lk (n r : Nat) : Nat := 0x070100 + 0x40 * n + r
def rt (p e r : Nat) : Nat := 0x071000 + 0x800 * p + 0x20 * e + r
def lw (w r : Nat) : Nat := 0x075000 + 0x20 * w + r
def cr (k r : Nat) : Nat := 0x077000 + 0x40 * k + r
def icPset (k : Nat) : Nat := 0x080000 + 8 * k
def icPclr (k : Nat) : Nat := 0x080080 + 8 * k
def icMset (k : Nat) : Nat := 0x080100 + 8 * k
def icMclr (k : Nat) : Nat := 0x080180 + 8 * k
def icAct (k : Nat) : Nat := 0x080200 + 8 * k
def icEvtcfg : Nat := 0x080280
def icTgt (t r : Nat) : Nat := 0x081000 + 0x40 * t + r
def icSrc (s : Nat) : Nat := 0x088000 + 8 * s
def icSst (s : Nat) : Nat := 0x08A000 + 8 * s
def fcSev (k : Nat) : Nat := 0x0A0000 + 8 * k
def fcStat : Nat := 0x0A0080
def fcAck : Nat := 0x0A0088
def fcSwrep : Nat := 0x0A0090
def fcScrub : Nat := 0x0A0098
def fcInj : Nat := 0x0A00A0
def shdCfg : Nat := 0x0A00C0
def shdSeed : Nat := 0x0A00C8
def fcSdc : Nat := 0x0A00D0
def fcRec (r : Nat) : Nat := 0x0A1000 + 0x40 * r
def ust (u : Nat) : Nat := 0x0A2000 + 8 * u
def fcEcc (a : Nat) : Nat := 0x0A3000 + 8 * a
def rsqTmo : Nat := 0x0B0000
def rsqReq : Nat := 0x0B0008
def rsqStat : Nat := 0x0B0010
def rsqDump : Nat := 0x0B0018
def rsqLast : Nat := 0x0B0020
def govSplit : Nat := 0x0C0000
def govCred : Nat := 0x0C0008
def govArb : Nat := 0x0C0010
def govPhstat : Nat := 0x0C0018
def govMstat (m r : Nat) : Nat := 0x0C1000 + 0x10 * m + r
def rcEmbcfg : Nat := 0x0D0100
def rcEmbhit : Nat := 0x0D0108
def rcEmbmiss : Nat := 0x0D0110
def rcSeqwait : Nat := 0x0D0118
def snsT (i : Nat) : Nat := 0x0E0000 + 8 * i
def snsV (j : Nat) : Nat := 0x0E0080 + 8 * j
def snsTthr : Nat := 0x0E0100
def snsVthr : Nat := 0x0E0108
def stupStat : Nat := 0x0E0200
def stupMovfail : Nat := 0x0E0208
def fuseShd (k : Nat) : Nat := 0x0E0400 + 8 * k
def trcCfg : Nat := 0x0F0000
def trcBase : Nat := 0x0F0040
def trcHead : Nat := 0x0F0048
def trcTail : Nat := 0x0F0050
def trcCtl : Nat := 0x0F0058
def ksVal (n : Nat) : Nat := 0x100000 + 0x10 * n
def ksAdd (n : Nat) : Nat := 0x100008 + 0x10 * n
def kwatchCfg (w : Nat) : Nat := 0x110000 + 0x10 * w
def kwatchTgt (w : Nat) : Nat := 0x110008 + 0x10 * w
end Reg

/-- The 16 severities of FC_SEV`k` at reset, field `j` in bits `[4j+2:4j]`: the defaults of R446. -/
def sevDefault (src : Nat) : Nat :=
  if src ≤ 0x0F then 0                                        -- ECC-C: LOG
  else if src ≤ 0x1D then                                     -- ECC-U
    match src with
    | 0x10 => 5 | 0x11 => 6 | 0x19 => 6 | 0x1A => 6 | 0x14 => 4 | 0x15 => 4 | 0x1B => 2 | _ => 3
  else if src < 0x28 then 0
  else if src ≤ 0x38 then                                     -- DATAPATH
    if src = 0x30 ∨ src = 0x31 ∨ src = 0x32 ∨ src = 0x33 ∨ src = 0x34 then 6 else 4
  else if src = 0x3C then 2 else if src = 0x3D then 1
  else if src < 0x40 then 0
  else if src ≤ 0x57 then                                     -- PROTOCOL of the data ports
    match src % 8 with
    | 3 => 3 | 4 => 4 | 5 => 4 | 7 => 4 | _ => 0
  else if src ≤ 0x5A then 0
  else if src = 0x60 then 3 else if src = 0x61 then 4 else if src = 0x62 then 3
  else if src = 0x63 then 3 else if src = 0x64 then 1
  else if src = 0x6C then 3
  else if src < 0x70 then 0
  else if src ≤ 0x78 then                                     -- LINK
    match src with
    | 0x70 => 0 | 0x75 => 0 | 0x76 => 0 | 0x77 => 4 | _ => 1
  else if src < 0x80 then 0
  else if src ≤ 0x9F then 3 else if src ≤ 0xAA then 0         -- CONTROL
  else if src < 0xB0 then 0
  else if src ≤ 0xC6 then                                     -- WIRE k = src - 0xAF
    if src = 0xB0 ∨ src = 0xC3 ∨ src = 0xC4 then 6 else if src = 0xC5 then 7 else 4
  else if src < 0xD0 then 0
  else if src ≤ 0xD6 then
    match src with
    | 0xD0 => 6 | 0xD1 => 1 | 0xD2 => 6 | 0xD3 => 1 | 0xD4 => 6 | 0xD5 => 0 | _ => 1
  else if src < 0xE0 then 0
  else match src with
    | 0xE0 => 4 | 0xE1 => 5 | 0xE2 => 6 | 0xE3 => 7 | 0xE4 => 7 | 0xE5 => 7 | 0xE6 => 0 | 0xE7 => 7
    | _ => 0

/-- The assigned fault sources (R446). -/
def srcAssigned (src : Nat) : Bool :=
  decide (src ≤ 0x1D) || (decide (0x28 ≤ src) && decide (src ≤ 0x38)) || src == 0x3C || src == 0x3D ||
  (decide (0x40 ≤ src) && decide (src ≤ 0x5A)) || (decide (0x60 ≤ src) && decide (src ≤ 0x64)) ||
  (decide (0x68 ≤ src) && decide (src ≤ 0x6C)) || (decide (0x70 ≤ src) && decide (src ≤ 0x78)) ||
  (decide (0x80 ≤ src) && decide (src ≤ 0xAA)) || (decide (0xB0 ≤ src) && decide (src ≤ 0xC6)) ||
  (decide (0xD0 ≤ src) && decide (src ≤ 0xD6)) || (decide (0xE0 ≤ src) && decide (src ≤ 0xE7))

/-- The sources whose severity software cannot change: the RSQ sources and WIRE22 (R451). -/
def sevFixed (src : Nat) : Bool := (decide (0xE0 ≤ src) && decide (src ≤ 0xE7)) || src == 0xC5

/-- The word of FC_SEV`k` at reset. -/
def fcSevReset (k : Nat) : Word :=
  (List.range 16).foldl (fun w j => w ||| at64 (4 * j) (sevDefault (16 * k + j))) 0

/-- IDENT (R602). -/
def identVal (b : Build) : Word := at64 48 0xBE17 ||| at64 40 7 ||| at64 32 2 ||| at64 16 b.patch.toNat

/-- The RCACHE code of CONFIG0 (R603). -/
def rcacheCode (b : Build) : Nat :=
  if b.rcache = 0 then 0 else if b.rcache = 24 then 1 else if b.rcache = 48 then 2 else 3

/-- CONFIG0 (R603). -/
def config0Val (b : Build) : Word :=
  at64 56 (rcacheCode b) ||| at64 52 b.npart ||| at64 40 b.nctx ||| at64 32 b.nlp ||| at64 24 b.ntp |||
  at64 16 b.nfp ||| at64 8 b.nsp ||| at64 0 b.nmov

/-- Row cache sets: capacity ÷ (24 × 256 B) (R604). -/
def rcSets (b : Build) : Nat := b.rcache * 1048576 / 6144

/-- CONFIG1 (R604). -/
def config1Val (b : Build) : Word :=
  at64 48 4 ||| at64 40 16 ||| at64 32 (if b.rcache = 0 then 0 else 24) |||
  at64 16 (rcSets b % 65536) ||| at64 0 2000

/-- Reset value of a register held as a plain word (R601). Registers not named here reset to zero, or
are read out of the structured state (`Machine/RegRead.lean`). -/
def Reg.reset (b : Build) (off : Nat) : Word :=
  if off = Reg.ident then identVal b
  else if off = Reg.config0 then config0Val b
  else if off = Reg.config1 then config1Val b
  else if off = Reg.clkGate then 1
  else if off = Reg.tnRes then 0x1E00
  else if off = Reg.legCfg then 0x10
  else if off = Reg.tpWin then 0x1000
  else if off = Reg.lkCfg then 0x0000003200003000
  else if off = Reg.fcScrub then 0x3E8
  else if off = Reg.shdCfg then 0x6400000A
  else if off = Reg.shdSeed then 1
  else if off = Reg.rsqTmo then 0x0000003200000008
  else if off = Reg.govSplit then 0x000F2332
  else if off = Reg.govCred then 0x04000012
  else if off = Reg.govArb then 0x0000008000004008
  else if off = Reg.rcEmbcfg then 0x3003
  else if off = Reg.snsTthr then 0x01B8017C
  else if off = Reg.snsVthr then 0x032A031402C802B2
  else if 0x010000 ≤ off ∧ off < 0x020000 ∧ off % 0x100 = 0 then 0x20                    -- CTX_CFG
  else if 0x070100 ≤ off ∧ off < 0x070500 ∧ off % 0x40 = 0 then                          -- LK_PCTLn
    BitVec.ofNat 64 (0x0078 + 0x1000 * ((off - 0x070100) / 0x40))
  else if 0x0A0000 ≤ off ∧ off < 0x0A0080 then fcSevReset ((off - 0x0A0000) / 8)
  else 0

/-- The registers that only PORST_N resets (R599), among those held as plain words. -/
def Reg.keptByBlockReset (off : Nat) : Bool :=
  off == Reg.rstStat || off == Reg.clkStat || (decide (0x0B0000 ≤ off) && decide (off < 0x0C0000)) ||
  off == Reg.stupStat || off == Reg.stupMovfail ||
  (decide (0x0E0400 ≤ off) && decide (off < 0x0E0600))

/-- The register regions of R597: an offset above them answers DECERR. -/
def Reg.inRegion (off : Nat) : Bool := decide (off < 0x120000)

end Sys2Proof
end

