-- ==== Sys2Proof/Machine/State.lean ====
section
/-! DEFINITION. The state of the block: every register, queue, buffer and pin the spec gives it.

Software-visible registers that hold a plain word are entries of `Chip.regs`, keyed by their offset in
the register space (R601); `Reg.reset` gives each its reset value.  State with more structure than a
word (contexts, movers, interrupt sources, fault records, ports, ...) has fields of its own, and the
register read-out (`Machine/RegRead.lean`) composes the registers that show it. -/

namespace Sys2Proof.Machine

/-! ### Global control, clocks, guard -/

/-- Where the block stands in the power-on sequence (R570) and in a block reset (R496). -/
inductive Phase where
  | porst | selfTest | selfTestFailed | fuses | clockWait | march | readyPor
  | run | blkDump | blkReset | readyBlk
  deriving DecidableEq, Repr

/-- GUARD (R589, R610): `opened t` holds the timebase at which the window of R590 ends. -/
inductive GuardSt where
  | closed | key1 | opened (till : Nat)
  deriving DecidableEq, Repr

/-- Status of the register port's last response (R537). -/
inductive RpStatus where
  | idle | ok | err | decerr
  deriving DecidableEq, Repr

/-- Global pins and flags (R529, R536, R473, R474, R592). `hrstArmed`: HRST_N has been 1 for 2 REFCLK
since the last reset it started (R532). `alive`: ALIVE_O toggles; `aliveLvl` is its level. -/
structure Pins where
  rclkOk     : Bool := false
  hrstArmed  : Bool := true
  presenceN  : Bool := true
  ftm        : Bool := false
  rstDone    : Bool := false
  hostRstReq : Bool := false
  pwrCycReq  : Bool := false
  alive      : Bool := false
  aliveLvl   : Bool := false
  /-- REFCLK runs (R530) -/
  refclk     : Bool := true
  /-- TAP_MFRID, tied by the integrator (R566) -/
  mfrid      : BitVec 11 := 0
  deriving DecidableEq, Repr

/-! ### Interrupt controller (R503, R514, R528) -/

structure IrqSrc where
  pend    : Bool := false
  nmireq  : Bool := false
  mask    : Bool := true
  active  : Bool := false
  /-- the ACTIVE delivery is non-maskable (R513) -/
  actNmi  : Bool := false
  /-- PEND was set by a level rise and by nothing else (R505) -/
  byLevel : Bool := false
  lost    : Bool := false
  storm   : Bool := false
  cnt     : Nat := 0
  phant   : Nat := 0
  prio    : Nat := 0x80
  target  : Nat := 0
  nmi     : Bool := false
  /-- storm window counted (R522), re-assertions in it, and whether it has been reported -/
  win     : Nat := 0
  winCnt  : Nat := 0
  winRep  : Bool := false
  deriving DecidableEq, Repr

/-- A vector port and its target (R514, R517, R528): `pres` is the vector presented (source, NMI);
`ackHigh` is the time since which a claimed ACK has not been seen low. -/
structure IrqTgt where
  vbase    : Word := 0
  vptmo    : Nat := 100
  prigroup : Nat := 0
  en       : Bool := false
  eoierr   : Bool := false
  pres     : Option (Nat × Bool) := none
  presAt   : Nat := 0
  ackHigh  : Option Nat := none
  deriving DecidableEq, Repr

structure IrqSt where
  src   : Tab IrqSrc := []
  tgt   : Tab IrqTgt := []
  /-- synchronised level of each event input in level mode (R505) -/
  lvl   : BitVec 32 := 0
  /-- sources masked by an IC_MSET whose earlier selections may still present them (R521) -/
  grace : List Nat := []
  deriving DecidableEq, Repr

/-! ### Fault collector (R440, R452) -/

structure PendRep where
  rep    : Report
  folded : Nat := 0
  deriving DecidableEq, Repr

structure FRec where
  cmask    : BitVec 16
  merged   : Nat
  sev      : Nat
  esc      : Bool
  rep      : Report
  time     : Nat
  temp     : BitVec 16
  volt     : BitVec 16
  tsens    : Nat
  vsens    : Nat
  lastTime : Nat
  valid    : Bool
  deriving DecidableEq, Repr

/-- A unit's status register (R443); HEALTHY is computed from the pending reports. -/
structure UnitStat where
  lastsrc : Nat := 0
  count   : Nat := 0
  pair    : Nat := 0
  /-- pairs masked after a WIRE report (R441): the WIRE bit reads 1 while there is one -/
  masked  : List Nat := []
  err     : Bool := false
  deriving DecidableEq, Repr

structure FaultSt where
  recs  : Tab (Option FRec) := []
  pend  : List PendRep := []
  units : Tab UnitStat := []
  deriving DecidableEq, Repr

/-! ### Recovery sequencer (R480–R496) -/

inductive RungKind where
  | ctxAbort | mover | unit | partition | block
  deriving DecidableEq, Repr

inductive RungOrigin where
  | report | host | gone | hrst | glbRst
  deriving DecidableEq, Repr

/-- A rung requested or running: its object is a context, a mover (the leader), a unit key, a
partition, or 0 for the block.  `src`, `slot` and `ctx` are of the report that started it. -/
structure Rung where
  kind   : RungKind
  obj    : Nat
  origin : RungOrigin
  src    : Nat := 0
  slot   : Option Nat := none
  ctx    : Option Nat := none
  /-- contexts a mover reset has ended, whose sources it raises on completion (R488) -/
  ended  : List Nat := []
  /-- it has missed its deadline (R481) -/
  late   : Bool := false
  deriving DecidableEq, Repr

/-- A crash dump in progress (R493, R494). -/
structure Dump where
  /-- none: the dump of a block reset -/
  part    : Option Nat
  src     : Nat
  slot    : Option Nat
  started : Nat
  movers  : List Nat
  acked   : Bool
  deriving DecidableEq, Repr

structure RsqSt where
  reqs   : List Rung := []
  rungs  : List Rung := []
  /-- R499: the block takes no further reset or recovery action -/
  failed : Bool := false
  dumps  : List Dump := []
  deriving DecidableEq, Repr

/-! ### Contexts (R46–R87) -/

inductive CState where
  | idle | bound | ready | waiting | faulted | aborting | aborted
  deriving DecidableEq, Repr

inductive WaitCause where
  | kwait | kdrain | fence | ifetch | scalarmem | credit | transfer | translate
  deriving DecidableEq, Repr

inductive AbortCause where
  | host | fault (src : Nat) | collateral | remote
  deriving DecidableEq, Repr

/-- A context command in progress (CTX_STATE.BUSY, R49). -/
inductive Busy where
  | bind | unbind | loadregs | saveregs
  deriving DecidableEq, Repr

structure LoopLvl where
  start : Nat
  count : Nat
  deriving DecidableEq, Repr

/-- A waiting KWAIT (R159, R160): `till` is the timebase at which its timeout elapses. -/
structure KWaitSt where
  k    : Nat
  mode : Nat
  tgt  : BitVec 48
  till : Option Nat
  soft : Bool
  deriving DecidableEq, Repr

inductive ScalarOp where
  | sld | sst | ldtd | sttd
  deriving DecidableEq, Repr

/-- A TLB entry (R334): a leaf of `2^lg` bytes. -/
structure TlbEnt where
  va   : Nat
  lg   : Nat
  part : Nat
  asid : BitVec 16
  g    : Bool
  pa   : Nat
  w    : Bool
  x    : Bool
  deriving DecidableEq, Repr

/-- A translation: the leaf that gave it, and how many invalidations had begun when it was taken (R337). -/
structure Leaf where
  epoch : Nat
  e     : TlbEnt
  deriving DecidableEq, Repr

/-- The memory access of an SLD, SST, LDTD or STTD in flight (R143–R145). `pa` is translated. -/
structure ScalarAcc where
  op   : ScalarOp
  va   : Nat
  pa   : Nat
  size : Nat
  reg  : Nat
  sext : Bool
  deriving DecidableEq, Repr

/-- ACC and WALK of a translation event (R341). -/
inductive Access where
  | read | write | fetch
  deriving DecidableEq, Repr

inductive WalkKind where
  | source | dest | aux | other
  deriving DecidableEq, Repr

structure WalkReq where
  va   : Nat
  acc  : Access
  walk : WalkKind
  deriving DecidableEq, Repr

/-- A translation halt (R123, R340): the fault met and when. -/
structure Halt where
  req   : WalkReq
  code  : Nat
  level : Nat
  time  : Nat
  deriving DecidableEq, Repr

/-- A running digest (R197): the chunk's CRC so far, its bytes, its index, and the XOR of the
finished chunks. -/
structure DigSt where
  crc : Word := 0
  n   : Nat := 0
  c   : Nat := 0
  x   : Word := 0
  deriving DecidableEq, Repr

/-- What a walk carries from unit to unit: a digest, a position (packed length, last granule), side sums. -/
structure WAcc where
  dig  : DigSt := {}
  pos  : Nat := 0
  sums : Tab Nat := []
  deriving DecidableEq, Repr

/-- An output digest (R466): the digest of the writes so far, a half-byte that waits for its pair, and the
side outputs, which follow at the end. -/
structure ODig where
  dig   : DigSt := {}
  nib   : Option Nat := none
  sides : List Byte := []
  deriving DecidableEq, Repr

/-- What a read of a walk serves: codes of TA (`data`), their scales, headers and index entries (`side`, `idx`), codes of
TC (`aux`), rubble, bag lengths, weights, channel entries, block lists, MSET's lists and images (`desc`), the table row
of a rubble position and the second read of its headers (R285), bytes that PREFETCH.stg brought. -/
inductive NeedKind where
  | data | side | idx | aux | rub | len | wt | chan | list | desc | stg | row (pos : Nat) | hdr2 (pos : Nat)
  deriving DecidableEq, Repr

/-- A staging line: bytes of one granule (`key`, its virtual address) and of one window of addresses, read for the units
`from_` to `to_` of a walk, or kept to its end. `want` are the bytes the walk has asked staging for, `asked` those whose read is issued, `got` those
that have landed; `run` and `id` name the line to the reads on their way. -/
structure SLine where
  run   : Nat
  id    : Nat
  kind  : NeedKind
  key   : Nat
  win   : Nat
  want  : BitVec 256
  asked : BitVec 256 := 0
  got   : BitVec 256 := 0
  data  : Granule := 0
  from_ : Nat
  to_   : Nat
  keep  : Bool := false
  deriving DecidableEq, Repr

/-- A table row in flight of a GATHER or POOL (R269, R285): its rubble position and value, its weight, the first unit it
serves and the last, the attempts that failed, where it stands. -/
inductive RowPhase where
  | reading | again | waiting | done
  deriving DecidableEq, Repr

structure RowSt where
  pos   : Nat
  v     : Int
  wt    : Nat
  lo    : Nat
  hi    : Nat
  tries : Nat := 0
  phase : RowPhase := .reading
  deriving DecidableEq, Repr

/-- An open bag of a POOL (R122, R268): its number, its place in the rubble, the indices accumulated, the FP32
accumulators of its lanes, how many of its elements were out of bounds, the versions of its rows (R467). -/
structure Bag where
  no   : Nat
  off  : Nat
  len  : Nat
  done : Nat := 0
  acc  : List Nat := []
  oob  : Nat := 0
  vers : List Byte := []
  deriving DecidableEq, Repr

/-- One byte of a write: its address, the bits it sets and their value. -/
structure WByte where
  va : Nat
  m  : Byte
  v  : Byte
  deriving DecidableEq, Repr

/-- Writes of one granule that still wait for a slot of the write share: its address, its course, its bytes (R380). -/
structure OutWr where
  va    : Nat
  crs   : Nat
  bytes : List WByte
  deriving DecidableEq, Repr

/-- The operands that a DELEG request ships to a guest: rubble values, bag lengths, weights (R426). -/
structure Shipped where
  rubble : List Int := []
  lens   : List Nat := []
  wts    : List Nat := []
  deriving DecidableEq, Repr

/-- The current transfer of a context: the instruction, its walk cursor, its staging and what it has
counted (R117–R123).  The walk is cut into units (elements, bags, rows, blocks: `Machine/Eval.lean`);
`cursor` is the next unit. `pass` 0 reads (stage-all, slice descriptors), 1 writes, 2 and 3 are MSET's fill
and data passes. -/
structure Xfer where
  word    : Word
  ip      : Nat
  pass    : Nat := 1
  cursor  : Nat := 0
  /-- every unit of the walk has been written -/
  ended   : Bool := false
  courses : Nat := 0
  /-- destination half-bytes written (R156) -/
  halves  : Nat := 0
  dropped : Nat := 0
  filled  : Nat := 0
  /-- staging: its lines, the number of the next one, how far the reads have been planned (a unit, an item in it) -/
  lines   : List SLine := []
  ids     : Nat := 0
  scan    : Nat := 0
  sub     : Nat := 0
  /-- rows in flight; POOL's open bags, the next one's number and its place in the rubble, and whether its length is bad -/
  rows    : List RowSt := []
  bags    : List Bag := []
  bagNext : Nat := 0
  bagOff  : Nat := 0
  bagBad  : Bool := false
  acc     : WAcc := {}
  /-- writes of the current unit that wait for a slot -/
  out     : List OutWr := []
  /-- pages translated for the writes of the next unit: page number, the physical address of the page, the translation -/
  pages   : List (Nat × Nat × Leaf) := []
  credits : Nat := 0
  fault   : Option Report := none
  halt    : Option Halt := none
  /-- the save-area writes of its halt are on their way -/
  saving  : Bool := false
  /-- operands that the link delivered, in a guest -/
  shipped : Option Shipped := none
  /-- it continues after a translation halt; the reads of what the halt saved are on their way (R123) -/
  resumed : Bool := false
  restoring : Bool := false
  /-- sampled for the shadow checker (R170, R463), with the output digest so far (R466) and the digest
  of the row versions accepted (R467) -/
  sampled : Bool := false
  odig    : ODig := {}
  vdig    : Word := 0
  torn    : Bool := false
  /-- message of a SEND or DELEG -/
  msg     : Option Nat := none
  /-- the number of a PREFETCH among its requests, or the credits it was given in sectors -/
  grp     : Nat := 0
  room    : Nat := 0
  /-- a PREFETCH's walk is truncated: what follows is counted as dropped (R199) -/
  dropping : Bool := false
  /-- the granules of the destination windows that the walk is in: their writes are issued (R118, R381) -/
  wrGot   : List Nat := []
  /-- bytes of memory read as source and written as destination, by the location of their granule (R109, R222) -/
  srcs    : Tab (BitVec 256) := []
  dsts    : Tab (BitVec 256) := []
  deriving DecidableEq, Repr

structure Ctx where
  st       : CState := .idle
  wait     : Option WaitCause := none
  busy     : Option Busy := none
  cmderr   : Bool := false
  abortReq : Bool := false
  stopReq  : Bool := false
  promoted : Bool := false
  /-- leader of the mover or gang whose slot it holds, and the size it was bound at -/
  slotOf   : Option Nat := none
  size     : Nat := 1
  faultSize : Nat := 1
  ip       : Nat := 0
  /-- the instruction at `ip` once it has been fetched and not yet retired -/
  iword    : Option Word := none
  exit     : Nat := 0
  fclass   : Nat := 0
  fcode    : Nat := 0
  faddr    : Nat := 0
  retired  : BitVec 48 := 0
  s        : Tab Word := []
  p        : BitVec 8 := 1
  t        : Tab Word := []
  loops    : List LoopLvl := []
  cause    : Option AbortCause := none
  /-- a fault of its own has been raised: it issues no more (R134) -/
  ended    : Bool := false
  halting  : Bool := false
  kw       : Option KWaitSt := none
  /-- KDRAIN's signal: the counter and the value to add -/
  drainSig : Option (Nat × BitVec 48) := none
  acc      : Option ScalarAcc := none
  /-- the request whose page walk it waits for, and the translation that a walk has brought for it alone (R337) -/
  walk     : Option WalkReq := none
  leaf     : Option Leaf := none
  /-- translation halt of an instruction other than a transfer -/
  halt     : Option Halt := none
  xfer     : Option Xfer := none
  /-- sectors a PREFETCH.stg holds for the next transfer (R199), with their lines -/
  stgHold  : Nat := 0
  stgBuf   : List SLine := []
  /-- timebase of the last progress (R479) -/
  progress : Nat := 0
  /-- detached work (R140): a message or a group of prefetches, and the counter due at its end (R172), 4096
  where there is none -/
  detached : List (Nat × Nat) := []
  /-- the first write-back of a FENCE that failed (R163) -/
  ffault   : Option Report := none
  deriving DecidableEq, Repr

/-! ### Movers -/

structure ICLine where
  asid : BitVec 16
  va   : Nat
  data : Granule
  deriving DecidableEq, Repr

/-- A sample in a shadow queue (R465): its number, the context and the operands of its instruction, the digests of the
original, the digests of the re-execution once that has ended. -/
structure Sample where
  id      : Nat
  ctx     : Nat
  part    : Nat
  asid    : BitVec 16
  root    : Nat
  ip      : Nat
  word    : Word
  size    : Nat
  t       : Tab Word
  digest  : Option Word
  vdigest : Word
  torn    : Bool
  retired : Option Nat
  redo    : Option (Word × Word × Bool)
  /-- the re-execution's walk, the translation that a page walk brought for it alone, and whether a fault has stopped it
  for good -/
  walk    : Option Xfer := none
  leaf    : Option Leaf := none
  stuck   : Bool := false
  deriving DecidableEq, Repr

/-- An instruction fill of a mover (R62, R64): its line (VA div 256), the context that asked for it, its physical
address once it has been requested; `redo`: an invalidation has met it (R63). -/
structure ICFill where
  asid : BitVec 16
  line : Nat
  ctx  : Nat
  pa   : Option Nat := none
  redo : Bool := false
  deriving DecidableEq, Repr

structure Mover where
  slots   : Tab (Option Nat) := []
  cur     : Option Nat := none
  /-- the slot that was last current -/
  last    : Nat := 7
  ic      : List ICLine := []
  icFill  : List ICFill := []
  l1      : List TlbEnt := []
  routes  : Tab (List Byte) := []
  lfsr    : BitVec 32 := 0
  samples : List Sample := []
  rdUsed  : Nat := 0
  wrUsed  : Nat := 0
  rmUsed  : Nat := 0
  deriving DecidableEq, Repr

/-! ### Keystone unit -/

/-- An update that waits for its bank (R149): a value to add, or to set; `host`: a register write. -/
structure KsOp where
  k    : Nat
  set  : Bool
  v    : BitVec 48
  host : Bool := false
  deriving DecidableEq, Repr

/-! ### Translation unit -/

/-- An invalidation in progress (R337): its scope and its number; it waits for what was translated before it. -/
structure InvSt where
  scope : Nat
  part  : Nat
  asid  : BitVec 16
  va    : Nat
  epoch : Nat
  deriving DecidableEq, Repr

/-- What waits for a page walk: a context's request, a landing message, a mover's next-line fill, the re-execution of a
sample of mover `m`. -/
inductive WalkFor where
  | ctx (c : Nat)
  | shadow (m : Nat)
  | land (src mtag : Nat)
  | line (m : Nat) (va : Nat)
  deriving DecidableEq, Repr

/-- How a page walk has ended (R333): a leaf, a code with its level, or the report of the port whose read failed. -/
inductive PtAns where
  | leaf (e : TlbEnt)
  | fault (code level : Nat)
  | failed (rep : Report)
  deriving DecidableEq, Repr

/-- A page walk (R335): `mov` is the leader of the mover or gang, `active` one of the 32 that run, `level` and `base` its
next read; `closed`: no request joins it any more (R337). -/
structure PWalk where
  id     : Nat
  mov    : Option Nat
  part   : Nat
  asid   : BitVec 16
  root   : Nat
  va     : Nat
  cls    : Nat
  who    : List WalkFor
  active : Bool := false
  closed : Bool := false
  epoch  : Nat
  level  : Nat := 0
  base   : Nat
  ans    : Option PtAns := none
  deriving DecidableEq, Repr

/-! ### Tiers -/

/-- The Channel Map Tables: entries (channel numbers), the active one's depth and enabled channels (R316), with
the capacities and enables of the stacks taken at its commit; `lcap`, `lchen`: those taken when legacy mode was
enabled (R327). -/
structure TierSt where
  active : Tab Nat := []
  shadow : Tab Nat := []
  depth  : Nat := 0
  nch    : Nat := 0
  err    : Nat := 0
  busy   : Bool := false
  cap    : Tab Nat := []
  chen   : Tab Word := []
  lcap   : Tab Nat := []
  lchen  : Tab Word := []
  deriving DecidableEq, Repr

/-! ### Row cache -/

/-- A row cache line of 256 B: whether it occupies a way, its valid sectors, its dirty bytes, the partition that
dirtied it last (R32), FREQ (R273), pinned by a row update (R274). -/
structure Line where
  here   : Bool := false
  data   : Granule := 0
  valid  : BitVec 4 := 0
  dirty  : BitVec 256 := 0
  part   : Nat := 0
  freq   : Nat := 0
  used   : Nat := 0
  pinned : Bool := false
  /-- leaves the cache when its write-back is acknowledged -/
  evict  : Bool := false
  /-- a dirty word was uncorrectable: a read of the line ends in an error (R461) -/
  lost   : Bool := false
  deriving DecidableEq, Repr

/-! ### Data ports -/

/-- What a port request is for. -/
inductive ReqKind where
  | xread | xwrite | fill | prefetchRc | prefetchStg | prefetchFill | evict | fenceWb | cinvWb
  | trq (q : Nat) | trace | evidence | ring (r : Nat) | dump | landing (msg : Nat) | save | stale
  | walk (id : Nat) | ifetch | scalar | image | restore | combine (seg : Nat) | header (grp : Nat) | shadow (m : Nat)
  deriving DecidableEq, Repr

/-- Who takes bytes of a read: a staging line of a context, and which bytes of the granule. -/
structure Dest where
  ctx  : Nat
  run  : Nat
  line : Nat
  vol  : Bool
  mask : BitVec 256
  deriving DecidableEq, Repr

/-- A request of up to 256 B for a port (R543). `loc` is the device location of its granule, `va` the
virtual address its data stands at for the requester, `grp` the PREFETCH, the FENCE or (plus 1) the row update group it
belongs to. -/
structure PortReq where
  id    : Nat
  kind  : ReqKind
  write : Bool
  lane  : Lane
  loc   : Nat
  mask  : BitVec 256
  data  : Granule := 0
  va    : Nat := 0
  grp   : Nat := 0
  dests : List Dest := []
  /-- of a write-back: its bytes that no later write has touched; of a fill: bytes that memory has taken since its
  grant (R348, R350) -/
  live  : BitVec 256 := 0
  skip  : BitVec 256 := 0
  /-- of a write: bits of its bytes that memory keeps, the other halves of half-bytes (R226) -/
  keep  : Granule := 0
  ctx   : Option Nat := none
  part  : Option Nat := none
  /-- the course its first byte lies in (R119) -/
  crs   : Nat := 0
  /-- the translation of its address, if it has one (R337) -/
  tr    : Option Leaf := none
  cls   : Nat
  req   : Nat
  waited : Nat := 0
  deriving DecidableEq, Repr

/-- The parts of a port's tags (R391). -/
inductive TagPool where
  | maint | own (c : Nat) | shared (c : Nat)
  deriving DecidableEq, Repr

/-- A granted request: its tag, the part the tag is of, when it was granted, the bursts answered and those
poisoned, the data of a read that have arrived; `dead`: its response is to be discarded. -/
structure Outst where
  tag    : Nat
  r      : PortReq
  pool   : TagPool
  at_    : Nat
  got    : BitVec 4 := 0
  poison : BitVec 4 := 0
  failed : Bool := false
  dead   : Bool := false
  /-- what the granule held at the grant, in memory and, where a row cache line held dirty bytes, in the line (R359) -/
  old    : Granule := 0
  own    : BitVec 256 := 0
  ownD   : Granule := 0
  data   : Granule := 0
  deriving DecidableEq, Repr

/-- A tag that a timeout or a reset has freed and that is not issued again until `till` (R478). -/
structure Bar where
  lane : Lane
  tag  : Nat
  pool : TagPool
  till : Nat
  deriving DecidableEq, Repr

/-- Credit counts of a lane (R544). `owe`: beats of the write just granted that still wait for a write-data
credit; `cur`: the request last granted. -/
structure LaneSt where
  rq : Nat := 0
  wd : Nat := 0
  owe : Nat := 0
  cur : Option Nat := none
  /-- when the last write beat left (R388) -/
  beatAt : Nat := 0
  /-- far grants in the present window of 64, and grants in it (R323) -/
  far : Nat := 0
  win : Nat := 0
  deriving DecidableEq, Repr

/-- A fill whose data has returned and waits for its bank (R348) or its staging: the tag it had, which sectors
came, and the worst answer of the others. -/
structure FillDone where
  r    : PortReq
  tag  : Nat
  data : Granule
  ok   : BitVec 4
  rsp  : Rsp
  deriving DecidableEq, Repr

structure PortSt where
  queue : List PortReq := []
  outs  : List Outst := []
  bars  : List Bar := []
  lanes : Tab LaneSt := []
  /-- ports in a unit reset (R489), by lane code -/
  held  : List Nat := []
  fills : List FillDone := []
  /-- class-0 grants in the present quota window, by port and requester (R385) -/
  quota : Tab Nat := []
  /-- the requester last granted at each lane in each step of R384 -/
  last  : Tab Nat := []
  deriving DecidableEq, Repr

/-! ### Combines and row updates (R277–R285) -/

/-- One element of a combine segment: the table element at half-byte `half` of its granule, its format and
affine parameters, and the source element as shipped, with what its code decodes by (R277). -/
structure SegOp where
  half   : Nat
  tfmt   : Nat
  taff   : Bool
  tscale : Nat
  tzp    : Int
  sfmt   : Nat
  saff   : Bool
  sscale : Nat
  szp    : Int
  scode  : Nat
  deriving DecidableEq, Repr

/-- A segment accepted by a row cache bank (R278): `pos` is its rubble position, `run` numbers its SCATTER;
`mem` is the member of the gang whose share the position lies in; `missed`: it waits for a fill of its sector; `grp`: the
row update group whose body it is part of. -/
structure Seg where
  id   : Nat
  ctx  : Nat
  lead : Nat
  part : Nat
  cls  : Nat
  cmb  : Nat
  loc  : Nat
  pos  : Nat
  run  : Nat
  mem  : Nat := 0
  ops  : List SegOp
  missed : Bool := false
  grp  : Option Nat := none
  crs  : Nat := 0
  trs  : List Leaf := []
  deriving DecidableEq, Repr

/-- A row update group (R282): the header's location, the row's new bytes by location (header bytes
0–5 and codes), each with the bits it sets, the lines, those of them pinned, and the version set at ENTER. -/
structure RowGroup where
  id      : Nat
  ctx     : Nat
  lead    : Nat
  part    : Nat
  cls     : Nat
  hdr     : Nat
  bytes   : List (Nat × Byte × Byte)
  lines   : List Nat
  pins    : List Nat := []
  pos     : Nat
  run     : Nat
  mem     : Nat := 0
  crs     : Nat := 0
  failed  : Option Report := none
  entered : Option Nat := none
  trs     : List Leaf := []
  deriving DecidableEq, Repr

/-! ### Dweath link (R401–R438) -/

inductive LState where
  | disabled | waitPcs | training | up | flapoff
  deriving DecidableEq, Repr

/-- A frame in an egress slot: its class, lane of the next hop, local message, arrival port. -/
structure EgFrame where
  f    : Frame
  vl   : Nat
  cls  : Nat
  src  : Option Nat
  msg  : Option Nat
  seq  : Option Nat := none
  at_  : Nat
  deriving DecidableEq, Repr

/-- A frame in an ingress slot: `egress` is the port it waits for, none when it is for this chip. -/
structure InFrame where
  f      : Frame
  vl     : Nat
  egress : Option Nat
  deriving DecidableEq, Repr

structure LinkPort where
  st       : LState := .disabled
  epoch    : Nat := 0
  oldEpoch : Option Nat := none
  fresh    : Bool := true
  peerChip : Nat := 0
  peerPort : Nat := 0
  peerZc   : Bool := false
  peerDel  : Bool := false
  genUp    : Nat := 0
  wUp      : Nat := 0
  downs    : List Nat := []
  lanes    : BitVec 8 := 0
  trainAt  : Nat := 0
  retryAt  : Option Nat := none
  /-- the E of the STEP 1 sent and of the STEP 1 received in this training -/
  sent1    : Option Nat := none
  got1     : Option Nat := none
  lastRx   : Nat := 0
  txSeq    : Nat := 0
  rxSeq    : Nat := 0
  nacked   : Bool := false
  since    : Nat := 0
  freed0   : Nat := 0
  freed1   : Nat := 0
  cred0    : Nat := 128
  cred1    : Nat := 128
  egress   : List EgFrame := []
  ingress  : List InFrame := []
  retrySeq : Nat := 0
  retries  : Nat := 0
  lastSrc  : Nat := 0
  lastSent : Nat := 0
  /-- the last data frame sent on each lane -/
  laneTx0  : Nat := 0
  laneTx1  : Nat := 0
  /-- LINKCTL frames the port has sent, newest first (the last 4) -/
  ctl      : List (BitVec 128) := []
  deriving DecidableEq, Repr

/-- A message of this chip that awaits completion (R418, R423). `route` is the entry's ROUTE, `stream` what
is still to be framed, after the frames of `heads` (their types and payloads), `raw` the bytes of a chunk not yet coded,
`whole`: nothing more will join them;
`acked` the bytes the receiver has acknowledged, `sig` the courses signalled, `heard` the last sign of life
(R425); a DELEG has been granted `granted` operand bytes and has framed `sentB`; `res` is the request that a
guest's result answers: its source chip and MTAG. -/
structure Msg where
  id      : Nat
  mtag    : Nat
  deleg   : Bool
  ctx     : Nat
  part    : Nat
  cls     : Nat
  entry   : Nat
  route   : Nat
  dst     : Nat
  crec    : Bool
  ring    : Nat
  ip      : Nat
  ks      : Nat
  km      : Nat
  len     : Nat
  zc      : Bool
  acked   : Nat := 0
  sig     : Nat := 0
  heard   : Nat := 0
  granted : Nat := 0
  sentB   : Nat := 0
  chunk   : Nat := 0
  raw     : List Byte := []
  heads   : List (Nat × List Byte) := []
  stream  : List Byte := []
  whole   : Bool := false
  /-- its context was aborted: what is with the link engine still goes out, nothing follows its completion (R487) -/
  dead    : Bool := false
  res     : Option (Nat × Nat) := none
  deriving DecidableEq, Repr

/-- The writes of one burst of a landing message: its address, its first stream byte, how many begin in it, the bytes. -/
structure BurstWr where
  va    : Nat
  first : Nat
  n     : Nat
  bytes : List WByte
  deriving DecidableEq, Repr

/-- A message landing in a window of this chip (R421–R423): its window as it was when its head arrived, its stream:
`next` bytes placed, `done` bytes written without a gap, `told` progress completions sent; `bursts` on their way:
number, first stream byte, bytes; `tagp` is the PART of its frames. -/
structure Land where
  src    : Nat
  mtag   : Nat
  win    : Nat
  part   : Nat
  tagp   : Nat
  asid   : BitVec 16 := 0
  root   : Nat := 0
  base   : Nat := 0
  kcnt   : Nat := 0
  cls    : Nat
  port   : Nat
  rroute : Nat
  t      : Tab Word
  len    : Nat
  zc     : Bool
  raw    : List Byte := []
  chunk  : Nat := 0
  next   : Nat := 0
  done   : Nat := 0
  told   : Nat := 0
  bursts : List (Nat × Nat × Nat) := []
  /-- bursts not written yet: they wait for the rest of their bytes, for a translation or for a way of their set -/
  todo   : List BurstWr := []
  leaf   : Option Leaf := none
  walking : Bool := false
  dmtag  : Nat := 0
  dres   : Bool := false
  status : Option Nat := none
  deriving DecidableEq, Repr

/-- A DELEG request at its owner (R426–R429). -/
structure Deleg where
  src     : Nat
  mtag    : Nat
  win     : Nat
  rlwin   : Nat
  part    : Nat
  tagp    : Nat
  cls     : Nat
  rroute  : Nat
  word    : Word
  len     : Nat
  images  : List Byte := []
  ops     : List Byte := []
  granted : Nat := 0
  taken   : Nat := 0
  guest   : Option Nat := none
  /-- refused or ended: its later frames are dropped (R421) -/
  ended   : Bool := false
  deriving DecidableEq, Repr

structure LinkSt where
  ports   : Tab LinkPort := []
  msgs    : List Msg := []
  lands   : List Land := []
  delegs  : List Deleg := []
  /-- barred message tags (R430): tag and the timebase at which the bar ends -/
  mbars   : List (Nat × Nat) := []
  /-- tags of DELEGs whose context was aborted (R429), until they are used again -/
  gone    : List Nat := []
  deriving DecidableEq, Repr

/-! ### The TAP (R564, R565) -/

/-- The states of the IEEE 1149.1 TAP controller. -/
inductive TapFsm where
  | reset | idle | selDr | capDr | shiftDr | exit1Dr | pauseDr | exit2Dr | updDr
  | selIr | capIr | shiftIr | exit1Ir | pauseIr | exit2Ir | updIr
  deriving DecidableEq, Repr

/-- The TAP: its controller, its instruction register and what is shifted into it, the selected data register as it is
shifted (bit 0 leaves first) and its length. -/
structure TapSt where
  fsm : TapFsm := .reset
  ir  : BitVec 8 := 0x02
  irs : BitVec 8 := 0
  dr  : Nat := 0
  /-- the wrapper boundary as it was last updated -/
  bnd : Nat := 0
  deriving DecidableEq, Repr

/-! ### The block -/

/-- Everything but the command queue. `uid` numbers requests, segments and groups as they arise; `free`
is the model's own counter of open choices (log 5): the `n`-th open value is `Config.freeWord n`. -/
structure Chip where
  build  : Build
  regs   : Tab Word := []
  time   : Nat := 0
  phase  : Phase := .porst
  pins   : Pins := {}
  guard  : GuardSt := .closed
  rp     : RpStatus := .idle
  ctx    : Tab Ctx := []
  mov    : Tab Mover := []
  ks     : Tab (BitVec 48) := []
  ksq    : List KsOp := []
  l2     : List TlbEnt := []
  inv    : Option InvSt := none
  /-- invalidations begun (R337), and the page walks that run or wait for a walker (R335) -/
  epoch  : Nat := 0
  walks  : List PWalk := []
  tier   : TierSt := {}
  mem    : List Host.Cell := []
  rc     : Tab Line := []
  rcFills : Tab Nat := []
  segs   : List Seg := []
  groups : List RowGroup := []
  /-- the last rubble position that a bank has applied of a SCATTER: its run, the sector or the row's header, the position
  (R279) -/
  banked : List (Nat × Nat × Nat) := []
  ports  : PortSt := {}
  irq    : IrqSt := {}
  fc     : FaultSt := {}
  rsq    : RsqSt := {}
  link   : LinkSt := {}
  /-- next fuse word of the power-on read (R563) -/
  fuseIdx : Nat := 0
  fuseTmo : Bool := false
  /-- ENV conditions reported and not re-armed (R583): TWARN, TCRIT, VWARN, VCRIT -/
  envOn  : BitVec 4 := 0
  /-- capture delay of each stack, far and tile port, numbered as in R579 (R574) -/
  taps   : Tab Nat := []
  /-- one more than the timebase of each sensor's last conversion since the sensors were initialised, 0 where there
  is none, and the timebase of that initialisation (R584) -/
  snsAt  : Tab Nat := []
  snsRef : Nat := 0
  /-- the last clock-monitor window was out of range (R37) -/
  clkBad : Bool := false
  tap    : TapSt := {}
  uid    : Nat := 0
  free   : Nat := 0
  deriving DecidableEq, Repr

/-- The machine: the block and the commands waiting for it, first in, first out. -/
structure State where
  chip    : Chip
  pending : List Instr
  deriving DecidableEq, Repr

/-- Why a run stops: nothing stops one.  Every command has an effect or, where the spec has no such step
in the present state, none (log 4), so the type has no constructor. Safe. -/
inductive Fault where
  deriving DecidableEq, Repr

/-- A command without a meaning: `notModelled` names its row. Safe: the run ends. -/
inductive Refusal where
  | notModelled (mnemonic : String)
  deriving DecidableEq, Repr

/-- The block held in power-on reset (PORST_N = 0): every register at its reset value (R599, R601),
no context running, memory with nothing listed, credits 0, ALIVE_O 0 (R473). -/
def Chip.porst (b : Build) : Chip := { build := b }

/-- Beldel-7 L in power-on reset, no command waiting (log 1, log 2). -/
def State.reset : State := { chip := Chip.porst Build.beldel7L, pending := [] }

end Sys2Proof.Machine
end

