-- ==== Sys2Proof/Machine/Ops.lean ====
section
/-! DEFINITION. Named operations over the state: registers, contexts, movers, memory. -/

namespace Sys2Proof.Machine

/-- What a command answers. -/
abbrev Out := Host.Outcome State Fault Refusal

/-- A command's effect on the block, the queue left alone. -/
def State.run (f : Chip → Chip) (s : State) : Out := .next { s with chip := f s.chip }

/-! ### Registers held as plain words -/

def Chip.reg (s : Chip) (off : Nat) : Word := Tab.get (Reg.reset s.build off) s.regs off

def Chip.setReg (off : Nat) (v : Word) (s : Chip) : Chip :=
  { s with regs := Tab.set (Reg.reset s.build off) off v s.regs }

/-- Field `[lo+n-1:lo]` of a register. -/
def Chip.regF (s : Chip) (off lo n : Nat) : Nat := fldN (s.reg off) lo n

/-- Writes a field of a register. -/
def Chip.setF (off lo n v : Nat) (s : Chip) : Chip :=
  s.setReg off (mergeMask (maskBits lo n) (s.reg off) (at64 lo (v % 2 ^ n)))

/-- Adds to a counter field, which wraps (the statistics registers of every chapter). -/
def Chip.bump (off lo n k : Nat) (s : Chip) : Chip := s.setF off lo n (s.regF off lo n + k)

/-! ### Contexts and movers -/

def Chip.ctxAt (s : Chip) (c : Nat) : Ctx := Tab.get {} s.ctx c

def Chip.updCtx (c : Nat) (f : Ctx → Ctx) (s : Chip) : Chip := { s with ctx := Tab.upd {} c f s.ctx }

def Chip.movAt (s : Chip) (m : Nat) : Mover := Tab.get {} s.mov m

def Chip.updMov (m : Nat) (f : Mover → Mover) (s : Chip) : Chip := { s with mov := Tab.upd {} m f s.mov }

/-- Fields of CTX_CFG (R77) and the words that name the context's memory (R79). -/
def Chip.ctxPart (s : Chip) (c : Nat) : Nat := s.regF (Reg.ctx c 0) 0 3
def Chip.ctxClass (s : Chip) (c : Nat) : Nat := s.regF (Reg.ctx c 0) 4 2
def Chip.ctxGuest (s : Chip) (c : Nat) : Bool := bitB (s.reg (Reg.ctx c 0)) 8
def Chip.ctxSavew (s : Chip) (c : Nat) : Nat := s.regF (Reg.ctx c 0) 16 4
def Chip.ctxAsid (s : Chip) (c : Nat) : BitVec 16 := fld (s.reg (Reg.ctx c 0x08)) 0 16
def Chip.ctxRoot (s : Chip) (c : Nat) : Nat := s.regF (Reg.ctx c 0x10) 12 36 * 4096
def Chip.ctxSaveBase (s : Chip) (c : Nat) : Nat := s.regF (Reg.ctx c 0x18) 12 36 * 4096

/-- Every context of the block is IDLE (R28, R78, R313, R397, R477). -/
def Chip.allIdle (s : Chip) : Bool := (List.range s.build.nctx).all (fun c => (s.ctxAt c).st == .idle)

/-- Gang `n` of R18: its size and its first mover. -/
def gangSize (b : Build) (n : Nat) : Nat := b.nmov >>> log2N n
def gangBase (b : Build) (n : Nat) : Nat := (n - 2 ^ log2N n) * gangSize b n

/-- The movers of gang `n`. -/
def gangMovers (b : Build) (n : Nat) : List Nat := (List.range (gangSize b n)).map (gangBase b n + ·)

/-- The gangs formed by a GANG_FORM value (R20). -/
def formedIn (b : Build) (v : Word) : List Nat := (List.range b.nmov).filter (fun n => 1 ≤ n && bitB v n)

def Chip.formed (s : Chip) : List Nat := formedIn s.build (s.reg Reg.gangForm)

/-- The formed gang a mover belongs to (R20, R22). -/
def gangIn (b : Build) (v : Word) (m : Nat) : Option Nat :=
  (formedIn b v).find? (fun n => gangBase b n ≤ m && m < gangBase b n + gangSize b n)

def Chip.gangOf (s : Chip) (m : Nat) : Option Nat := gangIn s.build (s.reg Reg.gangForm) m

/-- The leader of the mover's gang, or the mover itself when it is free (R53). -/
def Chip.leaderOf (s : Chip) (m : Nat) : Nat :=
  match s.gangOf m with | some n => gangBase s.build n | none => m

/-- The movers of the gang led by `m`, or `m` alone. -/
def Chip.teamOf (s : Chip) (m : Nat) : List Nat :=
  match s.gangOf m with | some n => gangMovers s.build n | none => [m]

def Chip.teamSize (s : Chip) (m : Nat) : Nat :=
  match s.gangOf m with | some n => gangSize s.build n | none => 1

/-- Partition of a mover (R25) and of a counter (R26). -/
def Chip.movPart (s : Chip) (m : Nat) : Nat := s.regF (Reg.partMov (m / 16)) (4 * (m % 16)) 3
def Chip.ksPart (s : Chip) (k : Nat) : Nat := s.regF (Reg.ksPart (k / 64 / 16)) (4 * (k / 64 % 16)) 3

/-- A slot number that holds context `c` on mover `m`. -/
def slotHolding (mv : Mover) (c : Nat) : Option Nat :=
  (List.range 8).find? (fun k => Tab.get none mv.slots k == some c)

/-- The contexts in the slots of a mover, in slot order. -/
def slotCtxs (mv : Mover) : List Nat := (List.range 8).filterMap (fun k => Tab.get none mv.slots k)

/-- The context is current on its mover (CTX_STATE.CUR, R83). -/
def Chip.isCur (s : Chip) (c : Nat) : Bool :=
  match (s.ctxAt c).slotOf with
  | some m => (match (s.movAt m).cur with | some k => Tab.get none (s.movAt m).slots k == some c | none => false)
  | none => false

/-! ### Fresh numbers and open values -/

/-- An open value has been used (log 5). -/
def Chip.tickFree (s : Chip) : Chip := { s with free := s.free + 1 }

/-- An element of a list that an open choice picks: any of several equals (log 5). -/
def pick (n : Nat) : List Nat → Nat
  | [] => 0
  | [i] => i
  | l => l.getD ((Config.freeWord n).toNat % l.length) 0

/-! ### Device locations

Memory is held by device location, so that a change of the Channel Map Table moves no data (R320):
`1·2^64 + channel·2^40 + byte` behind a stack port, `2·2^64 + port·2^44 + offset` behind a far port,
`3·2^64 + window·2^32 + offset` in a tile window (R311, R543; log 6). -/

def locStack (ch b : Nat) : Nat := 2 ^ 64 + ch * 2 ^ 40 + b
def locFar (n o : Nat) : Nat := 2 * 2 ^ 64 + n * 2 ^ 44 + o
def locTile (n o : Nat) : Nat := 3 * 2 ^ 64 + n * 2 ^ 32 + o

/-- A decoded physical address: the lane of its port, the device location, whether the region allocates
in the row cache (R311). -/
structure Place where
  lane  : Lane
  loc   : Nat
  alloc : Bool
  deriving DecidableEq, Repr

/-- APP(c) and RANK(h) of a Channel Map Table (R314). -/
def cmtApp (t : Tab Nat) (c : Nat) : Nat := ((List.range 4096).filter (fun h => Tab.get 0 t h == c)).length
def cmtRank (t : Tab Nat) (h : Nat) : Nat :=
  ((List.range h).filter (fun i => Tab.get 0 t i == Tab.get 0 t h)).length

/-- The lane of a stack port that carries a pseudo-channel (R541). -/
def stackLane (ch : Nat) : Lane := { kind := .stackPort, port := ch / 64, lane := ch % 64 % 2 }

/-- The granule hash (R314). -/
def granuleHash (g : Nat) : Nat := (g % 4096) ^^^ (g / 4096 % 4096) ^^^ (g / 16777216 % 4096)

def Chip.tnBase (s : Chip) : Nat := s.regF Reg.tnCfg 41 7 * 2 ^ 41
def Chip.tnNative (s : Chip) : Bool := bitB (s.reg Reg.tnCfg) 0 && !bitB (s.reg Reg.tnCfg) 1
def Chip.tnLegacy (s : Chip) : Bool := bitB (s.reg Reg.tnCfg) 0 && bitB (s.reg Reg.tnCfg) 1
def Chip.resBase (s : Chip) : Nat := s.regF Reg.tnRes 40 8 * 2 ^ 40
def Chip.resLg (s : Chip) : Nat := s.regF Reg.tnRes 8 6

/-- A channel is enabled in the table in force (R315, R327). -/
def TierSt.chEnabled (t : TierSt) (c : Nat) : Bool :=
  bitB (Tab.get 0 t.chen (c / 64)) (c % 64) && Tab.get 0 t.cap (c / 64) != 0

/-- The interleaved region (R314). -/
def Chip.decodeInterleaved (s : Chip) (pa : Nat) : Option Place :=
  let o := pa - s.tnBase
  if s.tnNative && decide (s.tnBase ≤ pa) && decide (o < s.tier.depth * 2 ^ 20) then
    let g := o / 256
    let h := granuleHash g
    let c := Tab.get 0 s.tier.active h
    let loc := (g / 4096 * cmtApp s.tier.active c + cmtRank s.tier.active h) * 256 + o % 256
    some { lane := stackLane c, loc := locStack c loc, alloc := true }
  else none

/-- The residue region (R317). -/
def Chip.decodeResidue (s : Chip) (pa : Nat) : Option Place :=
  let o := pa - s.resBase
  let c := o / 2 ^ s.resLg
  let b := o % 2 ^ s.resLg
  let used := s.tier.depth * cmtApp s.tier.active c * 256
  if bitB (s.reg Reg.tnRes) 0 && decide (s.resBase ≤ pa) &&
      decide (c < 64 * s.build.nsp) && s.tier.chEnabled c &&
      decide (b + used < 2 ^ Tab.get 0 s.tier.cap (c / 64)) then
    some { lane := stackLane c, loc := locStack c (used + b), alloc := true }
  else none

/-- Pseudo-channels of a stack usable in legacy mode (R322): 16, 32 or 64, else 0. -/
def legacyNpc (cap : Nat) (en : Word) : Nat :=
  if cap = 0 then 0 else if en = maskBits 0 16 then 16 else if en = maskBits 0 32 then 32
  else if en = maskBits 0 64 then 64 else 0

def Chip.decodeLegacy (s : Chip) (pa : Nat) : Option Place :=
  let o := pa - s.tnBase
  let st := o / 2 ^ 36
  let g := o % 2 ^ 36 / 256
  let cap := Tab.get 0 s.tier.lcap st
  let npc := legacyNpc cap (Tab.get 0 s.tier.lchen st)
  if s.tnLegacy && decide (s.tnBase ≤ pa) && decide (st < s.build.nsp) && decide (npc ≠ 0) &&
      decide (o % 2 ^ 36 < npc * 2 ^ cap) then
    let c := 64 * st + g % npc
    some { lane := stackLane c, loc := locStack c (g / npc * 256 + o % 256), alloc := true }
  else none

/-- Far window `n` (R325, R329): base and size in bytes, 0 when not enabled. -/
def Chip.farBase (s : Chip) (n : Nat) : Nat := s.regF (Reg.fp n 0) 30 18 * 2 ^ 30
def Chip.farSize (s : Chip) (n : Nat) : Nat :=
  if bitB (s.reg (Reg.fp n 0)) 0 then s.regF (Reg.fp n 0) 16 13 * 2 ^ 30 else 0

def Chip.decodeFar (s : Chip) (pa : Nat) : Option Place :=
  match (List.range s.build.nfp).find? (fun n => decide (s.farBase n ≤ pa) && decide (pa < s.farBase n + s.farSize n)) with
  | some n => some { lane := { kind := .farPort, port := n, lane := 0 }, loc := locFar n (pa - s.farBase n), alloc := true }
  | none => none

/-- Tile windows (R326). -/
def Chip.tileBase (s : Chip) : Nat := s.regF Reg.tpWin 23 25 * 2 ^ 23
def Chip.tileLg (s : Chip) : Nat := s.regF Reg.tpWin 8 5

def Chip.decodeTile (s : Chip) (pa : Nat) : Option Place :=
  let o := pa - s.tileBase
  let n := o / 2 ^ s.tileLg
  if bitB (s.reg Reg.tpWin) 0 && decide (s.tileBase ≤ pa) && decide (n < s.build.ntp) then
    some { lane := { kind := .tilePort, port := n, lane := 0 }, loc := locTile n (o % 2 ^ s.tileLg), alloc := false }
  else none

/-- The region a physical address belongs to (R311); none is PADDR (R312). -/
def Chip.decodePA (s : Chip) (pa : Nat) : Option Place :=
  match s.decodeInterleaved pa with
  | some p => some p
  | none => match s.decodeResidue pa with
    | some p => some p
    | none => match s.decodeLegacy pa with
      | some p => some p
      | none => match s.decodeFar pa with
        | some p => some p
        | none => s.decodeTile pa

/-! ### Memory at the point of coherence (R347) and the row cache's copy -/

/-- One byte of memory; a byte nothing has written reads 0 (log 7). -/
def Chip.memByte (s : Chip) (loc : Nat) : Byte := Tab.get 0 s.mem loc

def memPut : List (Nat × Byte) → List Host.Cell → List Host.Cell
  | [], m => m
  | (a, b) :: r, m => memPut r (Tab.set 0 a b m)

/-- Writes bytes to memory. -/
def Chip.memWrite (l : List (Nat × Byte)) (s : Chip) : Chip := { s with mem := memPut l s.mem }

def granuleOf (loc : Nat) : Nat := loc / 256 * 256

/-- The four bits of a sector's bytes in a byte mask. -/
def sectorMask (k : Nat) : BitVec 256 := BitVec.ofNat 256 ((2 ^ 64 - 1) * 2 ^ (64 * k))

/-- The mask of `n` bytes from offset `j` on. -/
def byteMask (j n : Nat) : BitVec 256 := BitVec.ofNat 256 ((2 ^ n - 1) * 2 ^ j)

/-- The sectors of a byte mask. -/
def sectorsOf (m : BitVec 256) : BitVec 4 :=
  BitVec.ofNat 4 ((List.range 4).foldl (fun n k => if m &&& sectorMask k != 0 then n + 2 ^ k else n) 0)

def sectorBytes (v : BitVec 4) : BitVec 256 :=
  (List.range 4).foldl (fun m k => if bitB v k then m ||| sectorMask k else m) 0

/-- Widens a byte mask to the bits of a granule. -/
def wide (m : BitVec 256) : Granule :=
  (List.range 256).foldl (fun g j => if bitB m j then g ||| BitVec.ofNat 2048 (255 * 2 ^ (8 * j)) else g) 0

/-- A read for the row cache. -/
def isFill : ReqKind → Bool
  | .fill | .prefetchRc | .prefetchFill => true
  | _ => false

/-- The kinds of write-back. -/
def isWb : ReqKind → Bool
  | .evict | .fenceWb | .cinvWb => true
  | _ => false

/-- A fill that is on its way brings no byte that the point of coherence has taken since (R348, R350). -/
def PortReq.overtaken (g : Nat) (m : BitVec 256) (r : PortReq) : PortReq :=
  if isFill r.kind ∧ r.loc = g then { r with skip := r.skip ||| m } else r

/-- A write at the point of coherence: the bytes of a granule at the bits of a mask. -/
def Chip.commitWrite (g : Nat) (m : BitVec 256) (d : Granule) (s : Chip) : Chip :=
  let ps := s.ports
  ({ s with ports := { ps with outs := ps.outs.map (fun (o : Outst) => { o with r := o.r.overtaken g m }),
                               fills := ps.fills.map (fun (x : FillDone) => { x with r := x.r.overtaken g m }) } }).memWrite
    ((onesBelow m 256).map (fun j => (g + j, fld d (8 * j) 8)))

/-- Bytes of a granule at the bits of a mask, with their locations. -/
def maskedBytes (loc : Nat) (mask : BitVec 256) (d : Granule) : List (Nat × Byte) :=
  (onesBelow mask 256).map (fun j => (loc + j, fld d (8 * j) 8))

/-- The granule memory holds at a location. -/
def Chip.memGranule (s : Chip) (loc : Nat) : Granule :=
  (List.range 256).foldl (fun g j => g ||| BitVec.ofNat 2048 ((s.memByte (loc + j)).toNat * 2 ^ (8 * j))) 0

def Chip.lineAt (s : Chip) (g : Nat) : Line := Tab.get {} s.rc g

def Chip.updLine (g : Nat) (f : Line → Line) (s : Chip) : Chip := { s with rc := Tab.upd {} g f s.rc }

def Line.sectorDirty (l : Line) (k : Nat) : Bool := l.dirty &&& sectorMask k != 0

/-- The byte a reader inside the block sees (R144, R169, R348): from the row cache when the byte is
dirty, or its sector is dirty and valid, or its sector is valid and the read is not volatile. -/
def Chip.viewByte (s : Chip) (vol : Bool) (loc : Nat) : Byte :=
  let l := s.lineAt (granuleOf loc)
  let j := loc % 256
  if bitB l.dirty j || (bitB l.valid (j / 64) && (l.sectorDirty (j / 64) || !vol)) then fld l.data (8 * j) 8
  else s.memByte loc

/-- A line takes the bytes of a granule where it holds them; a write-back of them that waits carries the new ones (R144). -/
def Chip.lineThrough (g : Nat) (m : BitVec 256) (d : Granule) (s : Chip) : Chip :=
  let put := fun (r : PortReq) =>
    if isWb r.kind && r.loc == g then { r with data := mergeMask (wide (m &&& r.mask)) r.data d } else r
  let s := { s with ports := { s.ports with queue := s.ports.queue.map put } }
  if (s.lineAt g).here then
    s.updLine g (fun l => { l with data := mergeMask (wide (m &&& (sectorBytes l.valid ||| l.dirty))) l.data d })
  else s

/-- A write of bytes at physical addresses that goes past the row cache to the point of coherence
(R347): the sectors it touches are written back, then invalidated; write-backs that wait carry the new bytes. -/
def Chip.bypassWrite (pa : Nat) (bs : List Byte) (s : Chip) : Chip :=
  let locs := (List.range bs.length).filterMap (fun i => (s.decodePA (pa + i)).map (·.loc))
  let secs := (locs.map (fun l => l / 64)).eraseDups
  let flush := fun (s : Chip) (sec : Nat) =>
    let g := granuleOf (64 * sec)
    let k := sec % 4
    let l := s.lineAt g
    (s.commitWrite g (l.dirty &&& sectorMask k) l.data).updLine g (fun l =>
      { l with dirty := l.dirty &&& ~~~(sectorMask k), valid := setBit l.valid k false })
  let s := secs.foldl flush s
  (List.range bs.length).foldl (fun s i =>
    match s.decodePA (pa + i) with
    | some p =>
      let m := BitVec.ofNat 256 (2 ^ (p.loc % 256))
      let d := BitVec.ofNat 2048 ((bs.getD i 0).toNat * 2 ^ (8 * (p.loc % 256)))
      (s.commitWrite (granuleOf p.loc) m d).lineThrough (granuleOf p.loc) m d
    | none => s) s

end Sys2Proof.Machine
end

