-- ==== Sys2Proof/Machine/Report.lean ====
section
/-! DEFINITION. Shared reactions: interrupt sources, fault reports, trace records, port requests, answers of
the register port. -/

namespace Sys2Proof

/-! ### Fault source numbers (R446) -/
namespace Src
def eccC (a : Nat) : Nat := a
def eccuRcdata : Nat := 0x10
def poison : Nat := 0x1D
def eccuBus : Nat := 0x1C
def eccuIctab : Nat := 0x1A
def dcheck (k : Nat) : Nat := 0x28 + k
def shadow : Nat := 0x3C
def swsdc : Nat := 0x3D
def rpsize : Nat := 0x58
def rpaddr : Nat := 0x59
def qsum : Nat := 0x28
def irqstorm : Nat := 0x5A
def tkwait : Nat := 0x60
def porthold : Nat := 0x61
def progress : Nat := 0x62
def txn : Nat := 0x63
def vpack : Nat := 0x64
def notmapped : Nat := 0x68
def nowrite : Nat := 0x69
def noexec : Nat := 0x6A
def ptebad : Nat := 0x6B
def paddr : Nat := 0x6C
def trainfail : Nat := 0x70
def linkdown : Nat := 0x71
def flapoff : Nat := 0x72
def fwdstall : Nat := 0x73
def lwfault : Nat := 0x74
def malformed : Nat := 0x75
def lanedeg : Nat := 0x76
def fifoovf : Nat := 0x77
def pcserr : Nat := 0x78
def illop : Nat := 0x80
def encoding : Nat := 0x81
def xpart : Nat := 0x82
def loopdepth : Nat := 0x83
def loopunder : Nat := 0x84
def addr : Nat := 0x85
def align : Nat := 0x86
def rank : Nat := 0x87
def fmt : Nat := 0x88
def rsvd : Nat := 0x89
def perm : Nat := 0x8A
def rowhdr : Nat := 0x8B
def mxlayout : Nat := 0x8C
def qmode : Nat := 0x8D
def blklist : Nat := 0x8E
def dstride0 : Nat := 0x8F
def winparm : Nat := 0x90
def shape : Nat := 0x91
def span : Nat := 0x92
def overlap : Nat := 0x93
def nounit : Nat := 0x94
def opfmt : Nat := 0x95
def rubble : Nat := 0x96
def pooldim : Nat := 0x97
def route : Nat := 0x98
def rtgt : Nat := 0x99
def rwin : Nat := 0x9A
def packcap : Nat := 0x9B
def slices : Nat := 0x9C
def blkent : Nat := 0x9D
def baglen : Nat := 0x9E
def delta : Nat := 0x9F
def gangcfg : Nat := 0xA0
def ctxcmd : Nat := 0xA1
def bindtgt : Nat := 0xA2
def noslot : Nat := 0xA3
def nosave : Nat := 0xA4
def savesz : Nat := 0xA5
def mapovl : Nat := 0xA6
def cmtcfg : Nat := 0xA7
def govcfg : Nat := 0xA8
def rtcfg : Nat := 0xA9
def guardref : Nat := 0xAA
def wire (k : Nat) : Nat := 0xAF + k
def clkmon : Nat := 0xD0
def twarn : Nat := 0xD1
def tcrit : Nat := 0xD2
def vwarn : Nat := 0xD3
def vcrit : Nat := 0xD4
def sensor : Nat := 0xD5
def fuse : Nat := 0xD6
def ctxdl : Nat := 0xE0
def movdl : Nat := 0xE1
def partdl : Nat := 0xE2
def chipdl : Nat := 0xE3
def lockstep : Nat := 0xE4
def rsqwd : Nat := 0xE5
def dumpskip : Nat := 0xE6
def selftest : Nat := 0xE7
end Src

/-- The class of a source (R445, R446). -/
def srcClass (src : Nat) : Nat :=
  if src ≤ 0x0F then 0 else if src ≤ 0x1D then 1 else if src < 0x3C then 2 else if src < 0x40 then 3
  else if src < 0x60 then 4 else if src < 0x68 then 5 else if src < 0x70 then 6 else if src < 0x80 then 7
  else if src < 0xB0 then 8 else if src < 0xD0 then 9 else if src < 0xE0 then 10 else 11

/-- The first PROTOCOL source of a port kind (R446). -/
def protoBase : UnitKind → Nat
  | .farPort => 0x48 | .tilePort => 0x50 | _ => 0x40

def UnitKind.code : UnitKind → Nat
  | .mover => 0 | .stackPort => 1 | .farPort => 2 | .tilePort => 3 | .linkPort => 4 | .bank => 5
  | .shared => 6 | .sequencer => 7 | .sensor => 8

/-- The status register a unit's reports are counted in (R442, R443): banks and tile ports report
through UST, sensors through the unit of the sensors. -/
def unitKey : UnitKind → Nat → Nat
  | .bank, b => 0x600 + 10 + b / 4
  | .tilePort, n => 0x600 + 26 + n / 8
  | .sensor, _ => 0x600 + 7
  | k, u => 256 * k.code + u

/-- The interrupt source of a report (R456). -/
def reportIrq (src : Nat) (k : UnitKind) (u : Nat) : Nat :=
  if 0xD0 ≤ src ∧ src ≤ 0xD6 then 712 + (src - 0xD0)
  else if 0xE0 ≤ src ∧ src ≤ 0xE7 then 704 + (src - 0xE0)
  else match k with
    | .mover => 512 + u
    | .stackPort => 576 + u
    | .farPort => 600 + u
    | .linkPort => 608 + u
    | .bank => 650 + u / 4
    | .tilePort => 666 + u / 8
    | .shared => 640 + u
    | .sequencer => 704
    | .sensor => 647

namespace Machine

/-! ### Interrupt sources -/

/-- One event of a source (R503, R510, R513, R522): it counts, pends, and is a re-assertion when the
source was not pending. -/
def IrqSrc.event (time : Nat) (nmi : Bool) (x : IrqSrc) : IrqSrc :=
  let w := time / 100000
  let x := if x.win = w then x else { x with win := w, winCnt := 0, winRep := false }
  { x with cnt := satAdd 255 x.cnt 1, winCnt := if x.pend then x.winCnt else x.winCnt + 1, pend := true,
           byLevel := false, nmireq := x.nmireq || nmi || x.nmi }

def Chip.srcAt (s : Chip) (n : Nat) : IrqSrc := Tab.get {} s.irq.src n

def Chip.updSrc (n : Nat) (f : IrqSrc → IrqSrc) (s : Chip) : Chip :=
  { s with irq := { s.irq with src := Tab.upd {} n f s.irq.src } }

def Chip.updTgt (t : Nat) (f : IrqTgt → IrqTgt) (s : Chip) : Chip :=
  { s with irq := { s.irq with tgt := Tab.upd {} t f s.irq.tgt } }

def Chip.tgtAt (s : Chip) (t : Nat) : IrqTgt := Tab.get {} s.irq.tgt t

/-- Raises an interrupt source (R502). -/
def Chip.raise (n : Nat) (nmi : Bool) (s : Chip) : Chip := s.updSrc n (IrqSrc.event s.time nmi)

/-! ### Fault reports -/

def Chip.unitStat (s : Chip) (k : UnitKind) (u : Nat) : UnitStat := Tab.get {} s.fc.units (unitKey k u)

/-- A report joins one already held by the same pair when it names the same context (R440). -/
def foldReport (r : Report) : List PendRep → List PendRep
  | [] => [{ rep := r }]
  | p :: l =>
    if p.rep.src = r.src ∧ p.rep.kind = r.kind ∧ p.rep.unit = r.unit ∧ p.rep.ctx = r.ctx then
      { p with folded := p.folded + 1 } :: l
    else p :: foldReport r l

/-- The report's pair is masked after a WIRE report (R441). A pair is named by its source (log 9). -/
def Chip.pairMasked (s : Chip) (r : Report) : Bool := (s.unitStat r.kind r.unit).masked.contains r.src

/-- A mover's report names the partition of its context; failing that, the mover's (R450). -/
def Chip.named (s : Chip) (r : Report) : Report :=
  if r.part = none ∧ r.kind = .mover then
    { r with part := some (match r.ctx with | some c => s.ctxPart c | none => s.movPart r.unit) }
  else r

/-- A unit reports to the fault record store (R440). -/
def Chip.report (r : Report) (s : Chip) : Chip :=
  if s.pairMasked r then s else { s with fc := { s.fc with pend := foldReport (s.named r) s.fc.pend } }

def Chip.sevOf (s : Chip) (src : Nat) : Nat := s.regF (Reg.fcSev (src / 16)) (4 * (src % 16)) 3

/-- A CONTROL report at LOG by the shared unit that owns a register (log 10). -/
def Chip.logCtl (code unit : Nat) (s : Chip) : Chip :=
  s.report { src := code, kind := .shared, unit := unit }

/-! ### Port requests -/

def laneCode (l : Lane) : Nat := l.kind.code * 1024 + l.port * 2 + l.lane

def Chip.laneAt (s : Chip) (l : Lane) : LaneSt := Tab.get {} s.ports.lanes (laneCode l)

def Chip.updLane (l : Lane) (f : LaneSt → LaneSt) (s : Chip) : Chip :=
  { s with ports := { s.ports with lanes := Tab.upd {} (laneCode l) f s.ports.lanes } }

/-- Progress of a context (R479). -/
def Chip.progressed (c : Nat) (s : Chip) : Chip := s.updCtx c (fun x => { x with progress := s.time })

/-- The context whose transfer or detached work a request belongs to: instruction fetches, scalar accesses, page walks,
register images and the write-backs of a FENCE are no transfer's. -/
def PortReq.workOf (r : PortReq) : Option Nat :=
  match r.kind with
  | .ifetch | .scalar | .walk _ | .image | .fenceWb => none
  | _ => r.ctx

/-- A transfer issues a request, or is answered: progress of its context (R479). -/
def Chip.progressOf (r : PortReq) (s : Chip) : Chip :=
  match r.workOf with | some c => s.progressed c | none => s

/-- Hands a request to its arbiter; it takes the next number. -/
def Chip.enq (r : PortReq) (s : Chip) : Chip :=
  { s with ports := { s.ports with queue := s.ports.queue ++ [{ r with id := s.uid }] }, uid := s.uid + 1 }.progressOf r

/-- Bytes placed at offset `j` of a granule. -/
def granuleBytes (j : Nat) (bs : List Byte) : Granule := BitVec.ofNat 2048 (ofBytes bs * 2 ^ (8 * j))


/-- A write of bytes that lie in one granule at a physical address, past the row cache (R347), by block
maintenance. None when the address lies in no region. -/
def Chip.maintWrite (kind : ReqKind) (pa : Nat) (bs : List Byte) (ctx part : Option Nat) (cls : Nat) (s : Chip) :
    Option Chip :=
  (s.decodePA pa).map (fun p => s.enq
    { id := 0, kind := kind, write := true, lane := p.lane, loc := granuleOf p.loc,
      mask := byteMask (p.loc % 256) bs.length, data := granuleBytes (p.loc % 256) bs,
      ctx := ctx, part := part, cls := cls, req := 64 })

/-- Requests of a kind that are queued or outstanding. -/
def Chip.inFlight (s : Chip) (kind : ReqKind) : Nat :=
  (s.ports.queue.filter (fun r => r.kind == kind)).length + (s.ports.outs.filter (fun o => o.r.kind == kind)).length

/-! ### Rings in host memory (R340, R345, R346): BASE at `b`, HEAD at `b+8`, TAIL at `b+16`, CTL at `b+24` -/

def Chip.ringSize (s : Chip) (b : Nat) : Nat := 2 ^ (s.regF b 0 4 + 8)
def Chip.ringBase (s : Chip) (b : Nat) : Nat := s.regF b 12 36 * 4096

/-- Drops an event of a ring: OVF, and DROPS counts it (R340). -/
def Chip.ringDrop (ctl : Nat) (s : Chip) : Chip := (s.setF ctl 1 1 1).bump ctl 16 32 1

/-- Writes an entry to a ring, or drops it when the ring is disabled or full (R340, R438, R595). -/
def Chip.ringPut (b ctl : Nat) (kind : ReqKind) (entry : List Byte) (ctx part : Option Nat) (s : Chip) : Chip :=
  let n := s.inFlight kind
  let tail := s.regF (b + 16) 0 16
  let size := s.ringSize b
  if !bitB (s.reg ctl) 0 || (tail + n + 1) % size == s.regF (b + 8) 0 16 then s.ringDrop ctl
  else
    match s.maintWrite kind (s.ringBase b + 32 * ((tail + n) % size)) entry ctx part 1 with
    | some s' => s'
    | none => (s.ringDrop ctl).report { src := Src.paddr, kind := .shared, unit := 9, part := part }

/-! ### Trace records (R594) -/

def Chip.trace (c ev val ia : Nat) (x : Word) (s : Chip) : Chip :=
  let cfg := s.reg Reg.trcCfg
  if bitB cfg 0 && bitB cfg (16 + ev) && bitB cfg (8 + s.ctxPart c) then
    if s.inFlight .trace ≥ 8 then s.ringDrop Reg.trcCtl
    else s.ringPut Reg.trcBase Reg.trcCtl .trace
      (toBytes 8 (c + s.ctxPart c * 2 ^ 8 + ev * 2 ^ 12 + val % 256 * 2 ^ 16) ++ toBytes 8 ia ++ toBytes 8 s.time ++
        toBytes 8 x.toNat) none (some (fldN cfg 4 3))
  else s

/-! ### Context state -/

def CState.code : CState → Nat
  | .idle => 0 | .bound => 1 | .ready => 2 | .waiting => 3 | .faulted => 4 | .aborting => 5 | .aborted => 6

def WaitCause.code : WaitCause → Nat
  | .kwait => 1 | .kdrain => 2 | .fence => 3 | .ifetch => 4 | .scalarmem => 5 | .credit => 6 | .transfer => 7
  | .translate => 8

/-- Changes a context's state; a change is a trace event (R594). -/
def Chip.setSt (c : Nat) (st : CState) (w : Option WaitCause) (s : Chip) : Chip :=
  let old := (s.ctxAt c).st
  let s := s.updCtx c (fun x => { x with st := st, wait := w })
  if old = st then s else s.trace c 0 st.code (s.ctxAt c).ip 0

/-- A context that leaves READY gives up the mover (R58). -/
def Chip.yieldMover (c : Nat) (s : Chip) : Chip :=
  if s.isCur c then
    match (s.ctxAt c).slotOf with
    | some m => s.updMov m (fun mv => { mv with cur := none })
    | none => s
  else s

/-- The context waits (R48, R60). -/
def Chip.waitFor (c : Nat) (w : WaitCause) (s : Chip) : Chip := (s.yieldMover c).setSt c .waiting (some w)

/-- The wait cause clears: READY (R48). -/
def Chip.wake (c : Nat) (s : Chip) : Chip := s.setSt c .ready none

/-- The current instruction of a context retires, and the next one is at `ip` (R55, R85, R479). -/
def Chip.retireTo (c ip : Nat) (s : Chip) : Chip :=
  s.updCtx c (fun x => { x with ip := ip % 2 ^ 52, iword := none, retired := x.retired + 1, progress := s.time })

/-- The address after an instruction. -/
def nextIp (ip : Nat) : Nat := (ip + 8) % 2 ^ 52

/-- The report of a fault of the context's own instruction (R450): the mover or gang leader is its unit. -/
def Chip.ownReport (s : Chip) (c src : Nat) : Report :=
  let x := s.ctxAt c
  { src := src, kind := .mover, unit := x.slotOf.getD 0, ctx := some c, part := some (s.ctxPart c),
    iaddr := x.iword.map (fun w => (x.ip, w)), ends := true }

/-- The context takes the fault: it issues no more and is aborted at any severity (R134). -/
def Chip.ownFault (c src : Nat) (s : Chip) : Chip :=
  (s.updCtx c (fun x => { x with ended := true, faddr := x.ip, kw := none })).report (s.ownReport c src)

/-! ### Answers of the register port -/

def Chip.answer (r : RpStatus) (s : Chip) : Chip := { s with rp := r }

/-- SCLK runs, so the register port works (R570). -/
def Chip.clocked (s : Chip) : Bool :=
  match s.phase with
  | .porst | .selfTest | .selfTestFailed | .fuses | .clockWait => false
  | _ => true

/-- A write accepted by the register port (R538): a write that is not to GUARD returns a GUARD in KEY1
to CLOSED (R589). -/
def Chip.acceptAny (body : Chip → Chip) (s : Chip) : Chip :=
  if s.clocked then body (if s.guard = .key1 then { s with guard := .closed } else s) else s

/-- A write that is answered ERR while RST_DONE = 0 (R533). -/
def Chip.accept (body : Chip → Chip) : Chip → Chip :=
  Chip.acceptAny fun s => if s.pins.rstDone then body s else s.answer .err

/-- The conditions of a guarded command (R589, R591). -/
def Chip.unlocked (s : Chip) : Bool :=
  !s.pins.presenceN && (match s.guard with | .opened till => decide (s.time < till) | _ => false)

/-- A guarded write (R588, R590): with the conditions met its acceptance closes GUARD, whatever then
becomes of it; otherwise it is refused and logged. -/
def Chip.guarded (body : Chip → Chip) (s : Chip) : Chip :=
  if s.unlocked then body { s with guard := .closed }
  else (s.logCtl Src.guardref 0).answer .err

end Machine
end Sys2Proof
end

