-- ==== Sys2Proof/Machine/Sync.lean ====
section
/-! DEFINITION. The keystone unit: counters, waiters, watch slots, signals (R148–R157). -/

namespace Sys2Proof.Machine

/-- The comparison of R150: `mode` is MODE[1:0], `c` the counter, `v` the target. -/
def ksCompare (mode : Nat) (c v : BitVec 48) : Bool :=
  match mode with
  | 0 => decide ((c - v).toNat < 2 ^ 47)
  | 1 => c == v
  | 2 => c != v
  | _ => decide (v.toNat ≤ c.toNat)

def Chip.ksAt (s : Chip) (k : Nat) : BitVec 48 := Tab.get 0 s.ks k

/-- An update arrives at its bank and waits there (R149). -/
def Chip.ksUpdate (k : Nat) (set : Bool) (v : BitVec 48) (s : Chip) : Chip :=
  { s with ksq := s.ksq ++ [{ k := k % 4096, set := set, v := v }] }

/-- An update by a register write (R152). -/
def Chip.ksHost (k : Nat) (set : Bool) (v : BitVec 48) (s : Chip) : Chip :=
  { s with ksq := s.ksq ++ [{ k := k, set := set, v := v, host := true }] }

/-- A counter after one update (R148, R149). -/
def KsOp.apply (o : KsOp) (c : BitVec 48) : BitVec 48 := if o.set then o.v else c + o.v

/-- The value that a read of a counter returns: the register writes before it have taken effect, and so has every
update that goes before them (R149, R538). -/
def Chip.ksRead (s : Chip) (k : Nat) : BitVec 48 :=
  let l := s.ksq.filter (fun o => o.k == k)
  ((l.reverse.dropWhile (fun o => !o.host)).reverse).foldl (fun c o => o.apply c) (s.ksAt k)

/-- A signal of a context: an addition. -/
def Chip.signal (k n : Nat) (s : Chip) : Chip := s.ksUpdate k false (BitVec.ofNat 48 n)

/-- The contexts with an entry in the table: any other context is IDLE. -/
def Chip.ctxKeys (s : Chip) : List Nat := s.ctx.map Prod.fst

/-- The KWAIT of a context retires (R159, R160): P7 tells the outcome of the soft form. -/
def Chip.kwaitEnd (c : Nat) (ok : Bool) (s : Chip) : Chip :=
  match (s.ctxAt c).kw with
  | none => s
  | some w =>
    let s := s.updCtx c (fun x => { x with kw := none, p := if w.soft then setBit x.p 7 ok else x.p })
    (s.retireTo c (nextIp (s.ctxAt c).ip)).wake c

/-- One evaluation of a waiting KWAIT (R29, R151, R160): the partition comes first; `inTime` says that its
timeout has not elapsed. -/
def Chip.evalKwait (c : Nat) (inTime : KWaitSt → Bool) (s : Chip) : Chip :=
  match (s.ctxAt c).kw with
  | none => s
  | some w =>
    if s.ksPart w.k ≠ s.ctxPart c then s.ownFault c Src.xpart
    else if inTime w && ksCompare w.mode (s.ksAt w.k) w.tgt then s.kwaitEnd c true
    else s

/-- One evaluation of a watch slot (R154). -/
def Chip.evalWatch (w : Nat) (s : Chip) : Chip :=
  let v := s.reg (Reg.kwatchCfg w)
  if bitB v 15 && ksCompare (fldN v 12 2) (s.ksAt (fldN v 0 12)) (fld (s.reg (Reg.kwatchTgt w)) 0 48) then
    (s.setReg (Reg.kwatchCfg w) (setBit (setBit v 15 false) 14 true)).raise (720 + w) false
  else s

/-- The waiters and watch slots of the counters that `on` selects are evaluated. -/
def Chip.evaluate (on : Nat → Bool) (inTime : KWaitSt → Bool) (s : Chip) : Chip :=
  let cs := s.ctxKeys.filter (fun c => match (s.ctxAt c).kw with | some w => on w.k | none => false)
  let s := cs.foldl (fun s c => s.evalKwait c inTime) s
  let ws := (List.range 16).filter (fun w => on (s.regF (Reg.kwatchCfg w) 0 12))
  ws.foldl (fun s w => s.evalWatch w) s

/-- A bank applies its next waiting update and evaluates its waiters (R149, R151). An update in an MCLK
after the edge at which a timeout elapsed comes too late (R160). -/
def keystoneUpdate (b : Nat) (s : Chip) : Chip :=
  match s.ksq.find? (fun o => o.k % 16 == b) with
  | none => s
  | some o =>
    let s := { s with ksq := s.ksq.erase o, ks := Tab.set 0 o.k (o.apply (s.ksAt o.k)) s.ks }
    s.evaluate (fun k => k == o.k) (fun w => match w.till with | some t => decide (s.time < t) | none => true)

/-- `n` TCLK edges pass; at the last one every waiter and armed watch slot is evaluated (R151). The
timebase starts once TCLK runs (R570). -/
def keystoneTick (n : Nat) (s : Chip) : Chip :=
  if s.clocked ∧ n ≠ 0 then
    let t0 := s.time
    let s := { s with time := s.time + n, irq := { s.irq with grace := [] } }
    s.evaluate (fun _ => true) (fun w => match w.till with | some t => decide (t0 < t) | none => true)
  else s

/-- A KWAIT's timeout has elapsed unsatisfied (R160). -/
def kwaitTimeout (c : Nat) (s : Chip) : Chip :=
  match (s.ctxAt c).kw with
  | none => s
  | some w =>
    match w.till with
    | none => s
    | some t =>
      if t ≤ s.time then
        if w.soft then s.kwaitEnd c false else s.ownFault c Src.tkwait
      else s

/-! ### Host access (R152–R154) -/

def ksVal (n : Nat) (v : Word) : Chip → Chip :=
  Chip.accept fun s => (if n < 4096 then s.ksHost n true (fld v 0 48) else s).answer .ok

def ksAdd (n : Nat) (v : Word) : Chip → Chip :=
  Chip.accept fun s => (if n < 4096 then s.ksHost n false (fld v 0 48) else s).answer .ok

/-- KWATCH_CFG: EN, MODE and COUNTER are set, FIRED is cleared where 1 is written; an armed slot is evaluated
(R154). -/
def kwatchCfg (w : Nat) (v : Word) : Chip → Chip :=
  Chip.accept fun s =>
    if w < 16 then
      let old := s.reg (Reg.kwatchCfg w)
      ((s.setReg (Reg.kwatchCfg w) ((v &&& (maskBits 15 1 ||| maskBits 0 14)) |||
        (old &&& maskBits 14 1 &&& ~~~v))).evalWatch w).answer .ok
    else s.answer .ok

/-! ### Meanings -/

def execKeystoneUpdate (b : Nat) (s : State) : Out := s.run (keystoneUpdate b)
def execKeystoneTick (n : Nat) (s : State) : Out := s.run (keystoneTick n)
def execKwaitTimeout (c : Nat) (s : State) : Out := s.run (kwaitTimeout c)
def execKsVal (n : Nat) (v : Word) (s : State) : Out := s.run (ksVal n v)
def execKsAdd (n : Nat) (v : Word) (s : State) : Out := s.run (ksAdd n v)
def execKwatchCfg (w : Nat) (v : Word) (s : State) : Out := s.run (kwatchCfg w v)

end Sys2Proof.Machine
end

