-- ==== Sys2Proof/Machine/RowCache.lean ====
section
/-! DEFINITION. The row cache: hits, allocation, victims, writes, write-backs (08_embedding_pooling R273–R276,
11_memory_model R347–R349). -/

namespace Sys2Proof.Machine

/-- The build has a row cache (R5, R9). -/
def Chip.rcOn (s : Chip) : Bool := s.build.rcache != 0

def Line.present (l : Line) : Bool := l.here

/-- Sets of the row cache: 24 ways of 256 B each (R39, R273). -/
def Chip.rcSetOf (s : Chip) (g : Nat) : Nat := Config.rcSet g % (s.build.rcache * 2 ^ 20 / 6144)

/-- The bytes of a line that a read of the block takes from it: dirty ones, valid ones of a read that is not
volatile, valid ones of a dirty sector (R144, R169, R348). -/
def Line.serves (l : Line) (vol : Bool) : BitVec 256 :=
  let own := (List.range 4).foldl (fun m k =>
    if bitB l.valid k && (!vol || l.sectorDirty k) then m ||| sectorMask k else m) (0 : BitVec 256)
  own ||| l.dirty

/-- The port lane behind a device location (log 6). -/
def laneOfLoc (loc : Nat) : Lane :=
  if loc < 2 * 2 ^ 64 then stackLane ((loc - 2 ^ 64) / 2 ^ 40)
  else if loc < 3 * 2 ^ 64 then { kind := .farPort, port := (loc - 2 * 2 ^ 64) / 2 ^ 44, lane := 0 }
  else { kind := .tilePort, port := (loc - 3 * 2 ^ 64) / 2 ^ 32, lane := 0 }

/-! ### Write-backs (R32, R163, R206, R348) -/

/-- A write-back of a line's dirty bytes to the point of coherence, by block maintenance. -/
def writeBack (kind : ReqKind) (g : Nat) (l : Line) (cls grp : Nat) (c : Option Nat) : PortReq :=
  { id := 0, kind := kind, write := true, lane := laneOfLoc g, loc := g, mask := l.dirty, data := l.data, grp := grp,
    live := l.dirty, ctx := c, part := some l.part, cls := cls, req := 64 }

/-- The line's dirty bytes go out; they stay dirty until they are acknowledged. -/
def Chip.startWb (kind : ReqKind) (g cls grp : Nat) (c : Option Nat) (s : Chip) : Chip :=
  s.enq (writeBack kind g (s.lineAt g) cls grp c)

/-- Bytes of a line are written anew: a write-back on its way no longer cleans them. -/
def Chip.staleWb (g : Nat) (m : BitVec 256) (s : Chip) : Chip :=
  let f := fun (r : PortReq) => if isWb r.kind && r.loc == g then { r with live := r.live &&& ~~~m } else r
  { s with ports := { s.ports with queue := s.ports.queue.map f, outs := s.ports.outs.map (fun (o : Outst) => { o with r := f o.r }) } }

/-- A line leaves the cache: at once when it is clean, else when its write-back is acknowledged. -/
def Chip.evictLine (g cls : Nat) (s : Chip) : Chip :=
  if (s.lineAt g).dirty = 0 then s.updLine g (fun _ => {})
  else (s.startWb .evict g cls 0 none).updLine g (fun l => { l with evict := true })

/-- A sector whose bytes are all dirty is valid. -/
def Line.fullSectors (l : Line) : BitVec 4 :=
  BitVec.ofNat 4 ((List.range 4).foldl (fun n k => if l.dirty &&& sectorMask k = sectorMask k then n + 2 ^ k else n) 0)

/-- Bytes that a write-back has carried, and that no later write has touched, are clean. -/
def Line.cleaned (m : BitVec 256) (l : Line) : Line :=
  let d := l.dirty &&& ~~~m
  { l with dirty := d, lost := l.lost && d != 0 }

/-- The line is invalid but for what has been written since; it leaves unless it is pinned (R206, R274). -/
def Line.invalid (l : Line) : Line :=
  if l.dirty = 0 then { here := l.pinned, pinned := l.pinned } else { l with valid := l.fullSectors, evict := false }

/-- A write-back is answered: on success its bytes are clean, an evicted line that is clean is gone, and CINV's is
invalid; on failure the bytes stay dirty and the line stays (R163, R206). -/
def Chip.endWb (r : PortReq) (ok : Bool) (s : Chip) : Chip :=
  let g := r.loc
  if ok then
    s.updLine g (fun l =>
      let l := l.cleaned r.live
      match r.kind with
      | .evict => if l.evict && l.dirty == 0 && !l.pinned then {} else { l with evict := false }
      | .cinvWb => l.invalid
      | _ => l)
  else s.updLine g (fun l => { l with evict := false })

/-! ### Victims (R273, R274) -/

/-- The other lines that occupy ways of a line's set. -/
def Chip.setWays (s : Chip) (g : Nat) : List (Nat × Line) :=
  s.rc.filter (fun (h, l) => h != g && l.present && !l.evict && s.rcSetOf h == s.rcSetOf g)

/-- The victim is the unpinned way of lowest FREQ, the least recently used among equals; with FREQEN = 0 the
least recently used. -/
def victim (freqEn : Bool) : List (Nat × Line) → Option (Nat × Line)
  | [] => none
  | (h, l) :: r =>
    match victim freqEn r with
    | none => if l.pinned then none else some (h, l)
    | some (k, m) =>
      let f := fun (x : Line) => if freqEn then x.freq else 0
      if !l.pinned && (decide (f l < f m) || (f l == f m && decide (l.used ≤ m.used))) then some (h, l) else some (k, m)

/-- A way for a line: none when every way of its set is pinned. Fewer lines than ways leave every set a free
way. -/
def Chip.rcRoom (g cls : Nat) (s : Chip) : Option Chip :=
  if (s.lineAt g).present && !(s.lineAt g).evict then some s
  else if s.rc.length < 24 then some s
  else
    let ws := s.setWays g
    if ws.length < 24 then some s
    else (victim (bitB (s.reg Reg.rcEmbcfg) 0) ws).map (fun (h, _) => s.evictLine h cls)

/-- FREQ of a line that is allocated (R273). -/
def Chip.firstFreq (s : Chip) (cls : Nat) : Nat := if cls = 3 ∧ bitB (s.reg Reg.rcEmbcfg) 1 then 0 else 1

/-- The line is in use: a fresh one takes its first FREQ, a hit of an allocating read or of a combine raises it
(R273). -/
def Chip.lineUse (g cls : Nat) (hit : Bool) (s : Chip) : Chip :=
  let fresh := !(s.lineAt g).present
  let f := s.firstFreq cls
  ({ s with uid := s.uid + 1 }).updLine g (fun l =>
    { l with here := true, used := s.uid, evict := false, freq := if fresh then f else if hit then min 7 (l.freq + 1) else l.freq })

/-- A set counts a fill; at AGE every FREQ of the set is halved (R273). -/
def Chip.countFill (g : Nat) (s : Chip) : Chip :=
  let k := s.rcSetOf g
  let n := Tab.get 0 s.rcFills k + 1
  if s.regF Reg.rcEmbcfg 8 8 ≤ n then
    let half := fun (p : Nat × Line) => if s.rcSetOf p.1 == k then (p.1, { p.2 with freq := p.2.freq / 2 }) else p
    { s with rcFills := Tab.set 0 k 0 s.rcFills, rc := s.rc.map half }
  else { s with rcFills := Tab.set 0 k n s.rcFills }

/-- A fill supplies the sectors of `ok`: memory bytes only where the line holds none that are dirty (R348). -/
def Chip.rcInstall (g : Nat) (ok : BitVec 4) (d : Granule) (cls : Nat) (s : Chip) : Option Chip :=
  (s.rcRoom g cls).map (fun s =>
    let s := (s.lineUse g cls false).updLine g (fun l =>
      { l with data := mergeMask (wide (sectorBytes ok &&& ~~~l.dirty)) l.data d, valid := l.valid ||| ok })
    s.countFill g)

/-- A write of the block into the row cache: allocated without a fill, dirty under the writer's partition
(R32, R348, log 22); `hit`: a combine that hit (R273). None while every way of the set is pinned. -/
def Chip.rcWrite (g : Nat) (m : BitVec 256) (d : Granule) (part cls : Nat) (hit : Bool) (s : Chip) : Option Chip :=
  (s.rcRoom g cls).map (fun s =>
    ((s.lineUse g cls hit).staleWb g m).updLine g (fun l =>
      let l := { l with data := mergeMask (wide m) l.data d, dirty := l.dirty ||| m, part := part }
      { l with valid := l.valid ||| l.fullSectors }))

/-- Sectors of table rows that hit or missed (R276). -/
def Chip.countRowSectors (off : Nat) (v : BitVec 4) (s : Chip) : Chip := s.bump off 0 48 (onesBelow v 4).length

/-- The lines a partition has dirtied (R32, R163). -/
def Chip.dirtyLines (s : Chip) (part : Nat) : List Nat :=
  (s.rc.filter (fun (_, l) => l.dirty != 0 && l.part == part)).map Prod.fst

/-- The lines that a partition has dirtied are invalidated (R32, R490); a pinned line keeps its way (R274). -/
def Chip.discardDirty (part : Nat) (s : Chip) : Chip :=
  (s.dirtyLines part).foldl (fun s g => s.updLine g (fun l => { here := l.pinned, pinned := l.pinned })) s

end Sys2Proof.Machine
end

