-- ==== Sys2Proof/Machine/Translate.lean ====
section
/-! DEFINITION. Page tables, TLBs, page walks, invalidation and the rings (10_memory_tiers_and_translation,
R330–R346). -/

namespace Sys2Proof.Machine

/-! ### Page-table entries (R330, R331, R333) -/

/-- The lowest VA bit and the width of the index of a level (R330). -/
def ptShift (l : Nat) : Nat := 48 - 9 * l
def ptIndex (l va : Nat) : Nat := va / 2 ^ ptShift l % (if l = 0 then 16 else 512)

def pteValid (e : Word) : Bool := bitB e 0
def pteLeaf (e : Word) : Bool := bitB e 1
def ptePa (e : Word) : Nat := fldN e 12 36 * 4096

/-- PTEBAD (R333). -/
def pteBad (l : Nat) (e : Word) : Bool :=
  fldN e 48 16 != 0 || fldN e 6 6 != 0 || bitB e 4 ||
  (if pteLeaf e then decide (l ≤ 1) || ptePa e % 2 ^ ptShift l != 0
   else l == 4 || bitB e 5 || bitB e 3 || bitB e 2)

/-- Where a translation ends. -/
inductive Tr where
  | ok (pa : Nat) (p : Place) (l : Leaf)
  | miss
  /-- a code of R333 and the level at which it arose -/
  | fault (code level : Nat)
  deriving DecidableEq, Repr

def TlbEnt.paOf (e : TlbEnt) (va : Nat) : Nat := e.pa + va % 2 ^ e.lg

/-- The level of a leaf of `2^lg` bytes. -/
def leafLevel (lg : Nat) : Nat := (48 - lg) / 9

/-- A leaf's permissions and the region of the address (R312, R333). -/
def Chip.checkLeaf (s : Chip) (l : Leaf) (acc : Access) (va : Nat) : Tr :=
  let e := l.e
  if acc = .write ∧ ¬ e.w then .fault 2 (leafLevel e.lg)
  else if acc = .fetch ∧ ¬ e.x then .fault 3 (leafLevel e.lg)
  else match s.decodePA (e.paOf va) with
    | some p => .ok (e.paOf va) p l
    | none => .fault 5 (leafLevel e.lg)

/-! ### TLBs (R334) -/

def TlbEnt.hits (e : TlbEnt) (part : Nat) (asid : BitVec 16) (va : Nat) : Bool :=
  e.part == part && (e.g || e.asid == asid) && va / 2 ^ e.lg * 2 ^ e.lg == e.va

/-- The member of a gang that looks an address up (R334). -/
def Chip.tlbMember (s : Chip) (m va : Nat) : Nat := m + va / 4096 % s.teamSize m

/-- The entry an address hits, in the member's L1 or in the L2. -/
def Chip.tlbFind (s : Chip) (m part : Nat) (asid : BitVec 16) (va : Nat) : Option TlbEnt :=
  match (s.movAt (s.tlbMember m va)).l1.find? (fun e => e.hits part asid va) with
  | some e => some e
  | none => s.l2.find? (fun e => e.hits part asid va)

/-- An entry becomes the most recently used of an L1, which keeps 64 (R334). -/
def l1Touch (e : TlbEnt) (l : List TlbEnt) : List TlbEnt := (e :: l.erase e).take 64

/-- The bookkeeping of a lookup that hits: an L2 hit is counted and fills the L1 (R334, R335, R345). -/
def Chip.tlbTouch (m part : Nat) (asid : BitVec 16) (va : Nat) (s : Chip) : Chip :=
  let mb := s.tlbMember m va
  match (s.movAt mb).l1.find? (fun e => e.hits part asid va) with
  | some e => s.updMov mb (fun x => { x with l1 := l1Touch e x.l1 })
  | none =>
    match s.l2.find? (fun e => e.hits part asid va) with
    | some e => ({ s with l2 := e :: s.l2.erase e }.updMov mb (fun x => { x with l1 := l1Touch e x.l1 })).bump Reg.trL2hit 0 48 1
    | none => s

/-- The translation that a context's walk brought for this access alone (R337). -/
def Chip.ownLeaf (s : Chip) (c va : Nat) : Option Leaf :=
  match (s.ctxAt c).leaf with
  | some l => if l.e.hits (s.ctxPart c) (s.ctxAsid c) va then some l else none
  | none => none

/-- What its own walk or the TLBs give for a context's access. -/
def Chip.look (s : Chip) (c : Nat) (acc : Access) (va : Nat) : Tr :=
  match s.ownLeaf c va with
  | some l => s.checkLeaf l acc va
  | none =>
    match s.tlbFind ((s.ctxAt c).slotOf.getD 0) (s.ctxPart c) (s.ctxAsid c) va with
    | some e => s.checkLeaf { epoch := s.epoch, e := e } acc va
    | none => .miss

/-- The bookkeeping of a lookup that found a leaf, whether it permits the access or not. -/
def Chip.lookTouch (c va : Nat) (s : Chip) : Chip :=
  match s.ownLeaf c va with
  | some _ => s.updCtx c (fun x => { x with leaf := none })
  | none => s.tlbTouch ((s.ctxAt c).slotOf.getD 0) (s.ctxPart c) (s.ctxAsid c) va

/-- One of the 2,048 sets of the L2 (R334). -/
def l2SetOf (e : TlbEnt) : Nat := Config.l2Set e.part e.asid.toNat (e.va / 2 ^ e.lg) % 2048

/-- The entry enters the L2, most recently used first: a full set of 8 gives up one of its entries but the most recently
used, which of them is open (R334, log 5). -/
def Chip.l2Fill (e : TlbEnt) (s : Chip) : Chip :=
  if s.l2.contains e then { s with l2 := e :: s.l2.erase e }
  else if s.l2.length < 8 then { s with l2 := e :: s.l2 }
  else
    let same := s.l2.filter (fun x => l2SetOf x == l2SetOf e)
    if same.length < 8 then { s with l2 := e :: s.l2 }
    else
      let old := same.drop 1
      let v := old.getD ((Config.freeWord s.free).toNat % old.length) e
      { s with l2 := e :: s.l2.erase v, free := s.free + 1 }

/-- An invalidation in progress covers the entry (R337). -/
def InvSt.covers (i : InvSt) (e : TlbEnt) : Bool :=
  match i.scope with
  | 0 => true
  | 1 => e.part == i.part
  | 2 => e.part == i.part && e.asid == i.asid && !e.g
  | 3 => e.part == i.part && e.asid == i.asid && !e.g && i.va / 2 ^ e.lg * 2 ^ e.lg == e.va
  | _ => e.part == i.part && e.g && i.va / 2 ^ e.lg * 2 ^ e.lg == e.va

/-- The result of a walk fills the TLBs unless an invalidation that began after it covers it (R335, R337). -/
def Chip.installs (s : Chip) (epoch : Nat) (e : TlbEnt) : Bool :=
  match s.inv with | some i => !(decide (epoch < i.epoch) && i.covers e) | none => true

/-- A completed walk fills both TLBs (R335); one of the landing engine, which has no L1, the L2. -/
def Chip.install (m : Option Nat) (va epoch : Nat) (e : TlbEnt) (s : Chip) : Chip :=
  if s.installs epoch e then
    (match m with
     | some m => s.updMov (s.tlbMember m va) (fun x => { x with l1 := l1Touch e x.l1 })
     | none => s).l2Fill e
  else s

/-! ### Translation faults (R312, R333, R340, R447) -/

/-- The context is to halt at its instruction (R123). -/
def Chip.setHalt (c : Nat) (h : Halt) (s : Chip) : Chip :=
  s.updCtx c (fun x =>
    match x.xfer with
    | some t => { x with faddr := x.ip, xfer := some { t with halt := some h } }
    | none => { x with faddr := x.ip, halt := some h })

/-- A translation fault of a context: PADDR aborts it (R312); the others halt it, unless their severity is
CTX or above (R447). At LOG they are reported through the translation queues alone. -/
def Chip.trFault (c : Nat) (req : WalkReq) (code level : Nat) (s : Chip) : Chip :=
  if code = 5 then s.ownFault c Src.paddr
  else
    let src := 0x67 + code
    let sev := s.sevOf src
    let s := if sev = 0 then s else s.report { s.ownReport c src with ends := false }
    if 3 ≤ sev then s.updCtx c (fun x => { x with ended := true, faddr := x.ip })
    else s.setHalt c { req := req, code := code, level := level, time := s.time }

/-- While a commit runs, requests to the interleaved and residue regions wait at the governor (R319). -/
def Chip.tnWaits (s : Chip) (p : Place) : Bool := s.tier.busy && !s.tnLegacy && p.lane.kind == .stackPort

/-! ### Walks (R335) -/

def Chip.walkAt (s : Chip) (id : Nat) : Option PWalk := s.walks.find? (fun w => w.id == id)

def Chip.updWalk (id : Nat) (f : PWalk → PWalk) (s : Chip) : Chip :=
  { s with walks := s.walks.map (fun w => if w.id == id then f w else w) }

/-- What the entry read at the walk's level makes of it (R330–R333). -/
def PWalk.take (w : PWalk) (e : Word) : PWalk :=
  if !pteValid e then { w with ans := some (.fault 1 w.level) }
  else if pteBad w.level e then { w with ans := some (.fault 4 w.level) }
  else if pteLeaf e then
    { w with ans := some (.leaf { va := w.va / 2 ^ ptShift w.level * 2 ^ ptShift w.level, lg := ptShift w.level, part := w.part,
                                  asid := w.asid, g := bitB e 5, pa := ptePa e, w := bitB e 2, x := bitB e 3 }) }
  else { w with level := w.level + 1, base := ptePa e }

/-- The entry a walk reads next. -/
def PWalk.pa (w : PWalk) : Nat := w.base + 8 * ptIndex w.level w.va

/-- The context that a walk's reads are charged to while it waits for them. -/
def PWalk.owner (w : PWalk) : Option Nat :=
  (w.who.filterMap (fun f => match f with | .ctx c => some c | _ => none)).head?

/-- A walk goes on: its next entry is in a dirty row cache sector, or is asked for at its port under the partition's tag, by
block maintenance (R332, R384). -/
def Chip.walkOut (id : Nat) : Nat → Chip → Chip
  | 0, s => s
  | n + 1, s =>
    match s.walkAt id with
    | none => s
    | some w =>
      if w.ans.isSome then s
      else match s.decodePA w.pa with
        | none => s.updWalk id (fun w => { w with ans := some (.fault 5 w.level) })
        | some p =>
          let l := s.lineAt (granuleOf p.loc)
          let m := byteMask (p.loc % 256) 8
          if m &&& ~~~(l.serves true) == 0 then
            Chip.walkOut id n (s.updWalk id (fun w => w.take (fld l.data (8 * (p.loc % 256)) 64)))
          else if s.tnWaits p then s
          else s.enq { id := 0, kind := .walk id, write := false, lane := p.lane, loc := granuleOf p.loc,
                       mask := sectorBytes (sectorsOf m), ctx := w.owner, part := some w.part, cls := w.cls, req := 64 }

/-- A walk that waited takes one of the 32 walkers (R335). -/
def Chip.nextWalk (s : Chip) : Chip :=
  match s.walks.find? (fun w => !w.active) with
  | none => s
  | some w =>
    if 32 ≤ (s.walks.filter (·.active)).length then s
    else ((s.updWalk w.id (fun w => { w with active := true })).bump Reg.trWalks 0 48 1).walkOut w.id 5

def Chip.nextWalks : Nat → Chip → Chip
  | 0, s => s
  | n + 1, s => s.nextWalk.nextWalks n

/-- A walk is over. -/
def Chip.dropWalk (id : Nat) (s : Chip) : Chip := ({ s with walks := s.walks.filter (fun x => x.id != id) }).nextWalk

/-- A walk read is answered: the next level follows, or the port's failure ends the walk. One that nothing waits for any more
is over (R485). -/
def Chip.walkRead (id : Nat) (d : Granule) (rep : Option Report) (s : Chip) : Chip :=
  match s.walkAt id, rep with
  | none, _ => s
  | some w, some rep => if w.who.isEmpty then s.dropWalk id else s.updWalk id (fun w => { w with ans := some (.failed rep) })
  | some w, none =>
    if w.who.isEmpty then s.dropWalk id
    else match s.decodePA w.pa with
    | some p => (s.updWalk id (fun w => w.take (fld d (8 * (p.loc % 256)) 64))).walkOut id 5
    | none => s.updWalk id (fun w => { w with ans := some (.fault 5 w.level) })

/-- A request needs a walk: it joins one of its mover to the same page, or starts its own (R335). -/
def Chip.needWalk (f : WalkFor) (mov : Option Nat) (part : Nat) (asid : BitVec 16) (root va cls : Nat) (s : Chip) : Chip :=
  match s.walks.find? (fun w => w.mov == mov && w.part == part && w.asid == asid && w.root == root && !w.closed &&
      w.va / 4096 == va / 4096) with
  | some w => s.updWalk w.id (fun w => { w with who := w.who ++ [f] })
  | none =>
    let w : PWalk := { id := s.uid, mov := mov, part := part, asid := asid, root := root, va := va, cls := cls, who := [f],
                       epoch := s.epoch, base := root }
    ({ s with uid := s.uid + 1, walks := s.walks ++ [w] }).nextWalk

/-- A context's access starts a walk, and the context waits (R335). -/
def Chip.startWalk (c : Nat) (req : WalkReq) (s : Chip) : Chip :=
  ((s.updCtx c (fun x => { x with walk := some req })).needWalk (.ctx c) (s.ctxAt c).slotOf (s.ctxPart c) (s.ctxAsid c)
    (s.ctxRoot c) req.va (s.ctxClass c)).waitFor c .translate

/-- A context no longer waits for its walk; a walk that nothing waits for ends with its read (R485). -/
def Chip.leaveWalk (f : WalkFor) (s : Chip) : Chip :=
  let leave := fun (w : PWalk) => { w with who := w.who.filter (fun x => x != f) }
  let s := { s with walks := s.walks.map leave }
  let own := fun (r : PortReq) => match r.kind with
    | .walk id => (match s.walkAt id with | some w => if w.who.isEmpty then r else { r with ctx := w.owner } | none => r)
    | _ => r
  let s := { s with ports := { s.ports with queue := s.ports.queue.map own, outs := s.ports.outs.map (fun (o : Outst) => { o with r := own o.r }) } }
  let idle := fun (id : Nat) => s.walks.any (fun w => w.id == id && w.who.isEmpty)
  let out := fun (r : PortReq) => match r.kind with | .walk id => idle id | _ => false
  let s := { s with ports := { s.ports with queue := s.ports.queue.filter (fun r => !out r) } }
  { s with walks := s.walks.filter (fun (w : PWalk) => !w.who.isEmpty || s.ports.outs.any (fun (o : Outst) => o.r.kind == ReqKind.walk w.id)) }

/-- The fault source of a failed access at a port (R332, R551, R477). -/
def rspSrc (k : UnitKind) : Rsp → Nat
  | .ok | .err => protoBase k + 3
  | .poison => Src.poison
  | .timeout => Src.txn

/-- What a port reports of a request whose answer was bad, before it names a context. `DETAIL` names the tag and the lane
(log 28). -/
def portReport (r : PortReq) (rsp : Rsp) (tag : Nat) : Report :=
  { src := rspSrc r.lane.kind rsp, kind := r.lane.kind, unit := r.lane.port, part := r.part,
    detail := some (at64 0 tag ||| at64 12 r.lane.lane) }

/-- The same report, charged to a context and its instruction. -/
def Chip.charge (s : Chip) (c : Nat) (rep : Report) : Report :=
  let x := s.ctxAt c
  { rep with ctx := some c, part := some (s.ctxPart c), iaddr := x.iword.map (fun w => (x.ip, w)), ends := true }

/-- A port fault of a context's current instruction: it is aborted with what the port reports (R64, R144, R332). -/
def Chip.portFails (c : Nat) (rep : Report) (s : Chip) : Chip :=
  (s.updCtx c (fun x => { x with ended := true, faddr := x.ip })).report (s.charge c rep)

/-- An answer that waited for its command is gone. -/
def Chip.dropFill (id : Nat) (s : Chip) : Chip :=
  { s with ports := { s.ports with fills := s.ports.fills.filter (fun x => x.r.id != id) } }

/-- A walk whose command has come: it leaves its walker to the next, and a leaf fills the TLBs. -/
def Chip.endWalk (w : PWalk) (s : Chip) : Chip :=
  let s := s.dropWalk w.id
  match w.ans with
  | some (.leaf e) => s.install w.mov w.va w.epoch e
  | _ => s

/-! ### Invalidation (R337) -/

/-- The translation was taken before the invalidation and lies in its scope. -/
def InvSt.holds (i : InvSt) (l : Leaf) : Bool := decide (l.epoch < i.epoch) && i.covers l.e

/-- The walk was begun before the invalidation and may end in its scope. -/
def InvSt.holdsWalk (i : InvSt) (w : PWalk) : Bool :=
  decide (w.epoch < i.epoch) &&
    (match w.ans with
     | some (.leaf e) => i.covers e
     | _ => i.scope == 0 || (i.part == w.part && (i.scope == 1 || i.scope == 4 || i.asid == w.asid)))

def Chip.allRequests (s : Chip) : List PortReq := s.ports.queue ++ s.ports.outs.map (·.r)

/-- Starts an invalidation: no matching entry remains, walks under way serve their own requests alone. -/
def Chip.invalidate (scope part : Nat) (asid : BitVec 16) (s : Chip) : Chip :=
  let i : InvSt := { scope := scope, part := part, asid := asid, va := (s.reg Reg.trInvVa).toNat, epoch := s.epoch + 1 }
  let s := (List.range s.build.nmov).foldl (fun s m => s.updMov m (fun x => { x with l1 := x.l1.filter (fun e => !i.covers e) })) s
  let s := s.ctx.foldl (fun s (c, _) => s.updCtx c (fun x => { x with xfer := x.xfer.map (fun t =>
    if t.out.isEmpty then { t with pages := t.pages.filter (fun p => !i.covers p.2.2.e) } else t) })) s
  { s with inv := some i, epoch := i.epoch, l2 := s.l2.filter (fun e => !i.covers e),
           walks := s.walks.map (fun (w : PWalk) => { w with closed := w.closed || i.holdsWalk w }) }

/-- A write of TR_INV: refused while one is in progress (R337) or for an absent partition (R613). -/
def trInv (scope part : Nat) (asid : BitVec 16) : Chip → Chip :=
  Chip.accept fun s =>
    if s.inv.isSome ∨ (scope ≠ 0 ∧ s.build.npart ≤ part) then s.answer .err
    else (s.invalidate scope part asid).answer .ok

/-- The translations in use by what has not been answered: port requests, combines, row updates, accesses about to be
made. -/
def Chip.leavesInUse (s : Chip) : List Leaf :=
  (s.allRequests ++ s.ports.fills.map (·.r)).filterMap (·.tr) ++ s.segs.flatMap (·.trs) ++ s.groups.flatMap (·.trs) ++
  s.ctx.filterMap (fun e => e.2.leaf) ++ s.ctx.flatMap (fun e => match e.2.xfer with | some t => t.pages.map (·.2.2) | none => []) ++
  s.link.lands.filterMap (fun l => if l.status.isNone then l.leaf else none) ++ s.mov.flatMap (fun e => e.2.samples.filterMap (·.leaf))

/-- The invalidation completes when the requests translated before it have been answered (R337). -/
def invalidationComplete (s : Chip) : Chip :=
  match s.inv with
  | none => s
  | some i => if s.leavesInUse.any i.holds || s.walks.any i.holdsWalk then s else { s with inv := none }

/-! ### Ring registers (R345, R346, R438, R595) -/

/-- Ring writes still on their way no longer belong to the ring. -/
def Chip.staleRing (kind : ReqKind) (s : Chip) : Chip :=
  let f := fun (r : PortReq) => if r.kind == kind then { r with kind := ReqKind.stale } else r
  { s with ports := { s.ports with queue := s.ports.queue.map f, outs := s.ports.outs.map (fun o => { o with r := f o.r }) } }

/-- A write of BASE (`r` 0), HEAD (8), TAIL (16) or CTL (24) of the ring whose block starts at `b` (R345,
R346): a misaligned BASE or a HEAD outside the ring is refused. -/
def Chip.ringWrite (b r : Nat) (kind : ReqKind) (v : Word) (s : Chip) : Chip :=
  let ctl := b + 24
  match r with
  | 0 =>
    let lg := fldN v 0 4
    let base := fldN v 12 36 * 4096
    if bitB (s.reg ctl) 0 then s.answer .err
    else if 8 < lg ∨ base % (32 * 2 ^ (lg + 8)) ≠ 0 then s.answer .err
    else (s.setReg b (v &&& (maskBits 12 36 ||| maskBits 0 4))).answer .ok
  | 8 =>
    if s.ringSize b ≤ fldN v 0 16 then s.answer .err
    else (s.setReg (b + 8) (v &&& maskBits 0 16)).answer .ok
  | 24 =>
    let old := s.reg ctl
    let w := (v &&& (maskBits 16 32 ||| maskBits 0 1)) ||| (old &&& maskBits 1 1 &&& ~~~v)
    let s := if bitB v 0 && !bitB old 0 then (s.setReg (b + 16) (s.reg (b + 8))).staleRing kind else s
    (s.setReg ctl w).answer .ok
  | _ => s.answer .ok

def trqEnable (q r : Nat) (v : Word) : Chip → Chip :=
  Chip.accept fun s =>
    if q < 2 * s.build.npart ∧ q < 16 then s.ringWrite (Reg.trq q 0) r (.trq q) v else s.answer .ok

/-! ### Meanings -/

def execTrInvAll (s : State) : Out := s.run (trInv 0 0 0)
def execTrInvPartition (p : Nat) (s : State) : Out := s.run (trInv 1 p 0)
def execTrInvAsid (p : Nat) (asid : BitVec 16) (s : State) : Out := s.run (trInv 2 p asid)
def execTrInvAsidPage (p : Nat) (asid : BitVec 16) (s : State) : Out := s.run (trInv 3 p asid)
def execTrInvGlobalPage (p : Nat) (s : State) : Out := s.run (trInv 4 p 0)
def execInvalidationComplete (s : State) : Out := s.run invalidationComplete
def execTrqEnable (q r : Nat) (v : Word) (s : State) : Out := s.run (trqEnable q r v)

end Sys2Proof.Machine
end

