-- ==== Sys2Proof/Machine/Issue.lean ====
section
/-! DEFINITION. Issue: mover scheduling, instruction fetch, decode checks, guards (R55–R64, R126–R134). -/

namespace Sys2Proof.Machine

/-! ### Instruction fields -/

def wOpc (w : Word) : Nat := fldN w 56 8
def wSD (w : Word) : Nat := fldN w 51 5
def wSA (w : Word) : Nat := fldN w 46 5
def wSB (w : Word) : Nat := fldN w 41 5
def wPD (w : Word) : Nat := fldN w 38 3
def wImm (w : Word) : Nat := fldN w 0 32
def wK (w : Word) : Nat := fldN w 44 12
def wSAy (w : Word) : Nat := fldN w 39 5
def wModeY (w : Word) : Nat := fldN w 32 3
def wTA (w : Word) : Nat := fldN w 52 4
def wTB (w : Word) : Nat := fldN w 48 4
def wTC (w : Word) : Nat := fldN w 44 4
def wKS (w : Word) : Nat := fldN w 28 12
def wKM (w : Word) : Nat := fldN w 26 2
def wPRI (w : Word) : Nat := fldN w 24 2
def wVOL (w : Word) : Bool := bitB w 23
def wSHD (w : Word) : Bool := bitB w 22
def wMOD (w : Word) : Nat := fldN w 0 22

/-- The assigned opcodes (R132). -/
def opcAssigned (o : Nat) : Bool :=
  decide (o ≤ 0x08) || (decide (0x10 ≤ o) && decide (o ≤ 0x1D)) || (decide (0x20 ≤ o) && decide (o ≤ 0x23)) ||
  (decide (0x30 ≤ o) && decide (o ≤ 0x35)) || (decide (0x40 ≤ o) && decide (o ≤ 0x4C)) || o == 0x4E

/-- The guard fields of the word's format (R127–R129): PG and PGN. -/
def wGuard (w : Word) : Nat × Bool :=
  if wOpc w < 0x30 then (fldN w 35 3, bitB w 34)
  else if wOpc w < 0x40 then (fldN w 36 3, bitB w 35)
  else (fldN w 41 3, bitB w 40)

/-- The guard is true (R133). -/
def Ctx.guardTrue (x : Ctx) (w : Word) : Bool := bitB x.p (wGuard w).1 != (wGuard w).2

/-! ### Registers of a context (R130) -/

def Ctx.sr (x : Ctx) (n : Nat) : Word := Tab.get 0 x.s n
def Ctx.setS (n : Nat) (v : Word) (x : Ctx) : Ctx := { x with s := Tab.set 0 n v x.s }
/-- Z(n) of R130. -/
def Ctx.zr (x : Ctx) (n : Nat) : Word := if n = 0 then 0 else x.sr n
def sext32 (v : Nat) : Word := BitVec.ofInt 64 (sextN 32 v)
/-- B = Z(SB) + sext(IMM32) (R130). -/
def Ctx.opB (x : Ctx) (w : Word) : Word := x.zr (wSB w) + sext32 (wImm w)
/-- V = Z(SA) + sext(IMM32) of format Y (R130). -/
def Ctx.opV (x : Ctx) (w : Word) : Word := x.zr (wSAy w) + sext32 (wImm w)
/-- P0 reads 1 and ignores writes (R66). -/
def Ctx.setP (n : Nat) (b : Bool) (x : Ctx) : Ctx := if n = 0 then x else { x with p := setBit x.p n b }
/-- Word `k` of descriptor `n`. -/
def Ctx.td (x : Ctx) (n k : Nat) : Word := Tab.get 0 x.t (32 * n + k)
def Ctx.setTd (n k : Nat) (v : Word) (x : Ctx) : Ctx := { x with t := Tab.set 0 (32 * n + k) v x.t }

/-! ### Mover scheduling (R58, R59) -/

/-- The class a context is selected in (R58). -/
def Chip.selClass (s : Chip) (c : Nat) : Nat := if (s.ctxAt c).promoted then 0 else s.ctxClass c

/-- The slots of a mover that hold a READY context. -/
def Chip.readySlots (s : Chip) (m : Nat) : List Nat :=
  (List.range 8).filter (fun k =>
    match Tab.get none (s.movAt m).slots k with | some c => (s.ctxAt c).st == .ready | none => false)

def Chip.slotClass (s : Chip) (m k : Nat) : Nat :=
  match Tab.get none (s.movAt m).slots k with | some c => s.selClass c | none => 4

/-- The next slot of a list after slot `k`, in ascending order and round again. -/
def nextSlot (k : Nat) (l : List Nat) : Option Nat :=
  match l.find? (fun j => decide (k < j)) with
  | some j => some j
  | none => l.head?

/-- A slot's context becomes current; it counts as promoted no longer (R58). -/
def Chip.setCur (m k : Nat) (s : Chip) : Chip :=
  let s := s.updMov m (fun x => { x with cur := some k, last := k })
  match Tab.get none (s.movAt m).slots k with
  | some c => s.updCtx c (fun x => { x with promoted := false })
  | none => s

/-- The slot the mover selects (R58). -/
def Chip.selectSlot (s : Chip) (m : Nat) : Option Nat :=
  let rs := s.readySlots m
  match (rs.map (s.slotClass m)).min? with
  | none => none
  | some k =>
    let best := rs.filter (fun j => s.slotClass m j == k)
    match (s.movAt m).cur with
    | some j => if best.contains j then some j else nextSlot (s.movAt m).last best
    | none => nextSlot (s.movAt m).last best

def moverSwitch (m : Nat) (s : Chip) : Chip :=
  match s.selectSlot m with
  | some k => if (s.movAt m).cur = some k then s else s.setCur m k
  | none => s

/-- Another READY slot of the current context's class takes the mover. -/
def Chip.passOn (m : Nat) (s : Chip) : Chip :=
  match (s.movAt m).cur with
  | some k =>
    match nextSlot k ((s.readySlots m).filter (fun j => j != k && s.slotClass m j == s.slotClass m k)) with
    | some j => s.setCur m j
    | none => s
  | none => s

def timesliceExpiry (m : Nat) (s : Chip) : Chip := s.passOn m

def starvationPromote (c : Nat) (s : Chip) : Chip :=
  if (s.ctxAt c).st = .ready ∧ ¬ s.isCur c then s.updCtx c (fun x => { x with promoted := true }) else s

/-! ### Shares of a mover (R380, R381) -/

/-- Slots of a share in a window, for a mover or a gang: `lo` is the share's field of GOV_SPLIT. -/
def Chip.shareOf (s : Chip) (lo m : Nat) : Nat := 96 * s.regF Reg.govSplit lo 7 / 100 * s.teamSize m

def Chip.rdFree (s : Chip) (m : Nat) : Bool := decide ((s.movAt m).rdUsed < s.shareOf 0 m)
def Chip.wrFree (s : Chip) (m : Nat) : Bool := decide ((s.movAt m).wrUsed < s.shareOf 8 m)
def Chip.rmFree (s : Chip) (m : Nat) : Bool := decide ((s.movAt m).rmUsed < s.shareOf 16 m)
def Chip.useRd (m : Nat) (s : Chip) : Chip := s.updMov m (fun x => { x with rdUsed := x.rdUsed + 1 })
def Chip.useWr (m : Nat) (s : Chip) : Chip := s.updMov m (fun x => { x with wrUsed := x.wrUsed + 1 })
def Chip.useRm (m : Nat) (s : Chip) : Chip := s.updMov m (fun x => { x with rmUsed := x.rmUsed + 1 })

/-! ### Instruction cache (R62–R64) -/

def Chip.icFind (s : Chip) (m : Nat) (asid : BitVec 16) (ip : Nat) : Option ICLine :=
  (s.movAt m).ic.find? (fun l => l.asid == asid && l.va == ip / 256)

/-- A line enters its set as the most recently used; a full set drops its least recently used. -/
def icInsert (l : ICLine) (ic : List ICLine) : List ICLine :=
  let rest := ic.filter (fun k => !(k.asid == l.asid && k.va == l.va))
  let same := rest.filter (fun k => k.va % 32 == l.va % 32)
  let rest := if same.length < 4 then rest else
    match same.getLast? with | some old => rest.erase old | none => rest
  l :: rest

/-- The word a line holds for an address. -/
def ICLine.word (l : ICLine) (ip : Nat) : Word := fld l.data (8 * (ip % 256 / 8 * 8)) 64

def Chip.slotMover (s : Chip) (c : Nat) : Nat := (s.ctxAt c).slotOf.getD 0

/-- A mover's fill of a line that has not landed (R62). -/
def Chip.icFilling (s : Chip) (m : Nat) (asid : BitVec 16) (line : Nat) : Option ICFill :=
  (s.movAt m).icFill.find? (fun f => f.asid == asid && f.line == line)

def ICFill.is (f g : ICFill) : Bool := f.asid == g.asid && f.line == g.line

/-- The read that brings a line: translated, and past the row cache (R63, R347). -/
def Chip.askLine (m : Nat) (f : ICFill) (pa : Nat) (p : Place) (l : Leaf) (s : Chip) : Chip :=
  let set := fun (x : Mover) => { x with icFill := x.icFill.filter (fun g => !g.is f) ++ [{ f with pa := some pa, redo := false }] }
  ((s.useRd m).updMov m set).enq
    { id := 0, kind := .ifetch, write := false, lane := p.lane, loc := granuleOf p.loc, mask := BitVec.allOnes 256, va := 256 * f.line,
      ctx := some f.ctx, part := some (s.ctxPart f.ctx), tr := some l, cls := s.ctxClass f.ctx, req := m }

def Chip.dropLine (m : Nat) (f : ICFill) (s : Chip) : Chip :=
  s.updMov m (fun x => { x with icFill := x.icFill.filter (fun g => !g.is f) })

/-- A next-line fill waits for its page walk. -/
def Chip.lineWalks (s : Chip) (m line : Nat) : Bool := s.walks.any (fun w => w.who.contains (.line m line))

/-- A next-line fill goes out once the read share has a slot for it and its address is translated. One whose translation
faults is dropped: the line is fetched again when the program reaches it (R62, R64, log 16). -/
def Chip.lineGo (m : Nat) (own : Option Leaf) (f : ICFill) (s : Chip) : Chip :=
  let c := f.ctx
  let va := 256 * f.line
  if (s.ctxAt c).slotOf ≠ some m then s.dropLine m f
  else if f.pa.isSome ∨ s.rdFree m = false ∨ s.lineWalks m f.line then s
  else
    let t := if own.isSome then s else s.tlbTouch m (s.ctxPart c) (s.ctxAsid c) va
    let l := match own with
      | some l => some l
      | none => (s.tlbFind m (s.ctxPart c) (s.ctxAsid c) va).map (fun e => { epoch := s.epoch, e := e })
    match l with
    | none => s.needWalk (.line m f.line) (some m) (s.ctxPart c) (s.ctxAsid c) (s.ctxRoot c) va (s.ctxClass c)
    | some l =>
      match s.checkLeaf l .fetch va with
      | .ok pa p l => if s.tnWaits p then s else t.askLine m f pa p l
      | _ => t.dropLine m f

/-- The fills of a mover that wait for a slot of its read share go on. -/
def Chip.linesGo (m : Nat) (s : Chip) : Chip := (s.movAt m).icFill.foldl (fun s f => s.lineGo m none f) s

/-- When fetch reaches the last 64 B of a line, the next line is requested if it is absent (R62). -/
def Chip.nextLine (c : Nat) (s : Chip) : Chip :=
  let m := s.slotMover c
  let ip := (s.ctxAt c).ip
  let va := (ip / 256 + 1) * 256 % 2 ^ 52
  let asid := s.ctxAsid c
  if ip % 256 < 192 ∨ (s.icFind m asid va).isSome ∨ (s.icFilling m asid (va / 256)).isSome then s
  else
    let f : ICFill := { asid := asid, line := va / 256, ctx := c }
    (s.updMov m (fun x => { x with icFill := x.icFill ++ [f] })).lineGo m none f

/-- The word at the context's instruction pointer, when its line is in the cache. -/
def Chip.fetched (s : Chip) (c : Nat) : Option Word :=
  (s.icFind (s.slotMover c) (s.ctxAsid c) (s.ctxAt c).ip).map (fun l => l.word (s.ctxAt c).ip)

/-- A hit makes its line the most recently used. -/
def Chip.icTouch (c : Nat) (s : Chip) : Chip :=
  match s.icFind (s.slotMover c) (s.ctxAsid c) (s.ctxAt c).ip with
  | some l => (s.updMov (s.slotMover c) (fun x => { x with ic := l :: x.ic.erase l })).nextLine c
  | none => s

/-- A miss (R64): the context waits for the fill that is on its way, or for a fill of its own, or for its translation. -/
def Chip.fetchMiss (c : Nat) (s : Chip) : Chip :=
  let ip := (s.ctxAt c).ip
  let m := s.slotMover c
  let req : WalkReq := { va := ip, acc := .fetch, walk := .other }
  if ((s.icFilling m (s.ctxAsid c) (ip / 256)).bind (·.pa)).isSome then s.waitFor c .ifetch
  else match s.look c .fetch ip with
  | .ok pa p l => if s.tnWaits p then s.waitFor c .ifetch else ((s.lookTouch c ip).askLine m { asid := s.ctxAsid c, line := ip / 256, ctx := c } (pa / 256 * 256) p l).waitFor c .ifetch
  | .miss => s.startWalk c req
  | .fault code level => ((s.lookTouch c ip).trFault c req code level).waitFor c .translate

/-- The partition is in partition reset (PART_STATE.IN_RESET, R27, R490). -/
def Chip.inReset (s : Chip) (p : Nat) : Bool := s.rsq.rungs.any (fun r => r.kind == .partition && r.obj == p)

/-- The context may issue its next instruction: READY, current, and nothing stops it (R48, R134, R490). -/
def Chip.canIssue (s : Chip) (c : Nat) : Bool :=
  let x := s.ctxAt c
  s.phase == .run && x.st == .ready && s.isCur c && !x.ended && !x.stopReq && !x.abortReq && x.halt.isNone &&
    x.xfer.isNone && !s.inReset (s.ctxPart c)

/-- The checks of R133 up to the partition of the counter, then the instruction's own effect.  `sel`: the
word is of this command; `enc`: its fields hold defined values; `ctr`: the counter it names. -/
def Chip.issue (c : Nat) (sel : Word → Bool) (enc : Word → Bool) (ctr : Word → Option Nat)
    (body : Word → Chip → Chip) (s : Chip) : Chip :=
  if !s.canIssue c then s
  else match s.fetched c with
    | none => if s.rdFree (s.slotMover c) then s.fetchMiss c else s
    | some w =>
      let t := (s.icTouch c).updCtx c (fun x => { x with iword := some w })
      if !opcAssigned (wOpc w) then t.ownFault c Src.illop
      else if !sel w then s
      else if !enc w then t.ownFault c Src.encoding
      else if !(s.ctxAt c).guardTrue w then t.retireTo c (nextIp (s.ctxAt c).ip)
      else match ctr w with
        | some k => if s.ksPart k ≠ s.ctxPart c then t.ownFault c Src.xpart else body w t
        | none => body w t

/-- Every bit outside the mask is zero (R131). -/
def unusedZero (mask w : Word) : Bool := w &&& ~~~mask == 0

/-- The bits every word of format S or Y uses: OPC, PG and PGN. -/
def maskS : Word := maskBits 56 8 ||| maskBits 34 4
def maskY : Word := maskBits 56 8 ||| maskBits 35 4
def mSD : Word := maskBits 51 5
def mSA : Word := maskBits 46 5
def mSB : Word := maskBits 41 5
def mPD : Word := maskBits 38 3
def mImm : Word := maskBits 0 32

/-- The contexts of a mover that wait for a line. -/
def Chip.lineWaiters (s : Chip) (m : Nat) (f : ICFill) : List Nat :=
  (slotCtxs (s.movAt m)).filter (fun c =>
    let x := s.ctxAt c
    x.st == .waiting && x.wait == some .ifetch && !x.ended && s.ctxAsid c == f.asid && x.ip / 256 == f.line)

/-- The line enters the cache, and the contexts that waited for it go on. -/
def Chip.landLine (m : Nat) (f : ICFill) (d : Granule) (s : Chip) : Chip :=
  let cs := s.lineWaiters m f
  let s := (s.dropLine m f).updMov m (fun x => { x with ic := icInsert { asid := f.asid, va := f.line, data := d } x.ic })
  cs.foldl (fun s c => s.wake c) s

/-- A context that is aborted asks for no line any more: its fills pass to a context that waits for them, and one that no
context waits for ends (R485). -/
def Chip.leaveLines (c : Nat) (s : Chip) : Chip :=
  let m := s.slotMover c
  ((s.movAt m).icFill.filter (fun f => f.ctx == c)).foldl (fun s f =>
    let mine := fun (r : PortReq) => r.kind == .ifetch && r.ctx == some c && r.va == 256 * f.line
    match (s.lineWaiters m f).filter (· != c) with
    | d :: _ =>
      let give := fun (r : PortReq) => if mine r then { r with ctx := some d } else r
      let ps := s.ports
      ({ s with ports := { ps with queue := ps.queue.map give, outs := ps.outs.map (fun (o : Outst) => { o with r := give o.r }),
                                   fills := ps.fills.map (fun (x : FillDone) => { x with r := give x.r }) } }).updMov m (fun x =>
        { x with icFill := x.icFill.map (fun (g : ICFill) => if g.is f then { g with ctx := d } else g) })
    | [] => s.dropLine m f) (s.leaveWalk (.ctx c))

/-- The port has failed the fill (R64): the context that asked for it, and those that wait for it, end with the port's
fault. -/
def Chip.lineFails (m : Nat) (f : ICFill) (x : FillDone) (s : Chip) : Chip :=
  let y := s.ctxAt f.ctx
  let asker := if (y.st = .ready ∨ y.st = .waiting) ∧ ¬ y.ended ∧ y.slotOf = some m then [f.ctx] else []
  let cs := (asker ++ s.lineWaiters m f).eraseDups
  cs.foldl (fun s c => s.portFails c (portReport x.r x.rsp x.tag)) (s.dropLine m f)

/-- The fill of a line that a context asked for returns to its mover (R64): `line` is its VA div 256. One that an
invalidation has met is discarded and fetched again (R63). -/
def ifetchFill (c m line : Nat) (s : Chip) : Chip :=
  match s.ports.fills.find? (fun x => x.r.kind == .ifetch && x.r.ctx == some c && x.r.req == m && x.r.va == 256 * line) with
  | none => s
  | some x =>
    let s := s.dropFill x.r.id
    match (s.movAt m).icFill.find? (fun f => f.pa.isSome && f.ctx == c && f.line == line) with
    | none => s
    | some f =>
      if f.redo then
        ((s.useRd m).updMov m (fun y => { y with icFill := y.icFill.map (fun g => if g.is f then { g with redo := false } else g) })).enq x.r
      else if x.rsp = .ok then s.landLine m f x.data
      else s.lineFails m f x

/-- MOV_ICCTL (R63): the lines that `which` names leave, and fills in progress are discarded and fetched again. -/
def Chip.icInvalidate (m : Nat) (which : BitVec 16 → Bool) (s : Chip) : Chip :=
  s.updMov m (fun x => { x with ic := x.ic.filter (fun l => !which l.asid),
                                icFill := x.icFill.map (fun f => if f.pa.isSome then { f with redo := true } else f) })

def invall (m : Nat) : Chip → Chip :=
  Chip.accept fun s => (if m < s.build.nmov then s.icInvalidate m (fun _ => true) else s).answer .ok

def invasid (m : Nat) (asid : BitVec 16) : Chip → Chip :=
  Chip.accept fun s => (if m < s.build.nmov then s.icInvalidate m (fun a => a == asid) else s).answer .ok

/-! ### Meanings -/

def execStarvationPromote (c : Nat) (s : State) : Out := s.run (starvationPromote c)
def execIfetchFill (c m line : Nat) (s : State) : Out := s.run (ifetchFill c m line)
def execInvall (m : Nat) (s : State) : Out := s.run (invall m)
def execInvasid (m : Nat) (asid : BitVec 16) (s : State) : Out := s.run (invasid m asid)

end Sys2Proof.Machine
end

