-- ==== Sys2Proof/Machine/Control.lean ====
section
/-! DEFINITION. Control, scalar, descriptor and synchronisation instructions but FENCE
(04_instruction_set_control, R136–R165). -/

namespace Sys2Proof.Machine

/-- An opcode's words. -/
def isOp (o : Nat) (w : Word) : Bool := wOpc w == o

/-- An instruction that names no counter. -/
def noCtr : Word → Option Nat := fun _ => none

/-- The next instruction. -/
def Chip.retireNext (c : Nat) (s : Chip) : Chip := s.retireTo c (nextIp (s.ctxAt c).ip)

/-- An instruction that changes the context's registers and retires. -/
def Chip.retireWith (c : Nat) (f : Ctx → Ctx) (s : Chip) : Chip := (s.updCtx c f).retireNext c

/-- The words of a format S instruction that use only the fields of `mask` (R131). -/
def encS (mask : Word) (w : Word) : Bool := unusedZero (maskS ||| mask) w

/-- A format S instruction: it names no counter. -/
def Chip.issueS (c o : Nat) (enc : Word → Bool) (body : Word → Chip → Chip) (s : Chip) : Chip :=
  s.issue c (isOp o) enc noCtr body

/-! ### Leaving READY for BOUND -/

/-- The staging lines a PREFETCH.stg kept are released and counted as dropped (R199). -/
def Chip.releaseStg (c : Nat) (s : Chip) : Chip :=
  let n := (s.ctxAt c).stgHold
  if n = 0 then s
  else
    let s := s.updCtx c (fun x => { x with stgHold := 0, stgBuf := [] })
    s.bump (Reg.mov (s.slotMover c) 0x68) 0 32 (ceilDiv n 4)

/-- The context becomes BOUND with an EXIT (R48, R84); HALT and STOP raise source `n` (R87). -/
def Chip.toBound (c exit : Nat) (s : Chip) : Chip :=
  let s := ((s.yieldMover c).releaseStg c).updCtx c (fun x =>
    { x with exit := exit, halting := false, stopReq := false, kw := none, drainSig := none, promoted := false })
  (s.setSt c .bound none).raise c false

/-! ### Control (R136–R139) -/

def nop (c : Nat) : Chip → Chip := Chip.issueS c 0x00 (encS 0) fun _ s => s.retireNext c

/-- The context's detached work is zero (R140). -/
def Chip.drained (s : Chip) (c : Nat) : Bool := (s.ctxAt c).detached.isEmpty

/-- HALT retires: IP names the next instruction, the context is BOUND (R48), and FADDR is HALT's address (R85). -/
def Chip.haltRetire (c : Nat) (s : Chip) : Chip :=
  ((s.updCtx c (fun x => { x with faddr := x.ip })).retireNext c).toBound c 1

/-- HALT (R136): it waits, with cause KDRAIN, for the detached work. -/
def halt (c : Nat) : Chip → Chip := Chip.issueS c 0x01 (encS 0) fun _ s =>
  if s.drained c then s.haltRetire c
  else (s.updCtx c (fun x => { x with halting := true })).waitFor c .kdrain

def haltDrainDone (c : Nat) (s : Chip) : Chip :=
  let x := s.ctxAt c
  if x.st = .waiting ∧ x.wait = some .kdrain ∧ x.halting ∧ s.drained c ∧ ¬ x.ended then s.haltRetire c else s

def yield (c : Nat) : Chip → Chip := Chip.issueS c 0x02 (encS 0) fun _ s =>
  (s.retireNext c).passOn (s.slotMover c)

/-- Bits [51:3] of a branch target (R137). -/
def target (v : Nat) : Nat := v % 2 ^ 52 / 8 * 8

def jmp (c : Nat) : Chip → Chip := Chip.issueS c 0x03 (encS (mSB ||| mImm)) fun w s =>
  s.retireTo c (target ((s.ctxAt c).opB w).toNat)

/-- IP + 8 × sext(IMM32), modulo 2^52. -/
def relTarget (ip : Nat) (w : Word) : Nat := target (BitVec.ofNat 64 ip + sext32 (wImm w) * 8).toNat

def br (c : Nat) : Chip → Chip := Chip.issueS c 0x04 (encS mImm) fun w s =>
  s.retireTo c (relTarget (s.ctxAt c).ip w)

def call (c : Nat) : Chip → Chip := Chip.issueS c 0x05 (encS mImm) fun w s =>
  let ip := (s.ctxAt c).ip
  (s.updCtx c (Ctx.setS 31 (BitVec.ofNat 64 (nextIp ip)))).retireTo c (relTarget ip w)

def ret (c : Nat) : Chip → Chip := Chip.issueS c 0x06 (encS 0) fun _ s =>
  s.retireTo c (target ((s.ctxAt c).sr 31).toNat)

def loopLen (w : Word) : Nat := fldN w 46 10

def loop (c : Nat) : Chip → Chip := Chip.issueS c 0x07 (fun w => encS (mSD ||| mSA ||| mSB ||| mImm) w && loopLen w != 0) fun w s =>
  let x := s.ctxAt c
  let n := fldN (x.opB w) 0 32
  if n = 0 then s.retireTo c (target (x.ip + 8 * (loopLen w + 1)))
  else if 4 ≤ x.loops.length then s.ownFault c Src.loopdepth
  else s.retireWith c (fun x => { x with loops := { start := nextIp x.ip, count := n } :: x.loops })

/-- ENDL (R67); the count is held in 32 bits. -/
def endl (c : Nat) : Chip → Chip := Chip.issueS c 0x08 (encS 0) fun _ s =>
  match (s.ctxAt c).loops with
  | [] => s.ownFault c Src.loopunder
  | l :: r =>
    let n := (l.count + 2 ^ 32 - 1) % 2 ^ 32
    if n = 0 then s.retireWith c (fun x => { x with loops := r })
    else (s.updCtx c (fun x => { x with loops := { l with count := n } :: r })).retireTo c l.start

/-! ### Scalar (R141, R142) -/

def sli (c : Nat) : Chip → Chip := Chip.issueS c 0x10 (encS (mSD ||| mImm)) fun w s =>
  s.retireWith c (Ctx.setS (wSD w) (sext32 (wImm w)))

def slih (c : Nat) : Chip → Chip := Chip.issueS c 0x11 (encS (mSD ||| mImm)) fun w s =>
  s.retireWith c (fun x => x.setS (wSD w) (mergeMask (maskBits 32 32) (x.sr (wSD w)) (at64 32 (wImm w))))

def maskABD : Word := mSD ||| mSA ||| mSB ||| mImm

/-- SD := f(S[SA], B). -/
def scalarOp (c o : Nat) (f : Word → Word → Word) : Chip → Chip :=
  Chip.issueS c o (encS maskABD) fun w s =>
    s.retireWith c (fun x => x.setS (wSD w) (f (x.sr (wSA w)) (x.opB w)))

def shamt (b : Word) : Nat := fldN b 0 6

def sshr (c : Nat) : Chip → Chip := Chip.issueS c 0x19 (fun w => encS (maskABD ||| mPD) w && fldN w 39 2 == 0) fun w s =>
  s.retireWith c (fun x =>
    let a := x.sr (wSA w)
    let n := shamt (x.opB w)
    x.setS (wSD w) (if bitB w 38 then a.sshiftRight n else a >>> n))

/-- The condition of SCMP (R142). -/
def scmpCond (k : Nat) (a b : Word) : Bool :=
  match k with
  | 0 => a == b
  | 1 => a != b
  | 2 => a.slt b
  | 3 => !a.slt b
  | 4 => a.ult b
  | 5 => !a.ult b
  | 6 => (a &&& b) != 0
  | _ => (a &&& b) == 0

def scmp (c : Nat) : Chip → Chip := Chip.issueS c 0x1A (fun w => encS (maskABD ||| mPD) w && decide (wSD w < 8)) fun w s =>
  s.retireWith c (fun x => x.setP (wPD w) (scmpCond (wSD w) (x.sr (wSA w)) (x.opB w)))

def ssel (c : Nat) : Chip → Chip := Chip.issueS c 0x1B (encS (maskABD ||| mPD)) fun w s =>
  s.retireWith c (fun x => x.setS (wSD w) (if bitB x.p (wPD w) then x.sr (wSA w) else x.opB w))

/-! ### Scalar and descriptor accesses to memory (R143–R145) -/

/-- The effective address, exact (R143). -/
def effAddr (x : Ctx) (w : Word) : Int := (x.sr (wSA w)).toInt + (x.opB w).toInt

def ScalarOp.writes : ScalarOp → Bool
  | .sst | .sttd => true
  | .sld | .ldtd => false

def ScalarAcc.acc (a : ScalarAcc) : Access := if a.op.writes then .write else .read

/-- A scalar or descriptor access draws on the read or the write share (R381). -/
def Chip.useShare (c : Nat) (write : Bool) (s : Chip) : Chip :=
  if write then s.useWr (s.slotMover c) else s.useRd (s.slotMover c)

def Chip.shareFree (s : Chip) (c : Nat) (write : Bool) : Bool :=
  if write then s.wrFree (s.slotMover c) else s.rdFree (s.slotMover c)

/-- The bytes a store writes. -/
def Ctx.storeBytes (x : Ctx) (a : ScalarAcc) : List Byte :=
  match a.op with
  | .sttd => (List.range 32).flatMap (fun k => toBytes 8 (x.td a.reg k).toNat)
  | _ => toBytes a.size (x.sr a.reg).toNat

/-- The request of a scalar or descriptor access (R144). -/
def Chip.scalarReq (s : Chip) (c : Nat) (a : ScalarAcc) (p : Place) (l : Leaf) : PortReq :=
  let m := byteMask (p.loc % 256) a.size
  { id := 0, kind := .scalar, write := a.op.writes, lane := p.lane, loc := granuleOf p.loc,
    mask := if a.op.writes then m else sectorBytes (sectorsOf m),
    data := if a.op.writes then granuleBytes (p.loc % 256) ((s.ctxAt c).storeBytes a) else 0, va := a.va, ctx := some c,
    part := some (s.ctxPart c), tr := some l, cls := s.ctxClass c, req := s.slotMover c }

/-- The access of a context is translated and waits for its completion, or waits for its walk, or faults. A load is served
by a dirty row cache sector that holds its bytes, and goes to the point of coherence otherwise (R144). -/
def Chip.scalarGo (c : Nat) (a : ScalarAcc) (s : Chip) : Chip :=
  let req : WalkReq := { va := a.va, acc := a.acc, walk := .other }
  match s.look c a.acc a.va with
  | .ok pa p l =>
    if s.tnWaits p then (s.updCtx c (fun x => { x with acc := some a })).waitFor c .scalarmem else
    let s := (((s.lookTouch c a.va).useShare c a.op.writes).updCtx c (fun x => { x with acc := some { a with pa := pa } })).waitFor c .scalarmem
    let r := s.scalarReq c a p l
    let line := s.lineAt r.loc
    if !r.write && byteMask (p.loc % 256) a.size &&& ~~~(line.serves true) == 0 then
      { s with uid := s.uid + 1, ports := { s.ports with fills := s.ports.fills ++
          [{ r := { r with id := s.uid }, tag := 0, data := line.data, ok := sectorsOf r.mask, rsp := .ok }] } }
    else s.enq r
  | .miss => (s.updCtx c (fun x => { x with acc := some a })).startWalk c req
  | .fault code level => (((s.lookTouch c a.va).updCtx c (fun x => { x with acc := none })).trFault c req code level).waitFor c .translate

/-- The address checks of SLD, SST, LDTD and STTD (R143, R145), then the access; while its share is exhausted
the instruction stands (R382). -/
def Chip.scalarMem (c : Nat) (op : ScalarOp) (size reg : Nat) (sext : Bool) (w : Word) (s : Chip) : Chip :=
  let ea := effAddr (s.ctxAt c) w
  if ea < 0 ∨ (2 ^ 52 : Int) ≤ ea then s.ownFault c Src.addr
  else
    let va := ea.toNat
    if va % size ≠ 0 then s.ownFault c Src.align
    else if s.shareFree c op.writes = false then s
    else s.scalarGo c { op := op, va := va, pa := 0, size := size, reg := reg, sext := sext }

def sizeOf_ (w : Word) : Nat := 2 ^ fldN w 38 2

def sld (c : Nat) : Chip → Chip := Chip.issueS c 0x1C (fun w => encS (maskABD ||| mPD) w && !(bitB w 40 && fldN w 38 2 == 3)) fun w s =>
  s.scalarMem c .sld (sizeOf_ w) (wSD w) (bitB w 40) w

def sst (c : Nat) : Chip → Chip := Chip.issueS c 0x1D (fun w => encS (maskABD ||| mPD) w && !bitB w 40) fun w s =>
  s.scalarMem c .sst (sizeOf_ w) (wSD w) false w

def ldtd (c : Nat) : Chip → Chip := Chip.issueS c 0x20 (fun w => encS maskABD w && decide (wSD w < 16)) fun w s =>
  s.scalarMem c .ldtd 256 (wSD w) false w

def sttd (c : Nat) : Chip → Chip := Chip.issueS c 0x21 (fun w => encS maskABD w && decide (wSD w < 16)) fun w s =>
  s.scalarMem c .sttd 256 (wSD w) false w

/-- The value a load writes (R143): the read bytes, extended. -/
def loadValue (bs : List Byte) (sext : Bool) : Word :=
  let v := ofBytes bs
  if sext then BitVec.ofInt 64 (sextN (8 * bs.length) v) else BitVec.ofNat 64 v

/-- The words of a descriptor image (R145). -/
def imageWord (bs : List Byte) (k : Nat) : Word := BitVec.ofNat 64 (ofBytes ((bs.drop (8 * k)).take 8))

def Ctx.loadTd (n : Nat) (bs : List Byte) (x : Ctx) : Ctx :=
  (List.range 32).foldl (fun x k => x.setTd n k (imageWord bs k)) x

/-- The report of a read of a lost dirty line (R461). -/
def Chip.lostFault (c : Nat) (s : Chip) : Chip := s.ownFault c Src.eccuRcdata

/-- The access of SLD, SST, LDTD or STTD to `size` bytes at `va` completes (R144, R145). -/
def scalarmemComplete (c va size : Nat) (s : Chip) : Chip :=
  match s.ports.fills.find? (fun x => x.r.kind == .scalar && x.r.ctx == some c), (s.ctxAt c).acc with
  | some x, some a =>
    let y := s.ctxAt c
    if a.va ≠ va ∨ a.size ≠ size then s else
    let s := (s.dropFill x.r.id).updCtx c (fun y => { y with acc := none })
    if y.st ≠ .waiting ∨ y.ended then s
    else if x.rsp ≠ .ok then s.portFails c (portReport x.r x.rsp x.tag)
    else if a.op.writes then (s.retireNext c).wake c
    else if (s.lineAt x.r.loc).lost then s.lostFault c
    else
      let bs := (List.range a.size).map (fun i => (fld x.data (8 * (a.va % 256 + i)) 8 : Byte))
      ((s.updCtx c (fun x => match a.op with
        | .ldtd => x.loadTd a.reg bs
        | _ => x.setS a.reg (loadValue bs a.sext))).retireNext c).wake c
  | some x, none => s.dropFill x.r.id
  | none, _ => s

/-! ### Descriptor fields (R146, R147) -/

def selWidth (w : Word) : Nat := fldN w 16 7
def selLsb (w : Word) : Nat := fldN w 8 6
def selWord (w : Word) : Nat := fldN w 0 5
def selOk (w : Word) : Bool :=
  fldN w 24 8 == 0 && fldN w 14 2 == 0 && fldN w 5 3 == 0 && decide (1 ≤ selWidth w) &&
  decide (selLsb w + selWidth w ≤ 64)

def tdset (c : Nat) : Chip → Chip :=
  Chip.issueS c 0x22 (fun w => encS (mSD ||| mSA ||| mImm) w && (selOk w && !bitB w 23 && decide (wSD w < 16))) fun w s =>
    s.retireWith c (fun x =>
      let old := x.td (wSD w) (selWord w)
      x.setTd (wSD w) (selWord w)
        (mergeMask (maskBits (selLsb w) (selWidth w)) old (x.sr (wSA w) <<< selLsb w)))

def tdget (c : Nat) : Chip → Chip :=
  Chip.issueS c 0x23 (fun w => encS (mSD ||| mSA ||| mImm) w && (selOk w && decide (wSA w < 16))) fun w s =>
    s.retireWith c (fun x =>
      let v := fldN (x.td (wSA w) (selWord w)) (selLsb w) (selWidth w)
      x.setS (wSD w) (if bitB w 23 then BitVec.ofInt 64 (sextN (selWidth w) v) else BitVec.ofNat 64 v))

/-! ### Synchronisation (R158–R165) -/

def mK : Word := maskBits 44 12
def mSAy : Word := maskBits 39 5
def mModeY : Word := maskBits 32 3
def maskYall : Word := maskY ||| mK ||| mSAy ||| mModeY ||| mImm

/-- The counter K names. -/
def namesK (w : Word) : Option Nat := some (wK w)

def ksig (c : Nat) : Chip → Chip :=
  Chip.issue c (isOp 0x30) (fun w => unusedZero maskYall w && decide (wModeY w ≤ 1)) namesK fun w s =>
    (s.ksUpdate (wK w) (wModeY w == 1) (fld ((s.ctxAt c).opV w) 0 48)).retireNext c

/-- KWAIT (R159, R160). Its timeout elapses at the TCLK edge at which the timebase has counted IMM32 edges since the issue
(log 102). -/
def kwait (c : Nat) : Chip → Chip :=
  Chip.issue c (isOp 0x31) (fun w => unusedZero maskYall w) namesK fun w s =>
    let v : BitVec 48 := fld ((s.ctxAt c).zr (wSAy w)) 0 48
    let mode := wModeY w % 4
    let soft := decide (4 ≤ wModeY w)
    if ksCompare mode (s.ksAt (wK w)) v then
      s.retireWith c (fun x => { x with p := if soft then setBit x.p 7 true else x.p })
    else
      (s.updCtx c (fun x => { x with kw := some { k := wK w, mode := mode, tgt := v, soft := soft,
                                                  till := if wImm w = 0 then none else some (s.time + wImm w) } })).waitFor c .kwait

/-- KDRAIN names its counter only in its .sig form (R162). -/
def kdrainCtr (w : Word) : Option Nat := if wModeY w = 1 then some (wK w) else none

def kdrainEnc (w : Word) : Bool :=
  unusedZero maskYall w && (wModeY w == 1 || (wModeY w == 0 && wK w == 0 && wSAy w == 0 && wImm w == 0))

def Chip.applyDrainSig (d : Option (Nat × BitVec 48)) (s : Chip) : Chip :=
  match d with | some (k, v) => s.ksUpdate k false v | none => s

def kdrain (c : Nat) : Chip → Chip :=
  Chip.issue c (isOp 0x32) kdrainEnc kdrainCtr fun w s =>
    let d := (kdrainCtr w).map (fun k => (k, (fld ((s.ctxAt c).opV w) 0 48 : BitVec 48)))
    if s.drained c then (s.applyDrainSig d).retireNext c
    else (s.updCtx c (fun x => { x with drainSig := d })).waitFor c .kdrain

def kdrainDone (c : Nat) (s : Chip) : Chip :=
  let x := s.ctxAt c
  if x.st = .waiting ∧ x.wait = some .kdrain ∧ ¬ x.halting ∧ s.drained c ∧ ¬ x.ended then
    (((s.applyDrainSig x.drainSig).updCtx c (fun x => { x with drainSig := none })).retireNext c).wake c
  else s

def intrEnc (w : Word) : Bool :=
  unusedZero (maskY ||| mModeY ||| mImm) w && decide (wModeY w ≤ 1) &&
    (if wModeY w = 0 then wImm w == 0 else decide (wImm w < 32))

def intr (c : Nat) : Chip → Chip :=
  Chip.issue c (isOp 0x34) intrEnc noCtr fun w s =>
    (s.retireNext c).raise (if wModeY w = 1 then 736 + wImm w else c) false

def kread (c : Nat) : Chip → Chip :=
  Chip.issue c (isOp 0x35) (fun w => unusedZero (maskY ||| mK ||| mSAy) w) namesK fun w s =>
    s.retireWith c (Ctx.setS (wSAy w) (BitVec.ofNat 64 (s.ksAt (wK w)).toNat))

/-! ### Meanings -/

def execNop (c : Nat) (s : State) : Out := s.run (nop c)
def execHalt (c : Nat) (s : State) : Out := s.run (halt c)
def execHaltDrainDone (c : Nat) (s : State) : Out := s.run (haltDrainDone c)
def execYield (c : Nat) (s : State) : Out := s.run (yield c)
def execJmp (c : Nat) (s : State) : Out := s.run (jmp c)
def execBr (c : Nat) (s : State) : Out := s.run (br c)
def execCall (c : Nat) (s : State) : Out := s.run (call c)
def execRet (c : Nat) (s : State) : Out := s.run (ret c)
def execLoop (c : Nat) (s : State) : Out := s.run (loop c)
def execEndl (c : Nat) (s : State) : Out := s.run (endl c)
def execSli (c : Nat) (s : State) : Out := s.run (sli c)
def execSlih (c : Nat) (s : State) : Out := s.run (slih c)
def execSadd (c : Nat) (s : State) : Out := s.run (scalarOp c 0x12 (fun a b => a + b))
def execSsub (c : Nat) (s : State) : Out := s.run (scalarOp c 0x13 (fun a b => a - b))
def execSmul (c : Nat) (s : State) : Out := s.run (scalarOp c 0x14 (fun a b => a * b))
def execSand (c : Nat) (s : State) : Out := s.run (scalarOp c 0x15 (fun a b => a &&& b))
def execSor (c : Nat) (s : State) : Out := s.run (scalarOp c 0x16 (fun a b => a ||| b))
def execSxor (c : Nat) (s : State) : Out := s.run (scalarOp c 0x17 (fun a b => a ^^^ b))
def execSshl (c : Nat) (s : State) : Out := s.run (scalarOp c 0x18 (fun a b => a <<< shamt b))
def execSshr (c : Nat) (s : State) : Out := s.run (sshr c)
def execScmp (c : Nat) (s : State) : Out := s.run (scmp c)
def execSsel (c : Nat) (s : State) : Out := s.run (ssel c)
def execSld (c : Nat) (s : State) : Out := s.run (sld c)
def execSst (c : Nat) (s : State) : Out := s.run (sst c)
def execLdtd (c : Nat) (s : State) : Out := s.run (ldtd c)
def execSttd (c : Nat) (s : State) : Out := s.run (sttd c)
def execScalarmemComplete (c va size : Nat) (s : State) : Out := s.run (scalarmemComplete c va size)
def execTdset (c : Nat) (s : State) : Out := s.run (tdset c)
def execTdget (c : Nat) (s : State) : Out := s.run (tdget c)
def execKsig (c : Nat) (s : State) : Out := s.run (ksig c)
def execKwait (c : Nat) (s : State) : Out := s.run (kwait c)
def execKdrain (c : Nat) (s : State) : Out := s.run (kdrain c)
def execKdrainDone (c : Nat) (s : State) : Out := s.run (kdrainDone c)
def execIntr (c : Nat) (s : State) : Out := s.run (intr c)
def execKread (c : Nat) (s : State) : Out := s.run (kread c)

end Sys2Proof.Machine
end

