-- ==== Sys2Proof/Machine/ReedSolomon.lean ====
section
/-! DEFINITION. The Reed–Solomon code RS(36,32) over GF(2⁸) of the block's arrays and buses (14_faults_and_silent_errors
R459, R460, 00_scope R11, 01_block_organisation R39). -/

namespace Sys2Proof.Machine

/-! ### The field (R459) -/

/-- Multiplication by α = 0x02 modulo x⁸ + x⁴ + x³ + x² + 1. -/
def gfAlpha (a : Byte) : Byte := (a <<< 1) ^^^ (if bitB a 7 then 0x1D else 0)

/-- α to a power. -/
def gfPow : Nat → Byte
  | 0 => 1
  | n + 1 => gfAlpha (gfPow n)

/-- The product, by the bits of the second factor from the highest on. -/
def gfMul (a b : Byte) : Byte :=
  ([7, 6, 5, 4, 3, 2, 1, 0]).foldl (fun r k => gfAlpha r ^^^ (if bitB b k then a else 0)) 0

/-! ### Polynomials: coefficients, the highest power first -/

/-- The product with x + `c`. -/
def polyStep (c : Byte) (p : List Byte) : List Byte :=
  (p ++ [0]).zipWith (fun a b => a ^^^ gfMul c b) (0 :: p)

/-- g(x) = (x + 1)(x + α)(x + α²)(x + α³). -/
def rsGen : List Byte := ([0, 1, 2, 3]).foldl (fun p k => polyStep (gfPow k) p) [1]

/-- The remainder, four coefficients, of a polynomial times x⁴ divided by g(x): one step of the division for each
coefficient. -/
def rsRem (l : List Byte) : List Byte :=
  l.foldl (fun r b =>
    let q := r.headD 0 ^^^ b
    (r.drop 1 ++ [0]).zipWith (fun a g => a ^^^ gfMul q g) (rsGen.drop 1)) [0, 0, 0, 0]

/-- A word of 32 bytes with its check symbols. -/
def rsWord (l : List Byte) : List Byte := l ++ rsRem l

/-! ### Decoding (R460) -/

/-- The value of a polynomial. -/
def polyAt (x : Byte) (l : List Byte) : Byte := l.foldl (fun r b => gfMul r x ^^^ b) 0

/-- The syndromes S0 to S3 of a received word. -/
def syndromes (l : List Byte) : List Byte := ([0, 1, 2, 3]).map (fun j => polyAt (gfPow j) l)

/-- A word is accepted; one symbol of it is wrong by a value; or it is uncorrectable. -/
inductive RsOut where
  | ok
  | fixed (pos : Nat) (v : Byte)
  | bad
  deriving DecidableEq, Repr

/-- The syndromes are those of one wrong symbol, the coefficient of x^`j`. -/
def oneWrong (s : List Byte) (j : Nat) : Bool :=
  s.getD 1 0 == gfMul (s.getD 0 0) (gfPow j) && s.getD 2 0 == gfMul (s.getD 1 0) (gfPow j) && s.getD 3 0 == gfMul (s.getD 2 0) (gfPow j)

/-- What the decoder makes of a received word: symbol `i` is the coefficient of x^(35−i). -/
def rsDecode (l : List Byte) : RsOut :=
  let s := syndromes l
  if s == [0, 0, 0, 0] then .ok
  else if s.getD 0 0 == 0 then .bad
  else match (List.range 36).find? (fun i => oneWrong s (35 - i)) with
    | some i => .fixed i (s.getD 0 0)
    | none => .bad

/-- The word that the decoder delivers. -/
def rsFix (l : List Byte) : RsOut → List Byte
  | .fixed i v => l.set i (l.getD i 0 ^^^ v)
  | _ => l

end Sys2Proof.Machine
end

