-- ==== Sys2Proof/Machine/Faults.lean ====
section
/-! DEFINITION. The fault record store, fault registers and injection (14_faults_and_silent_errors). -/

namespace Sys2Proof

/-- DETAIL bit 63 of an ECC-C report: the word was invalidated and is fetched again (R461). -/
def Report.refetched (r : Report) : Bool :=
  match r.detail with | some d => bitB d 63 | none => false

namespace Machine

/-! ### Choosing the report (R440, R453) -/

def unitCode (k : UnitKind) (u : Nat) : Nat := 256 * k.code + u

/-- `a` is accepted before `b`: lower source, then lower unit (R453). -/
def reportBefore (a b : Report) : Bool :=
  decide (a.src < b.src) || (a.src == b.src && decide (unitCode a.kind a.unit < unitCode b.kind b.unit))

/-- The report accepted next: the first of the least. -/
def nextReport : List PendRep → Option PendRep
  | [] => none
  | p :: l =>
    match nextReport l with
    | none => some p
    | some q => if reportBefore q.rep p.rep then some q else some p

/-! ### Severity (R446, R449, R450, R457) -/

def FRec.holds (r : FRec) (cls : Nat) : Bool := r.valid && bitB r.cmask cls

def Chip.recAt (s : Chip) (r : Nat) : Option FRec := Tab.get none s.fc.recs r

/-- An unacknowledged record holds the class (R457). -/
def Chip.classHeld (s : Chip) (cls : Nat) : Bool :=
  (List.range 16).any (fun r => match s.recAt r with | some x => x.holds cls | none => false)

/-- The units that have a reset of their own (R450, R489). -/
def unitResets (k : UnitKind) (u : Nat) : Bool :=
  match k with
  | .mover | .stackPort | .farPort | .tilePort | .linkPort | .sensor => true
  | .bank | .sequencer => false
  | .shared => u == 7 || u == 8 || (decide (26 ≤ u) && decide (u ≤ 41))

/-- A march-test report before RST_DONE first rises (R573). -/
def Chip.marchReport (s : Chip) (r : Report) : Bool :=
  srcClass r.src == 1 && (match r.detail with | some d => bitB d 61 | none => false) && !bitB (s.reg Reg.stupStat) 0

/-- The severity of the report's source, and whether it is raised by one step (R457). -/
def Chip.raisedSev (s : Chip) (r : Report) : Nat × Bool :=
  let conf := if s.marchReport r then 0 else s.sevOf r.src
  if r.exempt then (0, false)
  else if s.classHeld (srcClass r.src) then (if conf < 7 then conf + 1 else 7, true)
  else (conf, false)

/-- The severity whose reaction has an object (R450, R489). A report of the sequencer has no unit to
reset: it takes PART when it names a partition (log 12). -/
def substitute (r : Report) (sev : Nat) : Nat :=
  let s3 := if sev = 3 ∧ r.ctx = none then 4 else sev
  let s4 := if s3 = 4 ∧ unitResets r.kind r.unit = false then (if r.kind = .sequencer then 5 else 6) else s3
  if s4 = 5 ∧ r.part = none then 6 else s4

/-! ### Sensor values of a record (R454, R584) -/

def Chip.snsFailed (s : Chip) (i : Nat) : Bool := bitB (s.reg (if i < 16 then Reg.snsT i else Reg.snsV (i - 16))) 48

def Chip.snsValue (s : Chip) (i : Nat) : Int :=
  let w := s.reg (if i < 16 then Reg.snsT i else Reg.snsV (i - 16))
  if i < 16 then sextN 16 (fldN w 0 16) else (fldN w 0 16 : Nat)

def maxBy (f : Nat → Int) : List Nat → Option Int
  | [] => none
  | i :: l => match maxBy f l with | none => some (f i) | some v => some (if v < f i then f i else v)

/-- The highest temperature and its sensor (R454); open when every sensor has failed. -/
def Chip.recTemp (s : Chip) : BitVec 16 × Nat :=
  let ok := (List.range 16).filter (fun i => !s.snsFailed i)
  match maxBy s.snsValue ok with
  | some v => (BitVec.ofInt 16 v, pick s.free (ok.filter (fun i => s.snsValue i == v)))
  | none => (fld (Config.freeWord s.free) 0 16, fldN (Config.freeWord s.free) 16 4)

/-- The lowest voltage and its sensor; 0 and 0 when every voltage sensor has failed (R584). -/
def Chip.recVolt (s : Chip) : BitVec 16 × Nat :=
  let ok := ([16, 17, 18, 19]).filter (fun i => !s.snsFailed i)
  match maxBy (fun i => - s.snsValue i) ok with
  | some v => (BitVec.ofInt 16 (-v), pick (s.free + 1) (ok.filter (fun i => - s.snsValue i == v)) - 16)
  | none => (0, 0)

/-! ### Records (R452, R458) -/

/-- The least of a list of slots by the time of their records, the lower slot winning ties. -/
def Chip.oldestOf (s : Chip) : List Nat → Option Nat
  | [] => none
  | r :: l =>
    let t := fun i => match s.recAt i with | some x => x.time | none => 0
    match s.oldestOf l with
    | none => some r
    | some q => if t r ≤ t q then some r else some q

def Chip.freeSlot (s : Chip) : Option Nat :=
  (List.range 16).find? (fun r => match s.recAt r with | some x => !x.valid | none => true)

def Chip.setRec (r : Nat) (x : FRec) (s : Chip) : Chip :=
  { s with fc := { s.fc with recs := Tab.set none r (some x) s.fc.recs } }

/-- Writes the record of a report, or merges it into the oldest (R452, R458). The slot it went to. -/
def Chip.writeRec (p : PendRep) (sev : Nat) (esc : Bool) (s : Chip) : Chip × Nat :=
  let cls := srcClass p.rep.src
  match s.freeSlot with
  | some r =>
    let (tv, ts) := s.recTemp
    let (vv, vs) := s.recVolt
    let rep := { p.rep with detail := some (p.rep.detail.getD (Config.freeWord (s.free + 2))) }
    let x : FRec := { cmask := BitVec.ofNat 16 (2 ^ cls), merged := satAdd 255 0 p.folded, sev := sev, esc := esc,
                      rep := rep, time := s.time, temp := tv, volt := vv, tsens := ts, vsens := vs,
                      lastTime := s.time, valid := true }
    ({ s.setRec r x with free := s.free + 3 }, r)
  | none =>
    let r := (s.oldestOf (List.range 16)).getD 0
    match s.recAt r with
    | some x =>
      ((s.setRec r { x with merged := satAdd 255 x.merged (p.folded + 1),
                            cmask := x.cmask ||| BitVec.ofNat 16 (2 ^ cls), lastTime := s.time }).bump Reg.fcStat 48 16 1, r)
    | none => (s, r)

def Chip.updUnit (k : UnitKind) (u : Nat) (f : UnitStat → UnitStat) (s : Chip) : Chip :=
  { s with fc := { s.fc with units := Tab.upd {} (unitKey k u) f s.fc.units } }

/-- The reporting unit's status register counts the report (R443). RSQ reports come from no unit that has
one. -/
def Chip.countReport (r : Report) (s : Chip) : Chip :=
  if r.kind = .sequencer ∨ srcClass r.src = 11 then s
  else s.updUnit r.kind r.unit (fun u => { u with lastsrc := r.src, count := (u.count + 1) % 65536, err := true })

/-! ### Reactions (R449, R474, R480, R499) -/

/-- A rung request to the recovery sequencer. -/
def Chip.request (r : Rung) (s : Chip) : Chip :=
  if s.rsq.failed then s else { s with rsq := { s.rsq with reqs := s.rsq.reqs ++ [r] } }

/-- ALIVE_O stops, PWRCYC_REQ_N is asserted, and the block takes no further recovery action (R474, R499). -/
def Chip.pinStop (s : Chip) : Chip :=
  { s with pins := { s.pins with alive := false, pwrCycReq := true },
           rsq := { s.rsq with failed := true, reqs := [] } }

/-- The unit rungs of a report: a mover, or a unit; SDC SHADOW names both movers (R450). -/
def unitRungs (r : Report) (base : Rung) : List Rung :=
  if unitResets r.kind r.unit then
    match r.kind with
    | .mover =>
      { base with kind := .mover, obj := r.unit } ::
        (if r.src = Src.shadow then [{ base with kind := .mover, obj := r.partner }] else [])
    | k => [{ base with kind := .unit, obj := unitKey k r.unit }]
  else []

/-- The rungs of a reaction, the widest first: each severity takes the reactions of the lower ones
(R449); a rung inside a wider one is absorbed when it starts (R483). A fault of the context's own
instruction aborts it at any severity (R134). -/
def reactionRungs (r : Report) (sev slot : Nat) : List Rung :=
  let base : Rung := { kind := .block, obj := 0, origin := .report, src := r.src, slot := some slot, ctx := r.ctx }
  (if 6 ≤ sev then [base] else []) ++
  (match r.part with | some p => if 5 ≤ sev then [{ base with kind := .partition, obj := p }] else [] | none => []) ++
  (if 4 ≤ sev then unitRungs r base else []) ++
  (match r.ctx with | some c => if 3 ≤ sev ∨ r.ends then [{ base with kind := .ctxAbort, obj := c }] else [] | none => [])

/-- The reaction of a report (R449). -/
def Chip.react (r : Report) (sev slot : Nat) (s : Chip) : Chip :=
  let s := if 1 ≤ sev then s.raise (reportIrq r.src r.kind r.unit) (sev == 2) else s
  if 7 ≤ sev then s.pinStop else (reactionRungs r sev slot).foldl (fun s g => s.request g) s

/-- Acceptance of one report: record or merge, unit status, trace, reaction. -/
def Chip.acceptReport (p : PendRep) (s : Chip) : Chip :=
  let r := p.rep
  let (sev0, esc) := s.raisedSev r
  let sev := if r.exempt then 0 else substitute r sev0
  let (s, slot) := s.writeRec p sev esc
  let s := s.countReport r
  let s := match r.ctx with
    | some c => s.trace c 3 r.src (match r.iaddr with | some (ia, _) => ia | none => 0) (at64 0 (srcClass r.src))
    | none => s
  s.react r sev slot

/-- Corrected words are counted (R460): a report of ECC-C that names no refetched word (R461). -/
def Chip.countEcc (r : Report) (s : Chip) : Chip :=
  if r.src ≤ 0x0F ∧ r.refetched = false then s.bump (Reg.fcEcc r.src) 0 48 1 else s

/-- Hardware errors raised since the last acceptance join the held reports; in power-on reset nothing reports. -/
def Chip.raiseReports (l : List Report) (s : Chip) : Chip :=
  if s.phase = .porst then s else l.foldl (fun s r => (s.countEcc r).report r) s

/-- The store accepts one report (R453); its pair's unit drives it no more (R440). -/
def reportAccept (raised : List Report) (s : Chip) : Chip :=
  let s := s.raiseReports raised
  if s.clocked then
    match nextReport s.fc.pend with
    | some p => ({ s with fc := { s.fc with pend := s.fc.pend.erase p } }).acceptReport p
    | none => s
  else s

/-! ### Pairs and the scrubber -/

/-- A broken pair (R439, R441): the WIRE report of its subsystem; the pair is masked. -/
def Chip.wireBroken (k : UnitKind) (u pair sub : Nat) (s : Chip) : Chip :=
  if s.phase ≠ .porst ∧ 1 ≤ sub ∧ sub ≤ 23 ∧ ¬ (s.unitStat k u).masked.contains pair then
    let s := s.updUnit k u (fun x => { x with pair := pair % 65536, masked := pair :: x.masked })
    let r : Report := { src := Src.wire sub, kind := k, unit := u, detail := some (at64 0 pair) }
    { s with fc := { s.fc with pend := foldReport r s.fc.pend } }
  else s

/-- What the samples of a pair show, in their order (R439). -/
inductive PairShows where
  /-- The pair rises to (1, 0): a report of its source. -/
  | error
  /-- Two consecutive samples at (0, 0) or (1, 1). -/
  | broken
  deriving DecidableEq, Repr

/-- (0, 0) and (1, 1): no code of a working pair (R439). -/
def badCode (x : BitVec 2) : Bool := x == 0#2 || x == 3#2

/-- The events in a run of samples after one of code `last`: a single bad sample is ignored (R439). -/
def pairShows : BitVec 2 → List (BitVec 2) → List PairShows
  | _, [] => []
  | last, x :: xs =>
    (if x == 2#2 && last != 2#2 then [.error] else if badCode x && badCode last then [.broken] else []) ++ pairShows x xs

/-- A unit's pair, healthy before, takes the codes `samples` (R439). A masked pair reports nothing (R441). -/
def brokenWire (k : UnitKind) (u pair sub : Nat) (samples : List (BitVec 2)) (s : Chip) : Chip :=
  (pairShows 1#2 samples).foldl (fun s e => match e with
    | .error => if s.phase = .porst ∨ srcAssigned pair = false then s else s.report { src := pair, kind := k, unit := u }
    | .broken => s.wireBroken k u pair sub) s

/-- The ECC-U source of the array of an ECC-C source (R446, R461): none where an uncorrectable word is
fetched again and reported as ECC-C. -/
def eccuOf (a : Nat) : Option Nat :=
  match a with
  | 0 => some 0x10 | 1 => some 0x11 | 2 => some 0x12 | 3 => some 0x13 | 5 => some 0x14 | 6 => some 0x15
  | 7 => some 0x16 | 8 => some 0x17 | 9 => some 0x18 | 12 => some 0x19 | 13 => some 0x1A | 14 => some 0x1B
  | 15 => some 0x1C | _ => none

/-- The report of what the decoder has found in a word of an array (R460, R461). -/
def arrayReport (a : Nat) (k : UnitKind) (u : Nat) : RsOut → Option Report
  | .ok => none
  | .fixed pos _ => some { src := Src.eccC a, kind := k, unit := u, detail := some (at64 0 pos) }
  | .bad => some (match eccuOf a with
    | some e => { src := e, kind := k, unit := u }
    | none => { src := Src.eccC a, kind := k, unit := u, detail := some (at64 63 1) })

/-- The arrays that the scrubber reads: row cache data and tags, staging, pool accumulators, the context stores (R462). -/
def scrubbed (a : Nat) : Bool := ([0, 1, 2, 3, 7, 8]).contains a

/-- The scrubber's report of a word (R462). -/
def Chip.scrubReport (r : Report) (s : Chip) : Chip :=
  let r := { r with detail := some (r.detail.getD 0 ||| at64 62 1) }
  (s.countEcc r).report r

/-- A scrubbed word of row cache data, at a location, whose stored codeword differs by `flip` from that of its bytes: it is
written back corrected; uncorrectable, a clean line is invalid and a dirty one loses its data (R460, R461). -/
def Chip.scrubLine (loc : Nat) (flip : List Byte) (s : Chip) : Chip :=
  let g := granuleOf loc
  let at_ := loc % 256 / 32 * 32
  let l := s.lineAt g
  let u := Config.rcBank g % 64
  let word := (rsWord (toBytes 32 (fld l.data (8 * at_) 256).toNat)).zipWith (fun a b => a ^^^ b) flip
  match rsDecode word with
  | .ok => s
  | .fixed pos v =>
    let d := granuleBytes at_ ((rsFix word (.fixed pos v)).take 32)
    (s.updLine g (fun l => { l with data := mergeMask (wide (byteMask at_ 32)) l.data d })).scrubReport
      { src := Src.eccC 0, kind := .bank, unit := u, detail := some (at64 0 pos) }
  | .bad =>
    if l.dirty = 0 then (s.updLine g (fun l => { l with valid := 0 })).scrubReport { src := Src.eccC 0, kind := .bank, unit := u, detail := some (at64 63 1) }
    else (s.updLine g (fun l => { l with lost := true })).scrubReport { src := Src.eccuRcdata, kind := .bank, unit := u, part := some l.part }

/-- The scrubber reads one word of array `a` (R462): its stored codeword differs by `flip`, symbol by symbol, from the one
that was written. The syndromes are those of the difference, the code being linear. -/
def scrubRead (a : Nat) (k : UnitKind) (u loc : Nat) (flip : BitVec 288) (s : Chip) : Chip :=
  if s.regF Reg.fcScrub 0 16 = 0 ∨ s.phase ≠ .run ∨ scrubbed a = false then s
  else if a = 0 then s.scrubLine loc (toBytes 36 flip.toNat)
  else match arrayReport a k u (rsDecode (toBytes 36 flip.toNat)) with
    | some r => s.scrubReport r
    | none => s

/-! ### Registers -/

/-- FC_ACK frees the slots written 1 (R455); it takes effect while RST_DONE = 0 as well (R533). -/
def fcAck (v : Word) : Chip → Chip :=
  Chip.acceptAny fun s => (((List.range 16).filter (bitB v)).foldl (fun s r =>
    match s.recAt r with | some x => s.setRec r { x with valid := false } | none => s) s).answer .ok

/-- A software report of SDC SWSDC by shared unit 5 (R470). -/
def fcSwrep (v : Word) : Chip → Chip :=
  Chip.accept fun s =>
    (s.report { src := Src.swsdc, kind := .shared, unit := 5,
                ctx := if bitB v 7 then some (fldN v 8 8) else none,
                part := if bitB v 3 then some (fldN v 4 3) else none,
                detail := some (at64 0 (fldN v 32 32)) }).answer .ok

/-- The injection's MODE, SRC and SYMS agree (R472): a pair needs an assigned source, MODE 2 an array. -/
def injMatches (v : Word) : Bool :=
  let src := fldN v 48 8
  match fldN v 24 2 with
  | 0 => srcAssigned src
  | 1 => srcAssigned src
  | 2 => decide (src ≤ 0x1C) && decide (1 ≤ fldN v 26 2)
  | _ => true

def injMask : Word := maskBits 48 8 ||| maskBits 32 16 ||| maskBits 24 4 ||| maskBits 0 1

/-- FC_INJ: fields RW, FIRED cleared where 1 is written; arming is guarded (R471). -/
def fcInjStore (v : Word) (s : Chip) : Chip :=
  let old := s.reg Reg.fcInj
  let w := mergeMask injMask old v
  (s.setReg Reg.fcInj (if bitB v 1 then setBit w 1 false else w)).answer .ok

def fcInjArm (v : Word) : Chip → Chip :=
  Chip.accept fun s =>
    if bitB v 0 then
      s.guarded fun s =>
        if !s.pins.ftm then (s.logCtl Src.guardref 0).answer .err
        else if injMatches v then fcInjStore v s
        else s.answer .err
    else fcInjStore v s

/-- The subsystem of a unit's pairs (R15). -/
def unitSubsystem : UnitKind → Nat → Nat
  | .mover, _ => 4
  | .stackPort, _ => 13
  | .farPort, _ => 14
  | .tilePort, _ => 15
  | .linkPort, _ => 16
  | .bank, _ => 12
  | .sequencer, _ => 22
  | .sensor, _ => 23
  | .shared, u =>
    if u = 0 then 1 else if u = 1 then 3 else if u = 2 then 6 else if u = 3 then 17 else if u = 4 then 18
    else if u = 5 then 20 else if u = 6 then 21 else if u = 7 ∨ u = 8 then 23 else if u = 9 then 12
    else if u ≤ 25 then 12 else if u ≤ 41 then 15 else 16

def unitKindOf : Nat → Option UnitKind
  | 0 => some .mover | 1 => some .stackPort | 2 => some .farPort | 3 => some .tilePort | 4 => some .linkPort
  | 5 => some .bank | 6 => some .shared | 7 => some .sequencer | 8 => some .sensor | _ => none

/-- The array of an ECC source. -/
def arrayOf (src : Nat) : Nat := if src ≤ 0x0F then src else ((List.range 16).find? (fun a => eccuOf a == some src)).getD 0

/-- A word with corrupted symbols is found: one is corrected, which one it was is open (log 5); two or three never are
(R460, R472). -/
def Chip.injectWord (src syms : Nat) (k : UnitKind) (u : Nat) (done : Chip → Chip) (s : Chip) : Chip :=
  let pos := (Config.freeWord s.free).toNat % 36
  match arrayReport (arrayOf src) k u (if syms ≤ 1 then .fixed pos 0 else .bad) with
  | some r => ((({ done s with free := s.free + 1 }).countEcc r).report r)
  | none => done s

/-- An armed injection of MODE 0 to 2 fires (R472, log 13); MODE 3 fires in the next shadow comparison. -/
def injectionFire (s : Chip) : Chip :=
  let v := s.reg Reg.fcInj
  let done := fun (s : Chip) => s.setReg Reg.fcInj (setBit (setBit v 0 false) 1 true)
  if bitB v 0 then
    match unitKindOf (fldN v 40 8) with
    | none => s
    | some k =>
      let u := fldN v 32 8
      match fldN v 24 2 with
      | 0 => brokenWire k u (fldN v 48 8) (unitSubsystem k u) [2#2] (done s)
      | 1 => brokenWire k u (fldN v 48 8) (unitSubsystem k u) [0#2, 0#2] (done s)
      | 2 => s.injectWord (fldN v 48 8) (fldN v 26 2) k u done
      | _ => s
  else s

/-- Loads every mover's LFSR with SHD_SEED rotated left by its number (R463). -/
def Chip.loadLfsr (m : Nat) (s : Chip) : Chip :=
  s.updMov m (fun x => { x with lfsr := rotl32 (fld (s.reg Reg.shdSeed) 0 32) m })

def Chip.loadLfsrs (s : Chip) : Chip := (List.range s.build.nmov).foldl (fun s m => s.loadLfsr m) s

/-- SHD_CFG and SHD_SEED (R463, R475). -/
def shdConfigWrite (off : Nat) (v : Word) : Chip → Chip :=
  Chip.accept fun s =>
    if off = Reg.shdCfg then
      if 20 < fldN v 0 5 ∨ fldN v 24 16 = 0 then s.answer .err
      else ((s.setReg off (v &&& (maskBits 24 16 ||| maskBits 8 1 ||| maskBits 0 5))).loadLfsrs).answer .ok
    else if off = Reg.shdSeed then
      if fldN v 0 32 = 0 then s.answer .err
      else ((s.setReg off (v &&& maskBits 0 32)).loadLfsrs).answer .ok
    else s

/-! ### Meanings -/

def execReportAccept (raised : List Report) (s : State) : Out := s.run (reportAccept raised)
def execBrokenWire (k : UnitKind) (u : Nat) (x : PairCodes) (sub : Nat) (s : State) : Out :=
  s.run (brokenWire k u x.pair sub x.samples)
def execScrubRead (w : ArrayWord) (flip : BitVec 288) (s : State) : Out := s.run (scrubRead w.array w.kind w.unit w.loc flip)
def execFcAck (v : Word) (s : State) : Out := s.run (fcAck v)
def execFcSwrep (v : Word) (s : State) : Out := s.run (fcSwrep v)
def execFcInjArm (v : Word) (s : State) : Out := s.run (fcInjArm v)
def execInjectionFire (s : State) : Out := s.run injectionFire
def execShdConfigWrite (off : Nat) (v : Word) (s : State) : Out := s.run (shdConfigWrite off v)

end Machine
end Sys2Proof
end

