-- ==== Sys2Proof/Machine/Context.lean ====
section
/-! DEFINITION. Context commands, binding, gangs, partitions, register images (01_block_organisation,
02_contexts_and_execution). -/

namespace Sys2Proof.Machine

/-! ### What refuses a command (R49, R483) -/

/-- A mover lies inside a running mover or partition reset (R483). -/
def Chip.movCovered (s : Chip) (m : Nat) : Bool :=
  s.rsq.rungs.any (fun r => (r.kind == .mover && (s.teamOf r.obj).contains m)) || s.inReset (s.movPart m)

/-- The context lies inside a running partition reset (R483). -/
def Chip.ctxCovered (s : Chip) (c : Nat) : Bool := s.inReset (s.ctxPart c)

/-- A refused command: an error response and a CONTROL report at LOG by the context manager (R49, R52).
It is taken at LOG whatever the severity of its code (log 17). -/
def Chip.refuse (code : Nat) (s : Chip) : Chip :=
  (s.report { src := code, kind := .shared, unit := 1, exempt := code == Src.xpart }).answer .err

/-- An accepted command of a context: CMDERR is cleared (R83). -/
def Chip.ctxOk (c : Nat) (s : Chip) : Chip := (s.updCtx c (fun x => { x with cmderr := false })).answer .ok

/-- A command for context `c` in a state that lists it, not BUSY and outside a running rung (R49, R483).
Entries of absent contexts ignore writes (R76). -/
def Chip.command (c : Nat) (ok : Ctx → Bool) (body : Chip → Chip) : Chip → Chip :=
  Chip.accept fun s =>
    if s.build.nctx ≤ c then s.answer .ok
    else
      let x := s.ctxAt c
      if x.busy.isSome || s.ctxCovered c || !ok x then s.refuse Src.ctxcmd else body s

/-! ### BIND and UNBIND (R52) -/

/-- The movers CTX_BIND names: a free mover or a formed gang; none otherwise (R22, R52). -/
def Chip.bindMovers (s : Chip) (c : Nat) : Option (List Nat) :=
  let v := s.reg (Reg.ctx c 0x28)
  let t := fldN v 0 6
  if bitB v 8 then
    if s.formed.contains t then some (gangMovers s.build t) else none
  else if t < s.build.nmov ∧ s.gangOf t = none then some [t] else none

/-- A mover failed its march test, or a shared array did (R573). -/
def Chip.movFailed (s : Chip) (m : Nat) : Bool := bitB (s.reg Reg.stupMovfail) m
def Chip.sharedFailed (s : Chip) : Bool := bitB (s.reg Reg.stupStat) 2

def freeSlots (mv : Mover) : List Nat := (List.range 8).filter (fun k => Tab.get none mv.slots k == none)

/-- The code with which BIND is refused, or the leader and the size of its target (R52). -/
def Chip.bindCheck (s : Chip) (c : Nat) : Except Nat (Nat × Nat) :=
  match s.bindMovers c with
  | none => .error Src.bindtgt
  | some ms =>
    let m := ms.headD 0
    if ms.any s.movFailed || s.sharedFailed then .error Src.bindtgt
    else if s.movPart m ≠ s.ctxPart c then .error Src.xpart
    else if s.movCovered m then .error Src.ctxcmd
    else if (freeSlots (s.movAt m)).isEmpty then .error Src.noslot
    else if !bitB (s.reg (Reg.ctx c 0x18)) 0 then .error Src.nosave
    else if 2 ^ s.ctxSavew c < ms.length then .error Src.savesz
    else .ok (m, ms.length)

/-- The context takes a free slot of its leader: which one is open (log 5). -/
def Chip.takeSlot (c m w : Nat) (s : Chip) : Chip :=
  let k := pick s.free (freeSlots (s.movAt m))
  let s := s.updMov m (fun x => { x with slots := Tab.set none k (some c) x.slots })
  ({ s with free := s.free + 1 }).updCtx c (fun x => { x with slotOf := some m, size := w, retired := 0 })

def bind (c : Nat) : Chip → Chip :=
  Chip.command c (fun x => x.st == .idle || (x.st == .faulted && x.slotOf.isNone)) fun s =>
    match s.bindCheck c with
    | .error code => s.refuse code
    | .ok (m, w) => ((s.takeSlot c m w).updCtx c (fun x => { x with busy := some .bind })).ctxOk c

/-- The states ABORT leaves (R48). -/
def CState.abortable : CState → Bool
  | .bound | .ready | .waiting | .faulted => true
  | .idle | .aborting | .aborted => false

/-- What an abort of a context does to a request that no arbiter has granted (R485, R487): withdrawn, but for fills
that another context waits for too, PREFETCH.rc fills, write-backs and events, which are not the context's, and the writes of
a POOL bag, which is written whole (R179). -/
def PortReq.afterAbort (c : Nat) (r : PortReq) : Option PortReq :=
  let r := { r with dests := r.dests.filter (fun d => d.ctx != c) }
  if r.ctx ≠ some c then some r
  else match r.kind with
    | .xread | .prefetchStg | .save | .scalar | .ifetch | .restore => none
    | .xwrite => if r.grp = 0 then none else some { r with ctx := none }
    | .fill | .prefetchFill => (r.dests.head?).map (fun d => { r with ctx := some d.ctx, kind := .fill, grp := 0 })
    | .fenceWb | .cinvWb | .combine _ | .header _ => some { r with ctx := none }
    | _ => some r

/-- Bytes on their way are no longer for the context. -/
def PortReq.forget (c : Nat) (r : PortReq) : PortReq := { r with dests := r.dests.filter (fun d => d.ctx != c) }

/-- An answer that waits for a command of the context is discarded. -/
def FillDone.leftBy (c : Nat) (x : FillDone) : Bool :=
  x.r.ctx == some c && (match x.r.kind with | .scalar | .ifetch | .restore | .image => true | _ => false)

def PortSt.afterAbort (c : Nat) (p : PortSt) : PortSt :=
  { p with queue := p.queue.filterMap (PortReq.afterAbort c), outs := p.outs.map (fun (o : Outst) => { o with r := o.r.forget c }),
           fills := (p.fills.filter (fun x => !x.leftBy c)).map (fun (x : FillDone) => { x with r := x.r.forget c }) }

/-- From now on no signal and no record of the context's detached work follows, and frames that the link engine does not
have yet are never sent (R157, R485, R487). -/
def Chip.muteWork (c : Nat) (s : Chip) : Chip :=
  let mute := fun (m : Msg) =>
    if m.ctx ≠ c ∨ m.dead then m
    else if m.deleg then { m with km := 0, crec := false }
    else { m with dead := true, stream := [], raw := [], whole := true }
  { s with link := { s.link with msgs := s.link.msgs.map mute } }.updCtx c (fun x => { x with detached := x.detached.map (fun (d : Nat × Nat) => (d.1, 4096)) })

/-- Phase 1 of an abort (R485): the context stops, its ungranted requests are withdrawn, no signal of it is
applied any more. -/
def Chip.startAbort (c : Nat) (cause : AbortCause) (s : Chip) : Chip :=
  let s := (((s.yieldMover c).leaveLines c).muteWork c).updCtx c (fun x =>
    { x with cause := some cause, kw := none, drainSig := none, halting := false, abortReq := false, stopReq := false,
             faddr := x.ip, busy := none, acc := none, walk := none, leaf := none })
  ({ s with ports := s.ports.afterAbort c }).setSt c .aborting none

/-- A host ABORT takes effect: the context stops at once, and the sequencer is asked for the rung. -/
def Chip.hostAbort (c : Nat) (s : Chip) : Chip :=
  (s.startAbort c .host).request { kind := .ctxAbort, obj := c, origin := .host, ctx := some c }

/-- A command of the context has ended: a waiting ABORT now takes effect. -/
def Chip.busyEnd (c : Nat) (s : Chip) : Chip :=
  let s := s.updCtx c (fun x => { x with busy := none })
  let x := s.ctxAt c
  if x.abortReq then
    if x.st.abortable then s.hostAbort c else s.updCtx c (fun x => { x with abortReq := false })
  else s

def bindComplete (c : Nat) (s : Chip) : Chip :=
  let x := s.ctxAt c
  if x.busy = some .bind then
    (if x.st = .idle then s.setSt c .bound none else s).busyEnd c
  else s

def unbind (c : Nat) : Chip → Chip :=
  Chip.command c (fun x => x.st == .bound || (x.st == .faulted && x.slotOf.isSome)) fun s =>
    (s.updCtx c (fun x => { x with busy := some .unbind })).ctxOk c

/-- The slot of a context is free again (R48). -/
def Chip.freeSlotOf (c : Nat) (s : Chip) : Chip :=
  match (s.ctxAt c).slotOf with
  | some m =>
    let s := s.yieldMover c
    match slotHolding (s.movAt m) c with
    | some k => (s.updMov m (fun x => { x with slots := Tab.erase x.slots k })).updCtx c (fun x => { x with slotOf := none })
    | none => s.updCtx c (fun x => { x with slotOf := none })
  | none => s

def unbindComplete (c : Nat) (s : Chip) : Chip :=
  let x := s.ctxAt c
  if x.busy = some .unbind then
    let s := (s.releaseStg c).freeSlotOf c
    (if x.st = .bound then s.setSt c .idle none else s).busyEnd c
  else s

/-! ### START, STOP, ABORT, CLEAR -/

/-- START (R48, R74, R84). -/
def start (c : Nat) : Chip → Chip :=
  fun s => Chip.command c (fun x => x.st == .bound && !s.ctxGuest c) (fun s =>
    ((s.updCtx c (fun x => { x with exit := 0, fclass := 0, fcode := 0, ended := false, progress := s.time,
                                    promoted := false })).setSt c .ready none).ctxOk c) s

/-- The waits that STOP abandons at once (R48). -/
def WaitCause.stopsAtOnce : WaitCause → Bool
  | .kwait | .kdrain | .fence | .credit => true
  | .ifetch | .scalarmem | .transfer | .translate => false

/-- A STOP takes effect: BOUND with EXIT = STOPPED, IP at the next instruction not retired (R48). -/
def Chip.stopNow (c : Nat) (s : Chip) : Chip :=
  (s.updCtx c (fun x => { x with xfer := if x.wait = some .credit then none else x.xfer })).toBound c 2

/-- Requests of an abandoned FENCE are completed, but no longer waited for. -/
def Chip.disown (c : Nat) (s : Chip) : Chip :=
  let f := fun (r : PortReq) => if r.ctx == some c && r.kind == ReqKind.fenceWb then { r with ctx := none } else r
  { s with ports := { s.ports with queue := s.ports.queue.map f, outs := s.ports.outs.map (fun o => { o with r := f o.r }) } }

/-- STOP (R48). A transfer that waits for credits after RESUME has issued before: it retires first (log 18). -/
def stop (c : Nat) : Chip → Chip :=
  fun s => Chip.command c (fun x => (x.st == .ready || x.st == .waiting) && !s.ctxGuest c) (fun s =>
    let x := s.ctxAt c
    match x.wait with
    | some w =>
      if w.stopsAtOnce && !x.ended && !(match x.xfer with | some t => t.resumed | none => false) then ((s.disown c).stopNow c).ctxOk c
      else (s.updCtx c (fun x => { x with stopReq := true })).ctxOk c
    | none => (s.updCtx c (fun x => { x with stopReq := true })).ctxOk c) s

/-- A pending STOP takes effect between two instructions (R48). -/
def stopEffect (c : Nat) (s : Chip) : Chip :=
  let x := s.ctxAt c
  if x.stopReq ∧ x.st = .ready ∧ ¬ x.ended ∧ x.xfer.isNone ∧ x.halt.isNone then s.stopNow c else s

/-- ABORT (R48, R49, R485): while BUSY it waits for the command in progress. -/
def abort (c : Nat) : Chip → Chip :=
  Chip.accept fun s =>
    if s.build.nctx ≤ c then s.answer .ok
    else
      let x := s.ctxAt c
      if s.ctxCovered c then s.refuse Src.ctxcmd
      else if x.busy.isSome then (s.updCtx c (fun x => { x with abortReq := true })).ctxOk c
      else if x.st.abortable then (s.hostAbort c).ctxOk c
      else s.refuse Src.ctxcmd

def clear (c : Nat) : Chip → Chip :=
  Chip.command c (fun x => x.st == .aborted) fun s => (s.setSt c .idle none).ctxOk c

/-! ### Register images (R69–R72) -/

def idleOrBound (x : Ctx) : Bool := x.st == .idle || x.st == .bound

/-- The 8-byte word at an offset of an image. -/
def imgWord (bs : List Byte) (off : Nat) : Word := BitVec.ofNat 64 (ofBytes ((bs.drop off).take 8))

/-- The reserved bits of the control block are zero and the loop depth is at most 4 (R71, R72). -/
def imageOk (bs : List Byte) : Bool :=
  let w := fun o => imgWord bs (0x1100 + o)
  let addrOk := fun (v : Word) => fldN v 52 12 == 0 && fldN v 0 3 == 0
  addrOk (w 0) && fldN (w 8) 8 56 == 0 && decide ((w 0x10).toNat ≤ 4) && w 0x18 == 0 &&
  (List.range 4).all (fun k => addrOk (w (0x20 + 16 * k)) && fldN (w (0x28 + 16 * k)) 32 32 == 0) &&
  ((bs.drop 0x1160).all (· == 0))

/-- The registers of a good image (R69, R71); level 0 of the image is the outermost. -/
def Ctx.loadImage (bs : List Byte) (x : Ctx) : Ctx :=
  let w := fun o => imgWord bs (0x1100 + o)
  let x := (List.range 32).foldl (fun x n => x.setS n (imgWord bs (8 * n))) x
  let x := (List.range 512).foldl (fun (x : Ctx) k => { x with t := Tab.set 0 k (imgWord bs (0x100 + 8 * k)) x.t }) x
  let lv := (List.range (w 0x10).toNat).map (fun k =>
    ({ start := (w (0x20 + 16 * k)).toNat, count := (w (0x28 + 16 * k)).toNat } : LoopLvl))
  { x with ip := (w 0).toNat, p := setBit (fld (w 8) 0 8) 0 true, loops := lv.reverse }

/-- The image SAVEREGS writes (R69, R71); what it writes for a level that is not active is open (log 5). -/
def Ctx.image (x : Ctx) (free : Nat) : List Byte :=
  let lv := x.loops.reverse
  (List.range 32).flatMap (fun n => toBytes 8 (x.sr n).toNat) ++
  (List.range 512).flatMap (fun k => toBytes 8 (Tab.get 0 x.t k).toNat) ++
  toBytes 8 x.ip ++ toBytes 8 (setBit x.p 0 true).toNat ++ toBytes 8 x.loops.length ++ toBytes 8 0 ++
  (List.range 4).flatMap (fun k =>
    match lv[k]? with
    | some l => toBytes 8 l.start ++ toBytes 8 l.count
    | none => toBytes 8 (Config.freeWord (free + k) &&& maskBits 3 49).toNat ++
              toBytes 8 (Config.freeWord (free + 4 + k) &&& maskBits 0 32).toNat) ++
  List.replicate 160 0

/-- Writes at a physical address of the bursts that `ok` selects, past the row cache. -/
def Chip.burstWrite (pa : Nat) (bs : List Byte) (ok : Nat → Bool) (s : Chip) : Chip :=
  (List.range (ceilDiv bs.length 64)).foldl (fun s k =>
    if ok k then s.bypassWrite (pa + 64 * k) ((bs.drop (64 * k)).take 64) else s) s

def Chip.cmdFailed (c : Nat) (s : Chip) : Chip := (s.updCtx c (fun x => { x with cmderr := true })).busyEnd c

/-- The 18 requests of 256 B that move a register image, untranslated, past the row cache, by the context manager (R70,
R72, R347). None when the save area lies in no region. -/
def Chip.imageReqs (c : Nat) (write : Bool) (bs : List Byte) (s : Chip) : Option Chip :=
  (List.range 18).foldl (fun o k => o.bind (fun s =>
    (s.decodePA (s.ctxSaveBase c + 256 * k)).map (fun p =>
      s.enq { id := 0, kind := .image, write := write, lane := p.lane, loc := granuleOf p.loc, mask := BitVec.allOnes 256,
              data := if write then granuleBytes 0 ((bs.drop (256 * k)).take 256) else 0, va := 256 * k, ctx := some c,
              part := some (s.ctxPart c), cls := s.ctxClass c, req := 64 }))) (some s)

/-- A register image begins to move; a save area in no region is PADDR (R312). While a commit runs it waits (R319). -/
def Chip.moveImage (c : Nat) (write : Bool) (bs : List Byte) (s : Chip) : Chip :=
  if (match s.decodePA (s.ctxSaveBase c) with | some p => s.tnWaits p | none => false) then s
  else match s.imageReqs c write bs with
  | some s => s
  | none => (s.cmdFailed c).report (s.ownReport c Src.paddr)

/-- A register image that waited for a commit moves. -/
def Chip.imageGo (c : Nat) (s : Chip) : Chip :=
  if s.allRequests.any (fun r => r.kind == .image && r.ctx == some c) || s.ports.fills.any (fun x => x.r.kind == .image && x.r.ctx == some c) then s
  else match (s.ctxAt c).busy with
    | some .loadregs => s.moveImage c false []
    | some .saveregs => ({ s with free := s.free + 8 }).moveImage c true ((s.ctxAt c).image s.free)
    | _ => s

def loadregs (c : Nat) : Chip → Chip :=
  Chip.command c idleOrBound fun s =>
    ((s.ctxOk c).updCtx c (fun x => { x with busy := some .loadregs })).moveImage c false []

def saveregs (c : Nat) : Chip → Chip :=
  Chip.command c idleOrBound fun s =>
    ({ (s.ctxOk c).updCtx c (fun x => { x with busy := some .saveregs }) with free := s.free + 8 }).moveImage c true
      ((s.ctxAt c).image s.free)

/-- A LOADREGS, or SAVEREGS (`save`), of a context of partition `p` ends once its requests have been answered (R72): CMDERR
tells a failure, after which LOADREGS has changed nothing. -/
def regimageComplete (c p : Nat) (save : Bool) (s : Chip) : Chip :=
  let mine := fun (r : PortReq) => r.kind == .image && r.ctx == some c && r.part == some p
  let xs := s.ports.fills.filter (fun x => mine x.r)
  if xs.length < 18 then s
  else
    let t := { s with ports := { s.ports with fills := s.ports.fills.filter (fun x => !mine x.r) } }
    let ok := xs.all (fun x => x.rsp == .ok)
    match (s.ctxAt c).busy with
    | some .loadregs =>
      if save then s else
      let bs := (List.range 18).flatMap (fun k =>
        match xs.find? (fun x => x.r.va == 256 * k) with | some x => toBytes 256 x.data.toNat | none => [])
      if ok ∧ imageOk bs then (t.updCtx c (Ctx.loadImage bs)).busyEnd c else t.cmdFailed c
    | some .saveregs => if !save then s else if ok then t.busyEnd c else t.cmdFailed c
    | _ => t

/-! ### Context table registers (R77–R81) -/

/-- CTX_CFG, CTX_ASID, CTX_PTROOT, CTX_SAVE, CTX_BIND and CTX_IP; the other offsets ignore writes (R76,
R78). A context that is being bound is no longer IDLE for them. -/
def ctxWrite (c r : Nat) (v : Word) (s : Chip) : Chip :=
  let x := s.ctxAt c
  let off := Reg.ctx c r
  let idle : Bool := x.st == .idle && x.slotOf.isNone
  let put := fun (m : Word) (s : Chip) => (s.setReg off (v &&& m)).answer .ok
  if s.build.nctx ≤ c then s.answer .ok
  else match r with
    | 0x00 =>
      let cfg := fun (s : Chip) =>
        if !idle then s.answer .err
        else if log2N s.build.nmov < fldN v 16 4 ∨ s.build.npart ≤ fldN v 0 3 then s.answer .err
        else put (maskBits 16 4 ||| maskBits 8 1 ||| maskBits 4 2 ||| maskBits 0 3) s
      if fldN v 0 3 ≠ s.ctxPart c ∧ ¬ s.allIdle then s.guarded cfg else cfg s
    | 0x08 => if idle then put (maskBits 0 16) s else s.answer .err
    | 0x10 => if idle then put (maskBits 12 36) s else s.answer .err
    | 0x18 => if idle then put (maskBits 12 36 ||| maskBits 0 1) s else s.answer .err
    | 0x20 =>
      if x.st = .idle ∨ x.st = .bound then (s.updCtx c (fun x => { x with ip := fldN v 3 49 * 8, iword := none })).answer .ok
      else s.answer .err
    | 0x28 => if idle then put (maskBits 8 1 ||| maskBits 0 6) s else s.answer .err
    | _ => s.answer .ok

/-! ### Gangs (R20–R23) -/

/-- A gang and one of its ancestors are both set: gang `n`'s ancestors are `n >> k` (R18, R21). -/
def gangClash (b : Build) (v : Word) : Bool :=
  (formedIn b v).any (fun n => (List.range 6).any (fun k => decide (1 ≤ n >>> (k + 1)) && (formedIn b v).contains (n >>> (k + 1))))

/-- A mover's team holds a context (a gang's contexts are held by its leader, R53). -/
def Chip.teamHolds (s : Chip) (m : Nat) : Bool := !(slotCtxs (s.movAt (s.leaderOf m))).isEmpty

/-- GANG_FORM (R21, R573). -/
def gangForm (v : Word) : Chip → Chip :=
  Chip.accept fun s =>
    let v := v &&& (maskBits 1 (s.build.nmov - 1))
    let old := s.reg Reg.gangForm
    let ms := (List.range s.build.nmov).filter (fun m => gangIn s.build v m != gangIn s.build old m)
    let new := (formedIn s.build v).filter (fun n => !(formedIn s.build old).contains n)
    if ms.any s.movCovered then s.answer .err
    else if gangClash s.build v || ms.any s.teamHolds ||
        new.any (fun n => (gangMovers s.build n).any (fun m => s.movPart m != s.movPart (gangBase s.build n) || s.movFailed m)) then
      (s.logCtl Src.gangcfg 1).answer .err
    else (s.setReg Reg.gangForm v).answer .ok

/-! ### Partitions (R25–R28) -/

/-- The 3-bit fields of a PART_MOV or KS_PART word. -/
def partFields (v : Word) : List Nat := (List.range 16).map (fun j => fldN v (4 * j) 3)

/-- The bits of the fields that exist. -/
def partMask (n : Nat) : Word := (List.range n).foldl (fun w j => w ||| maskBits (4 * j) 3) 0

/-- A write under R28: guarded unless every context is IDLE. -/
def Chip.whenMapped (body : Chip → Chip) (s : Chip) : Chip := if s.allIdle then body s else s.guarded body

/-- PART_MOVk (R25, R28): while a context is not IDLE, a mover with a bound context, or in a formed gang, does not move. -/
def partMov (k : Nat) (v : Word) : Chip → Chip :=
  Chip.accept fun s =>
    let n := if k < 4 then min 16 (s.build.nmov - 16 * k) else 0
    if n = 0 then s.answer .ok
    else s.whenMapped fun s =>
      let moved := (List.range n).filter (fun j => fldN v (4 * j) 3 != s.movPart (16 * k + j))
      if (List.range n).any (fun j => decide (s.build.npart ≤ fldN v (4 * j) 3)) then s.answer .err
      else if moved.any (fun j => s.movCovered (16 * k + j) ||
          (!s.allIdle && (s.teamHolds (16 * k + j) || (s.gangOf (16 * k + j)).isSome))) then
        s.answer .err
      else (s.setReg (Reg.partMov k) (v &&& partMask n)).answer .ok

/-- KS_PARTk (R26, R28). -/
def ksPart (k : Nat) (v : Word) : Chip → Chip :=
  Chip.accept fun s =>
    if 4 ≤ k then s.answer .ok
    else s.whenMapped fun s =>
      if (partFields v).any (fun p => decide (s.build.npart ≤ p)) then s.answer .err
      else (s.setReg (Reg.ksPart k) (v &&& partMask 16)).answer .ok

/-! ### Meanings -/

def execBind (c : Nat) (s : State) : Out := s.run (bind c)
def execBindComplete (c : Nat) (s : State) : Out := s.run (bindComplete c)
def execUnbind (c : Nat) (s : State) : Out := s.run (unbind c)
def execUnbindComplete (c : Nat) (s : State) : Out := s.run (unbindComplete c)
def execStart (c : Nat) (s : State) : Out := s.run (start c)
def execStop (c : Nat) (s : State) : Out := s.run (stop c)
def execStopEffect (c : Nat) (s : State) : Out := s.run (stopEffect c)
def execAbort (c : Nat) (s : State) : Out := s.run (abort c)
def execClear (c : Nat) (s : State) : Out := s.run (clear c)
def execLoadregs (c : Nat) (s : State) : Out := s.run (loadregs c)
def execSaveregs (c : Nat) (s : State) : Out := s.run (saveregs c)
def execRegimageComplete (c p : Nat) (save : Bool) (s : State) : Out := s.run (regimageComplete c p save)
def execGangForm (v : Word) (s : State) : Out := s.run (gangForm v)
def execPartMov (k : Nat) (v : Word) (s : State) : Out := s.run (partMov k v)
def execKsPart (k : Nat) (v : Word) (s : State) : Out := s.run (ksPart k v)

end Sys2Proof.Machine
end

