-- ==== Sys2Proof/Machine/Frames.lean ====
section
/-! DEFINITION. Dweath frames, routes, egress, completions of this chip's messages, ports that go down
(13_dweath_link, R402–R418, R423–R430). -/

namespace Sys2Proof.Machine

/-! ### Headers (R403–R406) -/

def hType (h : BitVec 128) : Nat := fldN h 124 4
def hClass (h : BitVec 128) : Nat := fldN h 122 2
def hPart (h : BitVec 128) : Nat := fldN h 118 4
def hDst (h : BitVec 128) : Nat := fldN h 106 12
def hSrc (h : BitVec 128) : Nat := fldN h 94 12
def hSeq (h : BitVec 128) : Nat := fldN h 85 9
def hVl (h : BitVec 128) : Nat := fldN h 84 1
def hMtag (h : BitVec 128) : Nat := fldN h 72 12
def hRoute (h : BitVec 128) : Nat := fldN h 24 48
def hCrc (h : BitVec 128) : Nat := fldN h 0 24
def hOp (h : BitVec 128) : Nat := fldN h 120 4

def at128 (lo v : Nat) : BitVec 128 := BitVec.ofNat 128 (v * 2 ^ lo)

def put128 (lo n v : Nat) (h : BitVec 128) : BitVec 128 :=
  mergeMask (BitVec.ofNat 128 ((2 ^ n - 1) * 2 ^ lo)) h (at128 lo (v % 2 ^ n))

/-- The header of a data frame before its hop fields are set. -/
def mkHdr (ty cls part dst src mtag route : Nat) : BitVec 128 :=
  at128 124 ty ||| at128 122 cls ||| at128 118 part ||| at128 106 dst ||| at128 94 src ||| at128 72 mtag ||| at128 24 route

/-- The CRC-24 of RFC 4880, one bit. -/
def crc24Bit (c : BitVec 24) (b : Bool) : BitVec 24 :=
  if (bitB c 23) != b then (c <<< 1) ^^^ 0x864CFB else c <<< 1

def crc24Byte (c : BitVec 24) (b : Byte) : BitVec 24 :=
  ([7, 6, 5, 4, 3, 2, 1, 0]).foldl (fun c i => crc24Bit c (bitB b i)) c

/-- The hop CRC under an epoch (R405). -/
def hopCrc (epoch : Nat) (h : BitVec 128) (payload : List Byte) : Nat :=
  let init : BitVec 24 := BitVec.ofNat 24 (epoch * 256) ^^^ 0xB704CE
  let bytes := (List.range 13).map (fun i => (fld h (8 * (i + 3)) 8 : Byte)) ++ payload
  (bytes.foldl crc24Byte init).toNat

/-- The frame checks under an epoch. -/
def Frame.checks (f : Frame) (epoch : Nat) : Bool := !f.bad && hCrc f.hdr == hopCrc epoch f.hdr f.payload

def sealFrame (epoch : Nat) (h : BitVec 128) (payload : List Byte) : BitVec 128 := put128 0 24 (hopCrc epoch h payload) h

/-- A payload of 256 bytes, padded with zeros (R402). -/
def padFrame (n : Nat) (l : List Byte) : List Byte := l.take n ++ List.replicate (n - l.length) 0

/-! ### Routes (R403, R407) -/

/-- Segment `k`: its port and count. -/
def segPort (r k : Nat) : Nat := r / 2 ^ (12 * k) / 256 % 16
def segCount (r k : Nat) : Nat := r / 2 ^ (12 * k) % 256

/-- A valid route (R407). -/
def routeValid (nlp r : Nat) : Bool :=
  let seg := fun k => r / 2 ^ (12 * k) % 4096
  let used := (List.range 4).filter (fun k => seg k != 0)
  used == List.range used.length && used.all (fun k => decide (1 ≤ segCount r k)) &&
  decide (1 ≤ (used.map (segCount r)).foldl (· + ·) 0) && decide ((used.map (segCount r)).foldl (· + ·) 0 ≤ 255) &&
  decide (segPort r 0 < nlp)

/-! ### Ports and registers -/

def Chip.portAt (s : Chip) (n : Nat) : LinkPort := Tab.get {} s.link.ports n

def Chip.updPort (n : Nat) (f : LinkPort → LinkPort) (s : Chip) : Chip :=
  { s with link := { s.link with ports := Tab.upd {} n f s.link.ports } }

def Chip.portUp (s : Chip) (n : Nat) : Bool := (s.portAt n).st == .up

def Chip.chipId (s : Chip) : Nat := s.regF Reg.lkCfg 0 12
/-- The completion timeout in TCLK (R425, R434). -/
def Chip.rto (s : Chip) : Nat := s.regF Reg.lkCfg 32 16 * 100

/-- Fields of remote target entry `e` of partition `p` (R436). -/
def Chip.rtEn (s : Chip) (p e : Nat) : Bool := bitB (s.reg (Reg.rt p e 0)) 63
def Chip.rtRoute (s : Chip) (p e : Nat) : Nat := s.regF (Reg.rt p e 8) 0 48
def Chip.rtRroute (s : Chip) (p e : Nat) : Nat := s.regF (Reg.rt p e 0x10) 0 48
def Chip.rtSize (s : Chip) (p e : Nat) : Nat := s.regF (Reg.rt p e 0x18) 0 52
def Chip.rtDst (s : Chip) (p e : Nat) : Nat := s.regF (Reg.rt p e 0) 0 12

/-- Fields of landing window `w` (R437). -/
def Chip.lwEn (s : Chip) (w : Nat) : Bool := bitB (s.reg (Reg.lw w 0)) 63
def Chip.lwDeleg (s : Chip) (w : Nat) : Bool := bitB (s.reg (Reg.lw w 0)) 62
def Chip.lwPart (s : Chip) (w : Nat) : Nat := s.regF (Reg.lw w 0) 59 3
def Chip.lwAsid (s : Chip) (w : Nat) : BitVec 16 := fld (s.reg (Reg.lw w 0)) 0 16
def Chip.lwRoot (s : Chip) (w : Nat) : Nat := s.regF (Reg.lw w 8) 12 36 * 4096
def Chip.lwBase (s : Chip) (w : Nat) : Nat := s.regF (Reg.lw w 0x10) 0 52
def Chip.lwSize (s : Chip) (w : Nat) : Nat := s.regF (Reg.lw w 0x18) 0 52
def Chip.lwKcnt (s : Chip) (w : Nat) : Nat := s.regF (Reg.lw w 0x18) 52 12

/-- LINK reports of a port. -/
def Chip.linkReport (n src : Nat) (s : Chip) : Chip := s.report { src := src, kind := .linkPort, unit := n }

/-- A violation by a peer: counted in MALF and logged (R433). -/
def Chip.malformed (n : Nat) (s : Chip) : Chip := (s.bump (Reg.lk n 0x10) 48 16 1).linkReport n Src.malformed

/-! ### LINKCTL frames (R406) -/

/-- The port sends a LINKCTL frame; the state keeps the last four. -/
def Chip.sendCtl (n epoch : Nat) (h : BitVec 128) (s : Chip) : Chip :=
  let f := sealFrame epoch (h ||| at128 124 15) []
  s.updPort n (fun p => { p with ctl := (f :: p.ctl).take 4, lastSent := s.time })

/-- A CREDIT frame: every frame before the expected one is received; the slots freed go back. -/
def Chip.sendCredit (n : Nat) (s : Chip) : Chip :=
  let p := s.portAt n
  (s.sendCtl n p.epoch (at128 111 p.rxSeq ||| at128 103 (p.freed0 % 256) ||| at128 95 (p.freed1 % 256))).updPort n (fun p =>
    { p with freed0 := 0, freed1 := 0, since := 0 })

def Chip.sendNack (n : Nat) (s : Chip) : Chip :=
  let p := s.portAt n
  (s.sendCtl n p.epoch (at128 120 1 ||| at128 111 p.rxSeq)).updPort n (fun p => { p with nacked := true })

/-! ### Egress (R410, R411) -/

def srcCode : Option Nat → Nat
  | none => 16
  | some p => p

/-- The port's egress slots are not all taken. Completions, grants and GONE frames of the link engine wait
behind a full egress without a slot (log 23). -/
def LinkPort.room (p : LinkPort) : Bool := decide (p.egress.length < 256)

def EgFrame.waits (e : EgFrame) : Bool := e.seq.isNone

/-- The frame sent next: class 0, VL1, then the senders in turn after the last one (R410). -/
def LinkPort.nextFrame (p : LinkPort) : Option EgFrame :=
  let ready := p.egress.filter (fun e => e.waits && decide (0 < (if e.vl = 0 then p.cred0 else p.cred1)))
  let best := let c0 := ready.filter (fun e => e.cls == 0); if c0.isEmpty then ready else c0
  let best := let v1 := best.filter (fun e => e.vl == 1); if v1.isEmpty then best else v1
  match best.find? (fun e => decide (p.lastSrc < srcCode e.src)) with
  | some e =>
    -- the least sender above the last one
    let k := ((best.filter (fun e => decide (p.lastSrc < srcCode e.src))).map (fun e => srcCode e.src)).min?
    best.find? (fun f => some (srcCode f.src) == k) <|> some e
  | none =>
    let k := (best.map (fun e => srcCode e.src)).min?
    best.find? (fun f => some (srcCode f.src) == k)

/-- A message's timeout runs from its last frame sent or its last completion (R425). -/
def Chip.heardFrom (id : Option Nat) (s : Chip) : Chip :=
  { s with link := { s.link with msgs := s.link.msgs.map (fun m => if some m.id == id then { m with heard := s.time } else m) } }

/-- Sends one frame: it takes its sequence number, lane and CRC (R403, R405, R413). -/
def Chip.sendOne (n : Nat) (e : EgFrame) (s : Chip) : Chip :=
  let p := s.portAt n
  let h := put128 84 1 e.vl (put128 85 9 p.txSeq e.f.hdr)
  let f : Frame := { e.f with hdr := sealFrame p.epoch h e.f.payload }
  let e' : EgFrame := { e with f := f, seq := some p.txSeq, at_ := s.time }
  (s.updPort n (fun p =>
    { p with egress := p.egress.replace e e', txSeq := (p.txSeq + 1) % 512, lastSrc := srcCode e.src, lastSent := s.time,
             laneTx0 := if e.vl = 0 then s.time else p.laneTx0, laneTx1 := if e.vl = 0 then p.laneTx1 else s.time,
             cred0 := if e.vl = 0 then p.cred0 - 1 else p.cred0, cred1 := if e.vl = 0 then p.cred1 else p.cred1 - 1 })).bump
    (Reg.lk n 0x18) 0 32 1 |>.heardFrom e.msg

/-- Frames leave while the port is UP and has credits. -/
def Chip.linkSend (n : Nat) : Nat → Chip → Chip
  | 0, s => s
  | k + 1, s =>
    if !s.portUp n then s
    else match (s.portAt n).nextFrame with
      | some e => Chip.linkSend n k (s.sendOne n e)
      | none => s

def Chip.linkFlush (n : Nat) (s : Chip) : Chip := Chip.linkSend n (s.portAt n).egress.length s

/-- A frame is queued at an egress port (R408: it is dropped when the port is not UP). -/
def Chip.queueFrame (n : Nat) (e : EgFrame) (s : Chip) : Chip :=
  if s.portUp n then (s.updPort n (fun p => { p with egress := p.egress ++ [e] })).linkFlush n else s

/-- A frame of the link engine itself along a route: CMPL, CREDIT or GONE. -/
def Chip.engineFrame (ty cls part dst mtag route : Nat) (words : List Nat) (s : Chip) : Chip :=
  let n := segPort route 0
  let vl := if bitB (s.reg (Reg.lk n 0)) 11 then 1 else 0
  let f : Frame := { hdr := mkHdr ty cls part dst s.chipId mtag route, payload := padFrame 256 (words.flatMap (toBytes 8)), bad := false }
  s.queueFrame n { f := f, vl := vl, cls := cls, src := none, msg := none, at_ := s.time }

/-- A CMPL (R423). -/
def Chip.sendCmpl (cls part dst mtag route kind status detail bytes : Nat) (s : Chip) : Chip :=
  s.engineFrame 5 cls part dst mtag route [kind * 2 ^ 12 + status * 2 ^ 16 + detail * 2 ^ 24, bytes % 2 ^ 48]

/-! ### Completion of this chip's messages (R202, R423, R424, R430) -/

/-- Detached work of a context ends (R140). -/
def Chip.undetach (c id : Nat) (s : Chip) : Chip :=
  s.updCtx c (fun x => { x with detached := x.detached.filter (fun d => d.1 != id) })

/-- The signals that acknowledged bytes of a SEND make due: whole courses (R156, R172). -/
def Chip.courseSignals (m : Msg) (s : Chip) : Chip :=
  let n := m.acked / 65536 - m.sig
  let s := { s with link := { s.link with msgs := s.link.msgs.map (fun x => if x.id == m.id then { x with sig := m.acked / 65536 } else x) } }
  if m.deleg ∨ n = 0 then s
  else match m.km with
    | 2 => s.signal m.ks (65536 * n)
    | 3 => (List.range n).foldl (fun s _ => s.signal m.ks 1) s
    | _ => s

/-- The signals of a message that completes. -/
def Chip.finalSignal (m : Msg) (ok : Bool) (s : Chip) : Chip :=
  let s := s.courseSignals m
  match m.km with
  | 1 => s.signal m.ks 1
  | 2 => if m.deleg then s.signal m.ks m.acked else if m.acked % 65536 = 0 then s else s.signal m.ks (m.acked % 65536)
  | 3 => if ok ∧ m.acked % 65536 ≠ 0 then s.signal m.ks 1 else s
  | _ => s

/-- A completion record (R424). -/
def Chip.complRecord (m : Msg) (status detail : Nat) (s : Chip) : Chip :=
  let w := m.ctx + m.part * 2 ^ 8 + (if m.deleg then 2 ^ 11 else 0) + m.entry * 2 ^ 12 + status * 2 ^ 18 + detail * 2 ^ 26 + m.mtag * 2 ^ 28
  let r := m.ring
  s.ringPut (Reg.cr r 0) (Reg.cr r 0x18) (.ring r) (toBytes 8 w ++ toBytes 8 m.ip ++ toBytes 8 (m.acked % 2 ^ 48) ++ toBytes 8 s.time)
    none (some m.part)

/-- The owner's answer to a request whose guest has finished (R428). -/
def Chip.delegDone (src mtag status bytes : Nat) (s : Chip) : Chip :=
  match s.link.delegs.find? (fun d => d.src == src && d.mtag == mtag && !d.ended) with
  | none => s
  | some d =>
    ({ s with link := { s.link with delegs := s.link.delegs.filter (fun x => !(x.src == src && x.mtag == mtag)) } }).sendCmpl
      d.cls d.tagp d.src d.mtag d.rroute 1 status 0 bytes

/-- A guest has done its work and is free again (R75, log 24). -/
def Chip.guestFree (c : Nat) (s : Chip) : Chip :=
  if (s.ctxAt c).st = .waiting ∨ (s.ctxAt c).st = .ready then
    ((s.yieldMover c).updCtx c (fun x => { x with exit := 1, xfer := none, iword := none })).setSt c .bound none
  else s

/-- A landing message ends: its final CMPL goes back, and its later frames are dropped (R421, R423). -/
def Chip.endLand (l : Land) (status : Nat) (s : Chip) : Chip :=
  let rest := s.link.lands.map (fun x => if x.src == l.src && x.mtag == l.mtag then { x with status := some status } else x)
  ({ s with link := { s.link with lands := rest } }).sendCmpl l.cls l.tagp l.src l.mtag l.rroute 1 status 0 l.done

/-- A message of this chip completes: its signals, its record, the end of its detached work; a failed DELEG
is withdrawn, its MTAG barred and its result's landing ended (R430).  A message whose context was aborted leaves nothing
behind (R487). -/
def Chip.msgEnd (m : Msg) (status detail : Nat) (s : Chip) : Chip :=
  let s := { s with link := { s.link with msgs := s.link.msgs.filter (fun x => x.id != m.id) } }
  if m.dead then s else
  let s := s.finalSignal m (status == 0)
  let s := if m.crec then s.complRecord m status detail else s
  let s := if status = 0 then s else s.bump (Reg.lk (segPort m.route 0) 0x20) 0 32 1
  let s := s.undetach m.ctx m.id
  let s := match m.res with
    | some (src, tag) => (s.guestFree m.ctx).delegDone src tag status m.acked
    | none => s
  if m.deleg ∧ (status = 1 ∨ status = 2 ∨ status = 3) then
    let s := { s with link := { s.link with mbars := (m.mtag, s.time + 4 * s.rto) :: s.link.mbars } }
    let s := (s.link.lands.filter (fun (l : Land) => l.dres && l.dmtag == m.mtag && l.status.isNone)).foldl (fun s l => s.endLand l 2) s
    s.engineFrame 7 m.cls m.part m.dst m.mtag m.route []
  else s

/-- Messages of the list complete with LINK_LOST. -/
def Chip.loseMsgs (ids : List Nat) (detail : Nat) (s : Chip) : Chip :=
  ids.foldl (fun s id => match s.link.msgs.find? (fun m => m.id == id) with | some m => s.msgEnd m 1 detail | none => s) s

/-! ### Frames discarded (R408, R412, R416) -/

/-- An entry of a partition that leads to a chip: what the frames of a message of that chip name (log 25). -/
def Chip.entryTo (s : Chip) (part chip : Nat) : Option Nat :=
  (List.range 64).find? (fun e => s.rtEn part e && s.rtDst part e == chip)

/-- The return path of a message of another chip: of its landing state, of its request, or of an entry. -/
def Chip.returnRoute (s : Chip) (h : BitVec 128) : Option Nat :=
  match s.link.lands.find? (fun l => l.src == hSrc h && l.mtag == hMtag h) with
  | some l => some l.rroute
  | none => match s.link.delegs.find? (fun d => d.src == hSrc h && d.mtag == hMtag h) with
    | some d => some d.rroute
    | none => (s.entryTo (hPart h % 8) (hSrc h)).map (s.rtRoute (hPart h % 8))

/-- The frame belongs to a message of another chip. -/
def foreign (id : Nat) (h : BitVec 128) : Bool := hSrc h != id && decide (1 ≤ hType h) && decide (hType h ≤ 4)

/-- Landing messages of the source chip's tag fail with LINK_LOST: no later byte of them lands, and the bursts on their way
are still counted when they are written (R422). -/
def Chip.loseLand (src tag : Nat) (s : Chip) : Chip :=
  { s with link := { s.link with lands := s.link.lands.map (fun l =>
      if l.src == src && l.mtag == tag && l.status.isNone then { l with status := some 1 } else l) } }

/-- The bytes that a landing in progress has written without a gap (R423). -/
def Chip.landDone (src tag : Nat) (s : Chip) : Nat :=
  match s.link.lands.find? (fun l => l.src == src && l.mtag == tag && l.status.isNone) with | some l => l.done | none => 0

/-- The consequences of discarding frames: local messages complete with LINK_LOST, detail 0; each message of
another chip is answered once with LINK_LOST, detail 1, and its landing fails. -/
def Chip.discarded (locals : List Nat) (hs : List (BitVec 128)) (s : Chip) : Chip :=
  let s := s.loseMsgs locals.eraseDups 0
  let ms := ((hs.filter (foreign s.chipId)).map (fun h => (hSrc h, hMtag h, hPart h, hClass h))).eraseDups
  ms.foldl (fun s (src, tag, part, cls) =>
    match s.returnRoute (mkHdr 2 cls part 0 src tag 0) with
    | some r => (s.loseLand src tag).sendCmpl cls part src tag r 1 1 1 (s.landDone src tag)
    | none => s.loseLand src tag) s

/-- The local messages that a frame belongs to. -/
def Chip.localsOf (s : Chip) (h : BitVec 128) : List Nat :=
  if hSrc h = s.chipId ∧ 1 ≤ hType h ∧ hType h ≤ 4 then (s.link.msgs.filter (fun m => m.mtag == hMtag h)).map (·.id) else []

/-- A port that was not UP or became so leaves: FLAPOFF at the eighth down within 1 s (R417). -/
def Chip.countDown (n : Nat) (s : Chip) : Chip :=
  let ds := s.time :: ((s.portAt n).downs.filter (fun t => decide (s.time < t + 100000000)))
  if 8 ≤ ds.length then
    (((s.updPort n (fun p => { p with downs := ds, st := .flapoff })).setF (Reg.lk n 0) 0 1 0).raise (608 + n) false).linkReport n Src.flapoff
  else s.updPort n (fun p => { p with downs := ds })

/-- A port leaves UP (R416). -/
def Chip.portDown (n : Nat) (s : Chip) : Chip :=
  let p := s.portAt n
  if p.st ≠ .up then s
  else
    let locals := p.egress.filterMap (·.msg) ++ p.ingress.flatMap (fun i => s.localsOf i.f.hdr) ++ (s.link.msgs.filter (fun m => segPort m.route 0 == n)).map (·.id)
    let hs := p.egress.map (fun e => e.f.hdr) ++ p.ingress.map (fun i => i.f.hdr)
    let s := s.updPort n (fun p => { p with st := .waitPcs, egress := [], ingress := [], nacked := false, sent1 := none,
                                            got1 := none, freed0 := 0, freed1 := 0, since := 0, retries := 0 })
    let s := s.discarded locals hs
    ((s.raise (608 + n) false).linkReport n Src.linkdown).countDown n

end Sys2Proof.Machine
end

