-- ==== Sys2Proof/Machine/Codec.lean ====
section
/-! DEFINITION. The delta codec: packed blocks, their modes and payloads (09_delta_compression, R290–R300,
R304), and the CRC-64 of digests (R197). -/

namespace Sys2Proof.Machine

/-! ### Lengths (R292, R294) -/

def rawUnits (r : Nat) : Nat := ceilDiv r 16
def limUnits (r : Nat) : Nat := 7 * rawUnits r / 8
def xnibUnits (r : Nat) : Nat := ceilDiv (ceilDiv r 2) 16
def sparseUnits (p : Nat) : Nat := ceilDiv (2 + 3 * p) 16

/-- An index entry (R293). -/
def entryLen (e : Word) : Nat := fldN e 52 9
def entryMode (e : Word) : Nat := fldN e 48 4
def entryOffset (e : Word) : Nat := fldN e 0 48
def mkEntry (mode len off : Nat) : Word := at64 52 len ||| at64 48 mode ||| at64 0 off

/-! ### Coding (R299, R300) -/

/-- Maximal runs of zero and of non-zero bytes. -/
def groupRuns : List Byte → List (Bool × List Byte)
  | [] => []
  | b :: r =>
    match groupRuns r with
    | (z, l) :: t => if z = (b == 0) then (z, b :: l) :: t else (b == 0, [b]) :: (z, l) :: t
    | [] => [(b == 0, [b])]

/-- Which runs are coded as zero runs: long ones, the first and the last (R300). -/
def markRuns (first : Bool) : List (Bool × List Byte) → List (Bool × List Byte)
  | [] => []
  | (z, l) :: r => (z && (first || r.isEmpty || decide (3 ≤ l.length)), l) :: markRuns false r

/-- Literal stretches that touch become one. -/
def joinLits : List (Bool × List Byte) → List (Bool × List Byte)
  | [] => []
  | (z, l) :: r =>
    match joinLits r with
    | (false, m) :: t => if z then (true, l) :: (false, m) :: t else (false, l ++ m) :: t
    | t => (z, l) :: t

def zeroTokens (n : Nat) : List Byte :=
  List.replicate (n / 128) 0x7F ++ (if n % 128 = 0 then [] else [BitVec.ofNat 8 (n % 128 - 1)])

/-- Literals of 128 bytes in order, the last one shorter; the first argument bounds their number. -/
def litTokens : Nat → List Byte → List Byte
  | 0, _ => []
  | _, [] => []
  | n + 1, l =>
    let h := l.take 128
    BitVec.ofNat 8 (127 + h.length) :: h ++ litTokens n (l.drop 128)

/-- The canonical ZRUN coding of an XOR stream (R300). -/
def zrunBytes (x : List Byte) : List Byte :=
  (joinLits (markRuns true (groupRuns x))).flatMap (fun (z, l) => if z then zeroTokens l.length else litTokens (l.length) l)

def nibPairs : List Byte → List Byte
  | [] => []
  | [a] => [a &&& 15]
  | a :: b :: r => BitVec.ofNat 8 (a.toNat % 16 + 16 * (b.toNat % 16)) :: nibPairs r

def sparsePairs (x : List Byte) : List (Nat × Byte) :=
  (List.range x.length).filterMap (fun i => let b := x.getD i 0; if b = 0 then none else some (i, b))

def sparseBytes (x : List Byte) : List Byte :=
  let ps := sparsePairs x
  toBytes 2 ps.length ++ ps.flatMap (fun (i, b) => toBytes 2 i ++ [b])

def padTo (n : Nat) (l : List Byte) : List Byte := l ++ List.replicate (n - l.length) 0

/-- R299: mode, length and payload of a block with its XOR stream. -/
def encodeBlock (variant x : List Byte) : Nat × Nat × List Byte :=
  let r := x.length
  if x.all (· == 0) then (0, 0, [])
  else
    let p := (sparsePairs x).length
    let z := zrunBytes x
    let cands : List (Nat × Nat × List Byte) :=
      (if x.all (fun b => decide (b.toNat < 16)) then [(2, xnibUnits r, nibPairs x)] else []) ++
      (if p ≤ 256 then [(3, sparseUnits p, sparseBytes x)] else []) ++ [(4, ceilDiv z.length 16, z)]
    let best := cands.foldl (fun (b : Nat × Nat × List Byte) c => if c.2.1 < b.2.1 then c else b)
      (cands.headD (4, ceilDiv z.length 16, z))
    if limUnits r < best.2.1 then (1, rawUnits r, padTo (16 * rawUnits r) variant)
    else (best.1, best.2.1, padTo (16 * best.2.1) best.2.2)

/-! ### Decoding (R294–R298, R304) -/

/-- A ZRUN payload: the XOR bytes and how many payload bytes they took. -/
def zrunDecode : Nat → List Byte → Nat → Option (List Byte × Nat)
  | _, _, 0 => some ([], 0)
  | 0, _, _ => none
  | _, [], _ => none
  | f + 1, t :: rest, r =>
    let n := t.toNat % 128 + 1
    if r < n then none
    else if t.toNat < 128 then
      (zrunDecode f rest (r - n)).map (fun (l, c) => (List.replicate n 0 ++ l, c + 1))
    else if rest.length < n then none
    else (zrunDecode f (rest.drop n) (r - n)).map (fun (l, c) => (rest.take n ++ l, c + 1 + n))

/-- The pairs of an XSPARSE payload, ascending and below `r`. -/
def sparseDecode (r : Nat) : Nat → Option Nat → List Byte → Option (List (Nat × Byte))
  | 0, _, _ => some []
  | p + 1, last, b0 :: b1 :: b2 :: rest =>
    let o := b0.toNat + 256 * (b1.toNat % 16)
    if decide (16 ≤ b1.toNat) || decide (r ≤ o) || (match last with | some l => decide (o ≤ l) | none => false) then none
    else (sparseDecode r p (some o) rest).map ((o, b2) :: ·)
  | _ + 1, _, _ => none

def nibUnpairs (r : Nat) (p : List Byte) : List Byte :=
  (List.range r).map (fun i => BitVec.ofNat 8 ((p.getD (i / 2) 0).toNat / 16 ^ (i % 2) % 16))

/-- The conditions of R304 on an entry before its payload is read. -/
def entryBad (e : Word) (r : Nat) : Bool :=
  fldN e 61 3 != 0 || decide (5 ≤ entryMode e) ||
  (match entryMode e with
   | 0 => entryLen e != 0
   | 1 => entryLen e != rawUnits r || entryOffset e % 8 != 0
   | 2 => entryLen e != xnibUnits r || decide (limUnits r < entryLen e) || entryOffset e % 8 != 0
   | _ => entryLen e == 0 || decide (limUnits r < entryLen e) || entryOffset e % 8 != 0)

/-- The XOR stream of a payload (of RAW: the variant bytes); none is DELTA. -/
def decodePayload (mode len r : Nat) (p : List Byte) : Option (List Byte) :=
  match mode with
  | 0 => some (List.replicate r 0)
  | 1 => some (p.take r)
  | 2 => some (nibUnpairs r p)
  | 3 =>
    let n := ofBytes (p.take 2)
    if sparseUnits n != len then none
    else (sparseDecode r n none (p.drop 2)).map (fun ps =>
      (List.range r).map (fun i => match ps.find? (fun q => q.1 == i) with | some q => q.2 | none => 0))
  | _ =>
    match zrunDecode p.length p r with
    | some (l, c) => if ceilDiv c 16 = len then some l else none
    | none => none

/-! ### Digests (R197) -/

/-- One bit of the CRC-64, most significant bit first. -/
def crcBit (c : Word) (b : Bool) : Word :=
  if (bitB c 63) != b then (c <<< 1) ^^^ 0x42F0E1EBA9EA3693 else c <<< 1

def crcByte (c : Word) (b : Byte) : Word :=
  ([7, 6, 5, 4, 3, 2, 1, 0]).foldl (fun c i => crcBit c (bitB b i)) c

def crcBytes (c : Word) (l : List Byte) : Word := l.foldl crcByte c

end Sys2Proof.Machine
end

