-- ==== Sys2Proof/Machine/Numbers.lean ====
section
/-! DEFINITION. Element formats, exact values, rounding, casting and quantisation (07_number_formats_and_casting,
R231–R252; R90). -/

namespace Sys2Proof.Machine

/-! ### Formats (R90, R231) -/

/-- Element bits of a format code; 0 for a reserved code. -/
def fmtBits (f : Nat) : Nat :=
  match f with
  | 0x01 | 0x02 | 0x23 | 0x31 => 4
  | 0x03 | 0x04 | 0x10 | 0x11 | 0x20 | 0x21 | 0x24 | 0x30 | 0x3F => 8
  | 0x05 | 0x06 | 0x12 | 0x13 => 16
  | 0x07 | 0x08 | 0x14 => 32
  | 0x09 => 64
  | _ => 0

def fmtNibble (f : Nat) : Bool := fmtBits f == 4
def fmtInt (f : Nat) : Bool := decide (1 ≤ f) && decide (f ≤ 9)
def fmtFloat (f : Nat) : Bool := decide (0x10 ≤ f) && decide (f ≤ 0x14)
def fmtMX (f : Nat) : Bool := f == 0x20 || f == 0x21 || f == 0x23 || f == 0x24
def fmtRQ (f : Nat) : Bool := f == 0x30 || f == 0x31
def fmtBYTES (f : Nat) : Bool := f == 0x3F
/-- Signed integer formats: the even codes and I64. -/
def fmtSigned (f : Nat) : Bool := f % 2 == 0 || f == 9
/-- Base alignment in bytes. -/
def fmtAlign (f : Nat) : Nat :=
  if fmtRQ f then 8 else if fmtBits f ≤ 8 then 1 else fmtBits f / 8

/-- Ends of an integer format's range. -/
def fmtMin (f : Nat) : Int := if fmtSigned f then -(2 ^ (fmtBits f - 1) : Nat) else 0
def fmtMax (f : Nat) : Int := (if fmtSigned f then (2 ^ (fmtBits f - 1) : Nat) else (2 ^ fmtBits f : Nat)) - 1

/-! ### Values (R238) -/

/-- The exact value of an element: `fin neg n e` is ±n·2^e with `n ≠ 0`. -/
inductive Val where
  | nan
  | inf (neg : Bool)
  | zero (neg : Bool)
  | fin (neg : Bool) (n : Nat) (e : Int)
  deriving DecidableEq, Repr

def Val.mk (neg : Bool) (n : Nat) (e : Int) : Val := if n = 0 then .zero neg else .fin neg n e
def Val.ofInt (i : Int) : Val := Val.mk (decide (i < 0)) i.natAbs 0

/-- The larger of an integer and 0, as a number. -/
def up (i : Int) : Nat := i.toNat

/-- Nearest integer to n/d, ties to even. -/
def rneQ (n d : Nat) : Nat :=
  let q := n / d
  let r := 2 * (n % d)
  if r < d then q else if d < r then q + 1 else q + q % 2

/-- Nearest integer to n·2^e. -/
def rneNat (n : Nat) (e : Int) : Nat := rneQ (n * 2 ^ up e) (2 ^ up (-e))

/-- ⌊log₂ (n/d)⌋ for n, d ≥ 1. -/
def flog2 (n d : Nat) : Int :=
  let k : Int := (Nat.log2 n : Int) - (Nat.log2 d : Int)
  if d * 2 ^ up k ≤ n * 2 ^ up (-k) then k else k - 1

/-- (n/d)·2^e rounded to a significand of `m + 1` bits whose exponent is not below `emin`: the significand
and its unit (R240). -/
def fpRound (m : Nat) (emin : Int) (n d : Nat) (e : Int) : Nat × Int :=
  let ex := max (flog2 n d + e) emin
  let qe := ex - m
  (rneQ (n * 2 ^ up (e - qe)) (d * 2 ^ up (qe - e)), qe)

/-! ### Floating-point formats (R232) -/

/-- Exponent bits, mantissa bits, bias, largest finite code, infinity, canonical NaN. -/
structure FSpec where
  e    : Nat
  m    : Nat
  bias : Nat
  max  : Nat
  inf  : Option Nat
  nan  : Nat
  deriving DecidableEq, Repr

def fsE4M3 : FSpec := { e := 4, m := 3, bias := 7, max := 0x7E, inf := none, nan := 0x7F }
def fsE5M2 : FSpec := { e := 5, m := 2, bias := 15, max := 0x7B, inf := some 0x7C, nan := 0x7E }
def fsFP16 : FSpec := { e := 5, m := 10, bias := 15, max := 0x7BFF, inf := some 0x7C00, nan := 0x7E00 }
def fsBF16 : FSpec := { e := 8, m := 7, bias := 127, max := 0x7F7F, inf := some 0x7F80, nan := 0x7FC0 }
def fsFP32 : FSpec := { e := 8, m := 23, bias := 127, max := 0x7F7FFFFF, inf := some 0x7F800000, nan := 0x7FC00000 }
/-- E2M1 of MXFP4 (R234): it has neither infinity nor NaN. -/
def fsE2M1 : FSpec := { e := 2, m := 1, bias := 1, max := 7, inf := none, nan := 0 }

def fsOf (f : Nat) : FSpec :=
  match f with
  | 0x10 | 0x20 => fsE4M3
  | 0x11 | 0x21 => fsE5M2
  | 0x12 => fsFP16
  | 0x13 => fsBF16
  | 0x23 => fsE2M1
  | _ => fsFP32

def decodeFloat (s : FSpec) (code : Nat) : Val :=
  let neg := decide (code / 2 ^ (s.e + s.m) % 2 = 1)
  let mag := code % 2 ^ (s.e + s.m)
  if s.inf = some mag then .inf neg
  else if s.max < mag then .nan
  else
    let ex := mag / 2 ^ s.m
    let man := mag % 2 ^ s.m
    if ex = 0 then Val.mk neg man (1 - (s.bias : Int) - s.m)
    else .fin neg (2 ^ s.m + man) ((ex : Int) - s.bias - s.m)

def signBit (s : FSpec) (neg : Bool) : Nat := if neg then 2 ^ (s.e + s.m) else 0

/-- The magnitude code of a rounded (n/d)·2^e, which may lie above the largest finite one. -/
def magCode (s : FSpec) (n d : Nat) (e : Int) : Nat :=
  let (q, qe) := fpRound s.m (1 - (s.bias : Int)) n d e
  up (qe + s.m + s.bias - 1) * 2 ^ s.m + q

/-- R240: the code and whether the element counts as saturated. -/
def encodeFloat (s : FSpec) : Val → Nat × Bool
  | .nan => (s.nan, false)
  | .inf neg => (match s.inf with | some c => (signBit s neg + c, false) | none => (signBit s neg + s.max, true))
  | .zero neg => (signBit s neg, false)
  | .fin neg n e =>
    let c := magCode s n 1 e
    if s.max < c then (signBit s neg + s.max, true) else (signBit s neg + c, false)

/-! ### FP32 arithmetic -/

/-- An FP32 value from a sign and a magnitude code, IEEE style: overflow is infinity. -/
def fp32Of (neg : Bool) (c : Nat) : Val :=
  if fsFP32.max < c then .inf neg else decodeFloat fsFP32 (signBit fsFP32 neg + c)

/-- RNE32 (R237): rounds to FP32; overflow gives infinity. -/
def rne32 : Val → Val
  | .fin neg n e => fp32Of neg (magCode fsFP32 n 1 e)
  | v => v

/-- RNE32 of ±(n/d)·2^e. -/
def rneDiv32 (neg : Bool) (n d : Nat) (e : Int) : Val := fp32Of neg (magCode fsFP32 n d e)

def fp32 (code : Nat) : Val := decodeFloat fsFP32 (code % 2 ^ 32)
def toFp32 (v : Val) : Nat := (encodeFloat fsFP32 (rne32 v)).1

def Val.neg : Val → Bool
  | .nan => false | .inf s => s | .zero s => s | .fin s _ _ => s

/-- The exact product. -/
def Val.mul (a b : Val) : Val :=
  match a, b with
  | .nan, _ => .nan
  | _, .nan => .nan
  | .inf _, .zero _ => .nan
  | .zero _, .inf _ => .nan
  | .fin s n e, .fin t m f => .fin (s != t) (n * m) (e + f)
  | .inf s, y => .inf (s != y.neg)
  | x, .inf t => .inf (x.neg != t)
  | x, y => .zero (x.neg != y.neg)

def signedN (neg : Bool) (n : Nat) : Int := if neg then -(n : Int) else n

/-- The exact sum; a sum of zero is +0 unless both terms are −0. -/
def Val.add (a b : Val) : Val :=
  match a, b with
  | .nan, _ => .nan
  | _, .nan => .nan
  | .inf s, .inf t => if s = t then .inf s else .nan
  | .inf s, _ => .inf s
  | _, .inf t => .inf t
  | .zero s, .zero t => .zero (s && t)
  | .zero _, y => y
  | x, .zero _ => x
  | .fin s n e, .fin t m f =>
    let lo := min e f
    let v := signedN s (n * 2 ^ up (e - lo)) + signedN t (m * 2 ^ up (f - lo))
    if v = 0 then .zero false else .fin (decide (v < 0)) v.natAbs lo

/-- `a > b` for values that are not NaN; +0 is above −0. -/
def Val.gt (a b : Val) : Bool :=
  match a, b with
  | .zero s, .zero t => !s && t
  | .inf s, .inf t => !s && t
  | .inf s, _ => !s
  | _, .inf t => t
  | a, b =>
    match Val.add a (match b with | .fin t m f => .fin (!t) m f | y => y) with
    | .fin s _ _ => !s
    | _ => false

def Val.isNan : Val → Bool
  | .nan => true | _ => false

/-- v × 2^k. -/
def Val.shift (v : Val) (k : Int) : Val :=
  match v with | .fin s n e => .fin s n (e + k) | v => v

/-! ### Integer codes (R231, R241) -/

/-- The value of an integer code. -/
def intOf (f code : Nat) : Int :=
  if fmtSigned f then sextN (fmtBits f) code else (code % 2 ^ fmtBits f : Nat)

/-- The code of an integer in range. -/
def intCode (f : Nat) (i : Int) : Nat := (i % (2 ^ fmtBits f : Nat)).toNat

/-- The code an element is given, and whether it counts as saturated or as NaN (R256). -/
structure Enc where
  code : Nat
  sat  : Bool := false
  nan  : Bool := false
  deriving DecidableEq, Repr

def clampTo (lo hi i : Int) : Int × Bool := if i < lo then (lo, true) else if hi < i then (hi, true) else (i, false)

/-- RNE to an integer, clamped to a range: NaN is 0 (R241). -/
def rneClamp (lo hi : Int) : Val → Int × Bool × Bool
  | .nan => (0, false, true)
  | .inf s => (if s then lo else hi, true, false)
  | .zero _ => (0, false, false)
  | .fin s n e =>
    let (i, sat) := clampTo lo hi (signedN s (rneNat n e))
    (i, sat, false)

def encodeInt (f : Nat) (v : Val) : Enc :=
  let (i, sat, nan) := rneClamp (fmtMin f) (fmtMax f) v
  { code := intCode f i, sat := sat, nan := nan }

/-! ### Affine (R248, R249) -/

/-- An FP32 SCALE and an INT32 ZP as TDW3 holds them (R98). -/
structure Aff where
  scale : Nat
  zp    : Int
  deriving DecidableEq, Repr

def decodeAffine (a : Aff) (i : Int) : Val := rne32 (Val.mul (fp32 a.scale) (rne32 (Val.ofInt (i - a.zp))))

/-- Steps 1 and 2 of R249: `t`. -/
def affineT (a : Aff) (v : Val) : Val :=
  let v := match v with
    | .fin _ _ _ => decodeFloat fsFP32 (encodeFloat fsFP32 v).1
    | v => v
  match v, fp32 a.scale with
  | .nan, _ => .nan
  | .inf s, y => .inf (s != y.neg)
  | .zero s, y => .zero (s != y.neg)
  | .fin s n e, .fin t m f => rneDiv32 (s != t) n m (e - f)
  | .fin s _ _, y => .inf (s != y.neg)

def encodeAffine (f : Nat) (a : Aff) (v : Val) : Enc :=
  match affineT a v with
  | .nan =>
    let (i, sat) := clampTo (fmtMin f) (fmtMax f) a.zp
    { code := intCode f i, sat := sat, nan := true }
  | .inf s => { code := intCode f (if s then fmtMin f else fmtMax f), sat := true }
  | t =>
    let r : Int := match t with | .fin s n e => signedN s (rneNat n e) | _ => 0
    let (i, sat) := clampTo (fmtMin f) (fmtMax f) (r + a.zp)
    { code := intCode f i, sat := sat }

/-- The affine addend of ADD_INT (R277): RNE of `t`, clamped, without ZP. -/
def affineAddend (f : Nat) (a : Aff) (v : Val) : Enc := encodeInt f (affineT a v)

/-! ### Requantisation (R250, R251) -/

/-- A channel-table entry (R116). -/
structure Chan where
  m  : Int
  s  : Nat
  zp : Int
  deriving DecidableEq, Repr

/-- The 64-bit accumulator value of a source that is no plain integer. -/
def accOf (v : Val) : Int × Bool × Bool := rneClamp (-(2 ^ 63 : Nat)) ((2 ^ 63 : Nat) - 1) (v.shift 32)

def requant (f : Nat) (c : Chan) (acc : Int × Bool × Bool) : Enc :=
  let p := acc.1 * c.m + (if c.s = 0 then 0 else (2 ^ (c.s - 1) : Nat))
  let (i, sat) := clampTo (fmtMin f) (fmtMax f) (Int.fdiv p (2 ^ c.s : Nat) + c.zp)
  { code := intCode f i, sat := acc.2.1 || sat, nan := acc.2.2 }

/-! ### MX (R234, R235, R242) -/

def decodeMXelem (f code : Nat) : Val :=
  if f = 0x24 then (Val.ofInt (sextN 8 code)).shift (-6) else decodeFloat (fsOf f) code

def decodeMX (f code scale : Nat) : Val :=
  if scale % 256 = 255 then .nan else (decodeMXelem f code).shift ((scale % 256 : Nat) - 127)

def mxEmax (f : Nat) : Int := if f = 0x20 then 8 else if f = 0x21 then 15 else if f = 0x23 then 2 else 0

/-- ⌊log₂ |v|⌋ of the finite non-zero values of a block. -/
def blockLog : List Val → Option Int
  | [] => none
  | v :: r =>
    match v, blockLog r with
    | .fin _ n e, none => some (flog2 n 1 + e)
    | .fin _ n e, some k => some (max (flog2 n 1 + e) k)
    | _, k => k

/-- The scale code and the element codes of the values `vs` of a block (R242). `ref` are all the values that the
instruction writes into the block in the pass, from which the scale is taken (R243). -/
def encodeMXBy (f : Nat) (ref vs : List Val) : Nat × List Enc :=
  if ref.any Val.isNan && (f == 0x23 || f == 0x24) then (255, vs.map (fun _ => { code := 0 }))
  else
    let ex : Int := match blockLog ref with | none => -127 | some k => max (-127) (min 127 (k - mxEmax f))
    (up (ex + 127), vs.map (fun v =>
      let u := v.shift (-ex)
      if f = 0x24 then
        let (i, sat, nan) := rneClamp (-128) 127 (u.shift 6)
        { code := intCode 4 i, sat := sat, nan := nan }
      else
        let (c, sat) := encodeFloat (fsOf f) u
        { code := c, sat := sat }))

/-- A block by its own values. -/
def encodeMX (f : Nat) (vs : List Val) : Nat × List Enc := encodeMXBy f vs vs

/-! ### RQ (R236, R237) -/

def decodeRQ (scale : Nat) (zp : Int) (code : Nat) : Val := rne32 (Val.mul (fp32 scale) (Val.ofInt (code - zp)))

/-! ### Plain values and codes -/

/-- The value of a code of an integer or floating-point format. -/
def decodePlain (f code : Nat) : Val :=
  if fmtInt f then Val.ofInt (intOf f code) else decodeFloat (fsOf f) code

/-- A code of an integer or floating-point format without QMODE. -/
def encodePlain (f : Nat) (v : Val) : Enc :=
  if fmtInt f then encodeInt f v
  else { code := (encodeFloat (fsOf f) v).1, sat := (encodeFloat (fsOf f) v).2 }

end Sys2Proof.Machine
end

