-- ==== Sys2Proof/Machine/Descr.lean ====
section
/-! DEFINITION. Tensor descriptors: fields, validation, addresses, spans (03_tensor_descriptors, R88–R124). -/

namespace Sys2Proof.Machine

/-- The 32 words of a descriptor (R88). -/
structure Desc where
  words : List Word
  deriving DecidableEq, Repr

namespace Dsc
variable (d : Desc)

def w (n : Nat) : Word := d.words.getD n 0
def base : Nat := fldN (w d 0) 0 52
def rank : Nat := fldN (w d 0) 52 4
def fmt : Nat := fldN (w d 0) 56 8
def noff : Bool := bitB (w d 1) 32
def rowhdr : Nat := fldN (w d 1) 30 2
def sums : Bool := bitB (w d 1) 29
def trg : Bool := bitB (w d 1) 28
def qmode : Nat := fldN (w d 1) 26 2
def skip : Bool := bitB (w d 1) 25
def permen : Bool := bitB (w d 1) 24
/-- PERM field `k`. -/
def permF (k : Nat) : Nat := fldN (w d 1) (3 * k) 3
/-- The logical dimension allocation dimension `k` holds (R93). -/
def p (k : Nat) : Nat := if permen d then permF d k else k
def grout : Word := w d 2
def aff : Aff := { scale := fldN (w d 3) 0 32, zp := sextN 32 (fldN (w d 3) 32 32) }
def ext (k : Nat) : Nat := fldN (w d (4 + k)) 0 32
def str (k : Nat) : Int := sextN 32 (fldN (w d (4 + k)) 32 32)
def org (k : Nat) : Int := sextN 32 (fldN (w d (12 + k)) 0 32)
def lim (k : Nat) : Nat := fldN (w d (12 + k)) 32 32
def blptr : Nat := fldN (w d 20) 0 52
def blcnt : Nat := fldN (w d 21) 0 32
def blist : Bool := blcnt d != 0
/-- Window word `k` (R114). -/
def wen (k : Nat) : Bool := bitB (w d (22 + k)) 51
def wdim (k : Nat) : Nat := fldN (w d (22 + k)) 48 3
def dil (k : Nat) : Nat := fldN (w d (22 + k)) 32 16
def wstr (k : Nat) : Nat := fldN (w d (22 + k)) 16 16
def kern (k : Nat) : Nat := fldN (w d (22 + k)) 0 16
/-- Rubble words (R115). -/
def blbase : Nat := fldN (w d 22) 0 52
def wbase : Nat := fldN (w d 23) 0 52
def nbags : Nat := fldN (w d 24) 0 32
/-- QCHAN and MXSCALE (R116). -/
def qperch : Bool := bitB (w d 26) 55
def qdim : Nat := fldN (w d 26) 52 3
def qtab : Nat := fldN (w d 26) 0 52
def sbase : Nat := fldN (w d 27) 0 52

def dims : List Nat := List.range (min (rank d) 8)
/-- Element bytes of a format of at least 8 bits. -/
def eb : Nat := fmtBits (fmt d) / 8
def nib : Bool := fmtNibble (fmt d)
def mx : Bool := fmtMX (fmt d)
def rq : Bool := fmtRQ (fmt d)
def hdr : Nat := if rowhdr d = 1 then 8 else 0
/-- The number of enabled window words. -/
def nwin : Nat := ((List.range 3).filter (wen d)).length

/-- The logical extent of dimension `l` (R93). -/
def lext (l : Nat) : Nat :=
  match (dims d).find? (fun k => p d k == l) with | some k => ext d k | none => 0

/-- The elements of the descriptor. -/
def count : Nat := (dims d).foldl (fun n k => n * ext d k) 1
def empty : Bool := (dims d).any (fun k => ext d k == 0)

/-! ### Indices and addresses (R93, R99–R101) -/

/-- Allocation indices `i` of element number `n` of the walk, dimension 0 fastest (R117). -/
def unrank (n : Nat) : List Nat :=
  ((dims d).foldl (fun (acc : List Nat × Nat) k => (acc.1 ++ [acc.2 % ext d k], acc.2 / ext d k)) ([], n)).1

/-- The walk number of allocation indices. -/
def rankOf (i : List Nat) : Nat :=
  ((dims d).foldr (fun k n => n * ext d k + i.getD k 0) 0)

/-- Logical indices of allocation indices `i`. -/
def logical (i : List Nat) : List Nat :=
  (dims d).map (fun l => match (dims d).find? (fun k => p d k == l) with | some k => i.getD k 0 | none => 0)

/-- Allocation indices of logical indices `x`. -/
def alloc (x : List Nat) : List Nat := (dims d).map (fun k => x.getD (p d k) 0)

/-- a = ORG + i. -/
def aOf (i : List Nat) : List Int := (dims d).map (fun k => org d k + (i.getD k 0 : Nat))

def validA (a : List Int) : Bool :=
  (dims d).all (fun k => decide (0 ≤ a.getD k 0) && decide (a.getD k 0 < (lim d k : Nat)))

def sumFrom (lo : Nat) (a : List Int) : Int :=
  ((dims d).filter (fun k => decide (lo ≤ k))).foldl (fun t k => t + a.getD k 0 * str d k) 0

/-- The address of an element in half-bytes (R100). -/
def nibAddr (a : List Int) : Int :=
  if nib d then
    if rowhdr d = 0 then 2 * (base d : Int) + (if noff d then 1 else 0) + sumFrom d 0 a
    else 2 * ((base d + hdr d : Nat) : Int) + 2 * Int.fdiv (sumFrom d 1 a) 2 + a.getD 0 0
  else 2 * (((base d + hdr d : Nat) : Int) + (eb d : Int) * sumFrom d 0 a)

/-- The byte of the row header of an element's row (R100). -/
def hdrAddr (a : List Int) : Int := Int.fdiv (nibAddr d (a.set 0 0)) 2 - 8

/-- The byte of the E8M0 scale of an element's block (R101). -/
def scaleAddr (a : List Int) : Int :=
  (sbase d : Int) + Int.fdiv (a.getD 0 0) 32 + Int.fdiv (sumFrom d 1 a) 32

/-! ### Spans (R107, R108) -/

def lo (k : Nat) : Int := max (org d k) 0
def hi (k : Nat) : Int := min (org d k + (ext d k : Nat)) (lim d k : Nat) - 1

/-- The element span, and the scale span of an MX format; none of a block list or of an empty range. -/
def spans : List (Int × Int) :=
  if blist d || (dims d).any (fun k => decide (hi d k < lo d k)) then []
  else
    let first := (dims d).map (fun k => if 0 ≤ str d k then lo d k else hi d k)
    let last := (dims d).map (fun k => if 0 ≤ str d k then hi d k else lo d k)
    let f := Int.fdiv (nibAddr d first) 2
    let l := if nib d then Int.fdiv (nibAddr d last) 2 else Int.fdiv (nibAddr d last) 2 + (eb d : Int) - 1
    let (f, l) := if rowhdr d = 1 then (min f (hdrAddr d first), max l (hdrAddr d last + 7)) else (f, l)
    (f, l) :: (if mx d then [(scaleAddr d first, scaleAddr d last)] else [])

def spanBad : Bool := (spans d).any (fun s => decide (s.1 < 0) || decide ((2 ^ 52 : Int) ≤ s.2))

end Dsc

/-- Two lists of spans share a byte. -/
def spansMeet (a b : List (Int × Int)) : Bool :=
  a.any (fun s => b.any (fun t => decide (s.1 ≤ t.2) && decide (t.1 ≤ s.2)))

/-! ### Validation (R124) -/

/-- What an instruction reads of a descriptor. -/
structure Role where
  dst   : Bool := false
  win   : Bool := false
  bags  : Bool := false
  wsum  : Bool := false
  deriving DecidableEq, Repr

open Dsc in
/-- RSVD (R124). The reserved bits of TDW20 count as those of a parameter word, read where BLCNT ≠ 0 (R110, log 101). -/
def chkRsvd (r : Role) (d : Desc) : Bool :=
  fldN (w d 1) 33 31 != 0 || fldN (w d 21) 32 32 != 0 || w d 25 != 0 || w d 28 != 0 || w d 29 != 0 ||
  w d 30 != 0 || w d 31 != 0 || decide (2 ≤ rowhdr d) || qmode d == 3 ||
  (blist d && fldN (w d 20) 52 12 != 0) ||
  (r.win && (List.range 3).any (fun k => fldN (w d (22 + k)) 52 12 != 0)) ||
  (r.bags && (fldN (w d 22) 52 12 != 0 || fldN (w d 24) 32 32 != 0)) ||
  (r.wsum && fldN (w d 23) 52 12 != 0) ||
  (r.dst && qmode d == 2 && fldN (w d 26) 56 8 != 0) ||
  (mx d && fldN (w d 27) 52 12 != 0)

open Dsc in
def chkPerm (d : Desc) : Bool :=
  let used := (dims d).map (permF d)
  if permen d then
    !((dims d).all (fun k => used.contains k)) ||
      ((List.range 8).any (fun k => decide (rank d ≤ k) && permF d k != 0))
  else fldN (w d 1) 0 24 != 0

open Dsc in
def chkAlign (r : Role) (d : Desc) : Bool :=
  base d % fmtAlign (fmt d) != 0 ||
  (rowhdr d == 1 && !blist d && (dims d).any (fun k => decide (1 ≤ k) &&
    (if nib d then str d k % 16 != 0 else (str d k * (eb d : Int)) % 8 != 0))) ||
  (blist d && blptr d % 32 != 0) || (r.dst && qmode d == 2 && qtab d % 16 != 0) ||
  (r.bags && blbase d % 4 != 0) || (r.wsum && wbase d % 4 != 0)

open Dsc in
def chkRowhdr (d : Desc) : Bool :=
  (noff d && !nib d) ||
  (!blist d && ((rq d && rowhdr d == 0) || (rowhdr d == 1 && (str d 0 != 1 || noff d || mx d))))

open Dsc in
def chkMxlayout (d : Desc) : Bool :=
  mx d && !blist d && (str d 0 != 1 || (dims d).any (fun k => decide (1 ≤ k) && str d k % 32 != 0))

open Dsc in
def chkQmode (r : Role) (d : Desc) : Bool :=
  (qmode d != 0 && !fmtInt (fmt d)) || (qmode d == 2 && !r.dst) ||
  (qmode d == 1 && (match fp32 (aff d).scale with | .fin _ _ _ => false | _ => true)) ||
  (r.dst && qmode d == 2 && qperch d && decide (rank d ≤ qdim d))

open Dsc in
def chkBlklist (d : Desc) : Bool := blist d && (permen d || rowhdr d == 1 || mx d || rq d)

open Dsc in
def chkStride (r : Role) (d : Desc) : Bool := r.dst && !blist d && (dims d).any (fun k => str d k == 0)

open Dsc in
def chkWin (r : Role) (d : Desc) : Bool :=
  let en := (List.range 3).filter (wen d)
  r.win && (en.isEmpty || en != List.range en.length || decide ((en.map (wdim d)).eraseDups.length ≠ en.length) ||
    en.any (fun k => decide (rank d ≤ wdim d k) || kern d k == 0 || wstr d k == 0 || dil d k == 0 ||
      (decide (2 ≤ en.length) && decide (32 < kern d k))))

/-- The first failing check of a descriptor (R124); `shape`: the pair it closes agrees. -/
def checkDesc (r : Role) (shape : Bool) (d : Desc) : Option Nat :=
  if Dsc.rank d = 0 ∨ 8 < Dsc.rank d then some 0x87
  else if fmtBits (Dsc.fmt d) = 0 then some 0x88
  else if chkRsvd r d then some 0x89
  else if chkPerm d then some 0x8A
  else if chkAlign r d then some 0x86
  else if chkRowhdr d then some 0x8B
  else if chkMxlayout d then some 0x8C
  else if chkQmode r d then some 0x8D
  else if chkBlklist d then some 0x8E
  else if chkStride r d then some 0x8F
  else if chkWin r d then some 0x90
  else if !shape then some 0x91
  else if Dsc.spanBad d then some 0x92
  else none

/-- Equal rank and equal logical extents but in dimension `skip` (R103, R188). -/
def sameShape (a b : Desc) (skip : Option Nat) : Bool :=
  Dsc.rank a == Dsc.rank b &&
    (Dsc.dims a).all (fun l => some l == skip || Dsc.lext a l == Dsc.lext b l)

end Sys2Proof.Machine
end

