-- ==== Sys2Proof/Machine/Elem.lean ====
section
/-! DEFINITION. Operand reads and elements: block lists, source codes, destination codes (R97–R112, R233–R252). -/

namespace Sys2Proof.Machine

/-! ### Reading operands

A walk works on the operand bytes that have landed.  `Rd.need` names the bytes it still lacks; `need []`
waits for a table row. -/

structure Need where
  va   : Nat
  n    : Nat
  kind : NeedKind
  deriving DecidableEq, Repr

inductive Rd (α : Type) where
  | ok (a : α)
  | need (l : List Need)
  /-- a fault the walk meets (R112, R190, R304) -/
  | fault (src : Nat)
  deriving DecidableEq, Repr

def Rd.bind {α β : Type} (r : Rd α) (f : α → Rd β) : Rd β :=
  match r with | .ok a => f a | .need l => .need l | .fault c => .fault c

def Rd.map {α β : Type} (f : α → β) (r : Rd α) : Rd β := r.bind (fun a => .ok (f a))

/-- All of a list, their needs together. -/
def Rd.all {α : Type} : List (Rd α) → Rd (List α)
  | [] => .ok []
  | r :: l =>
    match r, Rd.all l with
    | .ok a, .ok as => .ok (a :: as)
    | .need n, .need m => .need (n ++ m)
    | .need n, _ => .need n
    | .fault c, _ => .fault c
    | _, .need m => .need m
    | _, .fault c => .fault c

/-- What a unit of a walk has before it: its number, the staging lines, the table rows in flight; in a guest, the lists
that the request brought. -/
structure Env where
  lines   : List SLine
  unit    : Nat := 0
  rows    : List RowSt := []
  shipped : Option Shipped := none
  /-- the torn-row guard is passed -/
  open_   : Bool := false
  deriving DecidableEq, Repr

/-- A line serves reads of its own kind; one of PREFETCH.stg serves source reads of any (R199). -/
def SLine.serves (k : NeedKind) (l : SLine) : Bool :=
  l.kind == k || (l.kind == .stg && (k == .data || k == .side || k == .idx || k == .aux))

/-- The line is there for a unit. -/
def SLine.sees (u : Nat) (l : SLine) : Bool := l.keep || (decide (l.from_ ≤ u) && decide (u ≤ l.to_))

def granuleVa (va : Nat) : Nat := va / 256 * 256

/-- A virtual address; 52 bits (R89). Those of a list (log 19) and of a rubble row that R108's span does not hold (log 100)
are taken modulo 2⁵². -/
def vaOf (i : Int) : Nat := (i % (2 ^ 52 : Nat)).toNat

def Env.byte (e : Env) (k : NeedKind) (va : Nat) : Option Byte :=
  (e.lines.find? (fun l => l.key == granuleVa va && l.serves k && l.sees e.unit && bitB l.got (va % 256))).map
    (fun l => fld l.data (8 * (va % 256)) 8)

def Env.read (e : Env) (k : NeedKind) (va n : Nat) : Rd (List Byte) :=
  match (List.range n).mapM (fun i => e.byte k (va + i)) with
  | some l => .ok l
  | none => .need [{ va := va, n := n, kind := k }]

def Env.readN (e : Env) (k : NeedKind) (va n : Nat) : Rd Nat := (e.read k va n).map ofBytes

/-! ### Block lists (R110–R112) -/

/-- The four words of an ashlar. -/
structure Ashlar where
  w0 : Nat
  w1 : Nat
  w2 : Nat
  w3 : Nat
  deriving DecidableEq, Repr

def Ashlar.rank (b : Ashlar) : Nat := b.w0 / 2 ^ 52 % 4
def Ashlar.ext (b : Ashlar) (k : Nat) : Nat :=
  if b.rank ≤ k then 1
  else match k with | 0 => b.w1 % 2 ^ 32 | 1 => b.w1 / 2 ^ 32 | _ => b.w2 % 2 ^ 32
def Ashlar.str (b : Ashlar) (k : Nat) : Int :=
  if b.rank ≤ k then 0 else match k with | 0 => 1 | 1 => sextN 32 b.w3 | _ => sextN 32 (b.w3 / 2 ^ 32)
def Ashlar.count (b : Ashlar) : Nat := b.ext 0 * b.ext 1 * b.ext 2

/-- The entry conditions of R112. -/
def Ashlar.bad (b : Ashlar) (d : Desc) (dst : Bool) : Bool :=
  b.w0 / 2 ^ 54 != 0 || b.w2 / 2 ^ 32 != 0 || b.rank == 0 || (b.w0 % 2 ^ 52) % fmtAlign (Dsc.fmt d) != 0 ||
  ([1, 2]).any (fun k => decide (k < b.rank) && ((dst && b.str k == 0) || (Dsc.nib d && b.str k % 2 != 0)))

/-- Entries are read 8 at a time (R112). -/
def Env.ashlar (e : Env) (d : Desc) (k : Nat) : Rd Ashlar :=
  let eight := k / 8 * 8
  (e.read .list (vaOf (Dsc.blptr d + 32 * eight : Nat)) (32 * min 8 (Dsc.blcnt d - eight))).map (fun bs =>
    let bs := bs.drop (32 * (k % 8))
    { w0 := ofBytes (bs.take 8), w1 := ofBytes ((bs.drop 8).take 8), w2 := ofBytes ((bs.drop 16).take 8),
      w3 := ofBytes ((bs.drop 24).take 8) })

/-- The half-byte address of the element at position `n` of the entries from `k` on, of which `rem` are
left; BLKENT where the list ends first (R112). -/
def Env.locate (e : Env) (d : Desc) (dst : Bool) : Nat → Nat → Nat → Rd Int
  | 0, _, _ => .fault 0x9D
  | rem + 1, k, n =>
    (e.ashlar d k).bind (fun b =>
      if b.bad d dst then .fault 0x9D
      else if n < b.count then
        let i0 := n % b.ext 0
        let i1 := n / b.ext 0 % b.ext 1
        let i2 := n / b.ext 0 / b.ext 1
        let o : Int := (i0 : Int) + i1 * b.str 1 + i2 * b.str 2
        .ok (2 * ((b.w0 % 2 ^ 52 : Nat) : Int) + (if Dsc.nib d then o else 2 * (Dsc.eb d : Int) * o))
      else e.locate d dst rem (k + 1) (n - b.count))

/-- At the end of the walk no entry may remain (R112); empty entries are skipped. -/
def Env.listEnds (e : Env) (d : Desc) (dst : Bool) : Nat → Nat → Nat → Rd Unit
  | 0, _, n => if n = 0 then .ok () else .fault 0x9D
  | rem + 1, k, n =>
    (e.ashlar d k).bind (fun b =>
      if b.bad d dst then .fault 0x9D
      else if n < b.count then .fault 0x9D
      else e.listEnds d dst rem (k + 1) (n - b.count))

/-! ### Source elements (R97, R100, R101, R105) -/

/-- A source element: its code and, by format, its E8M0 scale or its row's scale and zero point. -/
structure SrcEl where
  oob   : Bool
  code  : Nat
  scale : Nat := 0
  zp    : Int := 0
  /-- the address of the row header, when it was read -/
  hdr   : Option Nat := none
  deriving DecidableEq, Repr

/-- What GROUT stands for (R97). -/
def groutEl (d : Desc) : SrcEl :=
  let g := Dsc.grout d
  { oob := true, code := g.toNat % 2 ^ fmtBits (Dsc.fmt d),
    scale := if Dsc.mx d then fldN g 8 8 else fldN g 32 32, zp := sextN 16 (fldN g 16 16) }

/-- What reads the scale or the header of an element whose code a read of kind `k` brings. -/
def NeedKind.sideOf (k : NeedKind) : NeedKind := match k with | .data => .side | k => k

/-- The code at a half-byte address. -/
def Env.codeAt (e : Env) (k : NeedKind) (d : Desc) (h : Int) : Rd Nat :=
  if Dsc.nib d then (e.readN k (vaOf (h / 2)) 1).map (fun b => b / 16 ^ (h % 2).toNat % 16)
  else e.readN k (vaOf (h / 2)) (Dsc.eb d)

/-- The element of allocation indices `a`, number `n` of its walk. -/
def Env.srcEl (e : Env) (k : NeedKind) (d : Desc) (a : List Int) (n : Nat) : Rd SrcEl :=
  if Dsc.blist d then
    (e.locate d false (Dsc.blcnt d) 0 n).bind (fun h => (e.codeAt k d h).map (fun c => { oob := false, code := c }))
  else if !Dsc.validA d a then .ok (groutEl d)
  else
    let code := e.codeAt k d (Dsc.nibAddr d a)
    if Dsc.mx d then
      match Rd.all [code, e.readN k.sideOf (vaOf (Dsc.scaleAddr d a)) 1] with
      | .ok [c, s] => .ok { oob := false, code := c, scale := s }
      | .ok _ => .need []
      | .need l => .need l
      | .fault f => .fault f
    else if Dsc.rq d then
      let h := vaOf (Dsc.hdrAddr d a)
      match Rd.all [code, e.readN k.sideOf h 8] with
      | .ok [c, v] => .ok { oob := false, code := c, scale := v % 2 ^ 32, zp := sextN 16 (v / 2 ^ 32), hdr := some h }
      | .ok _ => .need []
      | .need l => .need l
      | .fault f => .fault f
    else code.map (fun c => { oob := false, code := c })

/-- Decode (R238). -/
def decodeEl (d : Desc) (s : SrcEl) : Val :=
  let f := Dsc.fmt d
  if Dsc.mx d then decodeMX f s.code s.scale
  else if Dsc.rq d then decodeRQ s.scale s.zp s.code
  else if fmtInt f && Dsc.qmode d == 1 then decodeAffine (Dsc.aff d) (intOf f s.code)
  else decodePlain f s.code

/-- The integer a source code is, where REQUANT takes it as it stands (R250). -/
def plainInt (d : Desc) (s : SrcEl) : Option Int :=
  if fmtInt (Dsc.fmt d) && Dsc.qmode d == 0 then some (intOf (Dsc.fmt d) s.code) else none

/-! ### Destination codes (R238–R252) -/

/-- The channel-table entry of logical indices `x` (R252). -/
def Env.chan (e : Env) (d : Desc) (x : List Nat) : Rd Chan :=
  let i := if Dsc.qperch d then x.getD (Dsc.qdim d) 0 else 0
  (e.read .chan (vaOf (Dsc.qtab d + 16 * i : Nat)) 16).map (fun bs =>
    { m := sextN 32 (ofBytes (bs.take 4)), s := ofBytes ((bs.drop 4).take 1) % 64, zp := sextN 32 (ofBytes ((bs.drop 8).take 4)) })

/-- Encodes a value for a destination that is neither MX, RQ nor BYTES. -/
def Env.encodeEl (e : Env) (d : Desc) (x : List Nat) (v : Val) (i : Option Int) : Rd Enc :=
  let f := Dsc.fmt d
  if fmtInt f && Dsc.qmode d == 2 then
    (e.chan d x).map (fun c => requant f c (match i with | some i => (i, false, false) | none => accOf v))
  else if fmtInt f && Dsc.qmode d == 1 then .ok (encodeAffine f (Dsc.aff d) v)
  else .ok (encodePlain f v)

/-- A write of a code: half-byte address, bits, whether it is a side output (R173); its place in the destination content
where that is not the order of the writes (R301), in half-bytes. -/
structure Wr where
  at_  : Nat
  bits : Nat
  code : Nat
  side : Bool := false
  pos  : Option Nat := none
  deriving DecidableEq, Repr

/-- The write of bytes. -/
def Wr.ofBytes (va : Nat) (bs : List Byte) (side : Bool) : List Wr :=
  (List.range bs.length).map (fun i => { at_ := 2 * (va + i), bits := 8, code := (bs.getD i 0).toNat, side := side })

/-- The half-byte address of a source element, none out of bounds. -/
def Env.srcAddr (e : Env) (d : Desc) (a : List Int) (n : Nat) : Rd (Option Nat) :=
  if Dsc.blist d then (e.locate d false (Dsc.blcnt d) 0 n).map (fun h => some (2 * vaOf (h / 2) + (h % 2).toNat))
  else if Dsc.validA d a then
    let h := Dsc.nibAddr d a
    .ok (some (2 * vaOf (h / 2) + (h % 2).toNat))
  else .ok none

/-- The half-byte address of a destination element, none out of bounds. -/
def Env.dstAddr (e : Env) (d : Desc) (a : List Int) (n : Nat) : Rd (Option Nat) :=
  if Dsc.blist d then (e.locate d true (Dsc.blcnt d) 0 n).map (fun h => some (2 * vaOf (h / 2) + (h % 2).toNat))
  else if Dsc.validA d a then
    let h := Dsc.nibAddr d a
    .ok (some (2 * vaOf (h / 2) + (h % 2).toNat))
  else .ok none

end Sys2Proof.Machine
end

