-- ==== Sys2Proof/Machine/Eval.lean ====
section
/-! DEFINITION. What each unit of a transfer's walk computes (05_instruction_set_transfers, 06_layout_engine,
08_embedding_pooling, 09_delta_compression).

A walk is cut into units in the order in which the instruction issues its writes: an element, the elements
of one MX block, one RQ row, a bag, a table row, a 4 KiB block.  A unit's outcome is a function of the
operand bytes that have landed.  `Machine/Plan.lean` says in which order they are read. -/

namespace Sys2Proof.Machine

/-! ### Digests (R197, R466) -/

def DigSt.close (d : DigSt) : DigSt :=
  if d.n = 0 then d
  else { crc := 0, n := 0, c := d.c + 1, x := d.x ^^^ crcBytes d.crc (toBytes 8 d.c) }

def DigSt.push (d : DigSt) (b : Byte) : DigSt :=
  let d := { d with crc := crcByte d.crc b, n := d.n + 1 }
  if d.n = 4096 then d.close else d

def DigSt.feed (d : DigSt) (l : List Byte) : DigSt := l.foldl DigSt.push d

def DigSt.value (d : DigSt) : Word := d.close.x

/-- Adds the codes of writes to an output digest: half-bytes pair up in issue order (log 20). -/
def ODig.write (o : ODig) (w : Wr) : ODig :=
  if w.side then { o with sides := o.sides ++ toBytes (ceilDiv w.bits 8) w.code }
  else if w.bits = 4 then
    match o.nib with
    | none => { o with nib := some (w.code % 16) }
    | some l => { o with nib := none, dig := o.dig.push (BitVec.ofNat 8 (l + 16 * (w.code % 16))) }
  else { o with dig := o.dig.feed (toBytes (w.bits / 8) w.code) }

def ODig.value (o : ODig) : Word :=
  ((match o.nib with | some l => o.dig.push (BitVec.ofNat 8 l) | none => o.dig).feed o.sides).value

/-! ### The instruction -/

/-- A transfer as its walk sees it. `pass`: 2 is the fill pass of MSET, 3 its data pass, 1 any other. -/
structure XI where
  op   : Nat
  a    : Desc
  b    : Desc
  c    : Desc
  md   : Nat
  w    : Nat
  pass : Nat := 1
  sums : Bool := false
  trg  : Bool := false
  down : Bool := false
  /-- a loaded route, applied to every 512 B line: the image that each member of the gang holds (R210) -/
  route : Option (List (List Byte)) := none
  /-- MOVE.ldrt (R182) -/
  ldrt : Bool := false
  deriving DecidableEq, Repr

/-- What one unit does. -/
structure UOut where
  writes  : List Wr := []
  /-- half-bytes of destination written, or all of them so far (PACK) -/
  halves  : Nat := 0
  total   : Option Nat := none
  dropped : Nat := 0
  filled  : Nat := 0
  sat     : Nat := 0
  nan     : Nat := 0
  bags    : Nat := 0
  empty   : Nat := 0
  blocks  : Nat := 0
  coded   : Nat := 0
  raw     : Nat := 0
  acc     : WAcc
  /-- combine elements of a table row: half-byte address and operand -/
  ops     : List (Nat × SegOp) := []
  /-- a row update: header address, its bytes 0 to 5 and the codes -/
  upd     : Option (Nat × List Wr) := none
  /-- a granule to prefetch or invalidate -/
  gran    : Option Nat := none
  /-- a route image to load (R182) -/
  image   : Option (List Byte) := none
  /-- lines that the Quadrille withheld (R211) -/
  qsum    : Nat := 0
  deriving DecidableEq, Repr

/-- Verbatim codes (R233, R239). -/
def XI.noCast (xi : XI) : Bool :=
  Dsc.fmt xi.a == Dsc.fmt xi.b && Dsc.qmode xi.a == 0 && Dsc.qmode xi.b == 0 && !xi.sums

/-- The logical dimension that rubble indexes (R106, R188). -/
def rowDim (t : Desc) : Nat := Dsc.p t (Dsc.rank t - 1)

/-- A read of a list wants, with its element of `n` bytes, the elements that follow it in the same window of at most 2 KiB,
`left` in all (R118, R259). -/
def Rd.stream (w n left : Nat) {α : Type} : Rd α → Rd α
  | .need l => .need (l.map (fun q =>
      if q.kind = .list then q
      else { q with n := min (n * left) (max q.n (512 * min w 4 - q.va % (512 * min w 4))) }))
  | r => r

def XI.rubble (xi : XI) (e : Env) (r : Nat) : Rd Int :=
  match e.shipped with
  | some h => .ok (h.rubble.getD r 0)
  | none =>
    let d := (e.srcEl .rub xi.c [Dsc.org xi.c 0 + (r : Nat)] r).map (fun s => intOf (Dsc.fmt xi.c) s.code)
    if Dsc.blist xi.c || Dsc.str xi.c 0 != 1 then d else d.stream xi.w (Dsc.eb xi.c) (Dsc.ext xi.c 0 - r)

/-- Bag length `b` and weight `r` (R115, R260). -/
def XI.bagLen (xi : XI) (e : Env) (b : Nat) : Rd Nat :=
  match e.shipped with
  | some h => .ok (h.lens.getD b 0)
  | none => (e.readN .len (vaOf (Dsc.blbase xi.c + 4 * b : Nat)) 4).stream xi.w 4 (Dsc.nbags xi.c - b)

def XI.weight (xi : XI) (e : Env) (r : Nat) : Rd Nat :=
  match e.shipped with
  | some h => .ok (h.wts.getD r 0)
  | none => (e.readN .wt (vaOf (Dsc.wbase xi.c + 4 * r : Nat)) 4).stream xi.w 4 (Dsc.ext xi.c 0 - r)

/-- A rubble value names a row inside the table (R106). -/
def rowIn (t : Desc) (v : Int) : Bool :=
  Dsc.blist t || (decide (0 ≤ Dsc.org t (Dsc.rank t - 1) + v) &&
    decide (Dsc.org t (Dsc.rank t - 1) + v < (Dsc.lim t (Dsc.rank t - 1) : Nat)))

/-- Allocation indices and walk number of a table element whose row is named by `v`. A table with a block list has no
entry for a negative `v`: BLKENT (log 100). -/
def rowIndex (t : Desc) (x : List Nat) (v : Int) : Rd (List Int × Nat) :=
  let i := Dsc.alloc t x
  let k := Dsc.rank t - 1
  if Dsc.blist t && decide (v < 0) then .fault 0x9D
  else .ok ((Dsc.aOf t i).set k (Dsc.org t k + v), Dsc.rankOf t (i.set k v.toNat))

/-- The window word of a logical dimension of the source (R114). -/
def winOf (a : Desc) (l : Nat) : Option Nat := (List.range 3).find? (fun k => Dsc.wen a k && Dsc.wdim a k == l)

/-- The source indices of a WINDOW element (R187). -/
def windowIndex (a : Desc) (x : List Nat) : List Nat :=
  (Dsc.dims a).map (fun k =>
    let l := Dsc.p a k
    match winOf a l with
    | some d => x.getD l 0 * Dsc.wstr a d + x.getD (Dsc.rank a + d) 0 * Dsc.dil a d
    | none => x.getD l 0)

/-- The table row of a rubble position has been read for the unit, and the torn-row guard has accepted it (R285). -/
def Env.rowDone (e : Env) (r : Nat) : Bool :=
  e.open_ || e.rows.any (fun q => q.pos == r && q.phase == .done && decide (q.lo ≤ e.unit) && decide (e.unit ≤ q.hi))

/-- Source allocation indices and walk number for the destination element of logical indices `x`, with the kind of its
reads. A row of a GATHER that is still being read is waited for. A WINDOW index beyond EXT has the element number that the
extents give it (log 103). -/
def XI.source (xi : XI) (e : Env) (x : List Nat) : Rd (NeedKind × List Int × Nat) :=
  if xi.op = 0x43 then
    let i := windowIndex xi.a x
    .ok (.data, Dsc.aOf xi.a i, Dsc.rankOf xi.a i)
  else if xi.op = 0x44 then
    let r := x.getD (rowDim xi.a) 0
    (xi.rubble e r).bind (fun v =>
      if rowIn xi.a v && !e.rowDone r then .need [] else (rowIndex xi.a x v).map (fun q => (.row r, q)))
  else
    let i := Dsc.alloc xi.a x
    .ok (.data, Dsc.aOf xi.a i, Dsc.rankOf xi.a i)

/-! ### Pairs of elements (R97, R105, R223) -/

/-- A destination element and its source: `dst` is none where nothing is written. -/
structure Pair where
  kind : NeedKind
  el   : SrcEl
  dst  : Option Nat
  x    : List Nat
  drop : Bool
  fill : Bool
  deriving DecidableEq, Repr

def XI.pair (xi : XI) (e : Env) (n : Nat) : Rd Pair :=
  let i := Dsc.unrank xi.b n
  let x := Dsc.logical xi.b i
  (xi.source e x).bind (fun (kind, a, pos) =>
    (e.dstAddr xi.b (Dsc.aOf xi.b i) n).bind (fun dst =>
      let oob := !Dsc.blist xi.a && !Dsc.validA xi.a a
      let want := match xi.pass with
        | 2 => oob && !Dsc.skip xi.b
        | 3 => !oob
        | _ => !oob || !Dsc.skip xi.b
      let el := if (xi.pass = 2 ∧ ¬ oob) then .ok { oob := false, code := 0 } else e.srcEl kind xi.a a pos
      el.map (fun el =>
        { kind := kind, el := el, dst := if want then dst else none, x := x, drop := want && dst.isNone,
          fill := oob && xi.pass != 3 })))

def countP {α : Type} (f : α → Bool) (l : List α) : Nat := (l.filter f).length

/-- The code of a pair for a destination that is neither MX nor RQ. -/
def XI.code (xi : XI) (e : Env) (p : Pair) : Rd Enc :=
  if xi.noCast then .ok { code := p.el.code }
  else e.encodeEl xi.b p.x (decodeEl xi.a p.el) (plainInt xi.a p.el)

/-- Side sums of a code (R253, R254): row sums first, then column sums. -/
def addSums (b : Desc) (x : List Nat) (code : Nat) (t : Tab Nat) : Tab Nat :=
  let v := (intOf (Dsc.fmt b) code % (2 ^ 32 : Nat)).toNat
  let add := fun (k : Nat) (t : Tab Nat) => Tab.upd 0 k (fun n => (n + v) % 2 ^ 32) t
  add (Dsc.lext b 1 + x.getD 0 0) (add (x.getD 1 0) t)

/-- A unit of one element. -/
def XI.plainUnit (xi : XI) (e : Env) (acc : WAcc) (n : Nat) : Rd UOut :=
  (xi.pair e n).bind (fun p =>
    let base : UOut := { acc := acc, dropped := if p.drop then 1 else 0, filled := if p.fill then 1 else 0 }
    match p.dst with
    | none => .ok base
    | some h => (xi.code e p).map (fun c =>
        let bits := fmtBits (Dsc.fmt xi.b)
        { base with writes := [{ at_ := h, bits := bits, code := c.code }], halves := bits / 4,
                    sat := if c.sat then 1 else 0, nan := if c.nan then 1 else 0,
                    acc := if xi.sums then { acc with sums := addSums xi.b p.x c.code acc.sums } else acc }))

/-- R218's conditions on order, strides and bounds, over the dimensions below `n`. -/
def copyOrder (a b : Desc) (n : Nat) : Bool :=
  Dsc.rank a == Dsc.rank b && !Dsc.blist a && !Dsc.blist b &&
  ((Dsc.dims a).filter (fun k => decide (k < n))).all (fun k =>
    Dsc.p a k == Dsc.p b k && Dsc.str a k == Dsc.str b k && decide (0 < Dsc.str a k) &&
    (k == 0 || decide (1 + ((List.range k).foldl (fun t j => t + Dsc.str a j * ((Dsc.ext a j : Nat) - 1)) (0 : Int)) ≤ Dsc.str a k)) &&
    decide (0 ≤ Dsc.org a k) && decide (Dsc.org a k + (Dsc.ext a k : Nat) ≤ (Dsc.lim a k : Nat)) &&
    decide (0 ≤ Dsc.org b k) && decide (Dsc.org b k + (Dsc.ext b k : Nat) ≤ (Dsc.lim b k : Nat)))

/-- A verbatim MX copy (R246). -/
def XI.mxVerb (xi : XI) : Bool :=
  let n := if xi.op = 0x44 then Dsc.rank xi.a - 1 else Dsc.rank xi.a
  (xi.op == 0x40 || xi.op == 0x44) && Dsc.fmt xi.a == Dsc.fmt xi.b && decide (1 ≤ n) && copyOrder xi.a xi.b n &&
    Dsc.org xi.a 0 % 32 == Dsc.org xi.b 0 % 32

/-- The first block of a row of an MX destination, and the blocks of a row. -/
def mxFirst (b : Desc) : Int := Int.fdiv (Dsc.org b 0) 32
def mxBlocks (b : Desc) : Nat := (Int.fdiv (Dsc.org b 0 + (Dsc.ext b 0 : Nat) - 1) 32 - mxFirst b + 1).toNat

/-- Walk numbers of block `k` of an MX destination. -/
def mxElems (b : Desc) (k : Nat) : List Nat :=
  let nb := mxBlocks b
  let lo := (32 * (mxFirst b + (k % nb : Nat)) - Dsc.org b 0).toNat
  let hi := min (Dsc.ext b 0) (32 * (mxFirst b + (k % nb : Nat) + 1) - Dsc.org b 0).toNat
  ((List.range hi).filter (fun i => decide (lo ≤ i))).map (fun i => k / nb * Dsc.ext b 0 + i)

def Rd.pairs (xi : XI) (e : Env) (ns : List Nat) : Rd (List Pair) := Rd.all (ns.map (xi.pair e))

/-- The scale write of a block whose first written element has allocation indices `a`. -/
def scaleWr (b : Desc) (a : List Int) (scale : Nat) : Wr :=
  { at_ := 2 * vaOf (Dsc.scaleAddr b a), bits := 8, code := scale % 256, side := true }

/-- The values that block `k` receives, with their addresses. -/
def XI.mxVals (xi : XI) (e : Env) (k : Nat) : Rd (List (Nat × Val)) :=
  (Rd.pairs xi e (mxElems xi.b k)).map (fun ps => ps.filterMap (fun p => p.dst.map (fun h => (h, decodeEl xi.a p.el))))

/-- Of writes of the same element the last one counts. -/
def winners : List (Nat × Val) → List Val
  | [] => []
  | (h, v) :: r => if r.any (fun q => q.1 == h) then winners r else v :: winners r

/-- A unit of one MX block (R242–R246): the scale byte follows the elements. `whole`: the values that give the scale, where
other slices of the instruction write the block in the same pass (R243). -/
def XI.mxUnit (xi : XI) (e : Env) (acc : WAcc) (k : Nat) (whole : Option (List Val)) : Rd UOut :=
  let ns := mxElems xi.b k
  (Rd.pairs xi e ns).map (fun ps =>
    let ws := ps.filter (fun p => p.dst.isSome)
    let bits := fmtBits (Dsc.fmt xi.b)
    let verb := xi.mxVerb && whole.isNone && ws.all (fun p => !p.el.oob)
    let vals := ws.map (fun p => decodeEl xi.a p.el)
    let (scale, encs) := if verb then ((ws.head?.map (fun p => p.el.scale)).getD 0, ws.map (fun p => ({ code := p.el.code } : Enc)))
      else encodeMXBy (Dsc.fmt xi.b) (whole.getD vals) vals
    let els := (ws.zip encs).map (fun (p, c) => ({ at_ := p.dst.getD 0, bits := bits, code := c.code } : Wr))
    let a := Dsc.aOf xi.b (Dsc.unrank xi.b (ns.headD 0))
    { acc := acc, writes := els ++ (if ws.isEmpty then [] else [scaleWr xi.b a scale]), halves := ws.length * (bits / 4),
      dropped := countP (·.drop) ps, filled := countP (·.fill) ps, sat := countP (·.sat) encs, nan := 0 })

/-- A unit of one RQ row, copied verbatim with its header (R239); a row filled from GROUT alone takes its
scale and zero point and version 0, as FILL gives them; a row with codes of several source rows, or of part of one, takes
the header of the first element written that has one (log 21). -/
def XI.rqUnit (xi : XI) (e : Env) (acc : WAcc) (k : Nat) : Rd UOut :=
  let ns := (List.range (Dsc.ext xi.b 0)).map (fun i => k * Dsc.ext xi.b 0 + i)
  (Rd.pairs xi e ns).bind (fun ps =>
    let ws := ps.filter (fun p => p.dst.isSome)
    let bits := fmtBits (Dsc.fmt xi.b)
    let els := ws.map (fun p => ({ at_ := p.dst.getD 0, bits := bits, code := p.el.code } : Wr))
    let a := Dsc.aOf xi.b (Dsc.unrank xi.b (ns.headD 0))
    let hdr : Rd (List Byte) := match ws.find? (fun p => p.el.hdr.isSome) with
      | some p => e.read p.kind.sideOf (p.el.hdr.getD 0) 8
      | none => .ok (toBytes 4 (groutEl xi.a).scale ++ toBytes 2 (intCode 6 (groutEl xi.a).zp) ++ [0, 0])
    hdr.map (fun h =>
      { acc := acc, writes := if ws.isEmpty then [] else Wr.ofBytes (vaOf (Dsc.hdrAddr xi.b a)) h false ++ els,
        halves := ws.length * (bits / 4), dropped := countP (·.drop) ps, filled := countP (·.fill) ps }))

/-- The units of a destination walk: elements, MX blocks or RQ rows. -/
def dstUnits (b : Desc) : Nat :=
  if Dsc.empty b then 0
  else if Dsc.mx b then Dsc.count b / Dsc.ext b 0 * mxBlocks b
  else if Dsc.rq b then Dsc.count b / Dsc.ext b 0
  else Dsc.count b

def XI.dstUnit (xi : XI) (e : Env) (acc : WAcc) (k : Nat) : Rd UOut :=
  if Dsc.mx xi.b then xi.mxUnit e acc k none
  else if Dsc.rq xi.b then xi.rqUnit e acc k
  else xi.plainUnit e acc (if xi.down then Dsc.count xi.b - 1 - k else k)

/-- The first element, in walk order, of a unit. -/
def unitElem (b : Desc) (k : Nat) : Nat :=
  if Dsc.mx b then (mxElems b k).headD (Dsc.count b) else if Dsc.rq b then k * Dsc.ext b 0 else k

/-! ### FILL (R97, R186) -/

def XI.fillUnit (xi : XI) (e : Env) (acc : WAcc) (k : Nat) : Rd UOut :=
  let b := xi.b
  let g := groutEl b
  let bits := fmtBits (Dsc.fmt b)
  let ns := if Dsc.mx b then mxElems b k
    else if Dsc.rq b then (List.range (Dsc.ext b 0)).map (fun i => k * Dsc.ext b 0 + i) else [k]
  (Rd.all (ns.map (fun n => e.dstAddr b (Dsc.aOf b (Dsc.unrank b n)) n))).map (fun ds =>
    let hs := ds.filterMap id
    let els := hs.map (fun h => ({ at_ := h, bits := bits, code := g.code } : Wr))
    let a := Dsc.aOf b (Dsc.unrank b (ns.headD 0))
    let side := if hs.isEmpty then []
      else if Dsc.mx b then [scaleWr b a g.scale]
      else if Dsc.rq b then
        Wr.ofBytes (vaOf (Dsc.hdrAddr b a)) (toBytes 4 g.scale ++ toBytes 2 (intCode 6 g.zp) ++ [0, 0]) true
      else []
    { acc := acc, writes := (if Dsc.rq b then side ++ els else els ++ side), halves := hs.length * (bits / 4),
      dropped := ds.length - hs.length })

/-! ### POOL (R190, R260–R263) -/

/-- A table element's contribution (R261). -/
def contribution (t : Desc) (s : SrcEl) (wt : Val) : Val :=
  let f := Dsc.fmt t
  if Dsc.rq t then rne32 ((rne32 (wt.mul (fp32 s.scale))).mul (Val.ofInt (s.code - s.zp)))
  else if fmtInt f && Dsc.qmode t == 1 then
    rne32 ((rne32 (wt.mul (fp32 (Dsc.aff t).scale))).mul (rne32 (Val.ofInt (intOf f s.code - (Dsc.aff t).zp))))
  else rne32 (wt.mul (rne32 (decodeEl t s)))

/-- One step of the reduction (R262). -/
def poolStep (mode : Nat) (acc x : Val) : Val :=
  if mode ≤ 2 then rne32 (acc.add x)
  else if acc.isNan || x.isNan then .nan
  else if mode = 3 then (if x.gt acc then x else acc)
  else (if acc.gt x then x else acc)

/-- RNE32 of an FP32 value divided by a count. -/
def divCount (v : Val) (n : Nat) : Val :=
  match v with | .fin s m e => rneDiv32 s m n e | v => v

/-- The elements of the output row at outermost index `k`, in walk order: walk numbers of TB. -/
def outRow (b : Desc) (l k : Nat) : List Nat :=
  (List.range (Dsc.count b)).filter (fun n => (Dsc.logical b (Dsc.unrank b n)).getD l 0 == k)

/-- Elements of a row of a table. -/
def rowElems (t : Desc) : Nat := ((Dsc.dims t).filter (fun k => decide (k + 1 < Dsc.rank t))).foldl (fun n k => n * Dsc.ext t k) 1

/-- The lanes of a table row, in walk order (R261). -/
def XI.lanes (xi : XI) (e : Env) (k : NeedKind) (v : Int) : Rd (List SrcEl) :=
  Rd.all ((List.range (rowElems xi.a)).map (fun n =>
    (rowIndex xi.a (Dsc.logical xi.a (Dsc.unrank xi.a n)) v).bind (fun (a, pos) => e.srcEl k xi.a a pos)))

/-- The contributions of the row of a rubble element enter an open bag (R262). -/
def Bag.take (g : Bag) (xi : XI) (wt : Nat) (els : List SrcEl) (vers : List Byte) : Bag :=
  let xs := els.map (fun s => contribution xi.a s (if xi.md % 8 = 1 then fp32 wt else Val.ofInt 1))
  { g with done := g.done + 1, oob := g.oob + countP (·.oob) els, vers := g.vers ++ vers,
           acc := if g.done = 0 then xs.map toFp32
                  else (g.acc.zip xs).map (fun (a, x) => toFp32 (poolStep (xi.md % 8) (fp32 a) x)) }

/-- The output row of a bag whose indices have all been accumulated (R262, R263). -/
def XI.poolOut (xi : XI) (e : Env) (acc : WAcc) (g : Bag) : Rd UOut :=
  let ns := outRow xi.b (rowDim xi.a) g.no
  (Rd.all (ns.map (fun m =>
    let i := Dsc.unrank xi.b m
    let x := Dsc.logical xi.b i
    let lane := Dsc.rankOf xi.a (Dsc.alloc xi.a (x.set (rowDim xi.a) 0))
    let v := if g.len = 0 then Val.zero false
      else let v := fp32 (g.acc.getD lane 0); if xi.md % 8 = 2 then divCount v g.len else v
    (e.dstAddr xi.b (Dsc.aOf xi.b i) m).bind (fun dst => (e.encodeEl xi.b x v none).map (fun c => (dst, c)))))).map (fun ls =>
      let bits := fmtBits (Dsc.fmt xi.b)
      let wr := ls.filterMap (fun (dst, c) => dst.map (fun h => ({ at_ := h, bits := bits, code := c.code } : Wr)))
      let put := ls.filter (fun l => l.1.isSome)
      { acc := acc, writes := wr, halves := wr.length * (bits / 4), dropped := ls.length - wr.length, filled := g.oob,
        sat := countP (fun l => l.2.sat) put, nan := countP (fun l => l.2.nan) put, bags := 1, empty := if g.len = 0 then 1 else 0 })

/-! ### SCATTER (R192, R277, R281) -/

/-- The scale and zero point of the source row that holds allocation indices `a`: of its header, or of GROUT. -/
def XI.rowHeader (xi : XI) (e : Env) (a : List Int) : Rd (Nat × Int) :=
  if ((Dsc.dims xi.a).filter (fun k => decide (1 ≤ k))).all (fun k => decide (0 ≤ a.getD k 0) && decide (a.getD k 0 < (Dsc.lim xi.a k : Nat))) then
    (e.readN .side (vaOf (Dsc.hdrAddr xi.a a)) 8).map (fun v => (v % 2 ^ 32, sextN 16 (v / 2 ^ 32)))
  else .ok ((groutEl xi.a).scale, (groutEl xi.a).zp)

/-- An element of a table row that SCATTER updates: its table indices and address, the source element, its indices, the
logical indices. -/
structure RowEl where
  ta : List Int
  dst : Option Nat
  el  : SrcEl
  sa  : List Int
  x   : List Nat
  deriving DecidableEq, Repr

/-- What combining an element does with its code: a table with QMODE = REQUANT takes the requantised code as it stands
(R250, R277). -/
def XI.segOp (xi : XI) (e : Env) (l : RowEl) : Rd (SegOp × Enc) :=
  let t := xi.b
  let aff : Bool := Dsc.qmode xi.a == 1
  let plain : SegOp :=
    { half := 0, tfmt := Dsc.fmt t, taff := Dsc.qmode t == 1, tscale := (Dsc.aff t).scale, tzp := (Dsc.aff t).zp,
      sfmt := Dsc.fmt xi.a, saff := aff, sscale := if aff then (Dsc.aff xi.a).scale else l.el.scale,
      szp := if aff then (Dsc.aff xi.a).zp else l.el.zp, scode := l.el.code }
  if fmtInt (Dsc.fmt t) && Dsc.qmode t == 2 then
    (e.encodeEl t l.x (decodeEl xi.a l.el) (plainInt xi.a l.el)).map (fun c =>
      ({ plain with sfmt := Dsc.fmt t, saff := false, sscale := 0, szp := 0, scode := c.code }, c))
  else .ok (plain, { code := l.el.code })

/-- The headers of the rows that a row update touches, with the scale and the zero point each takes (R281). -/
def XI.rowHeads (xi : XI) (e : Env) (ls : List RowEl) : Rd (List (Nat × Nat × Int)) :=
  let first := ls.foldl (fun (acc : List (Nat × List Int)) l =>
    let h := vaOf (Dsc.hdrAddr xi.b l.ta)
    if acc.any (fun q => q.1 == h) then acc else acc ++ [(h, l.sa)]) []
  Rd.all (first.map (fun (h, sa) => (xi.rowHeader e sa).map (fun (sc, zp) => (h, sc, zp))))

def XI.scatterUnit (xi : XI) (e : Env) (acc : WAcc) (r : Nat) : Rd UOut :=
  let t := xi.b
  let rd := rowDim t
  (xi.rubble e r).bind (fun v =>
    let ns := (List.range (rowElems t))
    if !rowIn t v then .ok { acc := acc, dropped := ns.length }
    else
      let one := fun n =>
        let x := (Dsc.logical t (Dsc.unrank t n)).set rd r
        let i := Dsc.alloc xi.a x
        let a := Dsc.aOf xi.a i
        (rowIndex t x v).bind (fun (ta, pos) =>
          (e.dstAddr t ta pos).bind (fun dst => (e.srcEl .data xi.a a (Dsc.rankOf xi.a i)).map (fun s =>
            ({ ta := ta, dst := dst, el := s, sa := a, x := x.set rd (Int.toNat v) } : RowEl))))
      (Rd.all (ns.map one)).bind (fun ls =>
        let want := ls.filter (fun l => !(l.el.oob && Dsc.skip t))
        let put := want.filter (fun l => l.dst.isSome)
        let bits := fmtBits (Dsc.fmt t)
        let base : UOut := { acc := acc, halves := put.length * (bits / 4), dropped := want.length - put.length,
                             filled := countP (fun l => l.el.oob) ls }
        if bitB (BitVec.ofNat 22 xi.md) 3 then
          (xi.rowHeads e ls).map (fun hs =>
            { base with upd := some ((hs.head?.map (·.1)).getD 0,
                hs.flatMap (fun (h, sc, zp) => Wr.ofBytes h (toBytes 4 sc ++ toBytes 2 (intCode 6 zp)) true) ++
                put.map (fun l => { at_ := l.dst.getD 0, bits := bits, code := l.el.code })) })
        else
          (Rd.all (put.map (xi.segOp e))).map (fun os =>
            { base with sat := countP (fun o => o.2.sat) os, nan := countP (fun o => o.2.nan) os,
                        ops := (put.zip os).map (fun (l, o) => (l.dst.getD 0, o.1)) })))

/-! ### EXPAND and PACK (R290–R304) -/

def blockCount (n : Nat) : Nat := ceilDiv n 4096
/-- Bytes of block `k` of a stream of `n` bytes. -/
def blockLen (n k : Nat) : Nat := min 4096 (n - 4096 * k)

/-- Bytes `o` to `o + n - 1` of the packed object are valid elements of TA (R304). -/
def packedIn (d : Desc) (o n : Nat) : Bool :=
  (List.range n).all (fun j => decide (o + j < Dsc.ext d 0) && Dsc.validA d [Dsc.org d 0 + ((o + j : Nat) : Int)])

/-- Bytes `o` to `o + n - 1` of the packed object. -/
def XI.packed (xi : XI) (e : Env) (k : NeedKind) (o n : Nat) : Rd (List Byte) :=
  Rd.all ((List.range n).map (fun j =>
    (e.srcEl k xi.a [Dsc.org xi.a 0 + ((o + j : Nat) : Int)] (o + j)).map (fun s => BitVec.ofNat 8 s.code)))

/-- Index entry `k`: entries are read 32 at a time, as far as they are elements of TA (R303). -/
def XI.entry (xi : XI) (e : Env) (n k : Nat) : Rd Word :=
  let g := k / 32 * 32
  let m := ((List.range (min 32 (n - g))).filter (fun j => packedIn xi.a (8 * (g + j)) 8))
  match xi.packed e .idx (8 * k) 8 with
  | .ok bs => .ok (BitVec.ofNat 64 (ofBytes bs))
  | .need l =>
    (match Rd.all (m.map (fun j => xi.packed e .idx (8 * (g + j)) 8)) with | .need all => .need all | _ => .need l)
  | .fault c => .fault c

/-- The byte of an operand at the logical indices of element `n` of `walk`, and whether it is out of bounds. -/
def byteAt (e : Env) (k : NeedKind) (d walk : Desc) (n : Nat) : Rd (Byte × Bool) :=
  let i := Dsc.alloc d (Dsc.logical walk (Dsc.unrank walk n))
  (e.srcEl k d (Dsc.aOf d i) (Dsc.rankOf d i)).map (fun s => (BitVec.ofNat 8 s.code, s.oob))

/-- Both, their needs together. -/
def Rd.both {α β : Type} (a : Rd α) (b : Rd β) : Rd (α × β) :=
  match a, b with
  | .need l, .need m => .need (l ++ m)
  | .fault c, _ => .fault c
  | .need l, _ => .need l
  | .ok x, b => b.map (fun y => (x, y))

def XI.expandUnit (xi : XI) (e : Env) (acc : WAcc) (k : Nat) : Rd UOut :=
  let total := Dsc.count xi.b
  let r := blockLen total k
  if !packedIn xi.a (8 * k) 8 then .fault 0x9F
  else (xi.entry e (blockCount total) k).bind (fun en =>
    if entryBad en r then .fault 0x9F
    else if entryMode en ≠ 0 ∧ packedIn xi.a (entryOffset en) (16 * entryLen en) = false then .fault 0x9F
    else
      let payload := if entryMode en = 0 then .ok [] else xi.packed e .data (entryOffset en) (16 * entryLen en)
      let base : Rd (List (Byte × Bool)) := if entryMode en = 1 then .ok []
        else Rd.all ((List.range r).map (fun j => byteAt e .aux xi.c xi.b (4096 * k + j)))
      let dst := Rd.all ((List.range r).map (fun j =>
        e.dstAddr xi.b (Dsc.aOf xi.b (Dsc.unrank xi.b (4096 * k + j))) (4096 * k + j)))
      (payload.both base).bind (fun (p, bs) =>
        match decodePayload (entryMode en) (entryLen en) r p with
        | none => .fault 0x9F
        | some xs => dst.map (fun ds =>
          let out := (List.range r).map (fun j => (ds.getD j none, if entryMode en = 1 then xs.getD j 0 else xs.getD j 0 ^^^ (bs.getD j (0, false)).1))
          let ws := out.filterMap (fun (d, b) => d.map (fun h => ({ at_ := h, bits := 8, code := b.toNat } : Wr)))
          { acc := acc, writes := ws, halves := 2 * ws.length, dropped := r - ws.length, filled := countP (·.2) bs, blocks := 1 })))

def XI.packBlock (xi : XI) (e : Env) (k : Nat) : Rd ((Nat × Nat × List Byte) × Nat) :=
  let r := blockLen (Dsc.count xi.a) k
  let v := Rd.all ((List.range r).map (fun j => byteAt e .data xi.a xi.a (4096 * k + j)))
  let b := Rd.all ((List.range r).map (fun j => byteAt e .aux xi.c xi.a (4096 * k + j)))
  (v.both b).map (fun (v, b) =>
    let vs := v.map Prod.fst
    (encodeBlock vs ((vs.zip (b.map Prod.fst)).map (fun (x, y) => x ^^^ y)), countP (·.2) v + countP (·.2) b))

/-- Writes of bytes to the packed object from byte `o` on: their places are those of the bytes in it (R119, R301). -/
def XI.packWrites (xi : XI) (e : Env) (o : Nat) (bs : List Byte) : Rd (List Wr × Nat) :=
  (Rd.all ((List.range bs.length).map (fun j => (e.dstAddr xi.b [Dsc.org xi.b 0 + ((o + j : Nat) : Int)] (o + j)).map (fun h => (h, o + j))))).map (fun ds =>
    let ws := (ds.zip bs).filterMap (fun ((d, p), b) => d.map (fun h => ({ at_ := h, bits := 8, code := b.toNat, pos := some (2 * p) } : Wr)))
    (ws, bs.length - ws.length))

/-- A group of 8 blocks: payloads at the packed length so far, then the group's entries (R301). -/
def XI.packUnit (xi : XI) (e : Env) (acc : WAcc) (g : Nat) : Rd UOut :=
  let n := blockCount (Dsc.count xi.a)
  let ks := (List.range 8).filterMap (fun j => if 8 * g + j < n then some (8 * g + j) else none)
  (Rd.all (ks.map (xi.packBlock e))).bind (fun bl =>
    let start := if g = 0 then 8 * n else acc.pos
    let (ents, pay) := bl.foldl (fun (st : List Byte × List Byte) (b : (Nat × Nat × List Byte) × Nat) =>
        let (mode, len, p) := b.1
        (st.1 ++ toBytes 8 (mkEntry mode len (if mode = 0 then 0 else start + st.2.length)).toNat, st.2 ++ p)) ([], [])
    (xi.packWrites e start pay).bind (fun (pw, pd) => (xi.packWrites e (64 * g) ents).map (fun (ew, ed) =>
      let fin := start + pay.length
      { acc := { acc with pos := fin }, writes := pw ++ ew, dropped := pd + ed,
        total := some (2 * (if 8 * g + 8 < n then 64 * (g + 1) else fin)),
        filled := (bl.map Prod.snd).foldl (· + ·) 0, coded := bl.length, raw := countP (fun b => b.1.1 == 1) bl })))

/-! ### DIGEST (R197) -/

/-- Logical indices of element `j` of stream row `r`. -/
def streamIndex (d : Desc) (r j : Nat) : List Nat :=
  ((List.range (Dsc.rank d)).foldl (fun (acc : List Nat × Nat) l =>
    if l = 0 then (acc.1 ++ [j], acc.2) else (acc.1 ++ [acc.2 % Dsc.lext d l], acc.2 / Dsc.lext d l)) ([], r)).1

/-- A valid element of the view lies in the MX block of allocation indices `a`. -/
def mxBlockValid (d : Desc) (a : List Int) : Bool :=
  let q := Int.fdiv (a.getD 0 0) 32
  ((Dsc.dims d).filter (fun k => decide (1 ≤ k))).all (fun k => decide (0 ≤ a.getD k 0) && decide (a.getD k 0 < (Dsc.lim d k : Nat))) &&
    decide (max (32 * q) (Dsc.lo d 0) ≤ min (32 * q + 31) (Dsc.hi d 0))

/-- Codes little-endian, half-bytes in pairs. -/
def packCodes (bits : Nat) : List Nat → List Byte
  | [] => []
  | [c] => toBytes (ceilDiv bits 8) c
  | c :: d :: r => if bits = 4 then BitVec.ofNat 8 (c % 16 + 16 * (d % 16)) :: packCodes bits r
                   else toBytes (bits / 8) c ++ packCodes bits (d :: r)

/-- What precedes the codes of a stream row: six header bytes of an RQ row. -/
def digestHead (e : Env) (d : Desc) (a : List Int) : Rd (List Byte) :=
  if Dsc.rq d then
    if ((Dsc.dims d).filter (fun k => decide (1 ≤ k))).all (fun k => decide (0 ≤ a.getD k 0) && decide (a.getD k 0 < (Dsc.lim d k : Nat))) then
      (e.read .side (vaOf (Dsc.hdrAddr d a)) 8).map (fun h => h.take 6)
    else .ok (toBytes 4 (groutEl d).scale ++ toBytes 2 (intCode 6 (groutEl d).zp))
  else .ok []

/-- What precedes the code of element `j` of stream row `r`: an RQ row's header, the scale byte of an MX block that the row
enters. -/
def digestSide (e : Env) (d : Desc) (r j : Nat) : Rd (List Byte) :=
  let al := fun j => Dsc.aOf d (Dsc.alloc d (streamIndex d r j))
  let block := fun j => let a := al j; a.set 0 (Int.fdiv (a.getD 0 0) 32)
  if Dsc.mx d then
    if j = 0 ∨ block j ≠ block (j - 1) then
      (if mxBlockValid d (al j) then e.read .side (vaOf (Dsc.scaleAddr d (al j))) 1 else .ok [BitVec.ofNat 8 (groutEl d).scale])
    else .ok []
  else if j = 0 then digestHead e d (al 0) else .ok []

/-- One element of the stream (R197). `WAcc.pos` is one more than a half-byte that waits for its pair; what precedes a code
and the end of a row begin a new byte: the spec says so of the end of a row alone (log 86). -/
def XI.digestUnit (xi : XI) (e : Env) (acc : WAcc) (n : Nat) : Rd UOut :=
  let d := xi.a
  let r := n / Dsc.lext d 0
  let j := n % Dsc.lext d 0
  let i := Dsc.alloc d (streamIndex d r j)
  ((digestSide e d r j).both (e.srcEl .data d (Dsc.aOf d i) (Dsc.rankOf d i))).map (fun (side, s) =>
    let flush := fun (a : WAcc) => if a.pos = 0 then a else { a with pos := 0, dig := a.dig.push (BitVec.ofNat 8 (a.pos - 1)) }
    let a := if side.isEmpty then acc else let a := flush acc; { a with dig := a.dig.feed side }
    let a := if fmtBits (Dsc.fmt d) = 4 then
        (if a.pos = 0 then { a with pos := s.code % 16 + 1 }
         else { a with pos := 0, dig := a.dig.push (BitVec.ofNat 8 (a.pos - 1 + 16 * (s.code % 16))) })
      else { a with dig := a.dig.feed (toBytes (fmtBits (Dsc.fmt d) / 8) s.code) }
    { acc := if j + 1 = Dsc.lext d 0 then flush a else a, filled := if s.oob then 1 else 0 })

/-! ### PREFETCH and CINV (R198, R206) -/

/-- The granule a valid element touches, unless the element before it touched it. -/
def XI.granUnit (xi : XI) (e : Env) (acc : WAcc) (n : Nat) : Rd UOut :=
  let d := xi.a
  (e.srcAddr d (Dsc.aOf d (Dsc.unrank d n)) n).map (fun h =>
    match h with
    | none => { acc := acc }
    | some h =>
      let g := h / 512
      if acc.pos = g + 1 then { acc := acc } else { acc := { acc with pos := g + 1 }, gran := some (256 * g) })

/-! ### Loaded routes (R207–R210) -/

/-- The nibbles of a line, lane 0 first. -/
def lanesOf (bs : List Byte) : List Nat := bs.flatMap (fun b => [b.toNat % 16, b.toNat / 16])

def ofLanes : List Nat → List Byte
  | a :: b :: r => BitVec.ofNat 8 (a % 16 + 16 * (b % 16)) :: ofLanes r
  | _ => []

/-- Bit `512 s + j` of a route image: switch `j` of stage `s` is crossed. -/
def crossed (img : List Byte) (s j : Nat) : Bool := bitB (img.getD (64 * s + j / 8) 0) (j % 8)

/-- One stage: lane pairs that differ in bit `|9 - s|` are exchanged where their switch is crossed. -/
def routeStage (img : List Byte) (lanes : List Nat) (s : Nat) : List Nat :=
  let b := if s ≤ 9 then 9 - s else s - 9
  (List.range lanes.length).map (fun x =>
    let hi := x / 2 ^ b % 2
    let lo := x - hi * 2 ^ b
    let j := lo / 2 ^ (b + 1) * 2 ^ b + lo % 2 ^ b
    if crossed img s j then lanes.getD (if hi = 1 then lo else lo + 2 ^ b) 0 else lanes.getD x 0)

def applyRoute (img : List Byte) (line : List Byte) : List Byte :=
  ofLanes ((List.range 19).foldl (routeStage img) (lanesOf line))

/-- The sum modulo 255 of a line: each byte contributes the sum of its two half-bytes (R211). -/
def lineSum (line : List Byte) : Nat := (lanesOf line).foldl (· + ·) 0 % 255

/-- A line passes the Quadrille if its sums at the input and at the output agree (R211). -/
def quadrille (img : List Byte) (line : List Byte) : Option (List Byte) :=
  let out := applyRoute img line
  if lineSum line = lineSum out then some out else none

/-- Line `m` of a MOVE with a loaded route: in a gang, the part of the member that holds it (R210). A half-byte offset of
the operands (TDW1.NOFF) plays no part: lines are taken and written whole, from BASE (log 87). -/
def XI.routeUnit (xi : XI) (e : Env) (acc : WAcc) (imgs : List (List Byte)) (m : Nat) : Rd UOut :=
  (e.read .data (vaOf (Dsc.base xi.a + 512 * m : Nat)) 512).map (fun l =>
    match quadrille (imgs.getD (m % imgs.length) []) l with
    | some out => { acc := acc, writes := Wr.ofBytes (vaOf (Dsc.base xi.b + 512 * m : Nat)) out false, halves := 1024 }
    | none => { acc := acc, qsum := 1 })

/-- The route image MOVE.ldrt reads. -/
def XI.imageUnit (xi : XI) (e : Env) (acc : WAcc) : Rd UOut :=
  (Rd.all ((List.range 1216).map (fun n => e.srcEl .data xi.a (Dsc.aOf xi.a [n]) n))).map (fun els =>
    { acc := acc, filled := countP (·.oob) els, image := some (els.map (fun s => BitVec.ofNat 8 s.code)) })

/-! ### Ends of walks -/

/-- No entry of an operand's block list remains (R112). -/
def listEnd (e : Env) (d : Desc) (dst : Bool) : Rd Unit :=
  if Dsc.blist d then e.listEnds d dst (Dsc.blcnt d) 0 (Dsc.count d) else .ok ()

/-- The writes of the side sums (R253). -/
def XI.sumWrites (xi : XI) (e : Env) (acc : WAcc) : Rd (List Wr) :=
  let n := Dsc.lext xi.b 0 + Dsc.lext xi.b 1
  (Rd.all ((List.range n).map (fun j => (e.dstAddr xi.c [Dsc.org xi.c 0 + (j : Nat)] j).map (fun h => (h, j))))).map (fun l =>
    l.flatMap (fun (h, j) => match h with
      | some h => Wr.ofBytes (h / 2) (toBytes 4 (Tab.get 0 acc.sums j)) true
      | none => []))

/-- The last unit: the ends of the block lists, the side sums, the digest. -/
def XI.lastUnit (xi : XI) (e : Env) (acc : WAcc) : Rd UOut :=
  let ends := Rd.all [
    (if xi.op = 0x42 ∨ xi.op = 0x44 ∨ xi.op = 0x45 then .ok () else listEnd e xi.a false),
    (if xi.ldrt then .ok () else if xi.op = 0x40 ∨ xi.op = 0x42 ∨ xi.op = 0x43 ∨ xi.op = 0x44 ∨ xi.op = 0x45 ∨ xi.op = 0x47 ∨ xi.op = 0x49 then
       listEnd e xi.b true else .ok ()),
    (if e.shipped.isNone && (xi.op == 0x44 || xi.op == 0x45 || xi.op == 0x46 || xi.op == 0x47 || xi.op == 0x48) then listEnd e xi.c false
     else if xi.sums then listEnd e xi.c true else .ok ())]
  ends.bind (fun _ =>
    if xi.op = 0x49 then
      (e.dstAddr xi.b [0] 0).map (fun h =>
        { acc := acc, writes := (match h with | some h => [{ at_ := h, bits := 64, code := acc.dig.value.toNat }] | none => []), halves := 16 })
    else if xi.sums then (xi.sumWrites e acc).map (fun ws => { acc := acc, writes := ws })
    else .ok { acc := acc })

/-- Units of the walk, the last one apart. -/
def XI.units (xi : XI) : Nat :=
  if xi.ldrt then 1
  else if xi.route.isSome then Dsc.ext xi.a 0 * fmtBits (Dsc.fmt xi.a) / 4096
  else if xi.op = 0x45 then (if Dsc.empty xi.a || Dsc.empty xi.b then 0 else Dsc.nbags xi.c)
  else if xi.op = 0x46 then (if Dsc.empty xi.a || Dsc.empty xi.b then 0 else Dsc.ext xi.c 0)
  else if xi.op = 0x47 then blockCount (Dsc.count xi.b)
  else if xi.op = 0x48 then ceilDiv (blockCount (Dsc.count xi.a)) 8
  else if xi.op = 0x49 then Dsc.count xi.a
  else if xi.op = 0x4A ∨ xi.op = 0x4E then Dsc.count xi.a
  else if xi.op = 0x42 then dstUnits xi.b
  else if Dsc.empty xi.a then 0 else dstUnits xi.b

/-- An empty source or destination: nothing moves and no list is read (R102). -/
def XI.isEmpty (xi : XI) : Bool :=
  xi.op != 0x49 && !xi.ldrt && ((xi.op != 0x42 && Dsc.empty xi.a) || (xi.op != 0x4A && xi.op != 0x4E && Dsc.empty xi.b))

/-- Unit `k` of the walk. -/
def XI.unit (xi : XI) (e : Env) (acc : WAcc) (k : Nat) : Rd UOut :=
  if xi.isEmpty then .ok { acc := acc }
  else if xi.units ≤ k then xi.lastUnit e acc
  else if xi.ldrt then xi.imageUnit e acc
  else match xi.route with
  | some imgs => xi.routeUnit e acc imgs k
  | none => match xi.op with
    | 0x42 => xi.fillUnit e acc k
    | 0x46 => xi.scatterUnit e acc k
    | 0x47 => xi.expandUnit e acc k
    | 0x48 => xi.packUnit e acc k
    | 0x49 => xi.digestUnit e acc k
    | 0x4A => xi.granUnit e acc k
    | 0x4E => xi.granUnit e acc k
    | _ => xi.dstUnit e acc k

/-! ### MSET (R184, R185, R223) -/

/-- A descriptor image. -/
def Env.image (e : Env) (va : Nat) : Rd Desc :=
  (e.read .desc va 256).map (fun bs =>
    { words := (List.range 32).map (fun k => BitVec.ofNat 64 (ofBytes ((bs.drop (8 * k)).take 8))) })

/-- The slice entries that TC names: source and destination image addresses, as stored. -/
def XI.sliceEntry (xi : XI) (e : Env) (s : Nat) : Rd (Nat × Nat) :=
  (e.read .desc (vaOf (Dsc.base xi.c + 16 * s : Nat)) 16).map (fun bs => (ofBytes (bs.take 8), ofBytes (bs.drop 8)))

def XI.sliceCount (xi : XI) : Nat := Dsc.ext xi.c 0 / 16

def XI.entries (xi : XI) (e : Env) : Rd (List (Nat × Nat)) := Rd.all ((List.range xi.sliceCount).map (xi.sliceEntry e))

/-- The entry conditions of R184. -/
def sliceBad (p : Nat × Nat) : Bool :=
  decide (2 ^ 52 ≤ p.1) || decide (2 ^ 52 ≤ p.2) || p.1 % 256 != 0 || p.2 % 256 != 0

/-- The slices as MOVEs of a pass. -/
def XI.slices (xi : XI) (e : Env) (pass : Nat) : Rd (List XI) :=
  (xi.entries e).bind (fun es =>
    Rd.all (es.map (fun (s, d) =>
      match Rd.all [e.image s, e.image d] with
      | .ok [a, b] => .ok { op := 0x40, a := a, b := b, c := { words := [] }, md := 0, w := xi.w, pass := pass }
      | .ok _ => .need []
      | .need l => .need l
      | .fault c => .fault c)))

/-- The slice and the unit in it of unit `k` of a pass over slices. -/
def findSlice : List XI → Nat → Option (XI × Nat)
  | [], _ => none
  | x :: r, k =>
    let n := if x.isEmpty then 0 else x.units
    if k < n then some (x, k) else findSlice r (k - n)

def sliceUnits (l : List XI) : Nat := (l.map (fun x => if x.isEmpty then 0 else x.units)).foldl (· + ·) 0

/-- The scale byte of block `k` of an MX destination. -/
def mxScaleAt (b : Desc) (k : Nat) : Nat := vaOf (Dsc.scaleAddr b (Dsc.aOf b (Dsc.unrank b ((mxElems b k).headD 0))))

/-- The blocks of a slice that have the scale byte `a`. -/
def XI.blocksAt (x : XI) (f a : Nat) : List Nat :=
  if x.isEmpty || Dsc.fmt x.b != f then [] else (List.range x.units).filter (fun k => mxScaleAt x.b k == a)

/-- A block of an MX destination that slices write in one pass takes one scale from all of their values (R243). -/
def msetBlock (l : List XI) (x : XI) (e : Env) (acc : WAcc) (j : Nat) : Rd UOut :=
  let all := l.flatMap (fun y => (y.blocksAt (Dsc.fmt x.b) (mxScaleAt x.b j)).map (fun k => (y, k)))
  if all.length ≤ 1 then x.mxUnit e acc j none
  else (Rd.all (all.map (fun (y, k) => y.mxVals e k))).bind (fun vs => x.mxUnit e acc j (some (winners vs.flatten)))

/-- A unit of a pass of MSET; past the last one, the ends of the block lists. -/
def msetUnit (l : List XI) (e : Env) (acc : WAcc) (k : Nat) : Rd UOut :=
  match findSlice l k with
  | some (x, j) => if Dsc.mx x.b then msetBlock l x e acc j else x.dstUnit e acc j
  | none => (Rd.all (l.map (fun x => if x.isEmpty then .ok () else
      (listEnd e x.a false).bind (fun _ => listEnd e x.b true)))).map (fun _ => { acc := acc })

end Sys2Proof.Machine
end

