-- ==== Sys2Proof/Machine/Plan.lean ====
section
/-! DEFINITION. How a walk reads ahead: windows and staging lines, panels, rows in flight, open bags (03_tensor_descriptors
R103, R117, R118, 06_layout_engine R214–R228, 08_embedding_pooling R259–R286, 12_streaming_and_traffic R371–R373).

A walk plans its reads item by item: an item of a unit's operands, an element of a turn block, a row.  What is planned
stands in staging lines; `Machine/Walk.lean` issues the reads that the lines still lack.  Everything here is a function of
the transfer. -/

namespace Sys2Proof.Machine

def Xfer.env (t : Xfer) : Env := { lines := t.lines, unit := t.cursor, rows := t.rows, shipped := t.shipped }

/-! ### Staging lines (R118, R371) -/

/-- The part of a need in one granule: its granule, its first byte, its bytes. -/
def Need.parts (n : Need) : List (Nat × Nat × BitVec 256) :=
  if n.n = 0 then []
  else (List.range ((n.va + n.n - 1) / 256 - n.va / 256 + 1)).map (fun i =>
    let g := 256 * (n.va / 256 + i)
    let lo := max n.va g
    let hi := min (n.va + n.n) (g + 256)
    (vaOf (g : Nat), vaOf (lo : Nat), byteMask (lo - g) (hi - lo)))

/-- The window of a request: 512 B for each mover of a gang (R118); a channel entry is read by itself (R252). -/
def windowAt (w : Nat) (k : NeedKind) (va : Nat) : Nat := match k with | .chan => va / 16 | _ => va / (512 * w)

/-- Whom planned reads serve: the first unit and the last; in a gang of `w`; whether they stay to the end of the walk, or
for reuse (R228). -/
structure Life where
  w     : Nat
  lo    : Nat
  hi    : Nat
  keep  : Bool := false
  reuse : Bool := false
  deriving DecidableEq, Repr

def NeedKind.isRow : NeedKind → Bool
  | .row _ | .hdr2 _ => true
  | _ => false

/-- Bytes on which the place of further reads depends. -/
def NeedKind.staged : NeedKind → Bool
  | .rub | .len | .wt | .list | .idx | .desc => true
  | _ => false

/-- Reads that hold staging credits (R269, R371). -/
def NeedKind.credit : NeedKind → Bool
  | .data | .side | .aux | .idx | .row _ | .hdr2 _ => true
  | _ => false

/-- The lines of the window that the stream of a kind is in, the last planned first. -/
def Xfer.openWin (t : Xfer) (k : NeedKind) : List SLine :=
  if k.isRow then []
  else match t.lines.reverse.filter (fun l => l.kind == k) with
  | [] => []
  | l :: r => l :: r.takeWhile (fun x => x.win == l.win)

def SLine.same (l x : SLine) : Bool := l.id == x.id && l.run == x.run

/-- Bytes of a granule that lines have, or are to have, for all of the units. -/
def Xfer.covered (t : Xfer) (p : Life) (k : NeedKind) (key : Nat) : BitVec 256 :=
  t.lines.foldl (fun m l => if l.key == key && l.serves k && l.sees p.lo && l.sees p.hi then m ||| l.want else m) 0

/-- The line that a read joins: one of its unit, of the window that its stream is in, or kept for reuse. -/
def Xfer.lineFor (t : Xfer) (p : Life) (k : NeedKind) (key win : Nat) : Option SLine :=
  let own := t.lines.filter (fun l => l.kind == k && l.key == key)
  match own.find? (fun l => l.sees p.lo || p.reuse) with
  | some l => some l
  | none => (t.openWin k).find? (fun l => l.key == key && l.win == win)

/-- Bytes of a granule are to be staged. A line in use moves to the end. -/
def Xfer.planPart (p : Life) (k : NeedKind) (t : Xfer) (g : Nat × Nat × BitVec 256) : Xfer :=
  let (key, va, m) := g
  let m := m &&& ~~~t.covered p k key
  let keep := p.keep || k == .list || k == .desc
  if m = 0 then t
  else match t.lineFor p k key (windowAt p.w k va) with
  | some l => { t with lines := t.lines.filter (fun x => !x.same l) ++
      [{ l with want := l.want ||| m, from_ := min l.from_ p.lo, to_ := max l.to_ p.hi, keep := l.keep || keep }] }
  | none => { t with ids := t.ids + 1, lines := t.lines ++
      [{ run := t.grp, id := t.ids, kind := k, key := key, win := windowAt p.w k va, want := m, from_ := p.lo, to_ := p.hi, keep := keep }] }

def Xfer.plan (p : Life) (l : List Need) (t : Xfer) : Xfer :=
  l.foldl (fun t n => n.parts.foldl (Xfer.planPart p n.kind) t) t

def SLine.sectors (l : SLine) : Nat := (onesBelow (sectorsOf l.want) 4).length

/-- Sectors that a walk's source data hold or will hold; lines that stay for the elements that share them count while they
are ahead of the walk (log 88). -/
def Xfer.held (t : Xfer) (shared : Bool) : Nat :=
  ((t.lines.filter (fun l => l.kind.credit && !l.keep && (!shared || decide (t.cursor ≤ l.from_)))).map SLine.sectors).foldl (· + ·) 0

/-- The most recently used lines, as many as fit in a number of bytes. -/
def recent : Nat → List SLine → List SLine
  | _, [] => []
  | n, l :: r => if 64 * l.sectors ≤ n then l :: recent (n - 64 * l.sectors) r else []

/-- Lines that no later unit needs leave staging; for reuse, the most recently used stay, up to half of the working set
(R228). -/
def Xfer.release (t : Xfer) (w : Nat) (reuse : Bool) : Xfer :=
  let old := if reuse then recent (32768 * w) t.lines.reverse else []
  { t with lines := t.lines.filter (fun l =>
      l.keep || decide (t.cursor ≤ l.to_) || (t.openWin l.kind).any l.same || old.any l.same) }

/-- A line of which bytes have not been asked for. -/
def SLine.due (l : SLine) : Bool := l.want &&& ~~~l.asked != 0

def oldest (l : List SLine) : Option SLine :=
  l.foldl (fun o x => match o with | some y => if x.id < y.id then some x else some y | none => some x) none

/-- The next line to ask for: the oldest of a window that the walk has left, or of any where the plan stands still. -/
def Xfer.ripe (t : Xfer) : Option SLine := oldest (t.lines.filter (fun l => l.due && !(t.openWin l.kind).any l.same))
def Xfer.due (t : Xfer) : Option SLine := oldest (t.lines.filter SLine.due)

/-! ### Panels (R214, R215), broadcast (R103), windows (R228) -/

/-- The units of a destination in which the dimensions below `n` range freely. -/
def unitsIn (b : Desc) (n : Nat) : Nat :=
  let span := fun (lo : Nat) => ((Dsc.dims b).filter (fun j => decide (lo ≤ j) && decide (j < n))).foldl (fun m j => m * Dsc.ext b j) 1
  if Dsc.mx b then mxBlocks b * span 1 else if Dsc.rq b then span 1 else span 0

/-- A corner turn whose turn block fits the working set: the lowest destination dimension that holds the logical dimension of
the source's dimension 0. -/
def XI.turnDim (xi : XI) : Option Nat :=
  if (xi.op = 0x40 ∨ xi.op = 0x44) ∧ xi.route.isNone ∧ ¬ xi.ldrt ∧ Dsc.p xi.a 0 ≠ Dsc.p xi.b 0 then
    (Dsc.dims xi.b).find? (fun k => Dsc.p xi.b k == Dsc.p xi.a 0) |>.bind (fun k =>
      let n := ((Dsc.dims xi.b).filter (fun j => decide (j ≤ k))).foldl (fun n j => n * Dsc.ext xi.b j) 1
      if max (fmtBits (Dsc.fmt xi.a)) (fmtBits (Dsc.fmt xi.b)) * n ≤ 524288 * xi.w then some k else none)
  else none

/-- Units that are read together: a turn block; of a GATHER, the run of one row (R188). -/
def XI.groupLen (xi : XI) : Nat :=
  match xi.turnDim with
  | some k => unitsIn xi.b (k + 1)
  | none =>
    if xi.op = 0x44 then
      match (Dsc.dims xi.b).find? (fun k => Dsc.p xi.b k == rowDim xi.a) with
      | some 0 => 1
      | some k => unitsIn xi.b k
      | none => 1
    else 1

def XI.groupFirst (xi : XI) (u : Nat) : Nat := u / xi.groupLen * xi.groupLen
def XI.groupLast (xi : XI) (u : Nat) : Nat := if xi.units ≤ u then u else min (xi.units - 1) (xi.groupFirst u + xi.groupLen - 1)

/-- The source indices of element `i` of the turn block of a unit, in source allocation order. -/
def XI.turnIdx (xi : XI) (k u i : Nat) : List Nat :=
  let x := Dsc.logical xi.b (Dsc.unrank xi.b (unitElem xi.b (xi.groupFirst u)))
  let free := ((Dsc.dims xi.b).filter (fun j => decide (j ≤ k))).map (Dsc.p xi.b)
  ((Dsc.dims xi.a).foldl (fun (acc : List Nat × Nat) j =>
    let l := Dsc.p xi.a j
    if free.contains l then (acc.1 ++ [acc.2 % Dsc.ext xi.a j], acc.2 / Dsc.ext xi.a j) else (acc.1 ++ [x.getD l 0], acc.2)) ([], i)).1

/-- The items of a group that are no rows. -/
def XI.items (xi : XI) (u : Nat) : Nat :=
  if xi.units ≤ u then 1
  else match xi.turnDim with
  | some k => ((Dsc.dims xi.b).filter (fun j => decide (j ≤ k))).foldl (fun n j => n * Dsc.ext xi.b j) 1
  | none => 1

def XI.item (xi : XI) (e : Env) (acc : WAcc) (u i : Nat) : Rd Unit :=
  match (if xi.units ≤ u then none else xi.turnDim) with
  | some k => let a := xi.turnIdx k u i; (e.srcEl .data xi.a (Dsc.aOf xi.a a) (Dsc.rankOf xi.a a)).map (fun _ => ())
  | none => (xi.unit e acc u).map (fun _ => ())

/-- Units that a source slice below its outermost broadcast dimension serves, where the slice fits in one staging half and
the destination keeps what lies above it outermost (R103). -/
def XI.sharedLen (xi : XI) : Option Nat :=
  if xi.op ≠ 0x40 ∨ xi.route.isSome ∨ xi.ldrt ∨ Dsc.blist xi.a then none
  else match ((Dsc.dims xi.a).filter (fun k => Dsc.str xi.a k == 0)).getLast? with
  | none => none
  | some o =>
    let n := ((Dsc.dims xi.a).filter (fun k => decide (k < o) && Dsc.str xi.a k != 0)).foldl (fun n k => n * Dsc.ext xi.a k) 1
    let above := ((Dsc.dims xi.a).filter (fun k => decide (o < k))).map (Dsc.p xi.a)
    let m := Dsc.rank xi.b - above.length
    if fmtBits (Dsc.fmt xi.a) * n ≤ 8 * 262144 * xi.w ∧ ((Dsc.dims xi.b).filter (fun k => decide (m ≤ k))).all (fun k => above.contains (Dsc.p xi.b k)) then
      some (unitsIn xi.b m)
    else none

/-- The last unit that what is read for a unit serves. -/
def XI.lifeLast (xi : XI) (u : Nat) : Nat :=
  match xi.sharedLen with
  | some n => if xi.units ≤ u then u else max (xi.groupLast u) (min (xi.units - 1) (u / n * n + n - 1))
  | none => xi.groupLast u

/-- The window footprint in bits, and whether the expander keeps it (R228). -/
def XI.footprint (xi : XI) : Nat :=
  let win := fun k => winOf xi.a (Dsc.p xi.a k)
  let out := ((Dsc.dims xi.a).filter (fun k => (win k).isSome)).getLastD 0
  (Dsc.dims xi.a).foldl (fun n k => match win k with
    | some d => n * ((Dsc.kern xi.a d - 1) * Dsc.dil xi.a d + 1)
    | none => if k < out then n * Dsc.ext xi.a k else n) (fmtBits (Dsc.fmt xi.a))
def XI.reuse (xi : XI) : Bool := xi.op == 0x43 && decide (xi.footprint ≤ 8 * 32768 * xi.w)

/-! ### Rows in flight (R188, R269, R275, R285) -/

/-- Elements of a unit of a destination walk. -/
def unitElems (b : Desc) (u : Nat) : List Nat :=
  if Dsc.mx b then mxElems b u else if Dsc.rq b then (List.range (Dsc.ext b 0)).map (fun i => u * Dsc.ext b 0 + i) else [u]

/-- Logical indices of the elements of units. -/
def XI.logicals (xi : XI) (lo hi : Nat) : List (List Nat) :=
  ((List.range (hi + 1 - lo)).flatMap (fun i => unitElems xi.b (lo + i))).map (fun n => Dsc.logical xi.b (Dsc.unrank xi.b n))

/-- The rubble positions of a group's rows, in rubble order. -/
def XI.groupRows (xi : XI) (u : Nat) : List Nat :=
  let rs := (xi.logicals (xi.groupFirst u) (xi.groupLast u)).map (fun x => x.getD (rowDim xi.a) 0)
  (List.range (Dsc.ext xi.c 0)).filter (fun r => rs.contains r)

/-- Logical indices of the elements that are read of a row: all of a POOL's, those that its units take of a GATHER's. -/
def XI.rowXs (xi : XI) (q : RowSt) : List (List Nat) :=
  if xi.op = 0x45 then (List.range (rowElems xi.a)).map (fun n => Dsc.logical xi.a (Dsc.unrank xi.a n))
  else (xi.logicals q.lo q.hi).filter (fun x => x.getD (rowDim xi.a) 0 == q.pos)

/-- Everything of a row has landed, or what is still needed. -/
def XI.rowRead (xi : XI) (e : Env) (q : RowSt) : Rd Unit :=
  (Rd.all ((xi.rowXs q).map (fun x => (rowIndex xi.a x q.v).bind (fun (a, pos) => e.srcEl (.row q.pos) xi.a a pos)))).map (fun _ => ())

/-- The headers of a row (R100, R285). -/
def XI.rowHdrs (xi : XI) (q : RowSt) : List Nat :=
  if Dsc.rq xi.a then
    ((xi.rowXs q).filterMap (fun x => match rowIndex xi.a x q.v with
      | .ok (a, _) => if Dsc.validA xi.a a then some (vaOf (Dsc.hdrAddr xi.a a)) else none
      | _ => none)).eraseDups
  else []

def Env.noRows (e : Env) : Env := { e with lines := e.lines.filter (fun l => !l.kind.isRow) }

/-- What one attempt reads of a row, its headers first; entries of its block list come before. A fault is left to the unit
that takes the row. -/
def XI.rowPlan (xi : XI) (e : Env) (q : RowSt) : Rd (List Need) :=
  match xi.rowRead e.noRows q with
  | .need l =>
    let ls := l.filter (fun n => n.kind == .list)
    if ls.isEmpty then .ok ((xi.rowHdrs q).map (fun h => ({ va := h, n := 8, kind := .row q.pos } : Need)) ++ l) else .need ls
  | _ => .ok []

/-- The row lies in one 256 B line (R275). -/
def oneLine (l : List Need) : Bool :=
  match l with | [] => true | n :: r => (n :: r).all (fun m => m.va / 256 == n.va / 256 && (m.va + m.n - 1) / 256 == n.va / 256)

def evenVersion (h : List Byte) : Bool := (h.getD 6 0).toNat % 2 == 0

/-- Headers as a read of a kind has brought them; none while one has not landed. -/
def XI.heads (xi : XI) (e : Env) (k : NeedKind) (q : RowSt) : Option (List (List Byte)) :=
  (xi.rowHdrs q).mapM (fun h => match e.read k h 8 with | .ok b => some b | _ => none)

/-- The versions of a row as they were read (R467). -/
def XI.versions (xi : XI) (e : Env) (q : RowSt) : List Byte :=
  match xi.heads e (.row q.pos) q with | some hs => hs.flatMap (·.drop 6) | none => []

def RowSt.same (q r : RowSt) : Bool := q.pos == r.pos && q.lo == r.lo

def Xfer.setRow (q : RowSt) (t : Xfer) : Xfer := { t with rows := t.rows.map (fun r => if r.same q then q else r) }

/-- The lines of a row are released. -/
def Xfer.dropRow (q : RowSt) (t : Xfer) : Xfer :=
  { t with lines := t.lines.filter (fun l => !((l.kind == .row q.pos || l.kind == .hdr2 q.pos) && l.from_ == q.lo)) }

/-- An attempt at a row ends (R285): it is accepted, it waits for its next attempt, or after the fourth it is used as
read. -/
inductive Tried where
  | none | retried | torn
  deriving DecidableEq, Repr

def Xfer.tryRow (q : RowSt) (ok : Bool) (t : Xfer) : Xfer × Tried :=
  if ok then (t.setRow { q with phase := .done }, .none)
  else if 3 ≤ q.tries then ({ t with torn := true }.setRow { q with phase := .done }, .torn)
  else ((t.dropRow q).setRow { q with phase := .waiting, tries := q.tries + 1 }, .retried)

/-- Staged bytes are planned; none when they are on their way already. -/
def Xfer.planStaged (p : Life) (l : List Need) (t : Xfer) : Option Xfer :=
  let u := t.plan p (l.filter (fun n => n.kind.staged))
  if u.lines = t.lines then none else some u

/-- A row of which an attempt's reads have landed, or one that lacks entries of its block list. -/
def Xfer.rowStep (xi : XI) (t : Xfer) (q : RowSt) : Option (Xfer × Tried) :=
  let e := { t.env with unit := q.lo }
  let p : Life := { w := xi.w, lo := q.lo, hi := q.hi }
  match q.phase with
  | .reading =>
    match xi.rowRead e q with
    | .need l => (t.planStaged p l).map (fun t => (t, .none))
    | _ =>
      if !xi.trg then some (t.tryRow q true)
      else match xi.rowPlan e q, xi.heads e (.row q.pos) q with
        | .ok l, some hs =>
          if oneLine l then some (t.tryRow q (hs.all evenVersion))
          else some ((t.plan p ((xi.rowHdrs q).map (fun h => { va := h, n := 8, kind := .hdr2 q.pos }))).setRow { q with phase := .again }, .none)
        | _, _ => none
  | .again =>
    match xi.heads e (.row q.pos) q, xi.heads e (.hdr2 q.pos) q with
    | some h1, some h2 => some (t.tryRow q (h1.all evenVersion && h1.map (·.drop 6) == h2.map (·.drop 6)))
    | _, _ => none
  | _ => none

def Xfer.rowsStep (xi : XI) (t : Xfer) : Option (Xfer × Tried) := t.rows.findSome? (t.rowStep xi)

/-- The oldest row that waits makes its next attempt (R285). -/
def Xfer.retry (xi : XI) (t : Xfer) : Option Xfer :=
  (t.rows.find? (fun q => q.phase == .waiting)).map (fun q =>
    let l := match xi.rowPlan { t.env with unit := q.lo } q with | .ok l => l | _ => []
    (t.plan { w := xi.w, lo := q.lo, hi := q.hi } l).setRow { q with phase := .reading })

/-- A row goes in flight. None where its credits lack: those of the walk's own row it need not wait for. -/
def Xfer.startRow (xi : XI) (q : RowSt) (l : List Need) (limit : Nat) (t : Xfer) : Option Xfer :=
  let u := t.plan { w := xi.w, lo := q.lo, hi := q.hi } l
  if !t.rows.isEmpty && decide (limit < u.held false) then none
  else some { u with rows := u.rows ++ [if l.isEmpty then { q with phase := .done } else q] }

/-- The next row of a GATHER. Rubble that the walk comes back to is kept. -/
def Xfer.nextRow (xi : XI) (limit : Nat) (t : Xfer) : Option Xfer :=
  let u := t.scan
  let rs := xi.groupRows u
  let go : Xfer := if t.sub + 1 < rs.length then { t with sub := t.sub + 1 } else { t with scan := xi.groupLast u + 1, sub := 0 }
  let again : Bool := Dsc.p xi.b (Dsc.rank xi.b - 1) != rowDim xi.a
  match rs[t.sub]? with
  | none => some go
  | some r =>
    let e := { t.env with unit := u }
    let p : Life := { w := xi.w, lo := u, hi := xi.groupLast u, keep := again }
    match xi.rubble e r with
    | .need l => t.planStaged p l
    | .fault _ => none
    | .ok v =>
      if !rowIn xi.a v || t.rows.any (fun q => q.pos == r && decide (q.lo ≤ u) && decide (u ≤ q.hi)) then some go
      else
        let q : RowSt := { pos := r, v := v, wt := 0, lo := u, hi := xi.groupLast u }
        match xi.rowPlan e q with
        | .need l => t.planStaged p l
        | .fault _ => none
        | .ok l => (t.startRow xi q l limit).map (fun t => { t with scan := go.scan, sub := go.sub })

/-- Rows that no later unit takes are gone; the versions of those that the guard has passed enter the digest (R467). -/
def Xfer.passRows (xi : XI) (t : Xfer) : Xfer :=
  let gone := t.rows.filter (fun q => decide (q.hi < t.cursor))
  { t with rows := t.rows.filter (fun q => decide (t.cursor ≤ q.hi)),
           vdig := if xi.trg then gone.foldl (fun v q => crcBytes v (xi.versions { t.env with unit := q.lo } q)) t.vdig else t.vdig }

/-! ### Open bags (R260, R268, R286) -/

/-- Bags that may be open at once (R190, R268). -/
def XI.bagLimit (xi : XI) : Nat := min 32 (32768 * xi.w / rowElems xi.a)

/-- The next bag opens; its length is checked (R190, R260). -/
def Xfer.openBag (xi : XI) (t : Xfer) : Option Xfer :=
  if t.bagBad ∨ xi.units ≤ t.bagNext ∨ xi.bagLimit ≤ (t.bags.filter (fun g => g.len != 0)).length then none
  else match xi.bagLen { t.env with unit := t.bagNext } t.bagNext with
  | .need l => t.planStaged { w := xi.w, lo := t.bagNext, hi := t.bagNext } l
  | .fault _ => none
  | .ok n =>
    if 16777215 < n ∨ Dsc.ext xi.c 0 < t.bagOff + n then some { t with bagBad := true }
    else some { t with bags := t.bags ++ [{ no := t.bagNext, off := t.bagOff, len := n }], bagNext := t.bagNext + 1, bagOff := t.bagOff + n }

/-- The rubble value and the weight of a bag's row, and what is read of it. -/
def XI.bagRow (xi : XI) (e : Env) (g : Bag) (r : Nat) : Rd (RowSt × List Need) :=
  (xi.rubble e r).bind (fun v => (if xi.md % 8 = 1 then xi.weight e r else .ok 0).bind (fun wt =>
    let q : RowSt := { pos := r, v := v, wt := wt, lo := g.no, hi := g.no }
    if rowIn xi.a v then (xi.rowPlan e q).map (fun l => (q, l)) else .ok (q, [])))

/-- The next row of a POOL, or its next bag. -/
def Xfer.nextBagRow (xi : XI) (limit : Nat) (t : Xfer) : Option Xfer :=
  match t.bags.find? (fun g => decide (g.off ≤ t.scan) && decide (t.scan < g.off + g.len)) with
  | none => t.openBag xi
  | some g =>
    match xi.bagRow { t.env with unit := g.no } g t.scan with
    | .need l => t.planStaged { w := xi.w, lo := g.no, hi := g.no } l
    | .fault _ => none
    | .ok (q, l) => (t.startRow xi q l limit).map (fun t => { t with scan := t.scan + 1 })

/-- The row that a bag takes next enters its accumulators, once it has been read and accepted. -/
def Xfer.takeRow (xi : XI) (t : Xfer) (g : Bag) : Option Xfer :=
  match t.rows.find? (fun q => q.pos == g.off + g.done && q.phase == .done && decide (g.done < g.len)) with
  | none => none
  | some q =>
    let e := { t.env with unit := g.no }
    match xi.lanes e (.row q.pos) q.v with
    | .ok els =>
      let g' := g.take xi q.wt els (if xi.trg && rowIn xi.a q.v then xi.versions e q else [])
      some ({ t with bags := t.bags.map (fun (x : Bag) => if x.no == g.no then g' else x), rows := t.rows.filter (fun r => !r.same q) }.dropRow q)
    | _ => none

def Xfer.takeRows (xi : XI) (t : Xfer) : Option Xfer := t.bags.findSome? (t.takeRow xi)

/-- A fault that the first open bag has come to: of the rubble's block list, of the table's (R112). -/
def Xfer.bagFault (xi : XI) (t : Xfer) : Option Nat :=
  match t.bags with
  | [] => if t.bagBad then some 0x9E else (match xi.bagLen { t.env with unit := t.bagNext } t.bagNext with | .fault c => some c | _ => none)
  | g :: _ =>
    let e := { t.env with unit := g.no }
    if g.done = g.len then none
    else match xi.bagRow e g (g.off + g.done), t.rows.find? (fun q => q.pos == g.off + g.done) with
      | .fault c, _ => some c
      | _, some q => if q.phase = .done then (match xi.lanes e (.row q.pos) q.v with | .fault c => some c | _ => none) else none
      | _, none => none

/-- What the row that a bag takes next lacks, beside its own bytes. -/
def Xfer.bagLacks (xi : XI) (t : Xfer) (g : Bag) : List Need :=
  match t.rows.find? (fun q => q.pos == g.off + g.done) with
  | some q => (match xi.lanes { t.env with unit := g.no } (.row q.pos) q.v with | .need l => l | _ => [])
  | none => []

/-! ### What the walk plans next (R117, R371–R373) -/

/-- A walk as its plan sees it: MSET's is made of its slices. -/
structure View where
  total : Nat
  unit  : Env → WAcc → Nat → Rd UOut
  /-- the copy that a unit belongs to, and the number of its first unit -/
  part  : Nat → Option (XI × Nat)

/-- Units of a walk with its last one. -/
def XI.total (xi : XI) : Nat := if xi.isEmpty then 0 else xi.units + 1

def XI.view (xi : XI) : View :=
  { total := xi.total, unit := xi.unit, part := fun u => if u < xi.units then some (xi, 0) else none }

def slicesView (l : List XI) : View :=
  { total := sliceUnits l + 1, unit := msetUnit l, part := fun u => (findSlice l u).map (fun (x, j) => (x, u - j)) }

/-- What has been read stays in staging for units to come beyond its group. -/
def XI.shares (xi : XI) : Bool := xi.reuse || xi.sharedLen.isSome

/-- The next item of a walk is planned. None: nothing can be planned now. Beyond the current group, credits bound it. -/
def Xfer.nextItem (v : View) (w limit : Nat) (t : Xfer) : Option Xfer :=
  let u := t.scan
  let e := { t.env with unit := u }
  let (r, p, n, last, first, shared) : Rd Unit × Life × Nat × Nat × Nat × Bool := match v.part u with
    | some (x, base) => (x.item e t.acc (u - base) t.sub, { w := w, lo := u, hi := base + x.lifeLast (u - base), reuse := x.reuse },
        x.items (u - base), base + x.groupLast (u - base), base + x.groupFirst (u - base), x.shares)
    | none => ((v.unit e t.acc u).map (fun _ => ()), { w := w, lo := u, hi := u }, 1, u, u, false)
  let go := fun (t : Xfer) => if t.sub + 1 < n then { t with sub := t.sub + 1 } else { t with scan := last + 1, sub := 0 }
  match r with
  | .ok _ => some (go t)
  | .fault _ => if 1 < n then some (go t) else none
  | .need [] => none
  | .need l =>
    if l.any (fun q => q.kind.staged) then t.planStaged p l
    else
      let t' := t.plan p l
      if decide (t.cursor < first) && decide (limit < t'.held shared) then none else some (go t')

/-- Item by item, a walk plans what it reads. -/
def Xfer.next (v : View) (xi : XI) (limit : Nat) (t : Xfer) : Option Xfer :=
  if xi.op = 0x45 ∧ t.cursor < xi.units then t.nextBagRow xi limit
  else if v.total ≤ t.scan then none
  else if xi.op = 0x44 ∧ t.scan < xi.units then t.nextRow xi limit
  else t.nextItem v xi.w limit

/-- What the current unit lacks and no plan covers. -/
def Xfer.planNow (v : View) (xi : XI) (l : List Need) (t : Xfer) : Option Xfer :=
  let hi := match v.part t.cursor with | some (x, base) => base + x.lifeLast (t.cursor - base) | none => t.cursor
  let u := t.plan { w := xi.w, lo := t.cursor, hi := hi } (l.filter (fun n => !n.kind.isRow))
  if u.lines = t.lines then none else some u

/-- The reads of a stage-all copy, in source walk order: whole granules, kept (R220). -/
def Xfer.nextStaged (xi : XI) (t : Xfer) : Option Xfer :=
  if Dsc.count xi.a ≤ t.sub then none
  else
    let i := Dsc.unrank xi.a t.sub
    let l := match ({ t.env with unit := 0 } : Env).srcEl .data xi.a (Dsc.aOf xi.a i) t.sub with
      | .need l => l.map (fun n => { n with va := n.va / 256 * 256, n := (n.va % 256 + n.n + 255) / 256 * 256 })
      | _ => []
    some { t.plan { w := xi.w, lo := 0, hi := 0, keep := true } l with sub := t.sub + 1 }

end Sys2Proof.Machine
end

