-- ==== Sys2Proof/Machine/Checks.lean ====
section
/-! DEFINITION. The issue checks of transfers (R124, R131, R155, R167–R178, R182–R205, R210, R217–R220, R253,
R258, R281). -/

namespace Sys2Proof.Machine

/-! ### Fields (R129, R155, R167, R168) -/

def mTA : Word := maskBits 52 4
def mTB : Word := maskBits 48 4
def mTC : Word := maskBits 44 4
def mVOL : Word := maskBits 23 1
def mSHD : Word := maskBits 22 1
/-- What every transfer uses: OPC, PG, PGN, KS, KM, PRI. -/
def maskX : Word := maskBits 56 8 ||| maskBits 40 4 ||| maskBits 28 12 ||| maskBits 26 2 ||| maskBits 24 2

/-- The encoding conditions shared by the transfers: the fields used, the largest KM, KS = 0 with KM = 0. -/
def encX (fields : Word) (kmMax : Nat) (w : Word) : Bool :=
  unusedZero (maskX ||| fields) w && decide (wKM w ≤ kmMax) && (wKM w != 0 || wKS w == 0)

/-- The counter a transfer names (R133). -/
def xCtr (w : Word) : Option Nat := if wKM w = 0 then none else some (wKS w)

def rsel (w : Word) : Nat := wMOD w / 2 % 16
def isLdrt (w : Word) : Bool := bitB w 5

def encMove (w : Word) : Bool :=
  encX (mTA ||| mTB ||| mTC ||| mVOL ||| mSHD ||| maskBits 0 5) 3 w && decide (rsel w ≤ 8)
def encLdrt (w : Word) : Bool :=
  encX (mTA ||| mVOL ||| mSHD ||| maskBits 1 5) 1 w && decide (1 ≤ rsel w) && decide (rsel w ≤ 8)
def encMset : Word → Bool := encX (mTC ||| mVOL ||| mSHD) 3
def encFill : Word → Bool := encX mTB 3
def encWindow : Word → Bool := encX (mTA ||| mTB ||| mVOL ||| mSHD) 3
def mABC : Word := mTA ||| mTB ||| mTC
def encGather : Word → Bool := encX (mABC ||| mVOL ||| mSHD ||| maskBits 0 1) 3
def encPool (w : Word) : Bool := encX (mABC ||| mVOL ||| mSHD ||| maskBits 0 4) 3 w && decide (wMOD w % 8 ≤ 4)
def encScatter (w : Word) : Bool := encX (mABC ||| mVOL ||| maskBits 0 4) 3 w && decide (wMOD w % 8 ≤ 4)
def encExpand : Word → Bool := encX (mABC ||| mVOL ||| mSHD) 3
def encPack : Word → Bool := encX (mABC ||| mVOL) 3
def encDigest : Word → Bool := encX (mTA ||| mTB ||| mVOL) 3
def encPrefetch : Word → Bool := encX (mTA ||| mVOL ||| maskBits 0 1) 1
def encSend (w : Word) : Bool := encX (mTA ||| mTB ||| mVOL ||| maskBits 13 9) 3 w && wMOD w / 2 ^ 14 % 4 != 3
def encDeleg (w : Word) : Bool :=
  let dop := wMOD w / 2 ^ 14 % 4
  encX (mABC ||| mVOL ||| maskBits 13 9 ||| maskBits 0 4) 2 w && dop != 3 &&
    (if dop = 0 then wMOD w % 16 / 2 == 0 else decide (wMOD w % 8 ≤ 4))
def encCinv : Word → Bool := encX mTA 1

/-! ### Descriptors in their roles (R124) -/

def Ctx.desc (x : Ctx) (n : Nat) : Desc := { words := (List.range 32).map (x.td n) }

/-- The operands of a transfer: the word, its opcode (of the delegated instruction for DELEG), MOD's low
bits, the gang size. -/
structure XOp where
  w  : Word
  op : Nat
  md : Nat
  a  : Desc
  b  : Desc
  c  : Desc
  gang : Nat
  deriving DecidableEq, Repr

/-- The operands of context `c`'s transfer word. -/
def Ctx.xop (x : Ctx) (w : Word) : XOp :=
  let o := wOpc w
  let dop := wMOD w / 2 ^ 14 % 4
  { w := w, op := if o = 0x4C then (if dop = 0 then 0x44 else if dop = 1 then 0x45 else 0x46) else o,
    md := if o = 0x4C then wMOD w % 16 else wMOD w, a := x.desc (wTA w), b := x.desc (wTB w), c := x.desc (wTC w), gang := x.size }

/-- MOVE writes side sums: MOD.SUMS or TB's SUMS (R183). -/
def XOp.sums (o : XOp) : Bool := o.op == 0x40 && !isLdrt o.w && (bitB o.w 0 || Dsc.sums o.b)

/-- The torn-row guard is in force (R95, R285). -/
def XOp.trg (o : XOp) : Bool :=
  (o.op == 0x44 && (o.md % 2 == 1 || Dsc.trg o.a)) || (o.op == 0x45 && (o.md / 8 % 2 == 1 || Dsc.trg o.a))

def XOp.rowupd (o : XOp) : Bool := o.op == 0x46 && o.md / 8 % 2 == 1

/-- WINDOW's shapes (R187). -/
def windowShape (a b : Desc) : Bool :=
  Dsc.rank b == Dsc.rank a + Dsc.nwin a && decide (Dsc.rank b ≤ 8) &&
  (Dsc.dims a).all (fun l => Dsc.lext a l == Dsc.lext b l) &&
  (List.range (Dsc.nwin a)).all (fun d => Dsc.lext b (Dsc.rank a + d) == Dsc.kern a d)

/-- A table operand's outermost logical dimension has the extent `n` in the other operand (R188, R190, R192). -/
def rowExt (table d : Desc) (n : Nat) : Bool := Dsc.lext d (rowDim table) == n

/-- The checks of the descriptors in the order TA, TB, TC: roles and shapes of each. -/
def XOp.checks (o : XOp) : List (Role × Bool × Desc) :=
  let dst : Role := { dst := true }
  match o.op with
  | 0x40 =>
    if isLdrt o.w then [({}, true, o.a)]
    else [({}, true, o.a), (dst, sameShape o.a o.b none, o.b)] ++ (if o.sums then [(dst, true, o.c)] else [])
  | 0x41 => [({}, true, o.c)]
  | 0x42 => [(dst, true, o.b)]
  | 0x43 => [({ win := true }, true, o.a), (dst, windowShape o.a o.b, o.b)]
  | 0x44 => [({}, true, o.a), (dst, sameShape o.a o.b (some (rowDim o.a)), o.b),
             ({}, rowExt o.a o.b (Dsc.ext o.c 0), o.c)]
  | 0x45 => [({}, true, o.a), (dst, sameShape o.a o.b (some (rowDim o.a)), o.b),
             ({ bags := true, wsum := o.md % 8 == 1 }, rowExt o.a o.b (Dsc.nbags o.c), o.c)]
  | 0x46 => [({}, true, o.a), (dst, sameShape o.a o.b (some (rowDim o.b)), o.b),
             ({}, rowExt o.b o.a (Dsc.ext o.c 0), o.c)]
  | 0x47 => [({}, true, o.a), (dst, true, o.b), ({}, sameShape o.b o.c none, o.c)]
  | 0x48 => [({}, true, o.a), (dst, true, o.b), ({}, sameShape o.a o.c none, o.c)]
  | 0x49 => [({}, true, o.a), (dst, true, o.b)]
  | 0x4B => [({}, true, o.a), (dst, sameShape o.a o.b none, o.b)]
  | _ => [({}, true, o.a)]

def firstFault : List (Option Nat) → Option Nat
  | [] => none
  | some c :: _ => some c
  | none :: r => firstFault r

def XOp.descFault (o : XOp) : Option Nat := firstFault (o.checks.map (fun (r, sh, d) => checkDesc r sh d))

/-! ### The checks of R176 -/

/-- The pairings of R239. -/
def pairOk (a b : Nat) : Bool :=
  if fmtBYTES a || fmtBYTES b then fmtBYTES a && fmtBYTES b
  else if fmtRQ b then a == b
  else true

/-- A packed object (R194, R195). -/
def packedOk (d : Desc) : Bool := fmtBYTES (Dsc.fmt d) && Dsc.rank d == 1 && Dsc.str d 0 == 1 && !Dsc.blist d

/-- Elements 0 to `n - 1` of a rank-1 operand are valid. -/
def validTo (d : Desc) (n : Nat) : Bool :=
  decide (n ≤ Dsc.ext d 0) && (Dsc.blist d || (decide (0 ≤ Dsc.org d 0) && decide (Dsc.org d 0 + (n : Int) ≤ (Dsc.lim d 0 : Nat))))

def sumsOk (o : XOp) : Bool :=
  fmtInt (Dsc.fmt o.b) && Dsc.qmode o.b != 0 && Dsc.fmt o.c == 8 && Dsc.qmode o.c == 0 &&
  Dsc.rank o.b == 2 && decide (Dsc.fmt o.b ≤ 6) && decide (Dsc.lext o.b 0 + Dsc.lext o.b 1 ≤ 32768 * o.gang) &&
  Dsc.rank o.c == 1 && validTo o.c (Dsc.lext o.b 0 + Dsc.lext o.b 1)

/-- Table formats a combine allows (R192). -/
def combineOk (o : XOp) : Bool :=
  let f := Dsc.fmt o.b
  let int := decide (3 ≤ f) && decide (f ≤ 9)
  let fp := f == 0x12 || f == 0x13 || f == 0x14
  if o.rowupd then fmtRQ f && o.md % 8 == 0
  else match o.md % 8 with
    | 0 => !fmtMX f && !fmtRQ f
    | 1 => int
    | 2 => fp
    | _ => int || fp

/-- R281: the bytes of a row are those of its allocation rows, each with its header. -/
def rowupdOk (o : XOp) : Bool :=
  !o.rowupd || (Dsc.fmt o.a == Dsc.fmt o.b && Dsc.rowhdr o.a == 1 &&
    (let one := if Dsc.rank o.b = 1 then 1 else Dsc.ext o.b 0
     decide (rowElems o.b / one * (ceilDiv (one * fmtBits (Dsc.fmt o.b)) 8 + 8) ≤ 16384)))

/-- OPFMT (R177, R182, R183, R190, R192, R194–R196, R239, R258, R281, R419). TDW1.TRG of a SCATTER's table has no effect and
needs no RQ table, SCATTER having no such modifier (R95, log 104). -/
def XOp.fmtOk (o : XOp) : Bool :=
  let fa := Dsc.fmt o.a
  let fb := Dsc.fmt o.b
  match o.op with
  | 0x40 =>
    if isLdrt o.w then fmtBYTES fa && Dsc.rank o.a == 1 && Dsc.ext o.a 0 == 1216 && Dsc.str o.a 0 == 1
    else pairOk fa fb && (if o.sums then sumsOk o else wTC o.w == 0)
  | 0x43 => pairOk fa fb
  | 0x44 => pairOk fa fb && (!o.trg || fmtRQ fa)
  | 0x45 => !fmtBYTES fa && (fmtFloat fb || (fmtInt fb && Dsc.qmode o.b == 2)) && (!o.trg || fmtRQ fa)
  | 0x46 => pairOk fa fb && combineOk o && rowupdOk o
  | 0x47 => fmtBYTES fb && fmtBYTES (Dsc.fmt o.c) && packedOk o.a
  | 0x48 => fmtBYTES fa && fmtBYTES (Dsc.fmt o.c) && packedOk o.b
  | 0x49 => fb == 9 && Dsc.rank o.b == 1 && Dsc.ext o.b 0 == 1 && Dsc.org o.b 0 == 0 && decide (1 ≤ Dsc.lim o.b 0)
  | 0x4B => pairOk fa fb && !Dsc.blist o.b && !Dsc.skip o.b
  | _ => true

/-- RUBBLE (R178). -/
def XOp.rubbleOk (o : XOp) : Bool :=
  let c := o.c
  if o.op = 0x44 ∨ o.op = 0x45 ∨ o.op = 0x46 then
    Dsc.rank c == 1 && (Dsc.fmt c == 7 || Dsc.fmt c == 8 || Dsc.fmt c == 9) && decide (1 ≤ Dsc.ext c 0) &&
      decide (Dsc.ext c 0 ≤ 16777215) && validTo c (Dsc.ext c 0)
  else true

def XOp.poolDimOk (o : XOp) : Bool := o.op != 0x45 || decide (rowElems o.a ≤ 32768 * o.gang)

/-- ROUTE (R182, R210): the slot holds a route, in every member of a gang, and the descriptors allow it. -/
def XOp.routeOk (o : XOp) (routes : List (List Byte)) : Bool :=
  let plain := fun (d : Desc) => Dsc.rank d == 1 && !Dsc.mx d && Dsc.qmode d == 0 && Dsc.rowhdr d == 0 && !Dsc.permen d &&
    !Dsc.blist d && Dsc.str d 0 == 1 && Dsc.org d 0 == 0 && decide (Dsc.ext d 0 ≤ Dsc.lim d 0) && Dsc.base d % 512 == 0
  o.op != 0x40 || isLdrt o.w || rsel o.w == 0 ||
    (routes.all (fun r => !r.isEmpty) && plain o.a && plain o.b && Dsc.fmt o.a == Dsc.fmt o.b &&
      Dsc.ext o.a 0 * fmtBits (Dsc.fmt o.a) % 4096 == 0 && !o.sums)

def rtgt (w : Word) : Nat := wMOD w / 2 ^ 16 % 64

/-- The span of a layout lies in a window (R201, R205). -/
def spanIn (d : Desc) (size : Nat) : Bool := (Dsc.spans d).all (fun s => decide (0 ≤ s.1) && decide (s.2 < (size : Int)))

/-- PACKCAP (R195). -/
def XOp.packCapOk (o : XOp) : Bool :=
  o.op != 0x48 ||
    decide (((4104 * blockCount (Dsc.count o.a) : Nat) : Int) ≤ min (Dsc.ext o.b 0 : Int) ((Dsc.lim o.b 0 : Nat) - Dsc.org o.b 0))

/-- SLICES, as far as TC itself goes (R184). -/
def XOp.slicesOk (o : XOp) : Bool :=
  let c := o.c
  let n := Dsc.ext c 0
  o.op != 0x41 || (fmtBYTES (Dsc.fmt c) && Dsc.rank c == 1 && Dsc.str c 0 == 1 && Dsc.org c 0 == 0 && decide (n ≤ Dsc.lim c 0) &&
    !Dsc.blist c && n % 16 == 0 && decide (1 ≤ n / 16) && decide (n / 16 ≤ 64))

/-! ### Overlap (R175, R183, R217–R220) -/

/-- An identity copy (R218). -/
def XOp.identity (o : XOp) : Bool :=
  o.op == 0x40 && rsel o.w == 0 && Dsc.fmt o.a == Dsc.fmt o.b && !Dsc.mx o.a && Dsc.qmode o.a == 0 && Dsc.qmode o.b == 0 &&
  Dsc.rowhdr o.a == 0 && Dsc.rowhdr o.b == 0 && Dsc.noff o.a == Dsc.noff o.b && copyOrder o.a o.b (Dsc.rank o.a)

/-- Half-bytes from a source element to its destination element. -/
def XOp.shift (o : XOp) : Int :=
  let z := List.replicate (Dsc.rank o.a) 0
  Dsc.nibAddr o.b (Dsc.aOf o.b z) - Dsc.nibAddr o.a (Dsc.aOf o.a z)

/-- Bytes of the source's spans, rounded to lines (R220). -/
def stagedBytes (a : Desc) : Nat :=
  ((Dsc.spans a).map (fun (f, l) => ((f % 512 + l - f + 1).toNat + 511) / 512 * 512)).foldl (· + ·) 0

/-- How operands that share bytes are treated (R217). -/
inductive Lap where
  | none | identity (down : Bool) | stageAll | fault
  deriving DecidableEq, Repr

def XOp.lap (o : XOp) : Lap :=
  if spansMeet (Dsc.spans o.a) (Dsc.spans o.b) then
    if o.identity then .identity (decide (0 < o.shift))
    else if rsel o.w ≠ 0 ∧ o.op = 0x40 then .fault
    else if stagedBytes o.a ≤ 262144 * o.gang then .stageAll
    else .fault
  else .none

/-- The operands read and written that no rule lets meet. -/
def XOp.meets (o : XOp) : Bool :=
  let m := fun (x y : Desc) => spansMeet (Dsc.spans x) (Dsc.spans y)
  match o.op with
  | 0x40 => !isLdrt o.w && ((o.sums && (m o.c o.a || m o.c o.b)) || o.lap == .fault)
  | 0x43 => o.lap == .fault
  | 0x44 => m o.a o.b || m o.c o.b
  | 0x45 => m o.a o.b || m o.c o.b
  | 0x46 => m o.a o.b || m o.c o.b
  | 0x47 => m o.a o.b || m o.c o.b
  | 0x48 => m o.a o.b || m o.c o.b
  | 0x49 => m o.a o.b
  | _ => false

/-- How the transfer runs: only MOVE and WINDOW have a choice. -/
def XOp.mode (o : XOp) : Lap := if (o.op = 0x40 ∧ isLdrt o.w = false) ∨ o.op = 0x43 then o.lap else .none

/-! ### All of them -/

/-- A loaded route of a mover; an empty list is an empty slot (R182). -/
def Chip.routeSlot (s : Chip) (m n : Nat) : List Byte := Tab.get [] (s.movAt m).routes n

/-- The routes that the members of a mover's team hold in a slot, in their order. -/
def Chip.routesOf (s : Chip) (m n : Nat) : List (List Byte) := (s.teamOf m).map (fun k => s.routeSlot k n)

/-- The first check of R124, R175 and R176 that fails. -/
def Chip.transferFault (s : Chip) (c : Nat) (w : Word) : Option Nat :=
  let x := s.ctxAt c
  let o := x.xop w
  let link : Bool := wOpc w == 0x4B || wOpc w == 0x4C
  let p := s.ctxPart c
  let e := rtgt w
  let win := if wOpc w = 0x4B then spanIn o.b (s.rtSize p e)
    else if wOpc w = 0x4C ∧ o.op ≠ 0x46 then spanIn o.b (s.lwSize (s.regF (Reg.rt p e 0) 40 8))
    else true
  firstFault [
    o.descFault,
    (if link && s.build.nlp == 0 then some Src.nounit else none),
    (if o.fmtOk then none else some Src.opfmt),
    (if o.rubbleOk then none else some Src.rubble),
    (if o.poolDimOk then none else some Src.pooldim),
    (if o.routeOk (s.routesOf (s.slotMover c) (rsel w - 1)) then none else some Src.route),
    (if link && !s.rtEn p e then some Src.rtgt else none),
    (if win then none else some Src.rwin),
    (if o.packCapOk then none else some Src.packcap),
    (if o.slicesOk then none else some Src.slices),
    (if !link && o.meets then some Src.overlap else none)]

/-! ### Working set (R174), in sectors of 64 B -/

def Ctx.workingSet (x : Ctx) (w : Word) : Nat :=
  let o := x.xop w
  match wOpc w with
  | 0x41 => 1536 * x.size
  | 0x47 => 1024 * x.size + 1024
  | 0x4A => 0
  | 0x4E => 0
  | _ => match o.mode with
    | .stageAll => stagedBytes o.a / 64
    | _ => 1024 * x.size

def Chip.workingSet (s : Chip) (c : Nat) (w : Word) : Nat := (s.ctxAt c).workingSet w

/-- Credits of a transfer that lie in the leader's own staging: an EXPAND's smoothing queue (R19, R40). -/
def Xfer.queue (t : Xfer) : Nat := if wOpc t.word = 0x47 ∧ t.credits ≠ 0 then 1024 else 0

/-- Staging credits that the contexts of a mover or gang hold over all of its members, and in the leader's staging alone. -/
def Chip.heldCredits (s : Chip) (m : Nat) : Nat :=
  ((slotCtxs (s.movAt m)).map (fun c => (match (s.ctxAt c).xfer with | some t => t.credits - t.queue | none => 0) + (s.ctxAt c).stgHold)).foldl (· + ·) 0
def Chip.heldQueues (s : Chip) (m : Nat) : Nat :=
  ((slotCtxs (s.movAt m)).map (fun c => match (s.ctxAt c).xfer with | some t => t.queue | none => 0)).foldl (· + ·) 0

/-- Free staging credits of a mover or gang (R371): every member carries an equal part of what its contexts hold, the leader
the smoothing queues besides (R19, R40). -/
def Chip.freeCredits (s : Chip) (m : Nat) : Nat := s.teamSize m * (8192 - s.heldQueues m) - s.heldCredits m

/-- The free credits that a transfer's working set needs: a smoothing queue fills as much of the leader's staging as a
part of every member's would. -/
def Ctx.creditNeed (x : Ctx) (w : Word) : Nat := if wOpc w = 0x47 then 2048 * x.size else x.workingSet w
def Chip.creditNeed (s : Chip) (c : Nat) (w : Word) : Nat := (s.ctxAt c).creditNeed w

end Sys2Proof.Machine
end

