-- ==== Sys2Proof/Machine/Send.lean ====
section
/-! DEFINITION. Messages that this chip sends: SEND, the result of a guest, DELEG (05_instruction_set_transfers
R200–R205, 09_delta_compression R307, 13_dweath_link R418–R428). -/

namespace Sys2Proof.Machine

/-! ### Messages -/

def Chip.msgAt (s : Chip) (id : Nat) : Option Msg := s.link.msgs.find? (fun m => m.id == id)

def Chip.updMsg (id : Nat) (f : Msg → Msg) (s : Chip) : Chip :=
  { s with link := { s.link with msgs := s.link.msgs.map (fun m => if m.id == id then f m else m) } }

/-- Tags that no message of this chip holds and none is barred (R403, R430). -/
def Chip.freeTags (s : Chip) : List Nat :=
  (List.range 4096).filter (fun t => !s.link.msgs.any (fun m => m.mtag == t) && !s.link.mbars.any (fun b => b.1 == t))

/-- Messages in flight under an entry, and the most that MCRED allows (R418). -/
def Chip.underEntry (s : Chip) (part e : Nat) : Nat :=
  (s.link.msgs.filter (fun m => m.part == part && m.entry == e)).length
def Chip.mcred (s : Chip) (part e : Nat) : Nat := s.regF (Reg.rt part e 0) 56 3 + 1

/-- A data frame of a message joins the egress of its first port; where that port is not UP the message
completes with LINK_LOST, detail 0 (R408, R416). -/
def Chip.sendFrame (m : Msg) (ty : Nat) (payload : List Byte) (s : Chip) : Chip :=
  let n := segPort m.route 0
  if s.portUp n then
    let vl := if bitB (s.reg (Reg.lk n 0)) 11 then 1 else 0
    let f : Frame := { hdr := mkHdr ty m.cls m.part m.dst s.chipId m.mtag m.route, payload := padFrame 256 payload, bad := false }
    s.queueFrame n { f := f, vl := vl, cls := m.cls, src := none, msg := some m.id, at_ := s.time }
  else s.loseMsgs [m.id] 0

/-- A message begins: it takes a tag, which one is open (log 5), and the port's room has been seen. -/
def Chip.openMsg (m : Msg) (s : Chip) : Chip :=
  let m := { m with id := s.uid, mtag := pick s.free s.freeTags, heard := s.time }
  let lk := s.link
  { s with uid := s.uid + 1, free := s.free + 1, link := { lk with msgs := lk.msgs ++ [m], gone := lk.gone.filter (· != m.mtag) } }

/-- The bytes of words. -/
def wordBytes (l : List Nat) : List Byte := l.flatMap (toBytes 8)

/-- The bytes of a descriptor's first `n` words. -/
def Desc.bytes (d : Desc) (n : Nat) : List Byte := (List.range n).flatMap (fun k => toBytes 8 (Dsc.w d k).toNat)

/-! ### The stream (R307, R419, R420) -/

/-- Valid elements of a layout in a dimension, and in all. -/
def validExt (d : Desc) (k : Nat) : Nat := (Dsc.hi d k - Dsc.lo d k + 1).toNat
def validCount (d : Desc) : Nat := ((Dsc.dims d).map (validExt d)).foldl (· * ·) 1

/-- Bytes of an RQ row in a stream: its header, which a MOVE writes with its codes (R239, R419, log 89), and the codes of its
valid elements. -/
def streamRow (d : Desc) : Nat := 8 + ceilDiv (validExt d 0 * fmtBits (Dsc.fmt d)) 8

/-- The bytes of a layout's stream. -/
def streamLen (d : Desc) : Nat :=
  if validCount d = 0 then 0
  else if Dsc.rq d then validCount d / validExt d 0 * streamRow d
  else ceilDiv (validCount d * fmtBits (Dsc.fmt d)) 8

/-- A chunk's coded form: its entry, then its payload (R307). -/
def codeChunk (k : Nat) (l : List Byte) : List Byte :=
  let (mode, len, p) := encodeBlock l l
  toBytes 8 (mkEntry mode len (4096 * k)).toNat ++ p

/-- Bytes move from `raw` to the stream: as they are, or whole chunks coded. -/
def Msg.code : Nat → Msg → Msg
  | 0, m => m
  | n + 1, m =>
    if !m.zc then { m with stream := m.stream ++ m.raw, raw := [] }
    else if 4096 ≤ m.raw.length || (m.whole && !m.raw.isEmpty) then
      Msg.code n { m with stream := m.stream ++ codeChunk m.chunk (m.raw.take 4096), chunk := m.chunk + 1, raw := m.raw.drop 4096 }
    else m

/-- The frame that is due: a full one, or the last. -/
def Msg.due (m : Msg) : Bool := !m.heads.isEmpty || decide (256 ≤ m.stream.length) || (m.whole && !m.stream.isEmpty)

/-- A DELEG frames operands within its grant only (R427). -/
def Msg.allowed (m : Msg) : Bool := !m.heads.isEmpty || !m.deleg || decide (m.sentB + min 256 m.stream.length ≤ m.granted)

/-- Frames leave the mover: each draws on the remote share and needs an egress slot (R381, R411, R418). -/
def Chip.frameOut (id : Nat) : Nat → Chip → Chip
  | 0, s => s
  | k + 1, s =>
    match s.msgAt id with
    | none => s
    | some m =>
      let mv := s.slotMover m.ctx
      let n := segPort m.route 0
      if m.due && m.allowed && (!s.portUp n || (s.portAt n).room) && s.rmFree mv then
        match m.heads with
        | (ty, p) :: r => Chip.frameOut id k (((s.updMsg id (fun m => { m with heads := r })).useRm mv).sendFrame m ty p)
        | [] =>
          let p := m.stream.take 256
          let s := (s.updMsg id (fun m => { m with stream := m.stream.drop 256, sentB := m.sentB + p.length })).useRm mv
          Chip.frameOut id k (s.sendFrame m (if m.deleg then 4 else 2) p)
      else s

/-- Every frame of a message that may leave leaves. -/
def Chip.framesOut (id : Nat) (s : Chip) : Chip :=
  match s.msgAt id with
  | some m => Chip.frameOut id (m.heads.length + m.stream.length / 256 + 1) s
  | none => s

/-- Frames wait for the remote share or for an egress slot. -/
def Chip.msgHeld (s : Chip) (id : Nat) : Bool := match s.msgAt id with | some m => m.due && m.allowed | none => false

/-- Chunks coded and those of them stored RAW are counted on the mover (R310). -/
def Chip.countChunks (old : Option Msg) (id : Nat) (s : Chip) : Chip :=
  match old, s.msgAt id with
  | some o, some m =>
    let n := m.chunk - o.chunk
    if n = 0 then s
    else
      let raws := (List.range n).filter (fun k => (let l := (o.raw.drop (4096 * k)).take 4096; (encodeBlock l l).1 == 1))
      (s.bump (Reg.mov (s.slotMover m.ctx) 0x58) 32 32 n).bump (Reg.mov (s.slotMover m.ctx) 0x58) 0 32 raws.length
  | _, _ => s

/-- Bytes join a message's stream. -/
def Chip.feedMsg (id : Nat) (bs : List Byte) (whole : Bool) (s : Chip) : Chip :=
  let s := s.updMsg id (fun m => { m with raw := m.raw ++ bs, whole := whole })
  let old := s.msgAt id
  ((s.updMsg id (fun m => Msg.code (m.raw.length / 4096 + 1) m)).countChunks old id).framesOut id

/-- Everything of the message has been handed to the link engine. -/
def Chip.msgFramed (s : Chip) (id : Nat) : Bool :=
  match s.msgAt id with | some m => m.whole && m.heads.isEmpty && m.raw.isEmpty && m.stream.isEmpty | none => true

/-- The link engine has sent the message's last frame into a replay buffer (R171). -/
def Chip.msgAccepted (s : Chip) (id : Nat) : Bool :=
  s.msgFramed id && (match s.msgAt id with
    | some m => !(s.portAt (segPort m.route 0)).egress.any (fun e => e.msg == some id && e.waits)
    | none => true)

/-! ### Opening (R201, R308, R418, R420, R426) -/

/-- A SEND's message may begin. -/
def Chip.msgRoom (s : Chip) (part e : Nat) : Bool :=
  decide (s.underEntry part e < s.mcred part e) && !s.freeTags.isEmpty &&
    (let n := segPort (s.rtRoute part e) 0; !s.portUp n || (s.portAt n).room)

/-- Compression is in force (R200, R308). -/
def Chip.zcOn (s : Chip) (part e : Nat) (w : Word) : Bool :=
  let z := wMOD w / 2 ^ 14 % 4
  (z == 1 || (z == 0 && bitB (s.reg (Reg.rt part e 0)) 62)) && (s.portAt (segPort (s.rtRoute part e) 0)).peerZc

/-- The effective class of a context's transfer (R57). -/
def Chip.xferClass (s : Chip) (c : Nat) (w : Word) : Nat := max (wPRI w) (s.ctxClass c)

/-- A message of a context's SEND or DELEG, before it has a number. -/
def Chip.newMsg (s : Chip) (c : Nat) (w : Word) : Msg :=
  let p := s.ctxPart c
  let e := rtgt w
  { id := 0, mtag := 0, deleg := wOpc w == 0x4C, ctx := c, part := p, cls := s.xferClass c w, entry := e, route := s.rtRoute p e,
    dst := s.rtDst p e, crec := bitB w 13, ring := s.regF (Reg.rt p e 0) 52 4, ip := (s.ctxAt c).ip, ks := wKS w, km := wKM w,
    len := 0, zc := false }

/-- The SHEAD payload (R420). -/
def sheadBytes (tb : Desc) (rroute len : Nat) (zc : Bool) (lwin c part dmtag : Nat) (dres : Bool) : List Byte :=
  tb.bytes 28 ++ wordBytes [rroute, len + (if zc then 2 ^ 63 else 0), lwin + c * 2 ^ 8 + part * 2 ^ 16,
    dmtag + (if dres then 2 ^ 12 else 0)]

/-- A SEND's message begins with its SHEAD. The second value is its number. -/
def Chip.openSend (c : Nat) (w : Word) (tb : Desc) (s : Chip) : Chip × Nat :=
  let p := s.ctxPart c
  let e := rtgt w
  let zc := s.zcOn p e w
  let head := sheadBytes tb (s.rtRroute p e) (streamLen tb) zc (s.regF (Reg.rt p e 0) 32 8) c p 0 false
  ((s.openMsg { s.newMsg c w with len := streamLen tb, zc := zc, heads := [(1, head)] }).framesOut s.uid, s.uid)

/-! ### DELEG's request (R204, R426) -/

/-- The index of rubble element `r` in the operand stream that already holds `n` bytes: an I64 index starts on an
8-byte boundary. -/
def shipIndex (c : Desc) (v : Int) (n : Nat) : List Byte :=
  if Dsc.fmt c = 9 then List.replicate (if n % 8 = 0 then 0 else 4) 0 ++ toBytes 8 (v % (2 ^ 64 : Nat)).toNat
  else toBytes 4 (v % (2 ^ 32 : Nat)).toNat

def pad4 (l : List Byte) : List Byte := l ++ List.replicate ((4 - l.length % 4) % 4) 0

/-- Logical indices of the elements of row `r`, the other dimensions in ascending order. -/
def rowIndices (a : Desc) (rd r : Nat) : List (List Nat) :=
  let ls := (Dsc.dims a).filter (· != rd)
  let n := ls.foldl (fun n l => n * Dsc.lext a l) 1
  (List.range n).map (fun k =>
    let x := (ls.foldl (fun (st : Nat × List (Nat × Nat)) l => (st.1 / Dsc.lext a l, (l, st.1 % Dsc.lext a l) :: st.2)) (k, [])).2
    (Dsc.dims a).map (fun l => if l = rd then r else match x.find? (fun q => q.1 == l) with | some q => q.2 | none => 0))

/-- The codes of a source row as they are stored: an RQ row with its header before it, an MX row with the scale
of every 32 codes after it. -/
def shipRow (e : Env) (a : Desc) (rd r : Nat) : Rd (List Byte) :=
  (Rd.all ((rowIndices a rd r).map (fun x =>
    let i := Dsc.alloc a x
    e.srcEl .data a (Dsc.aOf a i) (Dsc.rankOf a i)))).map (fun els =>
      let codes := packCodes (fmtBits (Dsc.fmt a)) (els.map (·.code))
      let head := if Dsc.rq a then
          (match els.find? (fun s => s.hdr.isSome) with
           | some s => toBytes 4 s.scale ++ toBytes 2 (intCode 6 s.zp) ++ [0, 0]
           | none => toBytes 4 (groutEl a).scale ++ toBytes 2 (intCode 6 (groutEl a).zp) ++ [0, 0])
        else if Dsc.rowhdr a = 1 then List.replicate 8 0 else []
      let scales := if Dsc.mx a then (List.range (ceilDiv els.length 32)).map (fun k => BitVec.ofNat 8 (els.getD (32 * k) { oob := false, code := 0 }).scale) else []
      pad4 (head ++ codes ++ scales))

/-- The operand stream of a request. A bag longer than the rubble left ships what is left: the owner finds the
length (R288). -/
def delegOperands (xi : XI) (e : Env) : Rd (List Byte) :=
  let n := Dsc.ext xi.c 0
  (Rd.all ((List.range n).map (xi.rubble e))).bind (fun vs =>
    let ship := fun (acc : List Byte) (v : Int) => acc ++ shipIndex xi.c v acc.length
    match xi.op with
    | 0x45 =>
      let nb := Dsc.nbags xi.c
      (Rd.all ((List.range nb).map (xi.bagLen e))).bind (fun ls =>
        (if xi.md % 8 = 1 then Rd.all ((List.range n).map (xi.weight e)) else .ok []).map (fun ws =>
          (ls.foldl (fun (st : List Byte × Nat) l =>
            let vs' := (vs.drop st.2).take l
            let a := vs'.foldl ship (st.1 ++ toBytes 4 l)
            (((ws.drop st.2).take l).foldl (fun a w => a ++ toBytes 4 w) a, st.2 + vs'.length)) ([], 0)).1))
    | 0x46 =>
      (Rd.all ((List.range n).map (shipRow e xi.a (rowDim xi.b)))).map (fun rows =>
        ((vs.zip rows).foldl (fun a (v, row) => ship a v ++ row) []))
    | _ => .ok (vs.foldl ship []))

/-- Word 1 and the parameter words of a dense layout: allocation dimension `k` holds `ds[k]` (R93, R99). -/
def denseWords (a : Desc) (ds : List Nat) (strs : List Nat) : List Word :=
  let n := ds.length
  let ext := (List.range 8).map (fun k => if k < n then at64 0 (Dsc.lext a (ds.getD k 0)) ||| at64 32 (strs.getD k 0) else 0)
  let orgLim := (List.range 8).map (fun k => if k < n then
      match (Dsc.dims a).find? (fun j => Dsc.p a j == ds.getD k 0) with
      | some j => if Dsc.blist a then at64 32 (Dsc.ext a j) else Dsc.w a (12 + j)
      | none => 0
    else 0)
  ext ++ orgLim

/-- T1 of a delegated SCATTER: the source rows dense from offset 0, the row's dimension outermost. -/
def denseRows (a : Desc) (rd : Nat) : Desc :=
  let ds := (Dsc.dims a).filter (· != rd) ++ [rd]
  let n := ds.length
  let bits := fmtBits (Dsc.fmt a)
  let row := ((ds.take (n - 1)).foldl (fun k l => k * Dsc.lext a l) 1)
  let rowB := (ceilDiv (row * bits) 8 + Dsc.hdr a + 7) / 8 * 8
  let pitch := if Dsc.mx a then (row + 31) / 32 * 32 else rowB * 8 / bits
  let strs := (List.range n).map (fun k => if k + 1 = n ∧ n ≠ 1 then pitch else ((ds.take k).foldl (fun m l => m * Dsc.lext a l) 1))
  let perm := (List.range n).foldl (fun w k => w ||| at64 (3 * k) (ds.getD k 0)) (0 : Word)
  let w1 := (if ds == List.range n then 0 else perm ||| flag64 24 true) ||| at64 25 (if Dsc.skip a then 1 else 0) |||
    at64 26 (Dsc.qmode a) ||| at64 30 (Dsc.rowhdr a)
  let orgs := (List.range n).map (fun k =>
    match (Dsc.dims a).find? (fun j => Dsc.p a j == ds.getD k 0) with | some j => if Dsc.blist a then 0 else Dsc.org a j | none => 0)
  let off : Int := ((orgs.zip strs).map (fun (o, t) => o * (t : Int))).foldl (· + ·) 0
  let base := vaOf (-(off * (bits : Int)) / 8)
  { words := [at64 0 base ||| at64 52 n ||| at64 56 (Dsc.fmt a), w1, Dsc.w a 2, Dsc.w a 3] ++ denseWords a ds strs ++
      List.replicate 7 0 ++ [at64 0 (2 ^ 51)] ++ List.replicate 4 0 }

/-- The instruction that the guest executes (R426): VOL governs its table reads (R288). -/
def guestWord (o : XOp) : Word :=
  at64 56 o.op ||| at64 52 0 ||| at64 48 1 ||| at64 44 2 ||| flag64 23 (wVOL o.w) ||| at64 0 (o.md % 16)

/-- The images T0, T1, T2 of a request. -/
def delegImages (o : XOp) : List Desc :=
  if o.op = 0x46 then [o.b, denseRows o.a (rowDim o.b), o.c] else [o.a, o.b, o.c]

/-- A DELEG's request begins: DHEAD, the images, and its operands as they are granted. -/
def Chip.openDeleg (c : Nat) (o : XOp) (ops : List Byte) (s : Chip) : Chip × Nat :=
  let p := s.ctxPart c
  let e := rtgt o.w
  let v := s.reg (Reg.rt p e 0)
  let head := wordBytes [(guestWord o).toNat, s.rtRroute p e, fldN v 32 8 + fldN v 40 8 * 2 ^ 8 + c * 2 ^ 16 + p * 2 ^ 24, ops.length]
  let heads := (3, head) :: (delegImages o).map (fun d => (4, d.bytes 32))
  ((s.openMsg { s.newMsg c o.w with len := ops.length, heads := heads, stream := ops, whole := true }).framesOut s.uid, s.uid)

end Sys2Proof.Machine
end

