-- ==== Sys2Proof/Machine/Walk.lean ====
section
/-! DEFINITION. The walk of a transfer: its reads, its writes, its cursor (03_tensor_descriptors R117–R123,
05_instruction_set_transfers, 08_embedding_pooling R285, 11_memory_model R347–R348, 12_streaming_and_traffic
R371–R382).

A walk advances step by step, as far as its operands, its credits, its shares and its ports let it, while its context is
READY and current (R58, log 26). -/

namespace Sys2Proof.Machine

/-! ### The transfer of a context -/

def Chip.updXfer (c : Nat) (f : Xfer → Xfer) (s : Chip) : Chip := s.updCtx c (fun x => { x with xfer := x.xfer.map f })

/-- A guest waits for the rest of its operands (R427). -/
def Chip.operandsDue (s : Chip) (c : Nat) : Bool :=
  s.link.delegs.any (fun d => d.guest == some c && decide (d.ops.length < d.len))

/-- Nothing has stopped the transfer (R123, R134, R335). -/
def Chip.walking (s : Chip) (c : Nat) : Bool :=
  let x := s.ctxAt c
  !x.ended && x.walk.isNone && !s.operandsDue c &&
    (match x.xfer with
     | some t => t.halt.isNone && (t.fault.isNone || wOpc t.word == 0x4E) && !t.restoring
     | none => false)

/-- The operands of a context's transfer. A guest's SCATTER has its table in T0 and the rows shipped in T1 (R426). -/
def Chip.opOf (s : Chip) (c : Nat) (t : Xfer) : XOp :=
  let o := (s.ctxAt c).xop t.word
  if t.shipped.isSome && o.op == 0x46 then { o with a := o.b, b := o.a } else o

/-- The instruction as its walk sees it; `routes` are the images of the route slot it names. -/
def XOp.xi (o : XOp) (pass : Nat) (routes : List (List Byte)) : XI :=
  { op := if o.op = 0x4B then 0x40 else o.op, a := o.a, b := o.b, c := o.c, md := o.md, w := o.gang, pass := pass,
    sums := o.sums, trg := o.trg, down := o.mode == .identity true,
    route := if o.op = 0x40 ∧ isLdrt o.w = false ∧ rsel o.w ≠ 0 then some routes else none,
    ldrt := o.op == 0x40 && isLdrt o.w }

def Chip.xiOf (s : Chip) (c : Nat) (t : Xfer) : XI :=
  (s.opOf c t).xi t.pass (s.routesOf (s.slotMover c) (rsel t.word - 1))

/-- The transfer writes into a message: a SEND, or a guest's GATHER or POOL (R201, R428). -/
def Xfer.remote (t : Xfer) : Bool := wOpc t.word == 0x4B || (t.shipped.isSome && wOpc t.word != 0x46)

/-- A statistics field of the transfer's mover or gang leader. -/
def Chip.count (c r lo n k : Nat) (s : Chip) : Chip := if k = 0 then s else s.bump (Reg.mov (s.slotMover c) r) lo n k

/-- Requests of any stage that bring bytes. -/
def Chip.bringing (s : Chip) : List PortReq := s.allRequests ++ s.ports.fills.map (·.r)

/-- How a step of a walk leaves it: it has done something and may go on; it waits for a slot of a share, a pinned set, a commit or an egress
slot, and holds its mover (R382); or only an answer lets it go on. -/
inductive Go where
  | go | hold | stop
  deriving DecidableEq, Repr

/-! ### Faults of the walk (R179, R260) -/

/-- Writes of a context's transfer that have not been answered. -/
def Chip.pendingWrites (s : Chip) (c : Nat) : Bool := s.bringing.any (fun r => r.ctx == some c && r.write)

/-- Combines and row updates of a context that no bank has applied yet. -/
def Chip.pendingRows (s : Chip) (c : Nat) : Bool := s.segs.any (fun g => g.ctx == c) || s.groups.any (fun g => g.ctx == c)

/-- The walk stops at a fault, which is raised once every write made before it stands. -/
def Chip.holdFault (c : Nat) (r : Report) (s : Chip) : Chip := s.updXfer c (fun t => { t with fault := some (t.fault.getD r) })

/-- What a guest's walk has written into its result before a fault leaves for the requester (R288). -/
def Chip.lastFrames (t : Xfer) (s : Chip) : Chip :=
  match (if t.shipped.isSome && t.fault.isSome then t.msg.bind s.msgAt else none) with
  | some m =>
    if m.whole then s.framesOut m.id
    else s.feedMsg m.id (match t.odig.nib with | some l => [BitVec.ofNat 8 l] | none => []) true
  | none => s

/-- A fault that the walk stopped at is raised: no write made before it is still on its way, and no byte of a guest's result.
CINV raises its own at its end (R206). -/
def Chip.faultStep (c : Nat) (s : Chip) : Chip :=
  let x := s.ctxAt c
  match x.xfer with
  | none => s
  | some t =>
    match t.fault with
    | none => s
    | some r =>
      if wOpc t.word = 0x4E ∨ (x.st ≠ .waiting ∧ x.st ≠ .ready) ∨ x.ended ∨ t.out ≠ [] ∨ s.pendingWrites c ∨ s.pendingRows c then s
      else
        let s := s.lastFrames t
        if t.shipped.isSome && (match t.msg with | some id => !s.msgFramed id | none => false) then s
        else ((s.updXfer c (fun t => { t with fault := none })).updCtx c (fun x => { x with ended := true, faddr := x.ip })).report r

/-- The walk meets a fault of its own. -/
def Chip.walkFault (c code : Nat) (s : Chip) : Chip :=
  match (s.ctxAt c).xfer with
  | some t => if wOpc t.word = 0x4E then s.ownFault c code else s.holdFault c (s.ownReport c code)
  | none => s

/-- The walk meets a translation fault: one that ends the context is held like its own, the others halt it. -/
def Chip.walkTrFault (c : Nat) (req : WalkReq) (code level : Nat) (s : Chip) : Chip :=
  match (s.ctxAt c).xfer with
  | none => s
  | some t =>
    if wOpc t.word = 0x4E then s.trFault c req code level
    else if code = 5 then s.holdFault c (s.ownReport c Src.paddr)
    else if 3 ≤ s.sevOf (0x67 + code) then s.holdFault c { s.ownReport c (0x67 + code) with ends := false }
    else s.trFault c req code level

/-! ### Reads (R348, R371, R377, R381) -/

/-- A line takes bytes that have landed. -/
def SLine.land (m : BitVec 256) (d : Granule) (l : SLine) : SLine :=
  { l with got := l.got ||| m, data := mergeMask (wide m) l.data d }

/-- Bytes land with the context that asked for them. -/
def Chip.deliver (d : Dest) (g : Granule) (s : Chip) : Chip :=
  let put := fun (l : SLine) => if l.run = d.run ∧ l.id = d.line then l.land d.mask g else l
  s.updCtx d.ctx (fun x => { x with stgBuf := x.stgBuf.map put, xfer := x.xfer.map (fun t => { t with lines := t.lines.map put }) })

/-- Bytes that have not come are to be asked for again. -/
def Chip.unask (d : Dest) (s : Chip) : Chip :=
  let put := fun (l : SLine) => if l.run = d.run ∧ l.id = d.line then { l with asked := l.asked &&& ~~~(d.mask &&& ~~~l.got) } else l
  s.updXfer d.ctx (fun t => { t with lines := t.lines.map put })

/-- The sectors from the lowest to the highest of a set: what one port request carries (R543). -/
def hull (v : BitVec 4) : BitVec 4 :=
  BitVec.ofNat 4 ((List.range 4).foldl (fun n k =>
    if (onesBelow v 4).any (fun i => decide (i ≤ k)) && (onesBelow v 4).any (fun i => decide (k ≤ i)) then n + 2 ^ k else n) 0)

/-- The runs of neighbouring sectors of a set. -/
def runs (v : BitVec 4) : List (BitVec 4) :=
  (onesBelow v 4).foldl (fun l k =>
    match l.getLast? with
    | some r => if bitB r (k - 1) && decide (1 ≤ k) then l.dropLast ++ [r ||| BitVec.ofNat 4 (2 ^ k)] else l ++ [BitVec.ofNat 4 (2 ^ k)]
    | none => [BitVec.ofNat 4 (2 ^ k)]) []

/-- The fills of a granule on their way (R377). -/
def Chip.fillsOf (s : Chip) (g : Nat) : List PortReq := s.bringing.filter (fun r => isFill r.kind && r.loc == g)

/-- Changes the request of a number, wherever it stands. -/
def Chip.updReq (id : Nat) (f : PortReq → PortReq) (s : Chip) : Chip :=
  let h := fun (r : PortReq) => if r.id == id then f r else r
  let ps := s.ports
  { s with ports := { ps with queue := ps.queue.map h, outs := ps.outs.map (fun (o : Outst) => { o with r := h o.r }),
                              fills := ps.fills.map (fun (x : FillDone) => { x with r := h x.r }) } }

/-- A request of a context's transfer. -/
def Chip.ctxReq (s : Chip) (c : Nat) (kind : ReqKind) (write : Bool) (lane : Lane) (g va cls : Nat) : PortReq :=
  { id := 0, kind := kind, write := write, lane := lane, loc := g, mask := 0, va := va, ctx := some c, part := some (s.ctxPart c),
    cls := cls, req := s.slotMover c }

/-- Sectors that a fill of a granule still has to ask for: needed, and not on their way. -/
def Chip.newSectors (s : Chip) (g : Nat) (need : BitVec 4) : BitVec 4 :=
  need &&& ~~~((s.fillsOf g).foldl (fun v r => v ||| sectorsOf r.mask) 0)

/-- Fills of a granule go out, one for each run of sectors that none brings yet; the bytes come with the last fill that is on
its way then (R377). -/
def Chip.fillGranule (g : Nat) (need : BitVec 4) (r : PortReq) (d : List Dest) (s : Chip) : Chip :=
  let s := (runs (s.newSectors g need)).foldl (fun s v => s.enq { r with mask := sectorBytes v }) s
  match (s.fillsOf g).getLast? with
  | some f => s.updReq f.id (fun f => { f with dests := f.dests ++ d })
  | none => s

/-- A read goes out, or waits for the fill that brings its sectors already (R377). -/
def Chip.fetchGranule (c cls va : Nat) (d : Dest) (p : Place) (tr : Option Leaf) (cached : Bool) (s : Chip) : Chip :=
  let g := granuleOf p.loc
  if cached then
    s.fillGranule g (sectorsOf (d.mask &&& ~~~((s.lineAt g).serves false))) { s.ctxReq c .fill false p.lane g va cls with tr := tr } [d]
  else s.enq { s.ctxReq c .xread false p.lane g va cls with mask := sectorBytes (hull (sectorsOf d.mask)), dests := [d], tr := tr }

/-- A translated read is served by the row cache or goes out; sectors of table rows count as hits or as misses (R276). -/
def Chip.serve (c cls va : Nat) (row : Bool) (d : Dest) (p : Place) (tr : Option Leaf) (s : Chip) : Chip :=
  let g := granuleOf p.loc
  let l := s.lineAt g
  let inRc := p.alloc && s.rcOn
  let miss := if inRc then d.mask &&& ~~~(l.serves d.vol) else d.mask
  let s := if row && inRc then
      (s.countRowSectors Reg.rcEmbmiss (sectorsOf miss)).countRowSectors Reg.rcEmbhit (sectorsOf d.mask &&& ~~~(sectorsOf miss))
    else s
  if inRc && miss == 0 then
    if l.lost then s.lostFault c
    else (if d.vol then s else s.lineUse g cls true).deliver d l.data
  else s.fetchGranule c cls va d p tr (inRc && !d.vol)

/-- The walk that a read belongs to (R341): the operand of TC is the auxiliary walk. -/
def XOp.walkOf (o : XOp) (k : NeedKind) (va : Nat) : WalkKind :=
  match k with
  | .data | .side | .idx | .stg | .row _ | .hdr2 _ => .source
  | .aux | .rub => .aux
  | .desc => if (Dsc.spans o.c).any (fun s => decide (s.1 ≤ (va : Int)) && decide ((va : Int) ≤ s.2)) then .aux else .other
  | _ => .other

/-- A walk has read source bytes of a granule, or written destination bytes of it (R109, R222). -/
def Chip.noteRead (c g : Nat) (m : BitVec 256) (s : Chip) : Chip :=
  s.updXfer c (fun t => { t with srcs := Tab.upd 0 g (fun k => k ||| m) t.srcs })
def Chip.noteDst (c g : Nat) (m : BitVec 256) (s : Chip) : Chip :=
  s.updXfer c (fun t => { t with dsts := Tab.upd 0 g (fun k => k ||| m) t.dsts })

/-- The first address of a line that has not been asked for. -/
def SLine.first (l : SLine) : Nat := l.key + ((onesBelow (l.want &&& ~~~l.asked) 256).headD 0)

/-- The line whose bytes a page walk has brought the translation of, else the one that is due. -/
def Chip.dueLine (s : Chip) (c : Nat) (t : Xfer) (l : SLine) : SLine :=
  match (s.ctxAt c).leaf with
  | some f => ((t.lines.filter SLine.due).find? (fun l => f.e.hits (s.ctxPart c) (s.ctxAsid c) l.first)).getD l
  | none => l

/-- A page of the line's window that misses: the whole window waits for it (R118). -/
def Chip.windowMiss (s : Chip) (c : Nat) (t : Xfer) (l : SLine) : Option SLine :=
  if (s.ctxAt c).leaf.isSome then none
  else (t.lines.filter SLine.due).find? (fun x => x.kind == l.kind && x.win == l.win && s.look c .read x.first == .miss)

/-- The due bytes of a line are read: translated, counted against the read share, served or asked for. -/
def Chip.askStage (c : Nat) (t : Xfer) (l : SLine) (s : Chip) : Chip × Go :=
  let m := s.slotMover c
  let o := s.opOf c t
  if s.rdFree m = false then (s, .hold)
  else
    let l := s.dueLine c t l
    match s.windowMiss c t l with
    | some x => (s.startWalk c { va := x.first, acc := .read, walk := o.walkOf x.kind x.first }, .go)
    | none =>
      let va := l.first
      let mask := l.want &&& ~~~l.asked
      let req : WalkReq := { va := va, acc := .read, walk := o.walkOf l.kind va }
      match s.look c .read va with
      | .ok _ p tr =>
        if s.tnWaits p then (s, .hold)
        else
          let s := ((s.lookTouch c va).useRd m).updXfer c (fun t =>
            { t with lines := t.lines.map (fun x => if x.same l then { x with asked := x.asked ||| mask } else x) })
          let s := if l.kind.credit then s.noteRead c (granuleOf p.loc) mask else s
          (s.serve c (s.xferClass c t.word) l.key l.kind.isRow { ctx := c, run := l.run, line := l.id, vol := wVOL t.word, mask := mask } p (some tr), .go)
      | .miss => (s.startWalk c req, .go)
      | .fault code level => ((s.lookTouch c va).walkTrFault c req code level, .go)

/-! ### Credits (R371–R375) -/

/-- A context of the mover or gang waits for credits. -/
def Chip.creditWaits (s : Chip) (m : Nat) : Bool :=
  (slotCtxs (s.movAt m)).any (fun d => (s.ctxAt d).st == .waiting && (s.ctxAt d).wait == some .credit)

/-- The walk may take run-ahead credits (R372, R374). -/
def Chip.runsAhead (s : Chip) (c : Nat) (t : Xfer) : Bool :=
  let o := wOpc t.word
  bitB (s.reg Reg.govCred) 0 && (o == 0x40 || o == 0x43 || o == 0x48 || o == 0x49 || o == 0x4B || (o == 0x41 && t.pass == 3)) &&
    (s.opOf c t).mode != .stageAll && !s.creditWaits (s.slotMover c)

/-- The sectors of source data that a walk may hold: its working set, an EXPAND its smoothing queue; with run-ahead what is
free, up to one staging half (R303, R372, R375). -/
def Chip.creditLimit (s : Chip) (c : Nat) (t : Xfer) : Nat :=
  let w := (s.ctxAt c).size
  let base := if wOpc t.word = 0x47 then 1024 else 1024 * w
  if s.runsAhead c t then max base (min (4096 * w - (s.ctxAt c).stgHold) (t.credits + s.freeCredits (s.slotMover c))) else base

/-- The credits held follow the lines held: the working set at least (R371). -/
def Chip.takeCredits (c : Nat) (shared : Bool) (s : Chip) : Chip :=
  match (s.ctxAt c).xfer with
  | none => s
  | some t => let n := s.workingSet c t.word; if n = 0 then s else s.updXfer c (fun t => { t with credits := max n (t.held shared) })

/-! ### The next reads -/

/-- A step of the table rows in flight, with its counts (R285, R289). -/
def Chip.countTried (c : Nat) (r : Tried) (s : Chip) : Chip :=
  match r with
  | .none => s
  | .retried => s.count c 0x48 0 32 1
  | .torn => s.count c 0x48 32 32 1

/-- The walk stands: rows go on, lines are asked for, what comes next is planned. `l` is what the current unit lacks. -/
def Chip.readStep (c : Nat) (t : Xfer) (v : View) (xi : XI) (l : List Need) (s : Chip) : Chip × Go :=
  match t.rowsStep xi with
  | some (t', r) => ((s.updXfer c (fun _ => t')).countTried c r, .go)
  | none =>
    match t.ripe with
    | some x => s.askStage c t x
    | none =>
      let now := if t.scan ≤ t.cursor ∧ xi.op ≠ 0x44 ∧ xi.op ≠ 0x45 then none else t.planNow v xi l
      match now.or (t.next v xi (s.creditLimit c t)) with
      | some t' => ((s.updXfer c (fun _ => t')).takeCredits c xi.shares, .go)
      | none => match t.due with
        | some x => s.askStage c t x
        | none => (s, .stop)

/-! ### Writes (R347, R348, R381) -/

def Wr.wbytes (w : Wr) : List WByte :=
  if w.bits = 4 then
    [{ va := w.at_ / 2, m := if w.at_ % 2 = 0 then 0x0F else 0xF0, v := BitVec.ofNat 8 (w.code % 16 * 16 ^ (w.at_ % 2)) }]
  else (List.range (w.bits / 8)).map (fun i =>
    { va := vaOf ((w.at_ / 2 + i : Nat) : Int), m := 0xFF, v := BitVec.ofNat 8 (w.code / 256 ^ i) })

/-- The bytes of writes by granule and course, in the order in which they are first written. -/
def addWByte (crs : Nat) (b : WByte) : List OutWr → List OutWr
  | [] => [{ va := b.va / 256 * 256, crs := crs, bytes := [b] }]
  | o :: r => if o.va = b.va / 256 * 256 ∧ o.crs = crs then { o with bytes := o.bytes ++ [b] } :: r else o :: addWByte crs b r

/-- Writes by granule, all of one course. -/
def byGranule (ws : List Wr) : List OutWr := ws.foldl (fun gs w => w.wbytes.foldl (fun gs b => addWByte 0 b gs) gs) []

/-- Writes by granule with their courses (R119): elements count from `h` half-bytes on; what is no element belongs to the
course of the element before it, or of the first. -/
def byCourse (header : Nat) (h : Nat) (ws : List Wr) : List OutWr :=
  (ws.foldl (fun (st : List OutWr × Nat × Nat) w =>
    let (gs, i, n) := st
    let elem : Bool := !w.side && decide (header ≤ i)
    let at_ := match w.pos with | some p => p | none => if elem then n else if n = h then n else n - 1
    (w.wbytes.foldl (fun gs b => addWByte (at_ / 131072) b gs) gs, i + 1, if elem then n + w.bits / 4 else n)) ([], 0, h)).1

/-- The mask, the bytes, and the bits that keep what memory holds, of a granule's writes, later ones over earlier ones. -/
def granuleWrite (l : List WByte) : BitVec 256 × Granule × Granule :=
  l.foldl (fun (st : BitVec 256 × Granule × Granule) b =>
    let (m, d, keep) := st
    let j := b.va % 256
    let oldKeep : Byte := if bitB m j then fld keep (8 * j) 8 else 0xFF
    let new := (fld d (8 * j) 8 &&& ~~~b.m) ||| (b.v &&& b.m)
    let here := BitVec.ofNat 2048 (255 * 2 ^ (8 * j))
    (m ||| BitVec.ofNat 256 (2 ^ j), mergeMask here d (BitVec.ofNat 2048 (new.toNat * 2 ^ (8 * j))),
     mergeMask here keep (BitVec.ofNat 2048 ((oldKeep &&& ~~~b.m).toNat * 2 ^ (8 * j))))) (0, 0, 0)

/-- A granule as a reader in the block sees it. -/
def Chip.viewGranule (s : Chip) (g : Nat) : Granule :=
  (List.range 256).foldl (fun d j => d ||| BitVec.ofNat 2048 ((s.viewByte false (g + j)).toNat * 2 ^ (8 * j))) 0

/-- A write joins one of the same context, granule and course that still waits. -/
def Chip.joinWrite (c g crs : Nat) (m : BitVec 256) (d keep : Granule) (s : Chip) : Option Chip :=
  match (s.ports.queue.filter (fun r => r.kind == .xwrite && r.ctx == some c && r.loc == g)).getLast? with
  | some r =>
    if r.crs = crs then
      some (s.updReq r.id (fun r =>
        { r with mask := r.mask ||| m, data := mergeMask (wide m &&& ~~~keep) r.data d,
                 keep := (keep &&& ~~~(wide r.mask)) ||| (r.keep &&& ~~~(wide m)) ||| (r.keep &&& keep) }))
    else none
  | none => none

/-- A combine of one of the sectors is ahead of a write (R348). -/
def Chip.combineAhead (s : Chip) (g : Nat) (m : BitVec 256) : Bool :=
  s.segs.any (fun h => h.loc == g && (match h.ops with | op :: _ => bitB (sectorsOf m) (op.half / 128) | [] => false))

/-- The writes of one granule: into the row cache, or to the port. None while every way of the set is pinned, or a combine of
one of its sectors is ahead. `grp`: they
may not be withdrawn (R179). -/
def Chip.putGranule (c cls grp : Nat) (join : Bool) (o : OutWr) (p : Place) (tr : Option Leaf) (s : Chip) : Option Chip :=
  let g := granuleOf p.loc
  let (m, d, keep) := granuleWrite o.bytes
  if s.combineAhead g m then none
  else if p.alloc && s.rcOn then
    s.rcWrite g m (if keep = 0 then d else mergeMask keep d (s.viewGranule g)) (s.ctxPart c) cls false
  else match (if join then s.joinWrite c g o.crs m d keep else none) with
    | some s => some s
    | none => some (s.enq { s.ctxReq c .xwrite true p.lane g o.va cls with mask := m, data := d, keep := keep, crs := o.crs, grp := grp, tr := tr })

/-- Translates the pages of the next writes, one after another. The second value: all are at hand. -/
def Chip.pagesFor (c : Nat) : List Nat → Chip → Chip × Bool
  | [], s => (s, true)
  | va :: r, s =>
    match (s.ctxAt c).xfer with
    | none => (s, false)
    | some t =>
      if t.pages.any (fun p => p.1 == va / 4096) then Chip.pagesFor c r s
      else
        let o := s.opOf c t
        let aux := o.sums && (Dsc.spans o.c).any (fun s => decide (s.1 ≤ (va : Int)) && decide ((va : Int) ≤ s.2))
        let req : WalkReq := { va := va, acc := .write, walk := if aux then .aux else .dest }
        match s.look c .write va with
        | .ok pa _ l => Chip.pagesFor c r ((s.lookTouch c va).updXfer c (fun t => { t with pages := t.pages ++ [(va / 4096, pa / 4096 * 4096, l)] }))
        | .miss => (s.startWalk c req, false)
        | .fault code level => ((s.lookTouch c va).walkTrFault c req code level, false)

/-- The physical address and the translation of a page that has been translated. -/
def pageOf (pages : List (Nat × Nat × Leaf)) (va : Nat) : Option (Nat × Leaf) :=
  (pages.find? (fun p => p.1 == va / 4096)).map (fun p => (p.2.1 + va % 4096, p.2.2))

def Chip.placeOf (s : Chip) (pages : List (Nat × Nat × Leaf)) (va : Nat) : Option (Place × Leaf) :=
  (pageOf pages va).bind (fun (pa, l) => (s.decodePA pa).map (fun p => (p, l)))

/-- Granules that need a slot of the write share: the walk has not written them since it came to their windows (R118,
R381). -/
def Xfer.newGranules (t : Xfer) (vas : List Nat) : List Nat := vas.eraseDups.filter (fun va => !t.wrGot.contains va)

/-- `n` writes may pass the governor together: they fit what is left of the share, or all of it (R380, log 41). -/
def Chip.wrRoom (s : Chip) (m n : Nat) : Bool :=
  let used := (s.movAt m).wrUsed
  decide (used + n ≤ s.shareOf 8 m) || (decide (used = 0) && s.wrFree m)

def Chip.useWrs (m n : Nat) (s : Chip) : Chip := s.updMov m (fun x => { x with wrUsed := x.wrUsed + n })

/-- The write of a granule leaves the walk. -/
def Chip.putOut (c grp : Nat) (t : Xfer) (o : OutWr) (s : Chip) : Option Chip :=
  match s.placeOf t.pages o.va with
  | none => some s
  | some (p, l) =>
    if s.tnWaits p then none
    else (s.putGranule c (s.xferClass c t.word) grp (t.wrGot.contains o.va) o p (some l)).map (fun s =>
      (s.noteDst c (granuleOf p.loc) (o.bytes.foldl (fun m b => m ||| BitVec.ofNat 256 (2 ^ (b.va % 256))) 0)).updXfer c (fun t =>
        { t with wrGot := if t.wrGot.contains o.va then t.wrGot else t.wrGot ++ [o.va] }))

/-- Writes that wait for a slot leave one by one; a share that is exhausted holds the next (R380). -/
def Chip.outStep (c : Nat) (t : Xfer) (o : OutWr) (s : Chip) : Chip × Go :=
  let m := s.slotMover c
  let fresh := !t.wrGot.contains o.va
  if fresh && !s.wrFree m then (s, .hold)
  else match s.putOut c 0 t o with
    | none => (s, .hold)
    | some u => ((if fresh then u.useWr m else u).updXfer c (fun t =>
        { t with out := t.out.drop 1, pages := if t.out.length ≤ 1 then [] else t.pages }), .go)

/-- Granules of a unit's windows: those of other windows count anew when the walk returns to them (R118). -/
def Xfer.enter (w : Nat) (gs : List OutWr) (t : Xfer) : Xfer :=
  if gs.isEmpty then t
  else { t with wrGot := t.wrGot.filter (fun va => gs.any (fun o => o.va / (512 * w) == va / (512 * w))) }

/-! ### What a unit has done (R105, R119, R256, R289, R310) -/

/-- The bytes of a message that writes give, half-bytes in pairs (R419). -/
def streamBytes (nib : Option Nat) (ws : List Wr) : Option Nat × List Byte :=
  ws.foldl (fun (st : Option Nat × List Byte) w =>
    if w.bits = 4 then
      match st.1 with
      | none => (some (w.code % 16), st.2)
      | some l => (none, st.2 ++ [BitVec.ofNat 8 (l + 16 * (w.code % 16))])
    else (st.1, st.2 ++ toBytes (w.bits / 8) w.code)) (nib, [])

/-- The bytes of a unit in a stream: side outputs are no part of it (R119, R173); an RQ row ends on a whole byte (log 89). -/
def unitStream (b : Desc) (nib : Option Nat) (ws : List Wr) : Option Nat × List Byte :=
  let (n, bs) := streamBytes nib (ws.filter (fun w => !w.side))
  if Dsc.rq b then (none, match n with | some l => bs ++ [BitVec.ofNat 8 l] | none => bs) else (n, bs)

/-- The counters and the cursor move past a unit; lines and rows that no later unit needs are released. -/
def Chip.advance (c : Nat) (xi : XI) (o : UOut) (s : Chip) : Chip :=
  let s := ((((s.count c 0x20 0 48 o.dropped).count c 0x28 0 48 o.filled).count c 0x40 32 32 o.sat).count c 0x40 0 32 o.nan)
  let s := ((s.count c 0x50 32 32 o.bags).count c 0x50 0 32 o.empty).count c 0x60 32 32 o.blocks
  let s := (s.count c 0x58 32 32 o.coded).count c 0x58 0 32 o.raw
  (s.updXfer c (fun t =>
    let t := { t with cursor := t.cursor + 1, acc := o.acc, dropped := t.dropped + o.dropped, filled := t.filled + o.filled,
                      halves := match o.total with | some n => n | none => t.halves + o.halves,
                      odig := if t.sampled then o.writes.foldl ODig.write t.odig else t.odig }
    let t := if t.scan < t.cursor ∧ xi.op ≠ 0x45 then { t with scan := t.cursor, sub := 0 } else t
    (t.passRows xi).release xi.w xi.reuse)).takeCredits c xi.shares

/-- Every member of a gang loads a route (R182). -/
def Chip.loadRoute (c n : Nat) (img : List Byte) (s : Chip) : Chip :=
  (s.teamOf (s.slotMover c)).foldl (fun s m => s.updMov m (fun x => { x with routes := Tab.set [] n img x.routes })) s

/-- A line that the Quadrille withholds counts at the member that it passed, which raises QSUM (R211, R212). -/
def Chip.qsumFails (c : Nat) (t : Xfer) (s : Chip) : Chip :=
  let team := s.teamOf (s.slotMover c)
  let m := team.getD (t.cursor % team.length) 0
  (s.bump (Reg.mov m 0x30) 8 32 1).report { src := Src.qsum, kind := .mover, unit := m, ctx := some c, part := some (s.ctxPart c) }

/-- A unit writes into its context's message (R419); `pop`: what its walk is done with then. -/
def Chip.putStream (c : Nat) (o : UOut) (xi : XI) (pop : Xfer → Xfer) (s : Chip) : Chip × Go :=
  match (s.ctxAt c).xfer with
  | none => (s, .stop)
  | some t =>
    match t.msg.bind s.msgAt with
    | none => ((s.updXfer c pop).advance c xi o, .go)          -- the message has ended: the rest is not sent
    | some m =>
      if 256 ≤ m.stream.length then
        let s := s.framesOut m.id
        (s, if s.msgHeld m.id then .hold else .go)
      else
        let (nib, bs) := unitStream xi.b t.odig.nib o.writes
        let s := (s.updXfer c (fun t => { t with odig := { t.odig with nib := nib } })).feedMsg m.id bs false
        ((s.updXfer c pop).advance c xi o, .go)

/-- A unit's writes wait for their slots; their pages have been translated. -/
def Chip.putWrites (c : Nat) (t : Xfer) (xi : XI) (o : UOut) (s : Chip) : Chip × Go :=
  let gs := byCourse (if Dsc.rq xi.b && xi.op != 0x42 then 8 else 0) t.halves o.writes
  let (s, ok) := s.pagesFor c (gs.map (·.va))
  if !ok then (s, .go)
  else
    let s := match o.image with | some img => s.loadRoute c (rsel t.word - 1) img | none => s
    let s := if o.qsum = 0 then s else s.qsumFails c t
    ((s.updXfer c (fun t => { (t.enter xi.w gs) with out := gs })).advance c xi o, .go)

/-- The oldest bag closes; the versions of its rows enter the digest (R467). -/
def Xfer.popBag (xi : XI) (t : Xfer) : Xfer :=
  match t.bags with
  | g :: r => { t with bags := r, vdig := if xi.trg then crcBytes t.vdig g.vers else t.vdig }
  | [] => t

/-- The output row of a bag is issued whole (R179, R268). -/
def Chip.putBag (c : Nat) (t : Xfer) (xi : XI) (o : UOut) (s : Chip) : Chip × Go :=
  let gs := byCourse 0 t.halves o.writes
  let (s, ok) := s.pagesFor c (gs.map (·.va))
  if !ok then (s, .go)
  else match (s.ctxAt c).xfer with
    | none => (s, .stop)
    | some u =>
      let u := u.enter xi.w gs
      let m := s.slotMover c
      let n := (u.newGranules (gs.map (·.va))).length
      if !s.wrRoom m n then (s, .hold)
      else match gs.foldl (fun o g => o.bind (fun s => s.putOut c 1 u g)) (some (s.updXfer c (fun _ => u))) with
        | none => (s, .hold)
        | some s => (((s.useWrs m n).updXfer c (fun t => ({ t with pages := [] } : Xfer).popBag xi)).advance c xi o, .go)

/-! ### Combines (R277–R279, R282) -/

/-- The operations of a table row by sector, in address order: location of the granule, sector, operations with
half-byte positions in the granule, the translation. -/
def addOp (loc k : Nat) (op : SegOp) (tr : Leaf) : List (Nat × Nat × List SegOp × Leaf) → List (Nat × Nat × List SegOp × Leaf)
  | [] => [(loc, k, [op], tr)]
  | (g, j, l, f) :: r =>
    if g = loc ∧ j = k then (g, j, l ++ [op], f) :: r
    else if loc < g ∨ (loc = g ∧ k < j) then (loc, k, [op], tr) :: (g, j, l, f) :: r
    else (g, j, l, f) :: addOp loc k op tr r

/-- Operations placed by the translation of their pages. -/
def Chip.placeOps (s : Chip) (pages : List (Nat × Nat × Leaf)) (ops : List (Nat × SegOp)) : List (Nat × Nat × List SegOp × Leaf) :=
  ops.foldl (fun l (h, op) =>
    match s.placeOf pages (h / 2) with
    | some (p, f) => addOp (granuleOf p.loc) (p.loc % 256 / 64) { op with half := 2 * (p.loc % 256) + h % 2 } f l
    | none => l) []

/-- A row's segments are handed to their banks together: a row is issued whole or not at all (R278). -/
def Chip.acceptRow (c pos mem : Nat) (o : XOp) (cls crs : Nat) (l : List (Nat × Nat × List SegOp × Leaf)) (s : Chip) : Chip :=
  let run := match (s.ctxAt c).xfer with | some t => t.grp | none => 0
  l.foldl (fun s (g, _, ops, f) =>
    let seg : Seg := { id := s.uid, ctx := c, lead := s.slotMover c, part := s.ctxPart c, cls := cls, cmb := o.md % 8,
                       loc := g, pos := pos, run := run, mem := mem, ops := ops, crs := crs, trs := [f] }
    let bytes := ops.foldl (fun m op => m ||| BitVec.ofNat 256 (2 ^ (op.half / 2 % 256))) 0
    ({ s with segs := s.segs ++ [seg], uid := s.uid + 1 }).noteDst c g bytes) s

/-- A row update group goes to the home bank of its header (R282); it counts in RC_SEQWAIT where another group of its row
is there before it (R283). -/
def Chip.acceptGroup (c pos mem cls crs : Nat) (pages : List (Nat × Nat × Leaf)) (h : Nat) (ws : List Wr) (s : Chip) : Chip :=
  let locOf := fun (va : Nat) => match s.placeOf pages va with | some (p, _) => p.loc | none => 0
  let bytes := (ws.flatMap Wr.wbytes).foldl (fun (t : List (Nat × Byte × Byte)) b =>
      match t.find? (fun q => q.1 == b.va) with
      | some (_, m, v) => (b.va, m ||| b.m, (v &&& ~~~b.m) ||| (b.v &&& b.m)) :: t.filter (fun q => q.1 != b.va)
      | none => (b.va, b.m, b.v &&& b.m) :: t) []
  let out := bytes.map (fun (va, m, v) => let loc := locOf va; (loc, m, v))
  let run := match (s.ctxAt c).xfer with | some t => t.grp | none => 0
  let lines := ((out.map (fun q => granuleOf q.1)) ++ [granuleOf (locOf h)]).eraseDups
  let grp : RowGroup := { id := s.uid, ctx := c, lead := s.slotMover c, part := s.ctxPart c, cls := cls, hdr := locOf h,
                          bytes := out, lines := lines, pos := pos, run := run, mem := mem, crs := crs, trs := pages.map (·.2.2) }
  let s := if s.groups.any (fun g => g.hdr == grp.hdr) then s.bump Reg.rcSeqwait 0 48 1 else s
  let s := { s with groups := s.groups ++ [grp], uid := s.uid + 1 }
  out.foldl (fun s q => s.noteDst c (granuleOf q.1) (BitVec.ofNat 256 (2 ^ (q.1 % 256)))) s

/-- A SCATTER row is issued, whole or not at all; it counts once for each granule that it touches (R278, R381). The members
of a gang take contiguous shares of the rubble, equal but for the last (R279, log 94). -/
def Chip.putRow (c : Nat) (t : Xfer) (xi : XI) (o : UOut) (s : Chip) : Chip × Go :=
  if s.tier.busy && !s.tnLegacy then (s, .hold) else
  let cls := s.xferClass c t.word
  let m := s.slotMover c
  let crs := (t.halves + o.halves - 1) / 131072
  let mem := t.cursor / ceilDiv (Dsc.ext xi.c 0) xi.w
  let vas := match o.upd with
    | some (h, ws) => (byGranule (ws ++ [{ at_ := 2 * h, bits := 64, code := 0 }])).map (·.va)
    | none => (o.ops.map (fun q => q.1 / 512 * 256)).eraseDups
  let (s, ok) := s.pagesFor c vas
  if !ok then (s, .go)
  else if !s.wrRoom m vas.length then (s, .hold)
  else match (s.ctxAt c).xfer with
    | none => (s, .stop)
    | some u =>
      let s := match o.upd with
        | some (h, ws) => s.acceptGroup c t.cursor mem cls crs u.pages h ws
        | none => s.acceptRow c t.cursor mem (s.opOf c t) cls crs (s.placeOps u.pages o.ops)
      (((s.useWrs m vas.length).updXfer c (fun t => { t with pages := [] })).advance c xi o, .go)

/-! ### CINV (R206) -/

/-- A granule of CINV: its line is written back where it is dirty, and invalid. -/
def Chip.cinvGranule (c cls loc : Nat) (s : Chip) : Chip :=
  let g := granuleOf loc
  if (s.lineAt g).dirty = 0 then s.updLine g (fun _ => {}) else s.startWb .cinvWb g cls 0 (some c)

/-- A pinned line is waited for (R274). -/
def Chip.putCinv (c : Nat) (t : Xfer) (xi : XI) (o : UOut) (s : Chip) : Chip × Go :=
  match o.gran with
  | none => (s.advance c xi o, .go)
  | some va =>
    match s.look c .read va with
    | .ok _ p _ =>
      if (s.lineAt (granuleOf p.loc)).pinned then (s, .hold)
      else
        let s := s.lookTouch c va
        ((if p.alloc && s.rcOn then s.cinvGranule c (s.xferClass c t.word) p.loc else s).advance c xi o, .go)
    | .miss => (s.startWalk c { va := va, acc := .read, walk := .source }, .go)
    | .fault code level => ((s.lookTouch c va).walkTrFault c { va := va, acc := .read, walk := .source } code level, .go)

/-! ### The walk -/

/-- The walk has written its last unit. -/
def Chip.walkEnds (c : Nat) (s : Chip) : Chip :=
  let s := match (s.ctxAt c).xfer with
    | some t => (match t.msg with
      | some id =>
        let tail := match t.odig.nib with | some l => [BitVec.ofNat 8 l] | none => []
        s.feedMsg id tail true
      | none => s)
    | none => s
  s.updXfer c (fun t => { t with ended := true, odig := if t.remote then { t.odig with nib := none } else t.odig })

/-- A unit's effects. -/
def Chip.commitUnit (c : Nat) (t : Xfer) (xi : XI) (o : UOut) (s : Chip) : Chip × Go :=
  if wOpc t.word = 0x4E then s.putCinv c t xi o
  else if t.remote then s.putStream c o xi id
  else if xi.op = 0x46 ∧ (o.upd.isSome ∨ o.ops ≠ []) then s.putRow c t xi o
  else s.putWrites c t xi o

/-- The next unit of a walk. -/
def Chip.unitStep (c : Nat) (t : Xfer) (v : View) (xi : XI) (s : Chip) : Chip × Go :=
  if v.total ≤ t.cursor then (s.walkEnds c, .go)
  else match v.unit t.env t.acc t.cursor with
    | .fault code => (s.walkFault c code, .go)
    | .need l => s.readStep c t v xi l
    | .ok o => s.commitUnit c t xi o

/-- The next bag of a POOL (R260–R263, R268). -/
def Chip.poolStep (c : Nat) (t : Xfer) (xi : XI) (s : Chip) : Chip × Go :=
  let v := xi.view
  if xi.isEmpty || decide (xi.units ≤ t.cursor) then
    (if xi.isEmpty = false ∧ t.cursor = xi.units ∧ t.bagOff ≠ Dsc.ext xi.c 0 then (s.walkFault c Src.baglen, .go) else s.unitStep c t v xi)
  else match t.bagFault xi with
  | some code => (s.walkFault c code, .go)
  | none =>
    match t.takeRows xi with
    | some t' => ((s.updXfer c (fun _ => t')).takeCredits c false, .go)
    | none =>
      match t.bags.head? with
      | none => s.readStep c t v xi []
      | some g =>
        if g.done < g.len then s.readStep c t v xi (t.bagLacks xi g)
        else match xi.poolOut t.env t.acc g with
          | .fault code => (s.walkFault c code, .go)
          | .need l => s.readStep c t v xi l
          | .ok o => if t.remote then s.putStream c o xi (Xfer.popBag xi) else s.putBag c t xi o

/-- The reads of a stage-all copy: all of them, before any write (R220). -/
def Chip.stageStep (c : Nat) (t : Xfer) (xi : XI) (s : Chip) : Chip × Go :=
  match t.ripe with
  | some x => s.askStage c t x
  | none => match t.nextStaged xi with
    | some t' => (s.updXfer c (fun _ => t'), .go)
    | none => match t.due with
      | some x => s.askStage c t x
      | none => (s, .stop)

/-- Lists that are read whole before anything else happens. -/
def Chip.listStep (c : Nat) (t : Xfer) (xi : XI) (l : List Need) (s : Chip) : Chip × Go :=
  let u := t.plan { w := xi.w, lo := t.cursor, hi := t.cursor, keep := true } l
  if u.lines ≠ t.lines then (s.updXfer c (fun _ => u), .go)
  else match t.due with
    | some x => s.askStage c t x
    | none => (s, .stop)

/-! ### Sampling for the shadow checker (R41, R43, R170, R463–R465) -/

/-- The Galois LFSR of x³² + x²² + x² + x + 1, one step (log 27). -/
def lfsrStep (l : BitVec 32) : BitVec 32 := if bitB l 31 then (l <<< 1) ^^^ 0x00400007 else l <<< 1

/-- The partner of a mover or gang leader: none of the gang of the whole block (R41). -/
def Chip.partnerOf (s : Chip) (m : Nat) : Option Nat :=
  match s.gangOf m with
  | some n => if n = 1 then none else some (gangBase s.build (n ^^^ 2 ^ (log2N n - 1)))
  | none => some (m ^^^ (s.build.nmov / 2))

/-- A cast or a change of allocation order takes place (R170). -/
def transforms (a b : Desc) : Bool :=
  Dsc.fmt a != Dsc.fmt b || Dsc.qmode a != Dsc.qmode b || (Dsc.dims a).map (Dsc.p a) != (Dsc.dims b).map (Dsc.p b)

/-- The candidates of R170, but MSET, which is judged once its slices have been read (R464). -/
def XOp.candidate (o : XOp) : Bool :=
  match o.op with
  | 0x40 => !isLdrt o.w && o.mode == .none && transforms o.a o.b
  | 0x43 => o.mode == .none
  | 0x44 => transforms o.a o.b
  | 0x45 => true
  | 0x47 => true
  | _ => false

/-- A candidate draws from the LFSR of its mover or gang leader; a sample takes its place in the queue, which
holds 4 (R463, R465). -/
def Chip.sampleIf (c : Nat) (cand : Bool) (s : Chip) : Chip :=
  let m := s.slotMover c
  let cfg := s.reg Reg.shdCfg
  let x := s.ctxAt c
  match x.xfer with
  | none => s
  | some t =>
    if wSHD t.word && bitB cfg 8 && cand then
      let l := lfsrStep (s.movAt m).lfsr
      let s := s.updMov m (fun y => { y with lfsr := l })
      if l.toNat % 2 ^ fldN cfg 0 5 ≠ 0 then s
      else if 4 ≤ (s.movAt m).samples.length ∨ s.partnerOf m = none then s.count c 0x78 0 32 1
      else
        let p : Sample := { id := s.uid, ctx := c, part := s.ctxPart c, asid := s.ctxAsid c, root := s.ctxRoot c, ip := t.ip, word := t.word,
                            size := x.size, t := x.t, digest := none, vdigest := 0, torn := false, retired := none, redo := none }
        ((({ s with uid := s.uid + 1 }).count c 0x78 32 32 1).updMov m (fun y => { y with samples := y.samples ++ [p] })).updXfer c (fun t => { t with sampled := true })
    else s

/-! ### MSET (R176, R184, R185, R223) -/

/-- The checks of the slices' descriptors, in slice order, then the overlap test of every source with every
destination. A slice has no TC that could take side sums: TDW1.SUMS in its destination raises OPFMT (log 90). -/
def slicesFault (gang : Nat) (l : List XI) : Option Nat :=
  firstFault ((l.map (fun x =>
      let o : XOp := { w := at64 56 0x40, op := 0x40, md := 0, a := x.a, b := x.b, c := { words := [] }, gang := gang }
      firstFault [o.descFault, if o.fmtOk && !Dsc.sums x.b then none else some Src.opfmt])) ++
    [if l.any (fun x => l.any (fun y => spansMeet (Dsc.spans x.a) (Dsc.spans y.b))) then some Src.overlap else none])

/-- The slice list and the images are read and checked. -/
def Chip.msetPrep (c : Nat) (t : Xfer) (xi : XI) (s : Chip) : Chip × Go :=
  let e := t.env
  match xi.entries e with
  | .need l => s.listStep c t xi l
  | .fault code => (s.walkFault c code, .go)
  | .ok es =>
    if es.any sliceBad then (s.walkFault c Src.slices, .go)
    else match xi.slices e 2 with
      | .need l => s.listStep c t xi l
      | .fault code => (s.walkFault c code, .go)
      | .ok l =>
        match slicesFault xi.w l with
        | some code => (s.walkFault c code, .go)
        | none =>
          ((s.updXfer c (fun t => { t with pass := 2, cursor := 0, scan := 0, sub := 0 })).sampleIf c (l.any (fun x => transforms x.a x.b)), .go)

/-- A unit of a pass of MSET. The fill pass ends where its data pass may begin. -/
def Chip.msetStep (c : Nat) (t : Xfer) (xi : XI) (s : Chip) : Chip × Go :=
  if t.pass < 2 then s.msetPrep c t xi
  else match xi.slices t.env t.pass with
    | .ok l => if t.pass = 2 ∧ sliceUnits l ≤ t.cursor then (s, .stop) else s.unitStep c t (slicesView l) xi
    | _ => (s, .stop)

/-! ### SEND and DELEG (R201, R204) -/

/-- A DELEG ships its operands when all have been read and its message may begin. -/
def Chip.delegStep (c : Nat) (t : Xfer) (xi : XI) (s : Chip) : Chip × Go :=
  match t.msg with
  | some id =>
    let s := s.framesOut id
    if s.msgFramed id then (s.updXfer c (fun u => { u with ended := true }), .go) else (s, if s.msgHeld id then .hold else .stop)
  | none =>
    match delegOperands xi t.env with
    | .fault code => (s.walkFault c code, .go)
    | .need l => s.listStep c t xi l
    | .ok ops =>
      if s.msgRoom (s.ctxPart c) (rtgt t.word) then
        let (s, id) := s.openDeleg c (s.opOf c t) ops
        (s.updXfer c (fun t => { t with msg := some id }), .go)
      else (s, .stop)

/-- A SEND begins its message before its first unit. -/
def Chip.sendStep (c : Nat) (t : Xfer) (xi : XI) (s : Chip) : Chip × Go :=
  match t.msg with
  | some _ => s.unitStep c t xi.view xi
  | none =>
    if s.msgRoom (s.ctxPart c) (rtgt t.word) then
      let (s, id) := s.openSend c t.word xi.b
      (s.updXfer c (fun t => { t with msg := some id }), .go)
    else (s, .stop)

/-! ### PREFETCH (R198, R199, R376) -/

/-- Fill credits of a mover or gang in use by PREFETCH.rc (R376). -/
def Chip.rcPrefetching (s : Chip) (m : Nat) : Nat :=
  (s.bringing.filter (fun r => r.kind == .prefetchRc && r.req == m)).length

/-- The walk ends before its end: what follows is dropped and counted (R198, R199). -/
def Chip.prefetchEnds (c : Nat) (s : Chip) : Chip := s.updXfer c (fun t => { t with dropping := true })

/-- Granules of a dense walk, from its first unit on. -/
def gransFrom (xi : XI) (e : Env) (acc : WAcc) : Nat → Nat → Nat
  | 0, _ => 0
  | n + 1, k =>
    match xi.unit e acc k with
    | .ok o => (if o.gran.isSome then 1 else 0) + gransFrom xi e o.acc n (k + 1)
    | _ => gransFrom xi e acc n (k + 1)

/-- One granule is requested: a fill of the sectors that are neither valid nor on their way, or a read into
staging. A fill that would allocate nothing is not issued (R9, R169). `halves` counts sectors read into staging. -/
def Chip.prefetchIssue (c : Nat) (t : Xfer) (va : Nat) (p : Place) (tr : Leaf) (s : Chip) : Chip :=
  let m := s.slotMover c
  let cls := s.xferClass c t.word
  let g := granuleOf p.loc
  let cached := p.alloc && s.rcOn && !wVOL t.word
  if bitB t.word 0 then
    let l : SLine := { run := t.grp, id := t.ids, kind := .stg, key := va, win := 0, want := BitVec.allOnes 256,
                       asked := BitVec.allOnes 256, from_ := 0, to_ := 0, keep := true }
    let d : Dest := { ctx := c, run := t.grp, line := t.ids, vol := wVOL t.word, mask := BitVec.allOnes 256 }
    let s := (((s.count c 0x68 32 32 1).useRd m).updXfer c (fun t => { t with halves := t.halves + 4, ids := t.ids + 1 })).updCtx c
      (fun x => { x with stgBuf := x.stgBuf ++ [l] })
    if cached then
      if (s.lineAt g).serves false = BitVec.allOnes 256 then (s.lineUse g cls true).deliver d (s.lineAt g).data
      else s.fillGranule g (~~~(s.lineAt g).valid) { s.ctxReq c .prefetchFill false p.lane g va cls with grp := t.grp, tr := some tr } [d]
    else s.enq { s.ctxReq c .prefetchStg false p.lane g va cls with mask := BitVec.allOnes 256, dests := [d], grp := t.grp, tr := some tr }
  else if !cached then s
  else
    (runs (s.newSectors g (~~~(s.lineAt g).valid))).foldl (fun s v =>
      s.enq { s.ctxReq c .prefetchRc false p.lane g va cls with mask := sectorBytes v, grp := t.grp, tr := some tr })
      ((s.count c 0x68 32 32 1).useRd m)

/-- One unit of a PREFETCH. A translation that fails ends its walk: what is left is counted as dropped. -/
def Chip.prefetchStep (c : Nat) (t : Xfer) (xi : XI) (s : Chip) : Chip × Go :=
  let m := s.slotMover c
  let stg := bitB t.word 0
  let v := xi.view
  if v.total ≤ t.cursor then (s.updXfer c (fun t => { t with ended := true }), .go)
  else match v.unit t.env t.acc t.cursor with
    | .need l =>
      match t.due.map (fun x => (x.first, s.look c .read x.first)) with
      | some (va, .fault _ _) => ((s.lookTouch c va).updXfer c (fun t => { t with ended := true }), .go)
      | _ => s.listStep c t xi l
    | .fault code => (s.walkFault c code, .go)
    | .ok o =>
      match o.gran with
      | none => (s.advance c xi o, .go)
      | some va =>
        if t.dropping then ((s.count c 0x68 0 32 1).advance c xi o, .go)
        else if stg && decide (t.room < t.halves + 4) then (s.prefetchEnds c, .go)
        else if !stg && decide (1024 * s.teamSize m ≤ s.rcPrefetching m) then (s, .stop)
        else if s.rdFree m = false then (s, .hold)
        else match s.look c .read va with
          | .ok _ p tr => if s.tnWaits p then (s, .hold) else (((s.lookTouch c va).prefetchIssue c t va p tr).advance c xi o, .go)
          | .miss => (s.startWalk c { va := va, acc := .read, walk := .source }, .go)
          | .fault _ _ => ((s.lookTouch c va).prefetchEnds c, .go)

/-! ### The whole -/

/-- Frames that waited for the remote share or for an egress slot leave once the walk has ended. -/
def Chip.pushMsg (t : Xfer) (s : Chip) : Chip × Go :=
  match t.msg with
  | some id => let s := s.framesOut id; (s, if s.msgHeld id then .hold else .stop)
  | none => (s, .stop)

/-- One step of a context's walk. -/
def Chip.walkStep (c : Nat) (s : Chip) : Chip × Go :=
  match (s.ctxAt c).xfer with
  | none => (s, .stop)
  | some t =>
    if s.walking c = false then (s, .stop)
    else match t.out with
    | o :: _ => s.outStep c t o
    | [] =>
      if t.ended then s.pushMsg t
      else
        let xi := s.xiOf c t
        match wOpc t.word with
        | 0x41 => s.msetStep c t xi
        | 0x45 => s.poolStep c t xi
        | 0x4A => s.prefetchStep c t xi
        | 0x4B => s.sendStep c t xi
        | 0x4C => s.delegStep c t xi
        | _ => if t.pass = 0 then s.stageStep c t xi else s.unitStep c t xi.view xi

/-- The walk advances as far as it can, at most a bounded number of steps at once (log 26). -/
def Chip.pumpN (c : Nat) : Nat → Chip → Chip × Go
  | 0, s => (s, .hold)
  | n + 1, s =>
    match s.walkStep c with
    | (s, .go) => Chip.pumpN c n s
    | r => r

end Sys2Proof.Machine
end

