-- ==== Sys2Proof/Machine/LandWrite.lean ====
section
/-! DEFINITION. The landing engine's writes: where a stream's bytes go, bursts, their translation, completions
(13_dweath_link R419, R422, R423, 11_memory_model R361, 09_delta_compression R309). -/

namespace Sys2Proof.Machine

/-! ### Positions of a stream (R419) -/

/-- Allocation indices of the `e`-th element, in walk order, that a MOVE into the layout writes. -/
def validIdx (d : Desc) (e : Nat) : List Int :=
  ((Dsc.dims d).foldl (fun (st : List Int × Nat) k =>
    let n := (Dsc.hi d k - Dsc.lo d k + 1).toNat
    (st.1 ++ [Dsc.lo d k + ((st.2 % n : Nat) : Int)], st.2 / n)) ([], e)).1

/-- Where byte `i` of packed half-byte codes goes, of elements `first` to `first + n - 1`: its two codes. -/
def streamNibs (d : Desc) (base first n i : Nat) (b : Byte) : List WByte :=
  ([0, 1]).filterMap (fun (k : Nat) =>
    if 2 * i + k < n then
      let h := Dsc.nibAddr d (validIdx d (first + 2 * i + k))
      let v := b.toNat / 16 ^ k % 16
      let hi := Int.emod h 2 == 1
      some ({ va := vaOf (Int.fdiv h 2 + (base : Nat)), m := if hi then 0xF0 else 0x0F, v := BitVec.ofNat 8 (if hi then 16 * v else v) } : WByte)
    else none)

/-- Where byte `i` of whole-byte codes from element `first` on goes. -/
def streamWhole (d : Desc) (base first i : Nat) (b : Byte) : List WByte :=
  let h := Dsc.nibAddr d (validIdx d (first + i / Dsc.eb d))
  [{ va := vaOf (Int.fdiv h 2 + ((base + i % Dsc.eb d : Nat) : Int)), m := 0xFF, v := b }]

def streamCodes (d : Desc) (base first n i : Nat) (b : Byte) : List WByte :=
  if Dsc.nib d then streamNibs d base first n i b else streamWhole d base first i b

/-- Where byte `j` of a stream goes: its virtual address and the bits it sets, of a half-byte format up to two. An RQ row
begins with the eight bytes of its header (log 89). -/
def streamByte (d : Desc) (base j : Nat) (b : Byte) : List WByte :=
  if Dsc.rq d then
    let n := validExt d 0
    let first := j / streamRow d * n
    let i := j % streamRow d
    if i < 8 then [{ va := vaOf (Dsc.hdrAddr d (validIdx d first) + ((base + i : Nat) : Int)), m := 0xFF, v := b }]
    else streamCodes d base first n (i - 8) b
  else streamCodes d base 0 (validCount d) j b

def addBurst (first n : Nat) (b : WByte) : List BurstWr → List BurstWr
  | [] => [{ va := b.va / 64 * 64, first := first, n := n, bytes := [b] }]
  | w :: r =>
    if w.va = b.va / 64 * 64 then { w with n := w.n + n, bytes := w.bytes ++ [b] } :: r else w :: addBurst first n b r

/-- Bytes of a stream, from byte `off` on, join the bursts that they go to. -/
def burstsOf (d : Desc) (base off : Nat) (bs : List Byte) (l : List BurstWr) : List BurstWr :=
  (List.range bs.length).foldl (fun l i =>
    ((streamByte d base (off + i) (bs.getD i 0)).foldl (fun (st : List BurstWr × Nat) w => (addBurst (off + i) st.2 w st.1, 0)) (l, 1)).1) l

/-! ### Completions of a landing (R423) -/

def Land.desc (l : Land) : Desc := { words := (List.range 32).map (Tab.get 0 l.t) }

def Chip.updLand (l : Land) (f : Land → Land) (s : Chip) : Chip :=
  { s with link := { s.link with lands := s.link.lands.map (fun x => if x.src == l.src && x.mtag == l.mtag then f x else x) } }

def Chip.landAt (s : Chip) (src mtag : Nat) : Option Land := s.link.lands.find? (fun l => l.src == src && l.mtag == mtag)

/-- A landing write faults: the message ends with REMOTEFAULT. -/
def Chip.landFault (l : Land) (s : Chip) : Chip :=
  if l.status.isSome then s else (s.endLand l 4).linkReport l.port Src.lwfault

/-- The stream bytes written without a gap. -/
def Land.prefix (l : Land) : Nat := (l.bursts.map (fun b => b.2.1) ++ l.todo.map (·.first)).foldl min l.next

/-- Progress completions that are due (R423). -/
def Chip.landProgress (l : Land) : Nat → Chip → Chip
  | 0, s => s
  | k + 1, s => Chip.landProgress l k (s.sendCmpl l.cls l.tagp l.src l.mtag l.rroute 0 0 0 (l.prefix))

/-- What a landing's written prefix makes due: progress completions, and the final one when all bytes are written. -/
def Chip.landStep (src mtag : Nat) (s : Chip) : Chip :=
  match s.landAt src mtag with
  | none => s
  | some l =>
    if l.status.isSome then s
    else
      let p := l.prefix
      let n := p / 65536 - l.told
      let l := { l with done := p, told := p / 65536 }
      let s := Chip.landProgress l n (s.updLand l (fun _ => l))
      if p = l.len then
        s.endLand l 0
      else s

/-! ### Landing writes (R337, R348, R361, R422) -/

/-- The next byte of the stream goes to the burst too: it waits to be whole (R361). A chunk that has arrived whole lands
whole (R309). -/
def Land.holds (l : Land) (w : BurstWr) : Bool :=
  !l.zc && decide (l.next < l.len) && (streamByte l.desc l.base l.next 0).any (fun b => b.va / 64 * 64 == w.va)

/-- The first burst that is whole. -/
def Land.ripe (l : Land) : Option BurstWr := l.todo.find? (fun w => !l.holds w)

/-- The translation of a burst's address: that of a walk begun for it, or of the L2, which alone the landing engine looks up
(log 95). -/
def Chip.landLook (s : Chip) (l : Land) (va : Nat) : Option Leaf :=
  match l.leaf.bind (fun f => if f.e.hits l.part l.asid va then some f else none) with
  | some f => some f
  | none => (s.l2.find? (fun e => e.hits l.part l.asid va)).map (fun e => { epoch := s.epoch, e := e })

/-- The bookkeeping of a lookup that found its leaf. -/
def Chip.landTouch (l : Land) (va : Nat) (s : Chip) : Chip :=
  if (l.leaf.bind (fun f => if f.e.hits l.part l.asid va then some f else none)).isSome then s.updLand l (fun x => { x with leaf := none })
  else match s.l2.find? (fun e => e.hits l.part l.asid va) with
    | some e => ({ s with l2 := e :: s.l2.erase e }).bump Reg.trL2hit 0 48 1
    | none => s

/-- A burst is written: into the row cache, or to the port. None while it has to wait: for a combine of its sector, for a way
of its set (R348), for a commit (R319). -/
def Chip.putBurst (l : Land) (w : BurstWr) (p : Place) (f : Leaf) (s : Chip) : Option Chip :=
  let g := granuleOf p.loc
  let (m, d, keep) := granuleWrite (w.bytes.map (fun b => { b with va := p.loc % 256 + b.va % 64 }))
  let id := s.uid
  let t := (s.landTouch l w.va).updLand l (fun x => { x with bursts := x.bursts ++ [(id, w.first, w.n)], todo := x.todo.erase w })
  if s.tnWaits p || s.combineAhead g m then none
  else if p.alloc && s.rcOn then
    ({ t with uid := id + 1 }).rcWrite g m (if keep = 0 then d else mergeMask keep d (s.viewGranule g)) l.part l.cls false
  else some (t.enq { id := 0, kind := .landing (4096 * l.src + l.mtag), write := true, lane := p.lane, loc := g, mask := m, data := d,
                     keep := keep, va := w.va, part := some l.part, tr := some f, cls := l.cls, req := 64 })

/-- Bursts of a message that are whole are written, one after another; the first that faults ends the message. -/
def Chip.landPump (src mtag : Nat) : Nat → Chip → Chip
  | 0, s => s
  | n + 1, s =>
    match s.landAt src mtag with
    | none => s
    | some l =>
      if l.status.isSome || l.walking then s
      else match l.ripe with
        | none => s
        | some w =>
          match s.landLook l w.va with
          | none => (s.updLand l (fun x => { x with walking := true })).needWalk (.land src mtag) none l.part l.asid l.root w.va l.cls
          | some f =>
            match s.checkLeaf f .write w.va with
            | .ok _ p _ =>
              (match s.putBurst l w p f with
               | some s => Chip.landPump src mtag n s
               | none => s)
            | _ => (s.landTouch l w.va).landFault l

/-- A message's bursts go on. -/
def Chip.landGo (src mtag : Nat) (s : Chip) : Chip :=
  match s.landAt src mtag with
  | some l => s.landPump src mtag (l.todo.length + 1)
  | none => s

/-- Every landing that can goes on. -/
def Chip.landsGo (s : Chip) : Chip := s.link.lands.foldl (fun s l => s.landGo l.src l.mtag) s

/-- Stream bytes arrive in order. -/
def Chip.landBytes (l : Land) (bs : List Byte) (s : Chip) : Chip :=
  (s.updLand l (fun x => { x with next := x.next + bs.length, todo := burstsOf l.desc l.base l.next bs x.todo })).landGo l.src l.mtag

/-- The page walk of a landing ends (R335, R337, R422). -/
def Chip.landWalked (src mtag : Nat) (w : PWalk) (s : Chip) : Chip :=
  match s.landAt src mtag with
  | none => s
  | some l =>
    let s := s.updLand l (fun x => { x with walking := false })
    if l.status.isSome then s
    else match w.ans with
    | some (.leaf e) =>
      (if s.installs w.epoch e then s else s.updLand l (fun x => { x with leaf := some { epoch := w.epoch, e := e } })).landGo src mtag
    | _ => s.landFault l

end Sys2Proof.Machine
end

