-- ==== Sys2Proof/Machine/Save.lean ====
section
/-! DEFINITION. Translation halts: what a halted transfer saves, and what RESUME reads back (02_contexts_and_execution
R69–R73, 03_tensor_descriptors R120–R123, 06_layout_engine R221, R224, 08_embedding_pooling R271, R272,
10_memory_tiers_and_translation R339). -/

namespace Sys2Proof.Machine

/-! ### Cursors (R121) -/

/-- A cursor record in use: allocation indices of the first element not issued, its block-list entry, the rubble position,
the address of the next request, the panel. -/
structure Cursor where
  idx   : List Nat := []
  block : Nat := 0
  rpos  : Nat := 0
  va    : Nat := 0
  panel : Nat := 0
  done  : Bool := false
  deriving DecidableEq, Repr

def Cursor.bytes (c : Cursor) : List Byte :=
  (List.range 8).flatMap (fun k => toBytes 4 (c.idx.getD k 0)) ++ toBytes 4 c.block ++ toBytes 4 c.rpos ++ toBytes 8 c.va ++
    toBytes 4 c.panel ++ toBytes 4 (if c.done then 3 else 1) ++ toBytes 8 0

/-- A record that is not in use is zero. -/
def cursorRecord (c : Option Cursor) : List Byte := match c with | some c => c.bytes | none => List.replicate 64 0

/-- The indices within its block, and the block, of element `n` of a block list's walk; of a block whose entry has not been
read, its first element. -/
def Env.blockOf (e : Env) (d : Desc) (dst : Bool) : Nat → Nat → Nat → List Nat × Nat
  | 0, k, _ => ([], k)
  | rem + 1, k, n =>
    match e.ashlar d k with
    | .ok b => if n < b.count then ([n % b.ext 0, n / b.ext 0 % b.ext 1, n / b.ext 0 / b.ext 1], k)
               else e.blockOf d dst rem (k + 1) (n - b.count)
    | _ => ([], k)

/-- A cursor at the element of allocation indices `i`, number `n` of its walk. -/
def Env.cursorAt (e : Env) (d : Desc) (dst : Bool) (i : List Nat) (n : Nat) : Cursor :=
  if Dsc.blist d then let (idx, k) := e.blockOf d dst (Dsc.blcnt d) 0 n; { idx := idx, block := k } else { idx := i }

def Rd.firstVa {α : Type} : Rd α → Option Nat
  | .need (q :: _) => some q.va
  | _ => none

/-- The source elements of a unit, in the order in which its reads are made: the kind of the reads, allocation indices, the
number in the source's walk, the rubble position (R117, R121). -/
def XI.srcPlaces (xi : XI) (e : Env) (u : Nat) : List (NeedKind × List Nat × Nat × Nat) :=
  let at_ := fun (i : List Nat) => (NeedKind.data, i, Dsc.rankOf xi.a i, 0)
  let xs := (unitElems xi.b (if xi.down then Dsc.count xi.b - 1 - u else u)).map (fun n => Dsc.logical xi.b (Dsc.unrank xi.b n))
  if xi.ldrt then (List.range 1216).map (fun n => at_ [n])
  else if xi.route.isSome then
    let n := 4096 / fmtBits (Dsc.fmt xi.a)
    (List.range n).map (fun j => at_ [n * u + j])
  else match xi.turnDim with
  | some k => (List.range (xi.items u)).map (fun j => at_ (xi.turnIdx k u j))
  | none => match xi.op with
    | 0x43 => xs.map (fun x => at_ (windowIndex xi.a x))
    | 0x44 => xs.map (fun x =>
        let r := x.getD (rowDim xi.a) 0
        let v := match xi.rubble e r with | .ok v => v.toNat | _ => 0
        let i := (Dsc.alloc xi.a x).set (Dsc.rank xi.a - 1) v
        (.row r, i, Dsc.rankOf xi.a i, r))
    | 0x46 => (rowIndices xi.a (rowDim xi.b) u).map (fun x => let i := Dsc.alloc xi.a x; (.data, i, Dsc.rankOf xi.a i, u))
    | 0x48 => (List.range (blockLen (Dsc.count xi.a) (8 * u) + 28672)).filterMap (fun j =>
        if 32768 * u + j < Dsc.count xi.a then some (at_ (Dsc.unrank xi.a (32768 * u + j))) else none)
    | 0x49 => [at_ (Dsc.alloc xi.a (streamIndex xi.a (u / Dsc.lext xi.a 0) (u % Dsc.lext xi.a 0)))]
    | 0x4E => [at_ (Dsc.unrank xi.a u)]
    | _ => xs.map (fun x => at_ (Dsc.alloc xi.a x))

/-- Units of a panel of a permuting copy: a turn block, or a run of the destination (R214). -/
def XI.panelLen (xi : XI) : Option Nat :=
  if (xi.op = 0x40 ∨ xi.op = 0x44) ∧ xi.route.isNone ∧ ¬ xi.ldrt ∧ (Dsc.dims xi.a).map (Dsc.p xi.a) ≠ (Dsc.dims xi.b).map (Dsc.p xi.b) then
    some (unitsIn xi.b (((Dsc.dims xi.b).find? (fun k => Dsc.p xi.b k == Dsc.p xi.a 0)).getD 0 + 1))
  else none

/-- The first source element of a unit that has not been read. -/
def XI.unread (xi : XI) (e : Env) (acc : WAcc) (u : Nat) : Option Cursor :=
  if xi.op = 0x47 then
    match xi.unit e acc u with
    | .need l => (l.find? (fun q => q.kind == .idx || q.kind == .data)).map (fun q =>
        { idx := [((q.va : Int) - (Dsc.base xi.a : Nat) - Dsc.org xi.a 0).toNat], va := q.va })
    | _ => none
  else
    let panel := match xi.panelLen with | some n => u / n | none => 0
    (xi.srcPlaces e u).findSome? (fun (k, i, n, r) =>
      (e.srcEl k xi.a (Dsc.aOf xi.a i) n).firstVa.map (fun va => { e.cursorAt xi.a false i n with rpos := r, va := va, panel := panel }))

/-- Where the source walk stands: that of a stage-all copy in its own order, a POOL's at the first row that is not whole. -/
def Xfer.srcCursor (v : View) (xi : XI) (t : Xfer) : Cursor :=
  let found := if t.pass = 0 then
      (List.range (Dsc.count xi.a)).findSome? (fun n =>
        let i := Dsc.unrank xi.a n
        ((t.env).srcEl .data xi.a (Dsc.aOf xi.a i) n).firstVa.map (fun va => { t.env.cursorAt xi.a false i n with va := va }))
    else if xi.op = 0x45 then
      match t.rows.findSome? (fun q => if q.phase = .done then none else
          (xi.rowXs q).findSome? (fun x => match rowIndex xi.a x q.v with
            | .ok (a, pos) => let e := { t.env with unit := q.lo }
                              (e.srcEl (.row q.pos) xi.a a pos).firstVa.map (fun va =>
                                { e.cursorAt xi.a false ((Dsc.alloc xi.a x).set (Dsc.rank xi.a - 1) q.v.toNat) pos with rpos := q.pos, va := va })
            | _ => none)) with
      | some c => some c
      | none => if t.scan < Dsc.ext xi.c 0 then some { rpos := t.scan } else none
    else (List.range (v.total - t.cursor)).findSome? (fun j =>
      let u := t.cursor + j
      (v.part u).bind (fun (x, b) => x.unread { t.env with unit := u } t.acc (u - b)))
  found.getD { done := true }

/-- The walk number of the first destination element of a unit (R117, R123); none past the last unit. -/
def XI.dstPlace (xi : XI) (acc : WAcc) (u : Nat) : Option Nat :=
  if xi.units ≤ u then none
  else if xi.route.isSome then some (4096 / fmtBits (Dsc.fmt xi.b) * u)
  else match xi.op with
    | 0x45 => (outRow xi.b (rowDim xi.a) u).head?
    | 0x47 => some (4096 * u)
    | 0x48 => some (if u = 0 then 8 * blockCount (Dsc.count xi.a) else acc.pos)
    | 0x49 => some 0
    | _ => let n := unitElem xi.b u; some (if xi.down then Dsc.count xi.b - 1 - n else n)

/-- Where the destination walk stands; a SCATTER's at the row that its rubble names. -/
def Xfer.dstCursor (v : View) (t : Xfer) : Cursor :=
  match v.part t.cursor with
  | none => { done := true }
  | some (x, b) =>
    let u := t.cursor - b
    let e := t.env
    if x.op = 0x46 then
      let row := match x.rubble e u with | .ok v => v.toNat | _ => 0
      let i := (Dsc.unrank x.b 0).set (Dsc.rank x.b - 1) row
      { e.cursorAt x.b true i (Dsc.rankOf x.b i) with rpos := u }
    else match x.dstPlace t.acc u with
    | none => { done := true }
    | some n =>
      let i := Dsc.unrank x.b n
      let va := match e.dstAddr x.b (Dsc.aOf x.b i) n with | .ok (some h) => h / 2 | _ => 0
      { e.cursorAt x.b true i n with va := va }

/-- The rubble position of the row that a walk reads next. -/
def Xfer.rubblePos (xi : XI) (t : Xfer) : Nat :=
  match xi.op with
  | 0x44 => (xi.groupRows t.scan).getD t.sub 0
  | 0x45 => t.scan
  | _ => t.cursor

/-- Where the walk of TC stands: rubble, the base of EXPAND and PACK, MSET's current slice (R224), the side sums. -/
def Xfer.auxCursor (v : View) (xi : XI) (slices : List XI) (t : Xfer) : Option Cursor :=
  let e := t.env
  match xi.op with
  | 0x41 => some { idx := [16 * ((List.range slices.length).filter (fun k => decide (sliceUnits (slices.take (k + 1)) ≤ t.cursor))).length] }
  | 0x40 => if xi.sums then some (e.cursorAt xi.c true [0] 0) else none
  | 0x47 | 0x48 =>
    let walk := if xi.op = 0x47 then xi.b else xi.a
    some ((((List.range (Dsc.count walk)).drop ((if xi.op = 0x47 then 4096 else 32768) * t.cursor)).findSome? (fun n =>
      let u := n / (if xi.op = 0x47 then 4096 else 32768)
      let i := Dsc.alloc xi.c (Dsc.logical walk (Dsc.unrank walk n))
      (({ e with unit := u }).srcEl .aux xi.c (Dsc.aOf xi.c i) (Dsc.rankOf xi.c i)).firstVa.map (fun va =>
        { e.cursorAt xi.c false i (Dsc.rankOf xi.c i) with va := va }))).getD { done := true })
  | 0x44 | 0x45 | 0x46 =>
    let r := t.rubblePos xi
    some (if v.total ≤ t.scan ∧ xi.op ≠ 0x45 then { done := true }
    else (((List.range (Dsc.ext xi.c 0)).drop r).findSome? (fun k =>
      ((xi.rubble { e with unit := t.scan } k).firstVa).map (fun va => { e.cursorAt xi.c false [k] k with rpos := r, va := va }))).getD { done := true })
  | _ => none

/-! ### Pending lines, open bags, accumulators (R69, R120, R122) -/

/-- Staging lines that a halt keeps: source data and MSET's lists. Rubble, block lists and other lists are read again. -/
def SLine.pends (l : SLine) : Bool := (l.kind.credit || l.kind == .desc || l.kind == .stg) && l.got != 0

/-- The sectors that hold data of the lines that pend, in the lines' order. -/
def Xfer.pending (t : Xfer) : List (SLine × Nat) :=
  (t.lines.filter SLine.pends).flatMap (fun l => (onesBelow (sectorsOf l.got) 4).map (fun k => (l, k)))

def SLine.sector (l : SLine) (k : Nat) : List Byte := toBytes 64 (fldN l.data (512 * k) 512)

/-- Pending lines, of one window each (R118). -/
def Xfer.pendingLines (w : Nat) (t : Xfer) : Nat := ceilDiv t.pending.length (8 * w)

/-- The bags that the open-bag table names: an empty one is never open (R268). -/
def Xfer.openBags (t : Xfer) : List Bag := t.bags.filter (fun g => g.len != 0)

/-- The accumulator image: the accumulators of the open bags one after another, or the side sums in TC's order (R253, log
92). -/
def XI.accImage (xi : XI) (t : Xfer) : List Byte :=
  if xi.op = 0x45 then t.openBags.flatMap (fun g => (List.range (rowElems xi.a)).flatMap (fun j => toBytes 4 (g.acc.getD j 0)))
  else if xi.sums then (List.range (Dsc.lext xi.b 0 + Dsc.lext xi.b 1)).flatMap (fun j => toBytes 4 (Tab.get 0 t.acc.sums j))
  else []

/-- An open-bag entry; its internal bytes are open (R122, log 5). -/
def bagEntry (d j tries free : Nat) (g : Bag) : List Byte :=
  toBytes 4 g.no ++ toBytes 4 g.done ++ toBytes 4 d ++ toBytes 4 (4 * d * j) ++ toBytes 4 tries ++ toBytes 4 1 ++
    (List.range 9).flatMap (fun k => toBytes 8 (Config.freeWord (free + 9 * j + k)).toNat)

def XI.bagTable (xi : XI) (t : Xfer) (free : Nat) : List Byte :=
  if xi.op ≠ 0x45 then List.replicate 3072 0
  else
    let l := (t.openBags.zipIdx).flatMap (fun (g, j) =>
      bagEntry (rowElems xi.a) j (match t.rows.find? (fun q => q.pos == g.off + g.done) with | some q => q.tries | none => 0) free g)
    l ++ List.replicate (3072 - l.length) 0

/-- A row whose retries are in progress begins its current attempt anew when the transfer continues (R271). -/
def RowSt.restarts (q : RowSt) : Bool := q.tries != 0 && (q.phase == .reading || q.phase == .again)

def Xfer.backRows (t : Xfer) : Xfer :=
  (t.rows.filter RowSt.restarts).foldl (fun t q => (t.dropRow q).setRow { q with phase := .reading }) t

def Xfer.rereadRows (xi : XI) (t : Xfer) : Xfer :=
  (t.rows.filter RowSt.restarts).foldl (fun t q =>
    match xi.rowPlan { t.env with unit := q.lo } q with | .ok l => t.plan { w := xi.w, lo := q.lo, hi := q.hi } l | _ => t) t

/-! ### The walk-state block (R120, R339) -/

/-- The flag of the walk that a request belongs to; reads of a list halt the walk that needs them (log 93). -/
def XOp.haltFlag (o : XOp) (r : WalkReq) : Nat :=
  let in_ := fun (d : Desc) => Dsc.blist d && decide (Dsc.blptr d ≤ r.va) && decide (r.va < Dsc.blptr d + 32 * Dsc.blcnt d)
  match r.walk with
  | .source => 1
  | .dest => 2
  | .aux => 4
  | .other => if in_ o.a then 1 else if in_ o.b then 2 else if o.op = 0x42 ∨ o.op = 0x43 ∨ o.op = 0x49 then 0 else 4

/-- The pages that the writes of the current unit need. -/
def Chip.dstPages (s : Chip) (c : Nat) (t : Xfer) (v : View) : List Nat :=
  if wOpc t.word = 0x45 ∨ wOpc t.word = 0x46 ∨ wOpc t.word = 0x4E ∨ t.remote then []
  else match v.unit t.env t.acc t.cursor with
  | .ok o => ((byGranule o.writes).map (·.va)).filter (fun va => match s.look c .write va with | .fault _ _ => true | _ => false)
  | _ => []

/-- Requests of the transfer's other walk that would fault as well: both walks stand (R339, log 93). -/
def Chip.otherHalts (s : Chip) (c : Nat) (t : Xfer) (v : View) (h : Halt) : List Halt :=
  let o := s.opOf c t
  let reads := (t.lines.filter SLine.due).filterMap (fun l => match s.look c .read l.first with
    | .fault code level => some ({ h with req := { va := l.first, acc := .read, walk := o.walkOf l.kind l.first }, code := code, level := level } : Halt)
    | _ => none)
  let writes := (s.dstPages c t v).filterMap (fun va => match s.look c .write va with
    | .fault code level => some ({ h with req := { va := va, acc := .write, walk := .dest }, code := code, level := level } : Halt)
    | _ => none)
  reads ++ writes

/-- The walks of a transfer as its plan sees them. -/
def Chip.viewOf (s : Chip) (c : Nat) (t : Xfer) : View × XI × List XI :=
  let xi := s.xiOf c t
  if wOpc t.word = 0x41 then
    match xi.slices t.env t.pass with
    | .ok l => (slicesView l, xi, l)
    | _ => (slicesView [], xi, [])
  else (xi.view, xi, [])

/-- The event names the walk that comes first: source, destination, auxiliary (R339). -/
def Chip.firstHalt (s : Chip) (c : Nat) (t : Xfer) (h : Halt) : Halt :=
  let (v, _, _) := s.viewOf c t
  let rank := fun (k : WalkKind) => match k with | .source => 0 | .dest => 1 | .aux => 2 | .other => 3
  (s.otherHalts c t v h).foldl (fun a b => if rank b.req.walk < rank a.req.walk then b else a) h

/-- The walk-state block. -/
def Chip.walkState (s : Chip) (c : Nat) (t : Xfer) (h : Halt) : List Byte :=
  let o := s.opOf c t
  let (v, xi, sl) := s.viewOf c t
  let w := (s.ctxAt c).size
  let flags := (h :: s.otherHalts c t v h).foldl (fun n k => n ||| o.haltFlag k.req) 0
  let n := t.pendingLines w
  let src := if o.op = 0x42 ∨ (o.op = 0x41 ∧ t.pass ≠ 3) then none else some (t.srcCursor v xi)
  let dst := if o.op = 0x4E ∨ xi.ldrt then none else if t.pass = 0 then some (Xfer.dstCursor v { t with cursor := 0 }) else some (t.dstCursor v)
  toBytes 8 t.word.toNat ++ toBytes 8 (t.ip / 8 * 8) ++ toBytes 8 flags ++
  toBytes 8 (t.courses % 2 ^ 32 + (t.halves / 2 - 65536 * t.courses) % 2 ^ 17 * 2 ^ 32) ++
  toBytes 8 t.dropped ++ toBytes 8 t.filled ++ List.replicate 16 0 ++
  cursorRecord src ++ cursorRecord dst ++ cursorRecord (t.auxCursor v xi sl) ++
  toBytes 64 (2 ^ n - 1) ++ toBytes 8 n ++ List.replicate 184 0 ++ xi.bagTable t s.free

/-! ### Saving (R70, R123) -/

/-- Bytes from an offset of the save area on, by granule. -/
def saveGranules (off : Nat) (bs : List Byte) : List (Nat × List Byte) :=
  (List.range (ceilDiv bs.length 256)).map (fun k => (off + 256 * k, (bs.drop (256 * k)).take 256))

/-- Where the pending lines begin in the save area (R69). -/
def Chip.lineBase (s : Chip) (c : Nat) : Nat := 0x2000 + 2 ^ s.ctxSavew c * 131072

/-- The granules of the save area that hold live state: the walk state, with the open-bag table where bags are open, the
accumulators, the pending lines (R70). -/
def Chip.liveParts (s : Chip) (c : Nat) (t : Xfer) (ws : List Byte) : List (Nat × List Byte) :=
  saveGranules 0x1200 (if t.openBags.isEmpty then ws.take 512 else ws) ++ saveGranules 0x2000 ((s.xiOf c t).accImage t) ++
    saveGranules (s.lineBase c) (t.pending.flatMap (fun (l, k) => l.sector k))

/-- The requests of a list of granules of the save area, untranslated, past the row cache; none when one lies in no
region (R312, R347). -/
def Chip.areaReqs (c : Nat) (kind : ReqKind) (write : Bool) (gs : List (Nat × List Byte)) (s : Chip) : Option Chip :=
  gs.foldl (fun o g => o.bind (fun s =>
    (s.decodePA (s.ctxSaveBase c + g.1)).map (fun p =>
      s.enq { s.ctxReq c kind write p.lane (granuleOf p.loc) g.1 (s.ctxClass c) with
              mask := if write then byteMask 0 g.2.length else BitVec.allOnes 256, data := if write then granuleBytes 0 g.2 else 0 }))) (some s)

/-- The save-area writes of a halted transfer go out. -/
def Chip.saveWalk (c : Nat) (t : Xfer) (h : Halt) (s : Chip) : Chip :=
  let h := s.firstHalt c t h
  let t := t.backRows
  let gs := s.liveParts c t (s.walkState c t h)
  match ({ s with free := s.free + 288 }).areaReqs c .save true gs with
  | some s => s.updXfer c (fun _ => { t with saving := true, halt := some h })
  | none => s.ownFault c Src.paddr

/-! ### What is still on its way -/

/-- Requests that bring a context's transfer bytes and have not been answered. -/
def Chip.pendingReads (s : Chip) (c : Nat) : Bool := s.bringing.any (fun r => r.dests.any (fun d => d.ctx == c))

def Chip.quiet (s : Chip) (c : Nat) : Bool := !s.pendingWrites c && !s.pendingReads c && !s.pendingRows c

/-- A halted transfer whose requests have all been answered writes its walk state (R123). -/
def Chip.haltStep (c : Nat) (s : Chip) : Chip :=
  let x := s.ctxAt c
  match x.xfer with
  | some t =>
    match t.halt with
    | some h => if x.st = .waiting ∧ ¬ x.ended ∧ ¬ t.saving ∧ t.out = [] ∧ s.quiet c then s.saveWalk c t h else s
    | none => s
  | none => s

/-! ### What FAULTED leaves in the mover -/

/-- Lists are forgotten, and the data of what has been saved: its place is the save area. -/
def Xfer.faulted (t : Xfer) : Xfer :=
  let blank := fun (l : SLine) => if l.pends then { l with data := 0, asked := l.got } else { l with asked := 0 }
  { t with credits := 0, saving := false, sampled := false, wrGot := [], pages := [],
           lines := (t.lines.filter (fun l => l.kind.credit || l.kind == .desc || l.kind == .stg)).map blank,
           bags := t.bags.map (fun g => { g with acc := g.acc.map (fun _ => 0) }), acc := { t.acc with sums := [] } }

/-! ### Restoring (R73, R123) -/

/-- A granule byte of what RESUME has read. -/
def areaByte (xs : List FillDone) (off : Nat) : Byte :=
  match xs.find? (fun x => x.r.va == off / 256 * 256) with
  | some x => fld x.data (8 * (off % 256)) 8
  | none => 0

def areaWord (xs : List FillDone) (off : Nat) : Nat := ofBytes ((List.range 4).map (fun i => areaByte xs (off + i)))

/-- A staging line takes its sectors back: `k` sectors lie before its own. -/
def SLine.restored (get : Nat → Byte) (k : Nat) (l : SLine) : SLine :=
  let ss := onesBelow (sectorsOf l.got) 4
  { l with data := (ss.zipIdx).foldl (fun d (j, i) =>
      d ||| BitVec.ofNat 2048 (ofBytes ((List.range 64).map (fun b => get (64 * (k + i) + b))) * 2 ^ (512 * j))) 0 }

/-- The pending lines, the accumulators and the sums are what the save area holds. -/
def Xfer.restore (xs : List FillDone) (xi : XI) (base : Nat) (t : Xfer) : Xfer :=
  let lines := (t.lines.foldl (fun (st : List SLine × Nat) l =>
    if l.pends then (st.1 ++ [l.restored (fun o => areaByte xs (base + o)) st.2], st.2 + (onesBelow (sectorsOf l.got) 4).length)
    else (st.1 ++ [l], st.2)) ([], 0)).1
  let d := rowElems xi.a
  let bags := (t.bags.foldl (fun (st : List Bag × Nat) g =>
    if g.len = 0 then (st.1 ++ [g], st.2)
    else (st.1 ++ [{ g with acc := (List.range g.acc.length).map (fun j => areaWord xs (0x2000 + 4 * (d * st.2 + j))) }], st.2 + 1)) ([], 0)).1
  let sums : Tab Nat := if xi.sums then (List.range (Dsc.lext xi.b 0 + Dsc.lext xi.b 1)).foldl (fun m j => Tab.set 0 j (areaWord xs (0x2000 + 4 * j)) m) []
    else t.acc.sums
  Xfer.rereadRows xi { t with lines := lines, bags := bags, acc := { t.acc with sums := sums }, restoring := false }

/-- The reads of what the halt saved go out. -/
def Chip.askArea (c : Nat) (t : Xfer) (s : Chip) : Chip :=
  match s.areaReqs c .restore false (s.liveParts c t (List.replicate 3584 0)) with
  | some s => s.updXfer c (fun t => { t with restoring := true })
  | none => s.ownFault c Src.paddr

/-- The last read of the save area has been answered: the walk may go on; a read that failed ends the context. -/
def Chip.areaRead (c : Nat) (s : Chip) : Chip :=
  let mine := fun (r : PortReq) => r.kind == .restore && r.ctx == some c
  if s.allRequests.any mine then s
  else
    let xs := s.ports.fills.filter (fun x => mine x.r)
    let s := { s with ports := { s.ports with fills := s.ports.fills.filter (fun x => !mine x.r) } }
    match xs.find? (fun x => x.rsp != .ok) with
    | some x => s.portFails c (portReport x.r x.rsp x.tag)
    | none => match (s.ctxAt c).xfer with
      | some t => s.updXfer c (fun _ => t.restore xs (s.xiOf c t) (s.lineBase c))
      | none => s

end Sys2Proof.Machine
end

