-- ==== Sys2Proof/Machine/Transfer.lean ====
section
/-! DEFINITION. Transfer instructions: issue, courses, retirement, translation halts and RESUME, ends of page
walks, prefetch fills (03_tensor_descriptors R119–R123, 05_instruction_set_transfers, 10_memory_tiers_and_translation
R335–R343). -/

namespace Sys2Proof.Machine

/-! ### The walk goes on (R58, R83) -/

/-- A context's walk advances as far as it can while the context is READY and current; once only an answer can let it go
on, the context waits for its transfer (log 91). A fault that it met is raised, and a halt completed, once its requests are
answered. -/
def Chip.pump (c : Nat) (s : Chip) : Chip :=
  let x := s.ctxAt c
  let s := if x.st = .ready ∧ s.isCur c ∧ x.xfer.isSome ∧ ¬ x.ended then
      match s.pumpN c 65536 with
      | (s, .stop) => if (s.ctxAt c).st = .ready then s.waitFor c .transfer else s
      | (s, _) => s
    else s
  (s.faultStep c).haltStep c

/-- A context that waits for its transfer is READY again when the walk can take a step. -/
def Chip.nudge (c : Nat) (s : Chip) : Chip :=
  let x := s.ctxAt c
  let s := if x.st = .waiting ∧ x.wait = some .transfer ∧ x.xfer.isSome ∧ ¬ x.ended ∧ (s.walkStep c).2 ≠ .stop then s.wake c else s
  (s.faultStep c).haltStep c

/-- What a context waited for has come. -/
def Chip.heard (c : Nat) (s : Chip) : Chip := if (s.ctxAt c).st = .ready then s.pump c else s.nudge c

def Chip.pumpList (cs : List Nat) (s : Chip) : Chip := cs.foldl (fun s c => s.heard c) s

/-- The context that is current on a mover. -/
def Chip.curOf (s : Chip) (m : Nat) : Option Nat := (s.movAt m).cur.bind (fun k => Tab.get none (s.movAt m).slots k)

/-- The walk of a mover's current context advances. -/
def Chip.pumpCur (m : Nat) (s : Chip) : Chip := match s.curOf m with | some c => s.pump c | none => s

/-- Every walk that can goes on: those of the current contexts, and contexts that waited become READY; landings go on. -/
def Chip.pumpAll (s : Chip) : Chip :=
  let s := (s.ctxKeys.filter (fun c => (s.ctxAt c).xfer.isSome)).foldl (fun s c => s.nudge c) s
  let s := (List.range s.build.nmov).foldl (fun s m => s.pumpCur m) s
  s.landsGo

/-- A mover takes up the walk of the context that becomes current (R58). -/
def switchTo (m : Nat) (s : Chip) : Chip := (moverSwitch m s).pumpCur m
def sliceEnds (m : Nat) (s : Chip) : Chip := (timesliceExpiry m s).pumpCur m

/-! ### Issue (R61, R174, R199, R371) -/

/-- A context's transfer is in flight: it has issued. -/
def Ctx.inFlight (x : Ctx) : Bool := x.xfer.isSome && x.wait != some .credit

/-- Staging lines that PREFETCH.stg keeps for contexts with no transfer in flight yield until `n` sectors are free
(R199). -/
def Chip.yieldStg (c m n : Nat) (s : Chip) : Chip :=
  (slotCtxs (s.movAt m)).foldl (fun s d =>
    if s.freeCredits m < n ∧ d ≠ c ∧ (s.ctxAt d).stgHold ≠ 0 ∧ ¬ (s.ctxAt d).inFlight then s.releaseStg d else s) s

/-- PREFETCH.rc and CINV have no effect in a build without a row cache (R9). -/
def Chip.hollow (s : Chip) (w : Word) : Bool := !s.rcOn && (wOpc w == 0x4E || (wOpc w == 0x4A && !bitB w 0))

/-- A transfer before it has read anything: `grp` numbers its run. Stage-all copies and MSET begin with pass 0. -/
def Chip.newXfer (s : Chip) (c : Nat) (w : Word) : Xfer :=
  let x := s.ctxAt c
  { word := w, ip := x.ip, pass := if wOpc w = 0x41 ∨ (x.xop w).mode = .stageAll then 0 else 1, lines := x.stgBuf, grp := s.uid,
    ended := s.hollow w }

/-- The overlap handling of a transfer is counted (R213). -/
def Chip.countLap (c : Nat) (w : Word) (s : Chip) : Chip :=
  match ((s.ctxAt c).xop w).mode with
  | .identity true => s.count c 0x38 32 32 1
  | .stageAll => s.count c 0x38 0 32 1
  | _ => s

/-- The sectors that a PREFETCH.stg takes: what its source needs, what is free, and at most one staging half
(R199, R375). -/
def Chip.stgRoom (s : Chip) (c : Nat) (w : Word) : Nat :=
  let m := s.slotMover c
  let xi := s.xiOf c { word := w, ip := 0 }
  let need := if Dsc.blist xi.a then 4 * xi.units else 4 * gransFrom xi { lines := [] } {} xi.units 0
  min need (min (s.freeCredits m) (4096 * s.teamSize m))

/-- The staging of a PREFETCH.stg: lines of an earlier one are released, its own are held from now on. -/
def Chip.takeStg (c : Nat) (w : Word) (s : Chip) : Chip :=
  let s := s.releaseStg c
  let n := s.stgRoom c w
  (s.updCtx c (fun x => { x with stgHold := n, stgBuf := [] })).updXfer c (fun t => { t with room := n, lines := [] })

/-- The transfer issues: it holds its credits, its issue is traced, it may be sampled, and its walk may begin. -/
def Chip.startTransfer (c : Nat) (w : Word) (s : Chip) : Chip :=
  let n := s.workingSet c w
  let s := (s.trace c 1 (wOpc w) (s.ctxAt c).ip 0).countLap c w
  let t := { s.newXfer c w with credits := n }
  let s := ({ s with uid := s.uid + 1 }).updCtx c (fun x => { x with xfer := some t })
  let s := if wOpc w = 0x4A ∧ bitB w 0 then s.takeStg c w else s
  s.sampleIf c ((s.ctxAt c).xop w).candidate

/-- The credits of the working set are all taken, or none: then the context waits with cause CREDIT (R61). -/
def Chip.enterTransfer (c : Nat) (w : Word) (s : Chip) : Chip :=
  let m := s.slotMover c
  let n := s.creditNeed c w
  let s := s.yieldStg c m n
  if n ≤ s.freeCredits m then (s.startTransfer c w).pump c
  else (s.updCtx c (fun x => { x with xfer := some (s.newXfer c w) })).waitFor c .credit

/-- A transfer's checks of R124, R175 and R176, then its issue. -/
def Chip.transferBody (c : Nat) (w : Word) (s : Chip) : Chip :=
  match s.transferFault c w with
  | some code => s.ownFault c code
  | none => s.enterTransfer c w

/-- A transfer of an opcode. -/
def transfer (c : Nat) (sel enc : Word → Bool) : Chip → Chip := Chip.issue c sel enc xCtr (Chip.transferBody c)

def move (c : Nat) : Chip → Chip := transfer c (fun w => isOp 0x40 w && !isLdrt w) encMove
def moveLdrt (c : Nat) : Chip → Chip := transfer c (fun w => isOp 0x40 w && isLdrt w) encLdrt
def mset (c : Nat) : Chip → Chip := transfer c (isOp 0x41) encMset
def fill (c : Nat) : Chip → Chip := transfer c (isOp 0x42) encFill
def window (c : Nat) : Chip → Chip := transfer c (isOp 0x43) encWindow
def gather (c : Nat) : Chip → Chip := transfer c (isOp 0x44) encGather
def pool (c : Nat) : Chip → Chip := transfer c (isOp 0x45) encPool
def scatter (c : Nat) : Chip → Chip := transfer c (isOp 0x46) encScatter
def expand (c : Nat) : Chip → Chip := transfer c (isOp 0x47) encExpand
def pack (c : Nat) : Chip → Chip := transfer c (isOp 0x48) encPack
def digest (c : Nat) : Chip → Chip := transfer c (isOp 0x49) encDigest
def prefetch (c : Nat) : Chip → Chip := transfer c (isOp 0x4A) encPrefetch
def send (c : Nat) : Chip → Chip := transfer c (isOp 0x4B) encSend
def deleg (c : Nat) : Chip → Chip := transfer c (isOp 0x4C) encDeleg
def cinv (c : Nat) : Chip → Chip := transfer c (isOp 0x4E) encCinv

/-- Sectors of PREFETCH.stg's lines among a transfer's. -/
def Xfer.stgSectors (t : Xfer) : Nat := ((t.lines.filter (fun l => l.kind == .stg)).map SLine.sectors).foldl (· + ·) 0

/-- Credits that the working set and the pending lines of a halted transfer need (R123). -/
def Chip.resumeSet (s : Chip) (c : Nat) (t : Xfer) : Nat := max (s.creditNeed c t.word) (t.held false) + t.stgSectors

/-- A halted transfer takes its credits, at once or not at all, and reads back what the halt saved (R123). -/
def Chip.resumeTransfer (c : Nat) (s : Chip) : Chip :=
  match (s.ctxAt c).xfer with
  | none => s
  | some t =>
    let m := s.slotMover c
    let n := min (s.resumeSet c t) (8192 * s.teamSize m)
    let s := s.yieldStg c m n
    if n ≤ s.freeCredits m then
      (((s.updXfer c (fun t => { t with credits := max (s.workingSet c t.word) (t.held false) })).updCtx c
        (fun x => { x with stgHold := t.stgSectors })).askArea c t).wake c
    else s.waitFor c .credit

/-- The credits that a waiting transfer needs have become free (R61). -/
def creditAcquired (c : Nat) (s : Chip) : Chip :=
  let x := s.ctxAt c
  match x.xfer with
  | none => s
  | some t =>
    if x.st = .waiting ∧ x.wait = some .credit ∧ ¬ x.ended then
      if t.resumed then s.resumeTransfer c
      else
        let m := s.slotMover c
        let n := s.creditNeed c t.word
        let s := s.yieldStg c m n
        if n ≤ s.freeCredits m then (s.startTransfer c t.word).wake c else s
    else s

/-! ### Passes and courses (R119, R157, R220, R223) -/

/-- The transfer of a context is in flight and nothing has stopped it. -/
def Chip.inFlightXfer (s : Chip) (c : Nat) : Option Xfer :=
  let x := s.ctxAt c
  match x.xfer with
  | some t => if (x.st == .ready || (x.st == .waiting && x.wait == some .transfer)) && !x.ended && t.halt.isNone && !t.restoring then some t else none
  | none => none

/-- The next pass of a walk begins. -/
def Xfer.nextPass (p : Nat) (t : Xfer) : Xfer := { t with pass := p, cursor := 0, scan := 0, sub := 0 }

/-- The last read of a stage-all copy has been answered: its write pass begins (R220). -/
def stageAllWritePass (c : Nat) (s : Chip) : Chip :=
  match s.inFlightXfer c with
  | some t =>
    if t.pass = 0 ∧ wOpc t.word ≠ 0x41 ∧ (t.nextStaged (s.xiOf c t)).isNone ∧ t.due.isNone ∧ ¬ s.pendingReads c then
      (s.updXfer c (Xfer.nextPass 1)).heard c
    else s
  | none => s

/-- Every fill write of an MSET is acknowledged: its data pass begins (R223). -/
def msetDataPass (c : Nat) (s : Chip) : Chip :=
  match s.inFlightXfer c with
  | some t =>
    match (s.xiOf c t).slices t.env 2 with
    | .ok l =>
      if t.pass = 2 ∧ wOpc t.word = 0x41 ∧ sliceUnits l ≤ t.cursor ∧ t.out = [] ∧ ¬ s.pendingWrites c then
        (s.updXfer c (Xfer.nextPass 3)).heard c
      else s
    | _ => s
  | none => s

/-- The signal of one course (R155, R172). -/
def Chip.courseSignal (c : Nat) (t : Xfer) (s : Chip) : Chip :=
  match wKM t.word with
  | 2 => s.signal (wKS t.word) 65536
  | 3 => s.signal (wKS t.word) 1
  | _ => s.updCtx c id

/-- The next course of a walk has been written, and every write of its bytes and of earlier ones is acknowledged (R119). -/
def Chip.courseDone (s : Chip) (c : Nat) (t : Xfer) : Bool :=
  !t.remote && wOpc t.word != 0x4C && decide (131072 * (t.courses + 1) ≤ t.halves) &&
    !(t.out.any (fun o => decide (o.crs ≤ t.courses))) &&
    !(s.bringing.any (fun r => r.ctx == some c && r.write && decide (r.crs ≤ t.courses))) &&
    !(s.segs.any (fun g => g.ctx == c && decide (g.crs ≤ t.courses))) && !(s.groups.any (fun g => g.ctx == c && decide (g.crs ≤ t.courses)))

/-- Every write of a course is acknowledged (R119, R157): it counts as complete, and its signal is applied. -/
def courseComplete (c : Nat) (s : Chip) : Chip :=
  match s.inFlightXfer c with
  | some t =>
    if s.courseDone c t then ((s.courseSignal c t).updXfer c (fun t => { t with courses := t.courses + 1 })).progressed c
    else s
  | none => s

/-! ### Retirement (R156, R157, R171, R172) -/

/-- The signals a transfer with a local destination still owes: whole courses first, then its last bytes. -/
def Chip.lastSignals (c : Nat) (t : Xfer) (s : Chip) : Chip :=
  let n := t.halves / 131072 - t.courses
  let s := (List.range n).foldl (fun s _ => s.courseSignal c t) s
  let rest := (t.halves % 131072 + 1) / 2
  match wKM t.word with
  | 1 => s.signal (wKS t.word) 1
  | 2 => if rest = 0 then s else s.signal (wKS t.word) rest
  | 3 => if rest = 0 then s else s.signal (wKS t.word) 1
  | _ => s

/-- The destination bytes of a retiring transfer (R172, R594). -/
def Xfer.bytes (t : Xfer) : Nat := (t.halves + 1) / 2

/-- A sampled transfer's digests join its sample (R465–R467). -/
def Chip.sampleDone (c : Nat) (t : Xfer) (s : Chip) : Chip :=
  if !t.sampled then s
  else
    let fill := fun (p : Sample) =>
      if p.ctx = c ∧ p.digest = none then
        { p with digest := some t.odig.value, vdigest := t.vdig, torn := t.torn, retired := some s.time } else p
    s.updMov (s.slotMover c) (fun y => { y with samples := y.samples.map fill })

/-- A context's unfinished samples are skipped (R43). -/
def Chip.skipSamples (c : Nat) (s : Chip) : Chip :=
  let m := s.slotMover c
  let mine := (s.movAt m).samples.filter (fun p => p.ctx == c && p.digest.isNone)
  let s := if mine.any (fun p => p.walk.isSome) then s.leaveWalk (.shadow m) else s
  (s.updMov m (fun y => { y with samples := y.samples.filter (fun p => !(p.ctx == c && p.digest.isNone)) })).count c 0x78 0 32 mine.length

/-- Requests of a PREFETCH on their way. -/
def Chip.groupOpen (s : Chip) (grp : Nat) : Bool :=
  s.bringing.any (fun r => (r.kind == .prefetchRc || r.kind == .prefetchStg || r.kind == .prefetchFill) && r.grp == grp)

/-- The detached work of PREFETCHes whose last fill has landed or been discarded ends, with its signal (R140, R172). -/
def Chip.groupEnd (grp : Nat) (s : Chip) : Chip :=
  if s.groupOpen grp then s
  else s.ctxKeys.foldl (fun s c =>
    match (s.ctxAt c).detached.find? (fun d => d.1 == grp) with
    | some (_, k) => let s := s.undetach c grp; if k < 4096 then s.signal k 1 else s
    | none => s) s

/-- The staging a context keeps once a transfer of it has retired: what a PREFETCH.stg has fetched. -/
def Chip.stgAfter (c : Nat) (t : Xfer) (s : Chip) : Chip :=
  if wOpc t.word = 0x4A ∧ bitB t.word 0 then s.updCtx c (fun x => { x with stgHold := t.halves })
  else s.updCtx c (fun x => { x with stgHold := 0, stgBuf := [] })

/-- The transfer may retire (R171): its walk has ended, what it waits for has been answered. -/
def Chip.mayRetire (s : Chip) (c : Nat) (t : Xfer) : Bool :=
  t.ended && !(t.shipped.isSome && t.remote) &&
  (match wOpc t.word with
   | 0x4A => true
   | 0x4B => (match t.msg with | some id => s.msgAccepted id | none => true) && !s.pendingReads c
   | 0x4C => (match t.msg with | some id => s.msgAccepted id | none => true) && !s.pendingReads c
   | _ => s.quiet c)

/-! ### Bytes that source and destination share (R109, R222) -/

/-- A byte of memory takes an open value, wherever the block holds it (log 35). -/
def Chip.openByte (loc n : Nat) (s : Chip) : Chip :=
  let b := Config.freeByte n
  let j := loc % 256
  let put := fun (r : PortReq) =>
    if r.write && r.loc == granuleOf loc && bitB r.mask j && !isWb r.kind then
      { r with data := mergeMask (BitVec.ofNat 2048 (255 * 2 ^ (8 * j))) r.data (BitVec.ofNat 2048 (b.toNat * 2 ^ (8 * j))) }
    else r
  let m := BitVec.ofNat 256 (2 ^ j)
  let d := BitVec.ofNat 2048 (b.toNat * 2 ^ (8 * j))
  let s := (s.commitWrite (granuleOf loc) m d).lineThrough (granuleOf loc) m d
  { s with ports := { s.ports with queue := s.ports.queue.map put } }

/-- The locations that a transfer has both read as source and written as destination. -/
def Xfer.shared (t : Xfer) : List Nat :=
  t.dsts.flatMap (fun e => (onesBelow (e.2 &&& Tab.get 0 t.srcs e.1) 256).map (fun j => e.1 + j))

/-- Overlap that no rule orders leaves the shared bytes undefined: of block lists, and of two virtual ranges at the same
memory (R109, R222, log 35). A copy whose spans meet is ordered (R217–R221). -/
def Chip.openShared (c : Nat) (t : Xfer) (s : Chip) : Chip :=
  if (s.opOf c t).mode = .none then
    (t.shared.foldl (fun s loc => (s.openByte loc s.free).tickFree) s)
  else s

/-- What retirement does beyond the context: shared bytes, signals, detached work, the sample, the trace record, staging. -/
def Chip.retireEffects (c : Nat) (t : Xfer) (s : Chip) : Chip :=
  let s := s.openShared c t
  let s := match wOpc t.word with
    | 0x4A =>
      (s.updCtx c (fun x => { x with detached := x.detached ++ [(t.grp, if wKM t.word = 1 then wKS t.word else 4096)] })).groupEnd t.grp
    | 0x4B => match t.msg.bind s.msgAt with
      | some m => s.updCtx c (fun x => { x with detached := x.detached ++ [(m.id, 4096)] })
      | none => s
    | 0x4C => match t.msg.bind s.msgAt with
      | some m => s.updCtx c (fun x => { x with detached := x.detached ++ [(m.id, 4096)] })
      | none => s
    | _ => s.lastSignals c t
  ((s.sampleDone c t).trace c 2 (wOpc t.word) t.ip (at64 0 t.bytes)).stgAfter c t

/-- The transfer of a context retires; its credits are free. -/
def Chip.retireXfer (c : Nat) (t : Xfer) (s : Chip) : Chip :=
  (((s.retireEffects c t).updCtx c (fun x => { x with xfer := none })).retireNext c).wake c

/-- A transfer retires. CINV ends with the port fault of its first write-back that failed (R206); a guest's SCATTER ends
its request (R428). -/
def transferRetire (c : Nat) (s : Chip) : Chip :=
  match s.inFlightXfer c with
  | some t =>
    if s.mayRetire c t then
      match t.fault with
      | some r => (s.updCtx c (fun x => { x with ended := true, faddr := x.ip })).report r
      | none =>
        if t.shipped.isSome then
          let d := s.link.delegs.find? (fun d => d.guest == some c)
          let s := (s.stgAfter c t).guestFree c
          match d with | some d => s.delegDone d.src d.mtag 0 t.bytes | none => s
        else s.retireXfer c t
    else s
  | none => s

/-! ### Halted (R339–R341) -/

/-- A translation event (R341). -/
def Chip.eventBytes (s : Chip) (c : Nat) (h : Halt) : List Byte :=
  let acc := match h.req.acc with | .read => 0 | .write => 1 | .fetch => 2
  let walk := match h.req.walk with | .source => 0 | .dest => 1 | .aux => 2 | .other => 3
  toBytes 8 (c + s.ctxPart c * 2 ^ 8 + (if s.ctxGuest c then 2 ^ 11 else 0) + h.code * 2 ^ 12 + acc * 2 ^ 16 + walk * 2 ^ 18 +
    h.level * 2 ^ 20) ++ toBytes 8 h.req.va ++ toBytes 8 ((s.ctxAt c).ip / 8 * 8) ++ toBytes 8 h.time

/-- The translation queue of a context (R340). -/
def Chip.trqOf (s : Chip) (c : Nat) : Nat := 2 * s.ctxPart c + (if s.ctxGuest c then 1 else 0)

/-- The halt is complete: FAULTED, the credits free, the event on its way; a pending STOP is dropped (R48, R50). -/
def Chip.faulted (c : Nat) (h : Halt) (s : Chip) : Chip :=
  let q := s.trqOf c
  let ev := s.eventBytes c h
  let s := (s.skipSamples c).updCtx c (fun x =>
    { x with stopReq := false, faultSize := x.size, walk := none, leaf := none, xfer := x.xfer.map Xfer.faulted,
             stgHold := if x.xfer.isSome then 0 else x.stgHold, stgBuf := if x.xfer.isSome then [] else x.stgBuf })
  (s.setSt c .faulted none).ringPut (Reg.trq q 0) (Reg.trq q 0x18) (.trq q) ev none (some (s.ctxPart c))

/-- The save-area writes of a translation halt are acknowledged (R123); a halt of another instruction has nothing to
save. -/
def translationHalt (c : Nat) (s : Chip) : Chip :=
  let s := s.haltStep c
  let x := s.ctxAt c
  if x.st ≠ .waiting ∨ x.ended then s
  else match x.halt with
    | some h => s.faulted c h
    | none =>
      match x.xfer with
      | some t =>
        match t.halt with
        | some h =>
          if t.saving && !(s.allRequests.any (fun r => r.ctx == some c && r.kind == .save)) then s.faulted c h else s
        | none => s
      | none => s

/-! ### RESUME (R48, R54, R123, R343) -/

def resume (c : Nat) : Chip → Chip :=
  Chip.command c (fun x => x.st == .faulted && x.slotOf.isSome) fun s =>
    let x := s.ctxAt c
    if x.size ≠ x.faultSize then s.refuse Src.savesz
    else
      let s := (s.ctxOk c).updCtx c (fun x =>
        { x with halt := none, progress := s.time, xfer := x.xfer.map (fun t => { t with halt := none, resumed := true }) })
      if x.xfer.isSome then s.resumeTransfer c else s.setSt c .ready none

/-! ### Page walks end (R335, R198) -/

/-- The access that waited for a translation goes on. -/
def Chip.afterWalk (c : Nat) (s : Chip) : Chip :=
  let x := s.ctxAt c
  match x.acc, x.xfer with
  | some a, _ => s.scalarGo c a
  | none, some _ => s.wake c
  | none, none => s.fetchMiss c

/-- A failed read of a PREFETCH or of its page walk is reported by the port, without a context, at LOG (R198). -/
def prefetchReport (r : Report) : Report :=
  { r with ctx := none, iaddr := none, ends := false, exempt := true, detail := some ((r.detail.getD 0) ||| at64 63 1) }

/-- The walk of a context's PREFETCH. -/
def Chip.prefetching (s : Chip) (c : Nat) : Option Xfer :=
  match (s.ctxAt c).xfer with
  | some t => if wOpc t.word = 0x4A then some t else none
  | none => none

/-- A PREFETCH meets a translation that fails: it issues no more. Of a block list that it cannot read no granules are
known (R198). -/
def Chip.prefetchStops (c : Nat) (req : WalkReq) (s : Chip) : Chip :=
  (s.updXfer c (fun t => if req.walk = .source then { t with dropping := true } else { t with ended := true })).wake c

/-- A page walk ends for a context that waited for it: the access goes on, or the instruction takes the fault or the port's
failure. A leaf that an invalidation covers serves this access alone (R337). -/
def Chip.walkFor (c : Nat) (w : PWalk) (s : Chip) : Chip :=
  let x := s.ctxAt c
  match x.walk with
  | none => s
  | some req =>
    let s := s.updCtx c (fun x => { x with walk := none })
    if x.st ≠ .waiting ∨ x.ended then s
    else match w.ans, s.prefetching c with
      | some (.leaf e), _ =>
        (if s.installs w.epoch e then s else s.updCtx c (fun x => { x with leaf := some { epoch := w.epoch, e := e } })).afterWalk c
      | some (.fault _ _), some _ => s.prefetchStops c req
      | some (.failed rep), some _ => (s.prefetchStops c req).report (prefetchReport rep)
      | some (.fault code level), none =>
        let s := s.updCtx c (fun x => { x with acc := none })
        (if (s.ctxAt c).xfer.isSome then (s.walkTrFault c req code level).faultStep c else s.trFault c req code level).haltStep c
      | some (.failed rep), none =>
        if (s.ctxAt c).xfer.isSome then (s.holdFault c (s.charge c rep)).faultStep c
        else (s.updCtx c (fun x => { x with acc := none })).portFails c rep
      | none, _ => s

/-! ### Fills land (R198, R348, R376, R377) -/

/-- The contexts that waited for a read get their bytes where the line now has them; others ask again. -/
def Chip.landDests (r : PortReq) (s : Chip) : Chip :=
  r.dests.foldl (fun s d =>
    let l := s.lineAt r.loc
    if d.mask &&& ~~~(l.serves d.vol) = 0 ∧ ¬ l.lost then s.deliver d l.data else s.unask d) s

/-- The sectors that returned well enter the line, but for those that it holds valid already; bytes that the point of
coherence has taken since the read was granted are memory's (R348). -/
def Chip.installFill (x : FillDone) (s : Chip) : Option Chip :=
  let ok := x.ok &&& ~~~(s.lineAt x.r.loc).valid
  if ok = 0 then some s
  else s.rcInstall x.r.loc ok (if x.r.skip = 0 then x.data else mergeMask (wide x.r.skip) x.data (s.memGranule x.r.loc)) x.r.cls

/-- The report of a request whose answer was bad: of its context while that still executes. -/
def Chip.badAnswer (s : Chip) (r : PortReq) (rsp : Rsp) (tag : Nat) : Report :=
  let base := portReport r rsp tag
  match r.ctx with
  | some c =>
    let x := s.ctxAt c
    if (x.st = .waiting ∨ x.st = .ready) ∧ ¬ x.ended then s.charge c base else base
  | none => base

/-- The context whose request failed is to end (R177); a failure that comes when it executes no more is its abort's. -/
def Chip.failCtx (r : PortReq) (rep : Report) (s : Chip) : Chip :=
  let s := match rep.ctx with
    | some c => s.updCtx c (fun x => { x with ended := true, faddr := x.ip })
    | none => s
  if r.ctx.isSome ∧ rep.ctx.isNone ∧ r.kind ≠ .stale then s else s.report rep

/-- A sector of a fill did not return well. -/
def FillDone.failed (x : FillDone) : Bool := x.rsp != .ok

/-- The sector of its granule that a segment combines into. -/
def Seg.sector (g : Seg) : Nat := match g.ops with | op :: _ => op.half / 128 | [] => 0

/-- Two segments are of one row of one SCATTER. -/
def Seg.sameRow (g h : Seg) : Bool := g.ctx == h.ctx && g.run == h.run && g.pos == h.pos && g.grp == h.grp

/-- The read that a row's segments waited for has failed: all of the row's are discarded, a row being combined whole or not
at all, and each is a fault of its context (R179). -/
def Chip.loseRows (hit : Seg → Bool) (x : FillDone) (s : Chip) : Chip :=
  let bad := s.segs.filter hit
  let cs := ((bad.map (·.ctx)).eraseDups).filter (fun c => some c != x.r.ctx)
  let s := { s with segs := s.segs.filter (fun g => !bad.any (fun h => h.sameRow g)) }
  cs.foldl (fun s c => s.failCtx { x.r with ctx := some c } (s.badAnswer { x.r with ctx := some c } x.rsp x.tag)) s

/-- Combine segments and row update groups that waited for sectors of a fill that failed: a group that has not begun will be
abandoned (R284). -/
def Chip.failRows (x : FillDone) (s : Chip) : Chip :=
  let bad := sectorsOf x.r.mask &&& ~~~x.ok &&& ~~~(s.lineAt x.r.loc).valid
  let rep : Report := { src := rspSrc x.r.lane.kind x.rsp, kind := .bank, unit := Config.rcBank x.r.loc % 64 }
  let lose := fun (g : RowGroup) => if g.entered.isNone && g.failed.isNone && bad != 0 && g.lines.contains x.r.loc then { g with failed := some rep } else g
  ({ s with groups := s.groups.map lose }).loseRows (fun g => g.loc == x.r.loc && g.missed && bitB bad g.sector) x

/-- No earlier group of the row is in its bank (R283). -/
def Chip.groupTurn (s : Chip) (g : RowGroup) : Bool :=
  match s.groups.find? (fun h => h.hdr == g.hdr) with | some h => h.id == g.id | none => false

/-- Sectors of a line that hold bytes of the row, its header among them. -/
def RowGroup.sectors (g : RowGroup) (line : Nat) : BitVec 4 :=
  sectorsOf (((g.hdr :: g.bytes.map Prod.fst).filter (fun a => granuleOf a == line)).foldl
    (fun (m : BitVec 256) a => m ||| BitVec.ofNat 256 (2 ^ (a % 256))) 0)

/-- A line of a row whose group is at the head of its bank's queue is pinned as it becomes present (R284). -/
def Chip.pinFor (line : Nat) (s : Chip) : Chip :=
  let l := s.lineAt line
  let mine := fun (g : RowGroup) => g.entered.isNone && g.failed.isNone && g.lines.contains line && s.groupTurn g &&
    g.sectors line &&& ~~~l.valid == 0
  if s.groups.any mine then
    ({ s with groups := s.groups.map (fun g => if mine g && !g.pins.contains line then { g with pins := line :: g.pins } else g) }).updLine line
      (fun l => { l with pinned := true })
  else s

/-- A row cache fill returns (R348): it waits while every way of its set is pinned (R274). -/
def rowCacheFill (id : Nat) (s : Chip) : Chip :=
  match s.ports.fills.find? (fun x => x.r.id == id && x.r.kind == .fill) with
  | none => s
  | some x =>
    match s.installFill x with
    | none => s
    | some s =>
      let s := ((s.dropFill id).landDests x.r).pinFor x.r.loc
      let s := if x.failed then (if x.r.grp = 0 then s.failCtx x.r (s.badAnswer x.r x.rsp x.tag) else s).failRows x else s
      s.pumpList ((x.r.dests.map (·.ctx)).eraseDups)

/-- Staging lines of a PREFETCH.stg whose read has failed are given up: the next transfer reads their bytes itself. -/
def Chip.dropStg (c : Nat) (r : PortReq) (s : Chip) : Chip :=
  let keep := fun (l : SLine) => !(r.dests.any (fun d => d.ctx == c && d.run == l.run && d.line == l.id) && l.kind == .stg)
  s.updCtx c (fun x => { x with stgBuf := x.stgBuf.filter keep, xfer := x.xfer.map (fun t => { t with lines := t.lines.filter keep }) })

/-- A PREFETCH fill lands or is discarded, and its credit is free (R198, R376). Bytes for staging land with the context
while it holds them. -/
def prefetchFillLand (c id : Nat) (s : Chip) : Chip :=
  match s.ports.fills.find? (fun x => x.r.id == id && x.r.ctx == some c && (x.r.kind == .prefetchRc || x.r.kind == .prefetchStg || x.r.kind == .prefetchFill)) with
  | none => s
  | some x =>
    let s0 := if x.failed then s.dropStg c x.r else s
    let put := match x.r.kind with
      | .prefetchStg => some (if x.failed then s0 else x.r.dests.foldl (fun s d => s.deliver d x.data) s0)
      | _ => (s0.installFill x).map (fun (s : Chip) => (s.landDests x.r).pinFor x.r.loc)
    match put with
    | none => s
    | some s =>
      let s := s.dropFill id
      let s := if x.failed then s.report (prefetchReport (portReport x.r x.rsp x.tag)) else s
      (s.groupEnd x.r.grp).pumpList ((c :: x.r.dests.map (fun (d : Dest) => d.ctx)).eraseDups)

/-! ### The torn-row guard's wait ends (R285) -/

def tornRowRetry (c : Nat) (s : Chip) : Chip :=
  match s.inFlightXfer c with
  | some t =>
    (match t.retry (s.xiOf c t) with
     | some t' => (s.updXfer c (fun _ => t')).heard c
     | none => s)
  | none => s

/-! ### Meanings -/

def execMoverSwitch (m : Nat) (s : State) : Out := s.run (switchTo m)
def execTimesliceExpiry (m : Nat) (s : State) : Out := s.run (sliceEnds m)
def execMove (c : Nat) (s : State) : Out := s.run (move c)
def execMoveLdrt (c : Nat) (s : State) : Out := s.run (moveLdrt c)
def execMset (c : Nat) (s : State) : Out := s.run (mset c)
def execMsetDataPass (c : Nat) (s : State) : Out := s.run (msetDataPass c)
def execFill (c : Nat) (s : State) : Out := s.run (fill c)
def execWindow (c : Nat) (s : State) : Out := s.run (window c)
def execGather (c : Nat) (s : State) : Out := s.run (gather c)
def execPool (c : Nat) (s : State) : Out := s.run (pool c)
def execScatter (c : Nat) (s : State) : Out := s.run (scatter c)
def execExpand (c : Nat) (s : State) : Out := s.run (expand c)
def execPack (c : Nat) (s : State) : Out := s.run (pack c)
def execDigest (c : Nat) (s : State) : Out := s.run (digest c)
def execPrefetch (c : Nat) (s : State) : Out := s.run (prefetch c)
def execPrefetchFillLand (c id : Nat) (s : State) : Out := s.run (prefetchFillLand c id)
def execSend (c : Nat) (s : State) : Out := s.run (send c)
def execDeleg (c : Nat) (s : State) : Out := s.run (deleg c)
def execCinv (c : Nat) (s : State) : Out := s.run (cinv c)
def execCreditAcquired (c : Nat) (s : State) : Out := s.run (creditAcquired c)
def execStageAllWritePass (c : Nat) (s : State) : Out := s.run (stageAllWritePass c)
def execCourseComplete (c : Nat) (s : State) : Out := s.run (courseComplete c)
def execTransferRetire (c : Nat) (s : State) : Out := s.run (transferRetire c)
def execTranslationHalt (c : Nat) (s : State) : Out := s.run (translationHalt c)
def execResume (c : Nat) (s : State) : Out := s.run (resume c)
def execRowCacheFill (id : Nat) (s : State) : Out := s.run (rowCacheFill id)
def execTornRowRetry (c : Nat) (s : State) : Out := s.run (tornRowRetry c)

end Sys2Proof.Machine
end

