-- ==== Sys2Proof/Machine/Embed.lean ====
section
/-! DEFINITION. Combines and row updates at the row cache banks (08_embedding_pooling R277–R284). -/

namespace Sys2Proof.Machine

/-! ### The new code of an element (R277) -/

/-- The value of the source element as shipped (R238). -/
def SegOp.value (o : SegOp) : Val :=
  if fmtMX o.sfmt then decodeMX o.sfmt o.scode o.sscale
  else if fmtRQ o.sfmt then decodeRQ o.sscale o.szp o.scode
  else if o.saff then decodeAffine { scale := o.sscale, zp := o.szp } (intOf o.sfmt o.scode)
  else decodePlain o.sfmt o.scode

def SegOp.aff (o : SegOp) : Aff := { scale := o.tscale, zp := o.tzp }

/-- The source encoded into the table format; equal formats without QMODE pass unchanged (R233). -/
def SegOp.encode (o : SegOp) : Enc :=
  if o.sfmt = o.tfmt ∧ ¬ o.saff ∧ ¬ o.taff then { code := o.scode }
  else if o.taff then encodeAffine o.tfmt o.aff o.value
  else encodePlain o.tfmt o.value

/-- The value that a table code represents. -/
def SegOp.tableValue (o : SegOp) (t : Nat) : Val :=
  if o.taff then decodeAffine o.aff (intOf o.tfmt t) else decodePlain o.tfmt t

/-- MAX and MIN: the winning code is kept; `t` where they are equal. -/
def SegOp.select (o : SegOp) (max : Bool) (t : Nat) : Enc :=
  let e := o.encode
  let a := o.tableValue t
  let b := o.tableValue e.code
  if fmtFloat o.tfmt ∧ (a.isNan ∨ b.isNan) then { e with code := (fsOf o.tfmt).nan }
  else if (if max then Val.gt b a else Val.gt a b) then e
  else { e with code := t }

/-- The new table code from the old one `t` under CMB. -/
def SegOp.combine (o : SegOp) (cmb t : Nat) : Enc :=
  match cmb with
  | 0 => o.encode
  | 1 =>
    let e := if o.taff then affineAddend o.tfmt o.aff o.value else encodePlain o.tfmt o.value
    { e with code := (t + e.code) % 2 ^ fmtBits o.tfmt }
  | 2 =>
    let (c, sat) := encodeFloat (fsOf o.tfmt) (Val.add (o.tableValue t) o.value)
    { code := c, sat := sat }
  | 3 => o.select true t
  | _ => o.select false t

/-! ### Segments (R278, R279) -/

/-- Half-bytes of an element in its granule. -/
def SegOp.halves (o : SegOp) : Nat := fmtBits o.tfmt / 4

/-- The old code of an element, from the bytes that `cur` gives. -/
def SegOp.old (cur : Nat → Byte) (o : SegOp) : Nat :=
  if o.halves = 1 then (cur (o.half / 2)).toNat / 16 ^ (o.half % 2) % 16
  else ofBytes ((List.range (o.halves / 2)).map (fun i => cur (o.half / 2 + i)))

/-- The write of an element's new code, in the granule. -/
def SegOp.write (o : SegOp) (code : Nat) : Wr := { at_ := o.half, bits := fmtBits o.tfmt, code := code }

/-- The writes of a segment and what they count (R256). -/
def Seg.apply (g : Seg) (cur : Nat → Byte) : List WByte × Nat × Nat :=
  let es := g.ops.map (fun o => (o, o.combine g.cmb (o.old cur)))
  ((es.map (fun (o, e) => o.write e.code)).flatMap Wr.wbytes, countP (fun e => e.2.sat) es, countP (fun e => e.2.nan) es)

/-- Bytes of the sector that the combine needs before it: those of the old codes, and in the row cache bytes written by
half. -/
def Seg.needs (g : Seg) (cached : Bool) : BitVec 256 :=
  let ws := (g.ops.map (fun o => o.write 0)).flatMap Wr.wbytes
  let m := fun (l : List WByte) => l.foldl (fun (m : BitVec 256) b => m ||| BitVec.ofNat 256 (2 ^ (b.va % 256))) 0
  if g.cmb = 0 then
    (if cached then m (ws.filter (fun b => b.m != 0xFF && !(ws.any (fun c => c.va == b.va && c.m == ~~~b.m)))) else 0)
  else m ws

/-- The location is kept in the row cache (R9, R311). -/
def Chip.cachedLoc (s : Chip) (loc : Nat) : Bool := s.rcOn && decide (loc < 3 * 2 ^ 64)

/-- Combines of one context to one sector are applied in issue order; those of different members of a gang in their order of
arrival, which is open (R279). -/
def Chip.segTurn (s : Chip) (g : Seg) : Bool :=
  let same := fun (h : Seg) => h.ctx == g.ctx && h.loc == g.loc && h.sector == g.sector && (h.run != g.run || h.mem == g.mem)
  match s.segs.find? same with
  | some h => h.id == g.id
  | none => false

/-- The position that a bank applied last of a SCATTER at a sector, or for a row (R279). -/
def Chip.lastPos (s : Chip) (run key : Nat) : Option Nat :=
  (s.banked.find? (fun q => q.1 == run && q.2.1 == key)).map (·.2.2)

/-- The occurrence comes before the one that was applied last: it is discarded (R279). -/
def Chip.stalePos (s : Chip) (run key pos : Nat) : Bool :=
  match s.lastPos run key with | some p => decide (pos < p) | none => false

/-- A SCATTER still runs, or work of it is still in a bank. -/
def Chip.runLives (s : Chip) (run : Nat) : Bool :=
  s.ctx.any (fun e => match e.2.xfer with | some t => t.grp == run | none => false) || s.segs.any (fun g => g.run == run) ||
    s.groups.any (fun g => g.run == run)

/-- A bank notes the position that it applies; what belongs to SCATTERs that have ended is forgotten. -/
def Chip.notePos (run key pos : Nat) (s : Chip) : Chip :=
  { s with banked := (run, key, pos) :: s.banked.filter (fun q => !(q.1 == run && q.2.1 == key) && s.runLives q.1) }

/-- The context while its SCATTER runs. -/
def Chip.liveRun (s : Chip) (c run : Nat) : Option Nat :=
  let x := s.ctxAt c
  match x.xfer with
  | some t => if (x.st == .waiting || x.st == .ready) && !x.ended && t.grp == run then some c else none
  | none => none

/-- A read or a write of a bank at the port of a location. -/
def Chip.bankReq (s : Chip) (kind : ReqKind) (write : Bool) (loc c run lead part cls : Nat) : PortReq :=
  { id := 0, kind := kind, write := write, lane := laneOfLoc loc, loc := loc, mask := 0, ctx := s.liveRun c run, part := some part,
    cls := cls, req := lead }

/-- Sectors that are asked for on behalf of a bank, those that are not on their way (R377). -/
def Chip.askSectors (need : BitVec 4) (r : PortReq) (s : Chip) : Chip :=
  (runs (s.newSectors r.loc need)).foldl (fun s v => s.enq { r with mask := sectorBytes v }) s

def Chip.updSeg (id : Nat) (f : Seg → Seg) (s : Chip) : Chip :=
  { s with segs := s.segs.map (fun g => if g.id == id then f g else g) }

/-- The answer to a bank's own read. -/
def Chip.bankRead (s : Chip) (k : ReqKind) : Option FillDone := s.ports.fills.find? (fun x => x.r.kind == k)

/-- A bank's own request of a kind is on its way. -/
def Chip.banking (s : Chip) (k : ReqKind) : Bool := s.allRequests.any (fun r => r.kind == k)

/-- The bytes that the combine of a segment needs are there. -/
def Chip.segReady (s : Chip) (g : Seg) : Bool :=
  if s.cachedLoc g.loc then g.needs true &&& ~~~((s.lineAt g.loc).serves false) == 0
  else g.needs false == 0 || (s.bankRead (.combine g.id)).isSome

/-- Nothing of a row is combined before all of it can be (R179). -/
def Chip.rowReady (s : Chip) (g : Seg) : Bool := (s.segs.filter (fun h => h.sameRow g)).all s.segReady

/-- What a combine counts on the mover that issued it (R256). -/
def Chip.countCasts (lead sat nan : Nat) (s : Chip) : Chip :=
  (s.bump (Reg.mov lead 0x40) 32 32 sat).bump (Reg.mov lead 0x40) 0 32 nan

def Chip.dropSeg (id : Nat) (s : Chip) : Chip := { s with segs := s.segs.filter (fun h => h.id != id) }

/-- A segment is applied in the row cache: its codes are written, its conversions counted. -/
def Chip.applySeg (g : Seg) (s : Chip) : Option Chip :=
  let (ws, sat, nan) := g.apply (fun j => s.viewByte false (g.loc + j))
  let (m, d, keep) := granuleWrite ws
  ((s.dropSeg g.id).rcWrite g.loc m (if keep = 0 then d else mergeMask keep d (s.viewGranule g.loc)) g.part g.cls (!g.missed)).map
    (fun s => (s.countCasts g.lead sat nan).notePos g.run (g.loc / 64 + g.sector) g.pos)

/-- Outside the row cache a bank reads what the combine needs at the port, combines, and writes (R9); the segment ends with
the write's acknowledgement. -/
def Chip.combineThrough (g : Seg) (s : Chip) : Chip :=
  let k := ReqKind.combine g.id
  let r := s.bankReq k false g.loc g.ctx g.run g.lead g.part g.cls
  if s.banking k || s.segs.any (fun h => h.id != g.id && h.loc == g.loc && (s.banking (.combine h.id) || (s.bankRead (.combine h.id)).isSome)) then s
  else if !s.segReady g then (s.enq { r with mask := sectorBytes (sectorsOf (g.needs false)) }).updSeg g.id (fun g => { g with missed := true })
  else if !s.rowReady g then s
  else
    let x := s.bankRead k
    let (ws, sat, nan) := g.apply (fun j => match x with | some x => fld x.data (8 * j) 8 | none => 0)
    let (m, d, keep) := granuleWrite ws
    let s := match x with | some x => s.dropFill x.r.id | none => s
    ((s.enq { r with write := true, mask := m, data := d, keep := keep, crs := g.crs }).countCasts g.lead sat nan).notePos g.run (g.loc / 64 + g.sector) g.pos

/-- A bank applies a segment in one indivisible update of its sector, once the bytes it needs are there (R278). -/
def combineSegment (id : Nat) (s : Chip) : Chip :=
  match s.segs.find? (fun g => g.id == id) with
  | none => s
  | some g =>
    if !s.segTurn g || (match g.grp with | some k => s.banking (.header k) | none => false) then s
    else if g.cmb == 0 && g.grp.isNone && s.stalePos g.run (g.loc / 64 + g.sector) g.pos then
      if s.banking (.combine g.id) then s else (s.dropSeg id).pumpAll
    else if !s.cachedLoc g.loc then s.combineThrough g
    else if !s.segReady g then
      let s := if g.missed then s else (s.countRowSectors Reg.rcEmbmiss 1).updSeg id (fun g => { g with missed := true })
      s.askSectors (sectorsOf (g.needs true &&& ~~~((s.lineAt g.loc).serves false))) (s.bankReq .fill false g.loc g.ctx g.run g.lead g.part g.cls)
    else if !s.rowReady g then s
    else
      let counted := !g.missed && g.needs true != 0 && g.grp.isNone
      match (if counted then s.countRowSectors Reg.rcEmbhit 1 else s).applySeg g with
      | some s => s.pumpAll
      | none => s

/-- The write of a combine outside the row cache is answered. -/
def Chip.combineDone (id : Nat) (s : Chip) : Chip := (s.dropSeg id).pumpAll

/-! ### Row updates (R282–R284) -/

def Chip.groupAt (s : Chip) (id : Nat) : Option RowGroup := s.groups.find? (fun g => g.id == id)

def Chip.updGroup (id : Nat) (f : RowGroup → RowGroup) (s : Chip) : Chip :=
  { s with groups := s.groups.map (fun g => if g.id == id then f g else g) }

/-- Sectors of a line that the group still lacks. -/
def Chip.groupLacks (s : Chip) (g : RowGroup) (line : Nat) : BitVec 4 :=
  if s.cachedLoc line then g.sectors line &&& ~~~(s.lineAt line).valid else 0

/-- The mask, the bytes and the bits kept of locations of one granule. -/
def locWrite (bs : List (Nat × Byte × Byte)) : BitVec 256 × Granule × Granule :=
  granuleWrite (bs.map (fun (a, m, v) => ({ va := a % 256, m := m, v := v } : WByte)))

/-- Bytes written in one update of a granule of the row cache. -/
def Chip.putBytesAt (line part cls : Nat) (bs : List (Nat × Byte × Byte)) (s : Chip) : Option Chip :=
  let (m, d, keep) := locWrite bs
  s.rcWrite line m (if keep = 0 then d else mergeMask keep d (s.viewGranule line)) part cls false

/-- VERSION of the row's header. -/
def Chip.rowVersion (s : Chip) (g : RowGroup) : Nat :=
  ofBytes ((List.range 2).map (fun i => s.viewByte false (g.hdr + 6 + i)))

/-- The version's bytes. -/
def versionBytes (hdr v : Nat) : List (Nat × Byte × Byte) := (List.range 2).map (fun i => (hdr + 6 + i, 0xFF, BitVec.ofNat 8 (v / 256 ^ i)))

/-- The bytes of a group by sector, those of the header's sector apart. -/
def RowGroup.body (g : RowGroup) : List (Nat × List (Nat × Byte × Byte)) :=
  let rest := g.bytes.filter (fun q => q.1 / 64 != g.hdr / 64)
  ((rest.map (fun q => q.1 / 64)).eraseDups).map (fun k => (granuleOf (64 * k), rest.filter (fun q => q.1 / 64 == k)))

/-- The body segment of one sector: its bytes and half-bytes as they are. -/
def bodySeg (g : RowGroup) (id loc : Nat) (bs : List (Nat × Byte × Byte)) : Seg :=
  let op := fun (q : Nat × Byte × Byte) =>
    let (a, m, v) := q
    let (half, fmt, code) := if m = 0x0F then (2 * (a % 256), 0x02, v.toNat % 16)
      else if m = 0xF0 then (2 * (a % 256) + 1, 0x02, v.toNat / 16) else (2 * (a % 256), 0x3F, v.toNat)
    ({ half := half, tfmt := fmt, taff := false, tscale := 0, tzp := 0, sfmt := fmt, saff := false, sscale := 0, szp := 0, scode := code } : SegOp)
  { id := id, ctx := g.ctx, lead := g.lead, part := g.part, cls := g.cls, cmb := 0, loc := loc, pos := g.pos, run := g.run, mem := g.mem,
    ops := bs.map op, grp := some g.id, crs := g.crs, trs := g.trs }

def Chip.addBody (g : RowGroup) (s : Chip) : Chip :=
  g.body.foldl (fun s (loc, bs) => { s with segs := s.segs ++ [bodySeg g s.uid loc bs], uid := s.uid + 1 }) s

/-- A line is pinned while a group holds it (R274, R284). -/
def Chip.repin (lines : List Nat) (s : Chip) : Chip :=
  lines.foldl (fun s g => s.updLine g (fun l => { l with pinned := l.here && s.groups.any (fun h => h.pins.contains g) })) s

/-- A group leaves its bank; its lines are unpinned, and what waited for them goes on. -/
def Chip.dropGroup (g : RowGroup) (s : Chip) : Chip :=
  (({ s with groups := s.groups.filter (fun h => h.id != g.id) }).repin (g.lines.filter s.cachedLoc)).pumpAll

/-- VERSION as ENTER leaves it (R282). -/
def enterVersion (v : Nat) : Nat := (v + 1) % 65536 ||| 1

/-- A write of the header's granule past the row cache: of ENTER (`exit` 0), of EXIT (1). -/
def Chip.headerWrite (g : RowGroup) (exit : Nat) (bs : List (Nat × Byte × Byte)) (s : Chip) : Chip :=
  let (m, d, keep) := locWrite bs
  s.enq { s.bankReq (.header g.id) true (granuleOf g.hdr) g.ctx g.run g.lead g.part g.cls with
          mask := m, data := d, keep := keep, grp := exit, crs := g.crs }

/-- The group has begun: its body goes to its banks. -/
def Chip.entered (g : RowGroup) (v : Nat) (s : Chip) : Chip :=
  ((s.updGroup g.id (fun g => { g with entered := some v })).addBody g).notePos g.run g.hdr g.pos

/-- ENTER outside the row cache: the header's version is read at its port, then written (R9). -/
def Chip.enterThrough (g : RowGroup) (s : Chip) : Chip :=
  let k := ReqKind.header g.id
  if s.banking k then s
  else match s.bankRead k with
    | some x =>
      let v := enterVersion (fldN x.data (8 * (g.hdr % 256 + 6)) 16)
      ((s.dropFill x.r.id).headerWrite g 0 (versionBytes g.hdr v)).entered g v
    | none => s.enq { s.bankReq k false (granuleOf g.hdr) g.ctx g.run g.lead g.part g.cls with mask := sectorMask (g.hdr % 256 / 64) }

/-- ENTER (R282): with every line of the row present and pinned, VERSION becomes odd; until then the absent sectors are
asked for (R284). A group that a later one of its SCATTER has overtaken is discarded (R279). -/
def rowUpdateEnter (id : Nat) (s : Chip) : Chip :=
  match s.groupAt id with
  | none => s
  | some g =>
    if s.groupTurn g = false ∨ g.entered.isSome ∨ g.failed.isSome then s
    else if s.stalePos g.run g.hdr g.pos then s.dropGroup g
    else
      let s := (g.lines.filter s.cachedLoc).foldl (fun s l => s.pinFor l) s
      let lack := g.lines.filter (fun l => s.groupLacks g l != 0)
      if !lack.isEmpty then
        lack.foldl (fun s l => s.askSectors (s.groupLacks g l) { s.bankReq .fill false l g.ctx g.run g.lead g.part g.cls with ctx := none, grp := g.id + 1 }) s
      else if !s.cachedLoc g.hdr then s.enterThrough g
      else
        let v := enterVersion (s.rowVersion g)
        match s.putBytesAt (granuleOf g.hdr) g.part g.cls (versionBytes g.hdr v) with
        | none => s
        | some s => s.entered g v

/-- EXIT (R282): the body applied, the header's sector is written in one update, and the lines are unpinned. -/
def rowUpdateExit (id : Nat) (s : Chip) : Chip :=
  match s.groupAt id with
  | none => s
  | some g =>
    match g.entered with
    | none => s
    | some v =>
      if s.segs.any (fun h => h.grp == some id) || s.banking (.header id) then s
      else
        let bs := g.bytes.filter (fun q => q.1 / 64 == g.hdr / 64) ++ versionBytes g.hdr ((v + 1) % 65536)
        if !s.cachedLoc g.hdr then s.headerWrite g 1 bs
        else match s.putBytesAt (granuleOf g.hdr) g.part g.cls bs with
          | none => s
          | some s => s.dropGroup g

/-- The group is abandoned before ENTER (R284): the bank reports, naming the context while it is not aborted. -/
def rowUpdateAbandon (id : Nat) (s : Chip) : Chip :=
  match s.groupAt id with
  | none => s
  | some g =>
    match g.failed with
    | none => s
    | some rep =>
      let rep : Report := { rep with unit := Config.rcBank (granuleOf g.hdr) % 64, part := some g.part }
      let s := s.dropGroup g
      match s.liveRun g.ctx g.run with
      | some c =>
        let x := s.ctxAt c
        (s.updCtx c (fun x => { x with ended := true, faddr := x.ip })).report
          { rep with ctx := some c, iaddr := x.iword.map (fun w => (x.ip, w)), ends := true }
      | none => s.report rep

/-- A header read that failed abandons its group (R284). -/
def Chip.headerFails (id : Nat) (x : FillDone) (s : Chip) : Chip :=
  s.updGroup id (fun g => { g with failed := some { src := rspSrc x.r.lane.kind x.rsp, kind := .bank, unit := 0 } })

/-- The write of a header outside the row cache is answered: EXIT's ends the group. -/
def Chip.headerDone (r : PortReq) (id : Nat) (s : Chip) : Chip :=
  match s.groupAt id with
  | some g => if r.grp = 1 then s.dropGroup g else s
  | none => s

/-! ### Meanings -/

def execCombineSegment (id : Nat) (s : State) : Out := s.run (combineSegment id)
def execRowUpdateEnter (id : Nat) (s : State) : Out := s.run (rowUpdateEnter id)
def execRowUpdateExit (id : Nat) (s : State) : Out := s.run (rowUpdateExit id)
def execRowUpdateAbandon (id : Nat) (s : State) : Out := s.run (rowUpdateAbandon id)

end Sys2Proof.Machine
end

