-- ==== Sys2Proof/Machine/Irq.lean ====
section
/-! DEFINITION. The interrupt controller (16_interrupt_controller, R502–R528). -/

namespace Sys2Proof.Machine

/-! ### Sources -/

/-- The build has the source's registers (R502, R612). -/
def Chip.srcPresent (s : Chip) (n : Nat) : Bool :=
  if n < 256 then decide (n < s.build.nctx)
  else if n < 512 then decide (n - 256 < s.build.nctx)
  else if n < 576 then decide (n - 512 < s.build.nmov)
  else if n < 600 then decide (n - 576 < s.build.nsp)
  else if n < 608 then decide (n - 600 < s.build.nfp)
  else if n < 624 then decide (n - 608 < s.build.nlp)
  else decide (n < 768)

def Chip.evtEn (s : Chip) (i : Nat) : Bool := bitB (s.reg Reg.icEvtcfg) i
def Chip.evtLevel (s : Chip) (i : Nat) : Bool := bitB (s.reg Reg.icEvtcfg) (32 + i)

/-- The source is a level source (R502, R504). -/
def Chip.isLevel (s : Chip) (n : Nat) : Bool :=
  decide (736 ≤ n) && decide (n < 768) && s.evtEn (n - 736) && s.evtLevel (n - 736)

/-- LVL of a source: 0 for an event source (R527). -/
def Chip.lvlOf (s : Chip) (n : Nat) : Bool := s.isLevel n && bitB s.irq.lvl (n - 736)

/-- The sources of register `k` whose bit is 1 in `v` and that the build has. -/
def Chip.srcSet (s : Chip) (k : Nat) (v : Word) : List Nat :=
  ((onesBelow v 64).map (64 * k + ·)).filter s.srcPresent

/-- The source re-pends by its level (R508, R518). -/
def IrqSrc.repend (time : Nat) (x : IrqSrc) : IrqSrc :=
  { x.event time false with cnt := x.cnt, byLevel := true }

def icPset (k : Nat) (v : Word) : Chip → Chip :=
  Chip.accept fun s => ((s.srcSet k v).foldl (fun s n => s.raise n false) s).answer .ok

/-- Clears PEND and NMIREQ; a level source whose LVL is 1 and that is not ACTIVE re-pends (R508). -/
def Chip.clearPend (s : Chip) (n : Nat) : Chip :=
  let s := s.updSrc n (fun x => { x with pend := false, nmireq := false, byLevel := false })
  if s.lvlOf n && !(s.srcAt n).active then s.updSrc n (IrqSrc.repend s.time) else s

def icPclr (k : Nat) (v : Word) : Chip → Chip :=
  Chip.accept fun s => ((s.srcSet k v).foldl Chip.clearPend s).answer .ok

/-- Masks sources; a source unmasked until now may still be presented by a selection already started
(R521). -/
def icMset (k : Nat) (v : Word) : Chip → Chip :=
  Chip.accept fun s =>
    let ns := s.srcSet k v
    let late := ns.filter (fun n => !(s.srcAt n).mask)
    let s := ns.foldl (fun s n => s.updSrc n (fun x => { x with mask := true })) s
    ({ s with irq := { s.irq with grace := s.irq.grace ++ late } }).answer .ok

def icMclr (k : Nat) (v : Word) : Chip → Chip :=
  Chip.accept fun s =>
    let ns := s.srcSet k v
    let s := ns.foldl (fun s n => s.updSrc n (fun x => { x with mask := false })) s
    ({ s with irq := { s.irq with grace := s.irq.grace.filter (fun n => !ns.contains n) } }).answer .ok

/-- IC_EVTCFG (R507): a bit changes only while its source is masked and not ACTIVE; the change clears
PEND, LOST and the synchroniser of the input. -/
def icEvtcfg (v : Word) : Chip → Chip :=
  Chip.accept fun s =>
    let d := s.reg Reg.icEvtcfg ^^^ v
    let ch := (List.range 32).filter (fun i => bitB d i || bitB d (32 + i))
    if ch.all (fun i => (s.srcAt (736 + i)).mask && !(s.srcAt (736 + i)).active) then
      let s := s.setReg Reg.icEvtcfg v
      let s := ch.foldl (fun s i => s.updSrc (736 + i) (fun x =>
        { x with pend := false, nmireq := false, byLevel := false, lost := false })) s
      let lvl := ch.foldl (fun l i => setBit l i false) s.irq.lvl
      ({ s with irq := { s.irq with lvl := lvl } }).answer .ok
    else s.answer .err

/-- Source `n` is presented on some vector port. -/
def Chip.presented (s : Chip) (n : Nat) : Bool :=
  (List.range 8).any (fun t => match (s.tgtAt t).pres with | some (m, _) => m == n | none => false)

/-- IC_SRC (R526). -/
def icSrc (n : Nat) (v : Word) : Chip → Chip :=
  Chip.accept fun s =>
    let x := s.srcAt n
    let y := { x with prio := fldN v 0 8, target := fldN v 8 3, nmi := bitB v 11 }
    if !s.srcPresent n then s.answer .ok
    else if y = x then s.answer .ok
    else if x.mask && !x.active && !s.presented n then (s.updSrc n (fun _ => y)).answer .ok
    else s.answer .err

/-- IC_SST (R527): sets PHANT and CNT, clears LOST and STORM where 1 is written. -/
def icSst (n : Nat) (v : Word) : Chip → Chip :=
  Chip.accept fun s =>
    if s.srcPresent n then
      (s.updSrc n (fun x => { x with phant := fldN v 24 8, cnt := fldN v 16 8, lost := x.lost && !bitB v 6,
                                     storm := x.storm && !bitB v 7 })).answer .ok
    else s.answer .ok

/-- The source is ACTIVE on target `t` (R518). -/
def Chip.activeOn (s : Chip) (t n : Nat) : Bool := (s.srcAt n).active && (s.srcAt n).target == t

/-- A level source re-pends at its end of interrupt: an event and a re-assertion, also where PEND was set before, and then
its level does not clear it (R505, R518, R522). -/
def IrqSrc.again (time : Nat) (x : IrqSrc) : IrqSrc :=
  let y := x.event time false
  { y with byLevel := x.byLevel || !x.pend, winCnt := if x.pend then y.winCnt + 1 else y.winCnt }

/-- End of interrupt (R518). -/
def icEoi (t : Nat) (v : Word) : Chip → Chip :=
  Chip.accept fun s =>
    let n := fldN v 0 10
    if 8 ≤ t then s.answer .ok
    else if n < 768 ∧ s.activeOn t n then
      let s := s.updSrc n (fun x => { x with active := false, actNmi := false })
      (if s.lvlOf n then s.updSrc n (IrqSrc.again s.time) else s).answer .ok
    else (s.updTgt t (fun x => { x with eoierr := true })).answer .ok

/-! ### Selection (R511, R512) -/

/-- The sources with an entry in the table: any other source is not pending and not ACTIVE. -/
def Chip.srcKeys (s : Chip) : List Nat := s.irq.src.map Prod.fst

def prioGroup (g prio : Nat) : Nat := prio >>> (8 - g)

/-- Groups of the ACTIVE sources of `t` that are not NMIs; the least is the running group. -/
def Chip.runningPrio (s : Chip) (t : Nat) : Option Nat :=
  ((s.srcKeys.filter (fun n => s.activeOn t n && !(s.srcAt n).actNmi)).map (fun n => (s.srcAt n).prio)).min?

def Chip.nmiActive (s : Chip) (t : Nat) : Bool := s.srcKeys.any (fun n => s.activeOn t n && (s.srcAt n).actNmi)

/-- A source pends for `t` and is not ACTIVE: a candidate but for its mask. -/
def Chip.wants (s : Chip) (t n : Nat) : Bool :=
  let x := s.srcAt n
  x.pend && !x.active && x.target == t

def Chip.candidate (s : Chip) (t n : Nat) : Bool := s.wants t n && (!(s.srcAt n).mask || (s.srcAt n).nmireq)

/-- Least PRIO, then least number. -/
def Chip.mostUrgent (s : Chip) : List Nat → Option Nat
  | [] => none
  | n :: r =>
    match s.mostUrgent r with
    | none => some n
    | some m =>
      let p := (s.srcAt n).prio
      let q := (s.srcAt m).prio
      if p < q ∨ (p = q ∧ n ≤ m) then some n else some m

/-- Whether a source without NMIREQ may pre-empt on `t` (R512). -/
def Chip.preempts (s : Chip) (t n : Nat) : Bool :=
  let g := (s.tgtAt t).prigroup
  match s.runningPrio t with
  | none => true
  | some p => decide (prioGroup g (s.srcAt n).prio < prioGroup g p)

/-- The selection of target `t` (R512). -/
def Chip.selectVector (s : Chip) (t : Nat) : Option Nat :=
  let cs := s.srcKeys.filter (s.candidate t)
  let nmis := cs.filter (fun n => (s.srcAt n).nmireq)
  if s.nmiActive t then none
  else if nmis.isEmpty then s.mostUrgent (cs.filter (s.preempts t))
  else s.mostUrgent nmis

/-- The vector a free port presents: the selection, or a source that a mask write has just masked and
whose selection had started before (R521). -/
def Chip.vectorFor (s : Chip) (t : Nat) (early : Option Nat) : Option Nat :=
  match early with
  | none => s.selectVector t
  | some n =>
    if s.irq.grace.contains n && s.wants t n && !s.nmiActive t && s.preempts t n then some n else none

/-- VALID rises on a free port (R514, R516). -/
def vectorPresent (t : Nat) (early : Option Nat) (s : Chip) : Chip :=
  let x := s.tgtAt t
  if t < 8 ∧ x.en ∧ x.pres = none then
    match s.vectorFor t early with
    | some n => s.updTgt t (fun x => { x with pres := some (n, (s.srcAt n).nmireq), presAt := s.time, ackHigh := none })
    | none => s
  else s

/-- The claim (R515, R519). -/
def vectorClaim (t : Nat) (s : Chip) : Chip :=
  match (s.tgtAt t).pres with
  | none => s
  | some (n, nmi) =>
    let ph := s.isLevel n && !s.lvlOf n
    let s := s.updTgt t (fun x => { x with pres := none, ackHigh := some s.time })
    s.updSrc n (fun x => { x with pend := false, nmireq := false, byLevel := false, active := true, actNmi := nmi,
                                  phant := if ph then satAdd 255 x.phant 1 else x.phant })

/-- The acknowledge watchdog has run out (R517). -/
def Chip.vpackDue (s : Chip) (t : Nat) : Bool :=
  let x := s.tgtAt t
  match x.pres, x.ackHigh with
  | some _, _ => decide (x.presAt + 100 * x.vptmo ≤ s.time)
  | none, some a => decide (a + 100 * x.vptmo ≤ s.time)
  | none, none => false

def vpackTimeout (t : Nat) (s : Chip) : Chip :=
  if t < 8 ∧ s.vpackDue t then
    (s.updTgt t (fun x => { x with pres := none, ackHigh := none, en := false })).report
      { src := Src.vpack, kind := .shared, unit := 6, detail := some (at64 0 t) }
  else s

/-! ### Event inputs (R504–R506) -/

def evtEdge (i : Nat) (merged : Bool) (s : Chip) : Chip :=
  if i < 32 ∧ s.evtEn i ∧ ¬ s.evtLevel i then
    (s.raise (736 + i) false).updSrc (736 + i) (fun x => { x with lost := x.lost || merged })
  else s

def evtLevelRise (i : Nat) (s : Chip) : Chip :=
  if i < 32 ∧ s.isLevel (736 + i) ∧ ¬ bitB s.irq.lvl i then
    let s := { s with irq := { s.irq with lvl := setBit s.irq.lvl i true } }
    if (s.srcAt (736 + i)).active then s
    else s.updSrc (736 + i) (fun x => { x.event s.time false with byLevel := x.byLevel || !x.pend })
  else s

def evtLevelFall (i : Nat) (s : Chip) : Chip :=
  if i < 32 ∧ bitB s.irq.lvl i then
    let s := { s with irq := { s.irq with lvl := setBit s.irq.lvl i false } }
    if (s.srcAt (736 + i)).byLevel && !s.presented (736 + i) then
      s.updSrc (736 + i) (fun x => { x with pend := false, nmireq := false, byLevel := false })
    else s
  else s

/-- The count of one window passes 1,024 (R522). -/
def stormWindow (n : Nat) (s : Chip) : Chip :=
  let x := s.srcAt n
  if n < 768 ∧ 1024 < x.winCnt ∧ ¬ x.winRep then
    (s.updSrc n (fun x => { x with storm := true, winRep := true })).report
      { src := Src.irqstorm, kind := .shared, unit := 6, detail := some (at64 0 n) }
  else s

/-- IC_TCFG (R528). -/
def icTcfg (t : Nat) (v : Word) : Chip → Chip :=
  Chip.accept fun s =>
    let x := s.tgtAt t
    let g := fldN v 8 4
    if 8 ≤ t then s.answer .ok
    else if fldN v 16 16 = 0 ∨ 8 < g then s.answer .err
    else if g ≠ x.prigroup ∧ (x.en ∨ s.srcKeys.any (s.activeOn t)) then s.answer .err
    else (s.updTgt t (fun x => { x with vptmo := fldN v 16 16, prigroup := g, en := bitB v 0 })).answer .ok

/-- IC_VBASE (R528). -/
def icVbase (t : Nat) (v : Word) (s : Chip) : Chip :=
  if (s.tgtAt t).en ∨ s.srcKeys.any (s.activeOn t) then s.answer .err
  else (s.updTgt t (fun x => { x with vbase := v &&& maskBits 14 34 })).answer .ok

/-- IC_TSTAT: EOIERR is cleared where 1 is written (R528). -/
def icTstat (t : Nat) (v : Word) (s : Chip) : Chip :=
  (s.updTgt t (fun x => { x with eoierr := x.eoierr && !bitB v 29 })).answer .ok

/-! ### Meanings -/

def execIcPset (k : Nat) (v : Word) (s : State) : Out := s.run (icPset k v)
def execIcPclr (k : Nat) (v : Word) (s : State) : Out := s.run (icPclr k v)
def execIcMset (k : Nat) (v : Word) (s : State) : Out := s.run (icMset k v)
def execIcMclr (k : Nat) (v : Word) (s : State) : Out := s.run (icMclr k v)
def execIcEvtcfg (v : Word) (s : State) : Out := s.run (icEvtcfg v)
def execIcSrc (n : Nat) (v : Word) (s : State) : Out := s.run (icSrc n v)
def execIcSst (n : Nat) (v : Word) (s : State) : Out := s.run (icSst n v)
def execIcEoi (t : Nat) (v : Word) (s : State) : Out := s.run (icEoi t v)
def execIcTcfg (t : Nat) (v : Word) (s : State) : Out := s.run (icTcfg t v)
def execVectorPresent (t : Nat) (early : Option Nat) (s : State) : Out := s.run (vectorPresent t early)
def execVectorClaim (t : Nat) (s : State) : Out := s.run (vectorClaim t)
def execVpackTimeout (t : Nat) (s : State) : Out := s.run (vpackTimeout t)
def execEvtEdge (i : Nat) (merged : Bool) (s : State) : Out := s.run (evtEdge i merged)
def execEvtLevelRise (i : Nat) (s : State) : Out := s.run (evtLevelRise i)
def execEvtLevelFall (i : Nat) (s : State) : Out := s.run (evtLevelFall i)
def execStormWindow (n : Nat) (s : State) : Out := s.run (stormWindow n)

end Sys2Proof.Machine
end

