-- ==== Sys2Proof/Machine/Reset.lean ====
section
/-! DEFINITION. Step 3 of a block reset: every unit and register returns to its reset value (15_recovery_and_reset
R492, R496, 19_register_map R599). -/

namespace Sys2Proof.Machine

/-! ### Accepted combines and row updates complete (R492, R496) -/

/-- A segment is applied at the point of coherence.  What a bank would leave dirty in the row cache is discarded by the
reset. -/
def Chip.forceSeg (g : Seg) (s : Chip) : Chip :=
  if s.cachedLoc g.loc || s.ports.outs.any (fun (o : Outst) => o.r.kind == .combine g.id && o.r.write) ||
      (g.cmb == 0 && g.grp.isNone && s.stalePos g.run (g.loc / 64 + g.sector) g.pos) then s
  else
    let old := s.memGranule g.loc
    let (m, d, keep) := granuleWrite (g.apply (fun j => fld old (8 * j) 8)).1
    (s.memWrite (maskedBytes g.loc m (mergeMask keep d old))).notePos g.run (g.loc / 64 + g.sector) g.pos

/-- A row update group takes place whole: its bytes, its version twice incremented to even. -/
def Chip.forceGroup (g : RowGroup) (s : Chip) : Chip :=
  if s.cachedLoc g.hdr || g.failed.isSome || (g.entered.isNone && s.stalePos g.run g.hdr g.pos) then s
  else
    let v := g.entered.getD (enterVersion (s.rowVersion g))
    let put := (g.bytes ++ versionBytes g.hdr ((v + 1) % 65536)).map (fun (a, m, b) => (a, (s.memByte a &&& ~~~m) ||| (b &&& m)))
    (s.memWrite put).notePos g.run g.hdr g.pos

def Chip.completeRows (s : Chip) : Chip := s.groups.foldl (fun s g => s.forceGroup g) (s.segs.foldl (fun s g => s.forceSeg g) s)

/-! ### Reset values (R496, R599) -/

/-- The registers that only PORST_N resets. -/
def keptRegs (t : Tab Word) : Tab Word := t.filter (fun e => Reg.keptByBlockReset e.1)

/-- The tags of outstanding requests are barred for 4 × TXNUS, at its reset value of 8 µs. -/
def Chip.resetBars (s : Chip) : List Bar :=
  s.ports.bars ++ s.ports.outs.map (fun (o : Outst) => { lane := o.r.lane, tag := o.tag, pool := o.pool, till := s.time + 3200 })

/-- Every unit at its reset value but the sequencer, the fault records with the reports still held, the timebase, the
fuse shadow, the TAP and the pins that only PORST_N resets; `host`: HOSTRST_REQ_N is asserted. -/
def Chip.resetState (host : Bool) (s : Chip) : Chip :=
  ({ Chip.porst s.build with
    regs := keptRegs s.regs, time := s.time, phase := .blkReset, pins := { s.pins with rstDone := false, hostRstReq := host },
    rp := s.rp, mem := s.mem, fc := { recs := s.fc.recs, pend := s.fc.pend, units := [] }, rsq := { s.rsq with dumps := [] },
    ports := { bars := s.resetBars }, tap := s.tap, fuseIdx := s.fuseIdx, fuseTmo := s.fuseTmo, clkBad := s.clkBad, snsRef := s.time, uid := s.uid,
    free := s.free }).loadLfsrs

/-- Step 3 of a block reset. -/
def Chip.blockStepThree (host : Bool) (s : Chip) : Chip := s.completeRows.resetState host

end Sys2Proof.Machine
end

