-- ==== Sys2Proof/Machine/Shadow.lean ====
section
/-! DEFINITION. The shadow checker: re-execution, comparison, timeout (01_block_organisation R41–R44,
14_faults_and_silent_errors R463–R468). -/

namespace Sys2Proof.Machine

/-! ### Re-execution (R42, R289, R382, R465–R467) -/

/-- The operands of a sample. -/
def Sample.xop (p : Sample) : XOp := ({ t := p.t, size := p.size } : Ctx).xop p.word

/-- The credits that a re-execution works with. -/
def Sample.need (p : Sample) : Nat := ({ t := p.t, size := p.size } : Ctx).creditNeed p.word

def Chip.updSampleAt (m id : Nat) (f : Sample → Sample) (s : Chip) : Chip :=
  s.updMov m (fun y => { y with samples := y.samples.map (fun q => if q.id == id then f q else q) })

def Chip.updShadow (m id : Nat) (f : Xfer → Xfer) (s : Chip) : Chip :=
  s.updSampleAt m id (fun q => { q with walk := q.walk.map f })

/-- The re-execution cannot finish: its sample ends by its timeout (R465). -/
def Chip.shadowStuck (m id : Nat) (s : Chip) : Chip := s.updSampleAt m id (fun q => { q with stuck := true })

/-- Bytes land with a re-execution. -/
def Chip.shadowDeliver (m : Nat) (d : Dest) (g : Granule) (s : Chip) : Chip :=
  s.updShadow m d.run (fun t => { t with lines := t.lines.map (fun l => if l.id = d.line then l.land d.mask g else l) })

/-- Reads of re-executions have failed. -/
def Chip.shadowFails (m : Nat) (ids : List Nat) (s : Chip) : Chip := ids.foldl (fun s id => s.shadowStuck m id) s

/-- The movers that re-execute for a mover or gang leader (R41), and the leaders they have. -/
def Chip.shadowMovers (s : Chip) (m : Nat) : List Nat :=
  match s.partnerOf m with
  | some k => (List.range (s.teamSize m)).map (fun i => k + i)
  | none => []
def Chip.shadowTeam (s : Chip) (m : Nat) : List Nat := ((s.shadowMovers m).map s.leaderOf).eraseDups

/-- No context of the partner is READY: its cycles are idle (R42). -/
def Chip.shadowIdle (s : Chip) (m : Nat) : Bool :=
  !(s.shadowTeam m).isEmpty && (s.shadowTeam m).all (fun k => (slotCtxs (s.movAt k)).all (fun c => (s.ctxAt c).st != .ready))

/-- The mover that re-executes counts (R289). -/
def Chip.shadowCount (k r lo n v : Nat) (s : Chip) : Chip := if v = 0 then s else s.bump (Reg.mov k r) lo n v

/-- The leaf for an address of a sample: that of its own walk, or of the partner's TLBs. -/
def Chip.shadowLook (s : Chip) (k : Nat) (p : Sample) (va : Nat) : Option Leaf :=
  match p.leaf.bind (fun l => if l.e.hits p.part p.asid va then some l else none) with
  | some l => some l
  | none => (s.tlbFind k p.part p.asid va).map (fun e => { epoch := s.epoch, e := e })

def Chip.shadowTouch (m k : Nat) (p : Sample) (va : Nat) (s : Chip) : Chip :=
  if (p.leaf.bind (fun l => if l.e.hits p.part p.asid va then some l else none)).isSome then s.updSampleAt m p.id (fun q => { q with leaf := none })
  else s.tlbTouch k p.part p.asid va

/-- A read of a re-execution: it takes a read slot that the partner's contexts leave, at class 3, under the originator's
partition (R42, R382). What the row cache holds it takes from there; the rest it reads past the row cache (log 96). -/
def Chip.shadowAsk (m k : Nat) (p : Sample) (l : SLine) (s : Chip) : Chip × Go :=
  let lead := s.leaderOf k
  let va := l.first
  let mask := l.want &&& ~~~l.asked
  if s.rdFree lead = false then (s, .hold)
  else match s.shadowLook lead p va with
  | none =>
    (if s.walks.any (fun w => w.who.contains (.shadow m)) then s
     else s.needWalk (.shadow m) (some lead) p.part p.asid p.root va 3, .stop)
  | some f =>
    match s.checkLeaf f .read va with
    | .ok _ q _ =>
      if s.tnWaits q then (s, .hold)
      else
        let g := granuleOf q.loc
        let vol := wVOL p.word
        let d : Dest := { ctx := p.ctx, run := p.id, line := l.id, vol := vol, mask := mask }
        let s := ((s.shadowTouch m lead p va).useRd lead).updShadow m p.id (fun t =>
          { t with lines := t.lines.map (fun x => if x.same l then { x with asked := x.asked ||| mask } else x) })
        let x := s.lineAt g
        if q.alloc && s.rcOn && mask &&& ~~~(x.serves vol) == 0 then
          (if x.lost then s.shadowStuck m p.id else s.shadowDeliver m d x.data, .go)
        else
          (s.enq { id := 0, kind := .shadow m, write := false, lane := q.lane, loc := g, mask := sectorBytes (hull (sectorsOf mask)),
                   va := l.key, dests := [d], part := some p.part, tr := some f, cls := 3, req := lead }, .go)
    | _ => ((s.shadowTouch m lead p va).shadowStuck m p.id, .stop)

/-- The reads of a re-execution go on. -/
def Chip.shadowRead (m k : Nat) (p : Sample) (t : Xfer) (v : View) (xi : XI) (l : List Need) (s : Chip) : Chip × Go :=
  match t.rowsStep xi with
  | some (t', r) =>
    let s := s.updShadow m p.id (fun _ => t')
    (match r with
     | .none => s
     | .retried => s.shadowCount (s.leaderOf k) 0x48 0 32 1
     | .torn => s.shadowCount (s.leaderOf k) 0x48 32 32 1, .go)
  | none =>
    match t.ripe with
    | some x => s.shadowAsk m k p x
    | none =>
      let now := if t.scan ≤ t.cursor ∧ xi.op ≠ 0x44 ∧ xi.op ≠ 0x45 then none else t.planNow v xi l
      match now.or (t.next v xi (1024 * p.size)) with
      | some t' => (s.updShadow m p.id (fun _ => t'), .go)
      | none => match t.due with
        | some x => s.shadowAsk m k p x
        | none => (s, .stop)

/-- A unit's writes enter the digest, and nothing else (R466). -/
def Xfer.redone (xi : XI) (o : UOut) (t : Xfer) : Xfer :=
  let t := { t with cursor := t.cursor + 1, acc := o.acc, odig := o.writes.foldl ODig.write t.odig }
  let t := if t.scan < t.cursor ∧ xi.op ≠ 0x45 then { t with scan := t.cursor, sub := 0 } else t
  (t.passRows xi).release xi.w xi.reuse

def Chip.shadowUnit (m k : Nat) (p : Sample) (xi : XI) (o : UOut) (pop : Xfer → Xfer) (s : Chip) : Chip × Go :=
  (((s.updShadow m p.id (fun t => (pop t).redone xi o)).shadowCount (s.leaderOf k) 0x50 32 32 o.bags).shadowCount (s.leaderOf k) 0x50 0 32 o.empty, .go)

/-- The re-execution has ended: its digests stand. -/
def Chip.shadowEnds (m : Nat) (p : Sample) (t : Xfer) (s : Chip) : Chip :=
  s.updSampleAt m p.id (fun q => { q with redo := some (t.odig.value, t.vdig, t.torn), walk := none, leaf := none })

/-- The next unit of a re-execution. -/
def Chip.shadowNext (m k : Nat) (p : Sample) (t : Xfer) (v : View) (xi : XI) (s : Chip) : Chip × Go :=
  if v.total ≤ t.cursor then (s.shadowEnds m p t, .stop)
  else match v.unit t.env t.acc t.cursor with
    | .fault _ => (s.shadowStuck m p.id, .stop)
    | .need l => s.shadowRead m k p t v xi l
    | .ok o => s.shadowUnit m k p xi o id

/-- The next bag of a POOL (R268). -/
def Chip.shadowPool (m k : Nat) (p : Sample) (t : Xfer) (xi : XI) (s : Chip) : Chip × Go :=
  let v := xi.view
  if xi.isEmpty || decide (xi.units ≤ t.cursor) then s.shadowNext m k p t v xi
  else if (t.bagFault xi).isSome then (s.shadowStuck m p.id, .stop)
  else match t.takeRows xi with
    | some t' => (s.updShadow m p.id (fun _ => t'), .go)
    | none =>
      match t.bags.head? with
      | none => s.shadowRead m k p t v xi []
      | some g =>
        if g.done < g.len then s.shadowRead m k p t v xi (t.bagLacks xi g)
        else match xi.poolOut t.env t.acc g with
          | .fault _ => (s.shadowStuck m p.id, .stop)
          | .need l => s.shadowRead m k p t v xi l
          | .ok o => s.shadowUnit m k p xi o (Xfer.popBag xi)

/-- MSET's lists are read whole, then its passes follow one another (R223). -/
def Chip.shadowList (m k : Nat) (p : Sample) (t : Xfer) (xi : XI) (l : List Need) (s : Chip) : Chip × Go :=
  let u := t.plan { w := xi.w, lo := t.cursor, hi := t.cursor, keep := true } l
  if u.lines ≠ t.lines then (s.updShadow m p.id (fun _ => u), .go)
  else match t.due with
    | some x => s.shadowAsk m k p x
    | none => (s, .stop)

def Chip.shadowMset (m k : Nat) (p : Sample) (t : Xfer) (xi : XI) (s : Chip) : Chip × Go :=
  match xi.slices t.env (max 2 t.pass) with
  | .need l => s.shadowList m k p t xi l
  | .fault _ => (s.shadowStuck m p.id, .stop)
  | .ok l =>
    if t.pass < 2 then (s.updShadow m p.id (Xfer.nextPass 2), .go)
    else if t.pass = 2 ∧ sliceUnits l ≤ t.cursor then (s.updShadow m p.id (Xfer.nextPass 3), .go)
    else s.shadowNext m k p t (slicesView l) xi

/-- What a re-execution has staged is given up: it reads on from its current unit (log 96). -/
def Xfer.yields (t : Xfer) : Xfer :=
  match t.bags with
  | g :: _ => { t with lines := [], rows := [], bags := [], bagNext := g.no, bagOff := g.off, bagBad := false, scan := g.off, sub := 0 }
  | [] => { t with lines := [], rows := [], scan := if wOpc t.word = 0x45 then t.bagOff else t.cursor, sub := 0 }

/-- One step of a re-execution. Credits that a context of the partner needs are its own: the re-execution works with what is
free (R465). -/
def Chip.shadowStep (m k id : Nat) (s : Chip) : Chip × Go :=
  match (s.movAt m).samples.find? (fun q => q.id == id) with
  | none => (s, .stop)
  | some p =>
    match p.walk with
    | none => (s, .stop)
    | some t =>
      if p.stuck then (s, .stop)
      else if s.freeCredits (s.leaderOf k) < p.need then (if t.lines = [] then s else s.updShadow m id Xfer.yields, .stop)
      else
        let xi := p.xop.xi t.pass (s.routesOf m (rsel p.word - 1))
        match wOpc p.word with
        | 0x41 => s.shadowMset m k p t xi
        | 0x45 => s.shadowPool m k p t xi
        | _ => s.shadowNext m k p t xi.view xi

/-- A re-execution advances as far as it can, at most a bounded number of steps at once (log 26). -/
def Chip.shadowN (m k id : Nat) : Nat → Chip → Chip
  | 0, s => s
  | n + 1, s =>
    match s.shadowStep m k id with
    | (s, .go) => Chip.shadowN m k id n s
    | (s, _) => s

/-- A re-execution's walk as it begins, and with what the torn-row guard makes it read again (R285). -/
def Sample.begin (p : Sample) (xi : XI) : Sample :=
  match p.walk with
  | none => { p with walk := some { word := p.word, ip := p.ip, grp := p.id, pass := if wOpc p.word = 0x41 then 0 else 1 } }
  | some t => { p with walk := some ((t.retry xi).getD t) }

/-- The partner re-executes the first sample that has not been, in cycles that none of its READY contexts claims (R42, R465). One
that meets a fault never finishes. -/
def shadowReexec (m : Nat) (s : Chip) : Chip :=
  match (s.movAt m).samples.find? (fun p => p.redo.isNone), s.partnerOf m with
  | some p, some k =>
    if s.shadowIdle m && !p.stuck then
      (s.updSampleAt m p.id (fun q => q.begin (p.xop.xi (match p.walk with | some t => t.pass | none => 1) []))).shadowN m k p.id 65536
    else s
  | _, _ => s

/-- The page walk of a re-execution ends (R337). A port's failure is reported for no context (R551). -/
def Chip.shadowWalked (m : Nat) (w : PWalk) (s : Chip) : Chip :=
  match (s.movAt m).samples.find? (fun p => p.redo.isNone && p.walk.isSome) with
  | none => s
  | some p =>
    match w.ans with
    | some (.leaf e) => if s.installs w.epoch e then s else s.updSampleAt m p.id (fun q => { q with leaf := some { epoch := w.epoch, e := e } })
    | some (.failed rep) => (s.shadowStuck m p.id).report rep
    | _ => s.shadowStuck m p.id

/-! ### Comparison (R43, R44, R467, R468, R472) -/

def Chip.dropSample (m : Nat) (p : Sample) (s : Chip) : Chip :=
  (if p.walk.isSome then s.leaveWalk (.shadow m) else s).updMov m (fun y => { y with samples := y.samples.filter (fun q => q.id != p.id) })

/-- A sample ends without a comparison (R43, R465). -/
def Chip.skipSample (m : Nat) (p : Sample) (s : Chip) : Chip := (s.dropSample m p).bump (Reg.mov m 0x78) 0 32 1

/-- An armed MODE 3 injection of mover `m` inverts bit 0 of the partner's digest and has fired (R472). -/
def Chip.injectDigest (m : Nat) (s : Chip) : Chip × Word :=
  let v := s.reg Reg.fcInj
  if bitB v 0 ∧ fldN v 24 2 = 3 ∧ fldN v 32 16 = m then (s.setReg Reg.fcInj (setBit (setBit v 0 false) 1 true), 1) else (s, 0)

/-- The descriptors that an instruction uses, by role. -/
def roleWords (o : XOp) : List (Option Desc) :=
  match o.op with
  | 0x41 => [none, none, some o.c]
  | 0x43 => [some o.a, some o.b, none]
  | 0x40 => [some o.a, some o.b, if o.sums then some o.c else none]
  | _ => [some o.a, some o.b, some o.c]

/-- An evidence entry (R468). -/
def evidenceBytes (m partner time : Nat) (p : Sample) (d d2 : Word) : List Byte :=
  wordBytes [p.word.toNat, p.ip, p.ctx + p.part * 2 ^ 8 + m * 2 ^ 16 + partner * 2 ^ 24, d.toNat, d2.toNat, time] ++ List.replicate 208 0 ++
    (roleWords p.xop).flatMap (fun r => match r with | some d => d.bytes 32 | none => List.replicate 256 0)

/-- The evidence entry goes out, granule by granule (R347). An entry outside every region is not written. -/
def Chip.writeEvidence (m partner : Nat) (p : Sample) (d d2 : Word) (s : Chip) : Chip :=
  let n := s.regF Reg.fcSdc 0 4
  let base := s.regF Reg.fcSdc 14 34 * 2 ^ 14 + 1024 * n
  let bs := evidenceBytes m partner s.time p d d2
  let s := (List.range 4).foldl (fun s k =>
    match s.maintWrite .evidence (base + 256 * k) ((bs.drop (256 * k)).take 256) none (some p.part) 1 with
    | some s => s
    | none => s.report { src := Src.paddr, kind := .shared, unit := 5, part := some p.part }) s
  s.setF Reg.fcSdc 0 4 (n + 1)

/-- SDC SHADOW (R468). Without evidence the entry number in DETAIL is open (log 5). -/
def Chip.reportSdc (m partner : Nat) (p : Sample) (d d2 : Word) (s : Chip) : Chip :=
  let on := bitB (s.reg Reg.fcSdc) 8
  let n := if on then s.regF Reg.fcSdc 0 4 else fldN (Config.freeWord s.free) 0 4
  let s := if on then s.writeEvidence m partner p d d2 else { s with free := s.free + 1 }
  s.report { src := Src.shadow, kind := .mover, unit := m, ctx := some p.ctx, part := some p.part, partner := partner,
             iaddr := some (p.ip, p.word), detail := some (at64 0 n ||| at64 32 (fldN d 0 32)) }

/-- The digests of a sample are compared; `err` is the error, if any, of the partner's. Version digests that differ, or
a row used torn, skip it. -/
def shadowCompare (m : Nat) (err : Word) (s : Chip) : Chip :=
  match (s.movAt m).samples.find? (fun p => p.digest.isSome && p.redo.isSome) with
  | none => s
  | some p =>
    match p.digest, p.redo with
    | some d, some (r, v, torn) =>
      if torn || p.torn || v != p.vdigest then s.skipSample m p
      else
        let (s, flip) := s.injectDigest m
        let s := s.dropSample m p
        let d2 := r ^^^ err ^^^ flip
        if d = d2 then s else s.reportSdc m ((s.partnerOf m).getD 0) p d d2
    | _, _ => s

/-- TMO in TCLK (R465, R475). -/
def Chip.shadowTicks (s : Chip) : Nat := 100000 * s.regF Reg.shdCfg 24 16

def shadowTimeout (m : Nat) (s : Chip) : Chip :=
  match (s.movAt m).samples.find? (fun p => p.redo.isNone &&
      (match p.retired with | some t => decide (t + s.shadowTicks ≤ s.time) | none => false)) with
  | some p => s.skipSample m p
  | none => s

/-! ### Meanings -/

def execShadowReexec (m : Nat) (s : State) : Out := s.run (shadowReexec m)
def execShadowCompare (m : Nat) (err : Word) (s : State) : Out := s.run (shadowCompare m err)
def execShadowTimeout (m : Nat) (s : State) : Out := s.run (shadowTimeout m)

end Sys2Proof.Machine
end

