-- ==== Sys2Proof/Machine/Ports.lean ====
section
/-! DEFINITION. The data ports: arbitration, tags, credits, responses, timeouts, windows; FENCE; the progress
watchdog (12_streaming_and_traffic R380–R392, 15_recovery_and_reset R477–R479, 17_ports_and_integration
R541–R552). -/

namespace Sys2Proof.Machine

/-! ### Ports, lanes, tags (R391, R541, R552) -/

def samePort (a b : Lane) : Bool := a.kind == b.kind && a.port == b.port

/-- A number of a port, whatever the lane. -/
def portCode (l : Lane) : Nat := laneCode { l with lane := 0 } / 2

/-- The context whose tag a request takes: requests of the block's maintenance have tags of their own. -/
def PortReq.tagCtx (r : PortReq) : Option Nat :=
  match r.kind with
  | .xread | .xwrite | .fill | .prefetchRc | .prefetchStg | .prefetchFill | .save | .restore | .ifetch | .scalar | .combine _ | .header _ => r.ctx
  | _ => none

def Chip.portOuts (s : Chip) (l : Lane) : List Outst := s.ports.outs.filter (fun o => samePort o.r.lane l)
def Chip.portBars (s : Chip) (l : Lane) : List Bar := s.ports.bars.filter (fun b => samePort b.lane l)

/-- Tags of a part of a port's tags that are not free. -/
def Chip.poolUsed (s : Chip) (l : Lane) (p : TagPool → Bool) : Nat :=
  ((s.portOuts l).filter (fun o => p o.pool)).length + ((s.portBars l).filter (fun b => p b.pool)).length

def TagPool.isShared : TagPool → Bool
  | .shared _ => true
  | _ => false

def Chip.tres (s : Chip) : Nat := s.regF Reg.govCred 0 4
def Chip.shcap (s : Chip) : Nat := s.regF Reg.govCred 16 12

/-- The part of the tags that a request's tag comes from; none while it has to wait (R391). -/
def Chip.tagFor (s : Chip) (r : PortReq) : Option TagPool :=
  match r.tagCtx with
  | none => if s.poolUsed r.lane (· == .maint) < 64 then some .maint else none
  | some c =>
    if s.poolUsed r.lane (· == .own c) < s.tres then some (.own c)
    else if s.poolUsed r.lane TagPool.isShared < 4096 - 64 - s.build.nctx * s.tres ∧
        ((s.portOuts r.lane).filter (fun o => o.pool == .shared c)).length < s.shcap then some (.shared c)
    else none

/-- Numbers of a port's tags that are free; which of them a request takes is open (log 5). -/
def Chip.freePortTags (s : Chip) (l : Lane) : List Nat :=
  (List.range 4096).filter (fun t => !(s.portOuts l).any (fun o => o.tag == t) && !(s.portBars l).any (fun b => b.tag == t))

/-! ### Arbitration (R323, R383–R385) -/

/-- The requester an arbiter sees: row cache fills are the block's own (R384). -/
def PortReq.requester (r : PortReq) : Nat := if isFill r.kind then 64 else r.req

/-- The request is clamped by a rung (R490, R496). -/
def Chip.clamped (s : Chip) (r : PortReq) : Bool :=
  match s.phase with
  | .run => (match r.part with | some p => s.inReset p && r.kind != .dump | none => false)
  | .blkDump => r.requester != 64
  | _ => true

def quotaKey (r : PortReq) : Nat := portCode r.lane * 65 + r.requester

/-- A class-0 requester that has used its quota is masked (R385). -/
def Chip.masked (s : Chip) (r : PortReq) : Bool :=
  r.cls == 0 && decide (s.regF Reg.govArb 0 8 ≤ Tab.get 0 s.ports.quota (quotaKey r))

/-- A mover outside the near group of the stack that the request goes to (R323). -/
def Chip.farReq (s : Chip) (r : PortReq) : Bool :=
  s.tnLegacy && r.lane.kind == .stackPort && decide (r.requester < 64) &&
    r.requester / (s.build.nmov / 8) != s.regF (Reg.legNear (r.lane.port / 16)) (4 * (r.lane.port % 16)) 3

def Chip.nearReq (s : Chip) (r : PortReq) : Bool := decide (r.requester < 64) && !s.farReq r

/-- The requests that wait at a lane and that no rung clamps. -/
def Chip.waitingAt (s : Chip) (l : Lane) : List PortReq := s.ports.queue.filter (fun r => r.lane == l && !s.clamped r)

/-- A requester's next request: requests of one requester are granted in issue order; those of the lowest place stand
apart. -/
def heads : List PortReq → List PortReq → List PortReq
  | _, [] => []
  | seen, r :: l =>
    if seen.any (fun q => q.requester == r.requester && (q.cls == 4) == (r.cls == 4)) then heads seen l else r :: heads (r :: seen) l

/-- A request that the arbiter may grant (R545, R385, R323, R391). -/
def Chip.eligible (s : Chip) (l : Lane) (waiting : List PortReq) (r : PortReq) : Bool :=
  let x := s.laneAt l
  decide (1 ≤ x.rq) && (!r.write || decide (1 ≤ x.wd)) && (s.tagFor r).isSome && !s.masked r &&
    !(s.farReq r && decide (s.regF Reg.legCfg 0 7 ≤ x.far) && waiting.any s.nearReq)

/-- The least requester from `from_` on, or the least of all. -/
def roundRobin (from_ : Nat) (l : List PortReq) : Option PortReq :=
  let least := fun (l : List PortReq) => l.foldl (fun (b : Option PortReq) r =>
    match b with | none => some r | some q => if r.requester < q.requester then some r else some q) none
  match least (l.filter (fun r => decide (from_ ≤ r.requester))) with
  | some r => some r
  | none => least l

/-- The request that the arbiter of a lane picks, and the step of R384 that it falls under. -/
def Chip.arbitrate (s : Chip) (l : Lane) : Option (Nat × PortReq) :=
  let x := s.laneAt l
  if s.ports.held.contains (laneCode l) ∨ x.owe ≠ 0 then none
  else
    let w := s.waitingAt l
    let es := (heads [] w).filter (s.eligible l w)
    let rr := fun (st : Nat) (p : PortReq → Bool) => (roundRobin (Tab.get 0 s.ports.last (4 * laneCode l + st)) (es.filter p)).map (fun r => (st, r))
    let aged := (es.find? (fun r => decide (s.regF Reg.govArb 32 8 ≤ r.waited))).map (fun r => (1, r))
    rr 0 (fun r => r.cls == 0) <|> aged <|> rr 2 (fun r => r.cls == 1) <|> rr 2 (fun r => r.cls == 2) <|> rr 2 (fun r => r.cls == 3) <|>
      rr 3 (fun r => r.cls == 4)

/-- Write-data beats of a request (R541). -/
def PortReq.beats (r : PortReq) : Nat :=
  if !r.write then 0 else if r.lane.kind == .farPort then (onesBelow (hull (sectorsOf r.mask)) 4).length else 1

/-- Beats that still wait for a write-data credit take the credits there are (R545). -/
def LaneSt.drive (now : Nat) (x : LaneSt) : LaneSt :=
  let n := min x.owe x.wd
  { x with owe := x.owe - n, wd := x.wd - n, beatAt := if n = 0 then x.beatAt else now }

/-- Writes of the kinds of R347 bypass the row cache: the sectors they touch are written back, then
invalid. -/
def ReqKind.bypasses : ReqKind → Bool
  | .trace | .evidence | .ring _ | .dump | .save | .image => true
  | _ => false

def Chip.flushSectors (g : Nat) (v : BitVec 4) (s : Chip) : Chip :=
  let l := s.lineAt g
  let m := sectorBytes v
  if l.present then
    ((s.commitWrite g (l.dirty &&& m) l.data).staleWb g m).updLine g (fun l => { l with dirty := l.dirty &&& ~~~m, valid := l.valid &&& ~~~v })
  else s

/-- Counts a grant against the windows (R323, R385) and ages those that still wait. -/
def Chip.countGrant (l : Lane) (st : Nat) (r : PortReq) (s : Chip) : Chip :=
  let ps := s.ports
  let far := s.farReq r
  let ps := { ps with
    queue := (ps.queue.filter (fun q => q.id != r.id)).map (fun q => if q.lane == l then { q with waited := q.waited + 1 } else q),
    last := Tab.set 0 (4 * laneCode l + st) (r.requester + 1) ps.last,
    quota := if r.cls = 0 then Tab.upd 0 (quotaKey r) (· + 1) ps.quota else ps.quota }
  ({ s with ports := ps }).updLane l (fun x =>
    let x := { x with rq := x.rq - 1, wd := if r.write then x.wd - 1 else x.wd, owe := r.beats - 1, cur := some r.id, beatAt := s.time }
    let x := if x.win = 63 then { x with win := 0, far := 0 } else { x with win := x.win + 1, far := if far then x.far + 1 else x.far }
    x.drive s.time)

/-- Reads past the row cache that take a dirty sector's bytes in place of memory's (R144, R169, R332). -/
def ReqKind.seesDirty : ReqKind → Bool
  | .xread | .scalar | .walk _ | .shadow _ => true
  | _ => false

/-- A write reaches the point of coherence: half-bytes that it does not write keep what memory holds (R226). Those past the
row cache reach write-backs that wait (R347), those of SST and STTD the line as well (R144). -/
def Chip.writeGranted (r : PortReq) (s : Chip) : Chip :=
  let d := if r.keep = 0 then r.data else mergeMask r.keep r.data (s.memGranule r.loc)
  let s := if r.kind.bypasses then s.flushSectors r.loc (sectorsOf r.mask) else s
  let s := s.commitWrite r.loc r.mask d
  if r.kind = .scalar ∨ r.kind.bypasses then s.lineThrough r.loc r.mask d else s

/-- A granted request as it is tracked: what memory held, and what a row cache line held that the read takes before it
(R359). -/
def Chip.track (s : Chip) (tag : Nat) (pool : TagPool) (r : PortReq) : Outst :=
  let l := s.lineAt r.loc
  { tag := tag, r := r, pool := pool, at_ := s.time, old := s.memGranule r.loc,
    own := if r.kind.seesDirty && !r.write then l.serves true else 0, ownD := if r.kind.seesDirty && !r.write then l.data else 0 }

/-- A decision of a lane's arbiter: the request takes its tag and its credits; a write's bytes are at the point of
coherence from now on (R549), a read's are those of this moment. -/
def portGrant (l : Lane) (s : Chip) : Chip :=
  match s.arbitrate l with
  | none => s
  | some (st, r) =>
    match s.tagFor r with
    | none => s
    | some pool =>
      let tag := pick s.free (s.freePortTags l)
      let s := { s with free := s.free + 1 }.countGrant l st r
      let o := s.track tag pool r
      let s := if r.write then s.writeGranted r else s
      ({ s with ports := { s.ports with outs := s.ports.outs ++ [o] } }).progressOf r

def quotaWindow (s : Chip) : Chip := { s with ports := { s.ports with quota := [] } }

/-- A new issue window refills the shares (R380); what passed beyond a share counts in the new window. The walks
and the next-line fills go on. -/
def issueWindow (s : Chip) : Chip :=
  let ms := s.mov.map Prod.fst
  let s := ms.foldl (fun s m => s.updMov m (fun x =>
    { x with rdUsed := x.rdUsed - s.shareOf 0 m, wrUsed := x.wrUsed - s.shareOf 8 m, rmUsed := x.rmUsed - s.shareOf 16 m })) s
  (ms.foldl (fun s m => s.linesGo m) s).pumpAll

/-! ### Reports and statistics of a port (R552, R555) -/

/-- PRT_STAT of a port. -/
def portStatReg (l : Lane) : Nat :=
  match l.kind with
  | .farPort => Reg.fp l.port 0x10
  | .tilePort => Reg.tp l.port 0
  | _ => Reg.sp l.port 8

/-- A PROTOCOL report of a port's controller: `k` is the code's place among the port's eight. -/
def Chip.violate (l : Lane) (k tag : Nat) (s : Chip) : Chip :=
  (s.bump (portStatReg l) 32 16 1).report
    { src := protoBase l.kind + k, kind := l.kind, unit := l.port, detail := some (at64 0 tag ||| at64 12 l.lane) }

/-! ### What an answer does (R123, R163, R206, R340, R477, R551) -/

/-- A write that was refused or never answered may be applied in part: each burst holds the new bytes or, where `keep`
is false, those of before. Bytes written since stay. -/
def Chip.revertWrite (o : Outst) (keep : Nat → Bool) (s : Chip) : Chip :=
  let d := mergeMask o.r.keep o.r.data o.old
  let m := (onesBelow o.r.mask 256).foldl (fun (m : BitVec 256) j =>
    if !keep (j / 64) && s.memByte (o.r.loc + j) == fld d (8 * j) 8 then m ||| BitVec.ofNat 256 (2 ^ j) else m) 0
  s.commitWrite o.r.loc m o.old

/-- The registers of the ring that a request writes. -/
def ringOf : ReqKind → Option Nat
  | .trq q => some (Reg.trq q 0)
  | .ring r => some (Reg.cr r 0)
  | .trace => some Reg.trcBase
  | _ => none

/-- An entry of a ring is acknowledged: TAIL advances, and a translation queue raises its interrupt (R340). -/
def Chip.ringAck (k : ReqKind) (s : Chip) : Chip :=
  match ringOf k with
  | none => s
  | some b =>
    let s := s.setF (b + 16) 0 16 ((s.regF (b + 16) 0 16 + 1) % s.ringSize b)
    match k with | .trq q => s.raise (624 + q) false | _ => s

/-- The dump whose writes a request belongs to. -/
def Chip.updDump (part : Option Nat) (f : Dump → Option Dump) (s : Chip) : Chip :=
  { s with rsq := { s.rsq with dumps := s.rsq.dumps.filterMap (fun d => if d.part == part then f d else some d) } }

/-- A dump ends without its status word: SKIPS counts it, and DUMPSKIP is reported (R495, R500). -/
def Chip.dumpSkipped (why : Nat) (part : Option Nat) (s : Chip) : Chip :=
  ((s.updDump part (fun _ => none)).bump Reg.rsqStat 16 8 1).report
    { src := Src.dumpskip, kind := .sequencer, unit := 0, part := part, detail := some (at64 0 why) }

/-- A dump stops, and its rung goes on at once: a block reset to its step 3 (R495, R496). -/
def Chip.dumpStops (why : Nat) (part : Option Nat) (s : Chip) : Chip :=
  let s := s.dumpSkipped why part
  if part = none ∧ s.phase = .blkDump then s.blockStepThree true else s

/-- An answer waits for its command. -/
def Chip.keepAnswer (x : FillDone) (s : Chip) : Chip := { s with ports := { s.ports with fills := s.ports.fills ++ [x] } }

/-- A write is answered. `tag` names it in its report. -/
def Chip.writeDone (o : Outst) (rsp : Rsp) (s : Chip) : Chip :=
  let r := o.r
  let ok : Bool := rsp == .ok
  let rep := s.badAnswer r rsp o.tag
  let s := if ok then s else { s.revertWrite o (fun k => Config.freeBit (s.free + k)) with free := s.free + 4 }
  match r.kind with
  | .evict => let s := s.endWb r ok; if ok then s else s.report rep
  | .fenceWb =>
    let s := s.endWb r ok
    if ok then s
    else match r.ctx with
      | some c => s.updCtx c (fun x => { x with ffault := some (x.ffault.getD rep) })
      | none => s.report rep
  | .cinvWb =>
    let s := s.endWb r ok
    match r.ctx with
    | some c => (if ok then s else s.updXfer c (fun t => { t with fault := some (t.fault.getD rep) })).heard c
    | none => if ok then s else s.report rep
  | .trq q => if ok then s.ringAck (.trq q) else (s.ringDrop (Reg.trq q 0x18)).report rep
  | .ring n => if ok then s.ringAck (.ring n) else (s.ringDrop (Reg.cr n 0x18)).report rep
  | .trace => if ok then s.ringAck .trace else (s.ringDrop Reg.trcCtl).report rep
  | .dump =>
    if ok then s.updDump (if r.grp = 0 then none else some (r.grp - 1)) (fun d => some { d with acked := true })
    else if rsp = .timeout then s.report rep
    else s.dumpStops 3 (if r.grp = 0 then none else some (r.grp - 1))
  | .landing _ | .scalar | .image => s.keepAnswer { r := r, tag := o.tag, data := 0, ok := 0, rsp := rsp }
  | .combine id => (if ok then s else s.failCtx r rep).combineDone id
  | .header id => (if ok then s else s.failCtx r rep).headerDone r id
  | .evidence | .stale => if ok then s else s.report rep
  | _ => (if ok then s else s.failCtx r rep).pumpList r.ctx.toList

/-- A granted read with the bytes it takes from its line in place of memory's, and whether bytes that were asked for lack. -/
def Outst.merged (o : Outst) (d : Granule) : Granule := mergeMask (wide o.own) d o.ownD
def Outst.lacks (o : Outst) (m : BitVec 256) (ok : BitVec 4) : Bool := m &&& ~~~(o.own ||| sectorBytes ok) != 0

/-- A read past the row cache is answered: every reader gets its bytes, unless they lie in a burst that did not
come. -/
def Chip.xreadDone (o : Outst) (d : Granule) (ok : BitVec 4) (rsp : Rsp) (s : Chip) : Chip :=
  let r := o.r
  let s := (r.dests.filter (fun x => !o.lacks x.mask ok)).foldl (fun s x => s.deliver x (o.merged d)) s
  let s := if r.dests.any (fun x => o.lacks x.mask ok) then s.failCtx r (s.badAnswer r rsp o.tag) else s
  s.pumpList ((r.dests.map (·.ctx)).eraseDups)

/-- A read is answered: `ok` are the sectors that came. A page walk goes on, RESUME takes back what it saved; other answers
wait for their commands. -/
def Chip.readDone (o : Outst) (d : Granule) (ok : BitVec 4) (rsp : Rsp) (s : Chip) : Chip :=
  let r := o.r
  let x : FillDone := { r := r, tag := o.tag, data := d, ok := ok, rsp := rsp }
  match r.kind with
  | .xread => s.xreadDone o d ok rsp
  | .walk id => s.walkRead id (o.merged d) (if o.lacks r.mask ok then some (portReport r rsp o.tag) else none)
  | .scalar => s.keepAnswer { x with data := o.merged d, rsp := if o.lacks r.mask ok then rsp else .ok }
  | .shadow m => if o.lacks r.mask ok then (s.shadowFails m (r.dests.map (·.run))).report (portReport r rsp o.tag)
    else r.dests.foldl (fun s x => s.shadowDeliver m x (o.merged d)) s
  | .restore => match r.ctx with
    | some c => ((s.keepAnswer x).areaRead c).heard c
    | none => s
  | .combine id => if rsp = .ok then s.keepAnswer x else ((s.failCtx r (s.badAnswer r rsp o.tag)).loseRows (fun g => g.id == id) x).pumpAll
  | .header id => if rsp = .ok then s.keepAnswer x else s.headerFails id x
  | _ => s.keepAnswer x

/-- A request's tag is free and what waited for it goes on; the answer to a discarded request is nothing (R31, R391). -/
def Chip.finish (o : Outst) (d : Granule) (ok : BitVec 4) (rsp : Rsp) (s : Chip) : Chip :=
  let s := { s with ports := { s.ports with outs := s.ports.outs.erase o } }
  if o.dead then
    match o.r.kind with
    | .walk id => s.dropWalk id
    | .combine id => if o.r.write then s.combineDone id else s
    | .header id => if o.r.write then s.headerDone o.r id else s
    | _ => s
  else
    let s := s.progressOf o.r
    if o.r.write then s.writeDone o rsp else s.readDone o d ok rsp

/-! ### Response beats (R546, R551, R552) -/

def Chip.outOf (s : Chip) (l : Lane) (tag : Nat) : Option Outst := (s.portOuts l).find? (fun o => o.tag == tag)

def Chip.updOut (o : Outst) (f : Outst → Outst) (s : Chip) : Chip :=
  { s with ports := { s.ports with outs := s.ports.outs.replace o (f o) } }

/-- The bursts of a request. -/
def PortReq.bursts (r : PortReq) : BitVec 4 := hull (sectorsOf r.mask)
def PortReq.first (r : PortReq) : Nat := (onesBelow r.bursts 4).headD 0
def PortReq.nb (r : PortReq) : Nat := (onesBelow r.bursts 4).length

/-- A REQ beat (R542). -/
structure ReqBeat where
  op   : Nat
  tag  : Nat
  ptag : Nat
  pc   : Nat
  /-- bits [41:6] -/
  addr : Nat
  nb   : Nat
  cls  : Nat
  deriving DecidableEq, Repr

/-- The REQ beat of a granted request (R30, R541–R543): work of the lowest place shows class 3 (log 105). -/
def Outst.reqBeat (o : Outst) : ReqBeat :=
  let r := o.r
  let off := match r.lane.kind with | .farPort => r.loc % 2 ^ 44 | .tilePort => r.loc % 2 ^ 32 | _ => r.loc % 2 ^ 40
  { op := if r.write then 1 else 0, tag := o.tag, ptag := r.part.getD 15,
    pc := match r.lane.kind with | .stackPort => r.loc / 2 ^ 40 % 64 | _ => 0,
    addr := off / 64 + r.first, nb := r.nb - 1, cls := min r.cls 3 }

/-- WDAT beat `k` of a write: its data and its byte enables; on far ports the request's burst `k` (R543). -/
def PortReq.wdat (r : PortReq) (k : Nat) : Granule × BitVec 256 :=
  if r.lane.kind == .farPort then
    (BitVec.ofNat 2048 (fld r.data (512 * (r.first + k)) 512 : BitVec 512).toNat, BitVec.ofNat 256 (fld r.mask (64 * (r.first + k)) 64 : BitVec 64).toNat)
  else (r.data, r.mask)

/-- A request is failed as ERRRSP (R552). -/
def Chip.failOut (o : Outst) (s : Chip) : Chip := s.finish o 0 0 .err

/-- Bytes that a read returned are what memory held at its grant: those no write has replaced since (log 8). -/
def Chip.learn (o : Outst) (m : BitVec 256) (d : Granule) (s : Chip) : Chip :=
  (onesBelow m 256).foldl (fun s j =>
    let b : Byte := fld d (8 * j) 8
    if b != fld o.old (8 * j) 8 && s.memByte (o.r.loc + j) == fld o.old (8 * j) 8 then s.memWrite [(o.r.loc + j, b)] else s) s

/-- The bytes of a beat from the byte `lo` of the granule on; an empty list is what memory held at the grant. -/
def beatData (o : Outst) (lo n : Nat) (bs : List Byte) : Granule :=
  let m := wide (byteMask lo n)
  if bs.isEmpty then o.old &&& m else mergeMask (wide (byteMask lo (min n bs.length))) (o.old &&& m) (granuleBytes lo (bs.take n))

/-- A read's last beat: bursts that did not come count as poisoned (R552). -/
def Chip.readEnds (o : Outst) (s : Chip) : Chip :=
  let ok := o.got &&& ~~~o.poison
  let rsp := if o.failed then Rsp.err else if o.r.bursts &&& ~~~ok = 0 then Rsp.ok else Rsp.poison
  s.finish o o.data (if o.failed then 0 else ok) rsp

/-- A beat of the bursts in `v` of a read, which are burst `k` of the request on. -/
def Chip.takeBeat (o : Outst) (v : BitVec 4) (k : Nat) (b : RspBeat) (s : Chip) : Chip :=
  let lo := 64 * (o.r.first + k)
  let n := 64 * (onesBelow v 4).length
  let bad := BitVec.ofNat 4 (b.poison * 2 ^ (o.r.first + k)) &&& v
  let err := decide (b.status ≠ 0)
  let d := beatData o lo n b.data
  let good := sectorBytes (if err then 0 else v &&& ~~~bad)
  let s := s.learn o good d
  let s := s.bump (portStatReg o.r.lane) 0 16 (onesBelow bad 4).length
  let o' : Outst := { o with got := o.got ||| v, poison := o.poison ||| bad, failed := o.failed || err, data := o.data ||| d }
  let s := (s.updOut o (fun _ => o')).progressOf o.r
  if b.last then
    (if o.r.bursts &&& ~~~o'.got ≠ 0 then s.violate o.r.lane 2 b.tag else s).readEnds o'
  else s

/-- A beat of read data for a read. On far ports RSP_BEAT names its burst; elsewhere a beat holds them all, and poison
bit `k` is burst `k` of the granule. -/
def Chip.readBeat (l : Lane) (o : Outst) (b : RspBeat) (s : Chip) : Chip :=
  if l.kind = .farPort then
    if o.r.nb ≤ b.beat then
      let s := s.violate l 2 b.tag
      if b.last then (if o.r.bursts &&& ~~~o.got ≠ 0 then s.violate l 2 b.tag else s).readEnds o else s
    else if bitB o.got (o.r.first + b.beat) then s.violate l 1 b.tag
    else s.takeBeat o (BitVec.ofNat 4 (2 ^ (o.r.first + b.beat))) b.beat { b with poison := b.poison % 2 }
  else
    let s := if b.beat = 0 then s else s.violate l 6 b.tag
    if o.got ≠ 0 then s.violate l 1 b.tag
    else s.takeBeat o o.r.bursts 0 { b with poison := b.poison % 16 / 2 ^ o.r.first }

/-- A response beat (R552); where one beat breaks several rules, they are taken in this order (log 29). A beat that
arrives in step 3 of a block reset is dropped. -/
def Chip.respond (l : Lane) (b : RspBeat) (s : Chip) : Chip :=
  match s.phase with
  | .run | .blkDump | .readyBlk | .readyPor =>
    match s.outOf l b.tag with
    | none =>
      if (s.portBars l).any (fun x => x.tag == b.tag && decide (s.time < x.till)) then s.bump (portStatReg l) 48 16 1 else s.violate l 0 b.tag
    | some o =>
      if b.ptag ≠ o.r.part.getD 15 then (s.violate l 4 b.tag).failOut o
      else if b.kind ≠ (if o.r.write then 1 else 0) ∨ l ≠ o.r.lane ∨ (o.r.write ∧ ¬ b.last) then (s.violate l 7 b.tag).failOut o
      else
        let s := if b.status = 3 then s.violate l 6 b.tag else s
        if o.r.write then s.finish o 0 0 (if b.status = 0 then .ok else .err) else s.readBeat l o b
  | _ => s

def portReadData (l : Lane) (b : RspBeat) (s : Chip) : Chip := s.respond l b

def portWriteAck (l : Lane) (b : RspBeat) (s : Chip) : Chip := s.respond l b

/-! ### Credits, timeouts, the port-hold watchdog (R388–R390, R477, R478, R544, R547) -/

/-- Credits count: returns before RST_DONE first rises, and those in step 3 of a block reset, are ignored (R544,
R577). -/
def Chip.creditsCount (s : Chip) : Bool :=
  match s.phase with
  | .run | .blkDump | .readyBlk => true
  | _ => false

/-- A credit comes back (R544); beats that waited for it leave. -/
def portCreditReturn (l : Lane) (wdat : Bool) (s : Chip) : Chip :=
  let x := s.laneAt l
  if !s.creditsCount then s
  else if wdat then
    if 256 ≤ x.wd then s.violate l 5 0 else s.updLane l (fun x => ({ x with wd := x.wd + 1 } : LaneSt).drive s.time)
  else if 64 ≤ x.rq then s.violate l 5 0
  else s.updLane l (fun x => { x with rq := x.rq + 1 })

/-- TXNUS in TCLK. -/
def Chip.txnTicks (s : Chip) : Nat := 100 * s.regF Reg.rsqTmo 0 10

def Chip.barTag (o : Outst) (ticks : Nat) (s : Chip) : Chip :=
  { s with ports := { s.ports with bars := s.ports.bars ++ [{ lane := o.r.lane, tag := o.tag, pool := o.pool, till := s.time + ticks }] } }

/-- A request has had no answer for TXNUS (R477): its tag is barred (R478), and it ends with TIMEOUT TXN. -/
def txnTimeout (l : Lane) (tag : Nat) (s : Chip) : Chip :=
  match s.outOf l tag with
  | none => s
  | some o =>
    if o.at_ + s.txnTicks ≤ s.time then
      ((s.bump (portStatReg l) 16 16 1).barTag o (4 * s.txnTicks)).finish o 0 0 .timeout
    else s

def tagBarExpiry (l : Lane) (tag : Nat) (s : Chip) : Chip :=
  { s with ports := { s.ports with bars := s.ports.bars.filter (fun b => !(samePort b.lane l && b.tag == tag && decide (b.till ≤ s.time))) } }

/-- The write that holds a far port: the last one granted there, of several beats, no credit being lacking. -/
def Chip.holder (s : Chip) (l : Lane) : Option Outst :=
  let x := s.laneAt l
  if x.owe ≠ 0 then none
  else (s.portOuts l).find? (fun o => some o.r.id == x.cur && o.r.write && decide (2 ≤ o.r.beats))

/-- The holder as GOV_PHSTAT names it (R397). -/
def phCode (n : Nat) (r : PortReq) : Word :=
  if r.req < 64 then at64 40 r.req ||| at64 32 (24 + n) else at64 40 63 ||| at64 32 (176 + Config.rcBank r.loc % 64)

/-- No beat has come for 200 TCLK (R35, R388): the abort form ends the burst and writes none of it (R389, R547); PORTHOLD names the mover, or the bank of a
maintenance request. -/
def portHoldWatchdog (n : Nat) (s : Chip) : Chip :=
  let l : Lane := { kind := .farPort, port := n, lane := 0 }
  match s.holder l with
  | none => s
  | some o =>
    if s.time < (s.laneAt l).beatAt + 200 then s else
    let r := o.r
    let s := { s with ports := { s.ports with outs := s.ports.outs.erase o } }.updLane l (fun x => { x with cur := none })
    let s := (s.revertWrite o (fun _ => false)).setReg Reg.govPhstat
      (phCode n r ||| at64 0 ((s.regF Reg.govPhstat 0 32 + 1) % 2 ^ 32))
    let s := if isWb r.kind then s.endWb r false else s
    let x := s.ctxAt (r.ctx.getD 0)
    s.report { src := Src.porthold, kind := if r.req < 64 then .mover else .bank,
               unit := if r.req < 64 then r.req else Config.rcBank r.loc % 64,
               ctx := if r.req < 64 then r.ctx else none, part := r.part,
               iaddr := if r.req < 64 ∧ r.ctx.isSome then x.iword.map (fun w => (x.ip, w)) else none }

/-! ### FENCE (R163) -/

def fence (c : Nat) : Chip → Chip :=
  Chip.issue c (isOp 0x33) (unusedZero maskY) noCtr fun _ s =>
    let gs := s.dirtyLines (s.ctxPart c)
    if !s.rcOn || gs.isEmpty then s.retireNext c
    else (gs.foldl (fun s g => s.startWb .fenceWb g (s.ctxClass c) 0 (some c)) (s.updCtx c (fun x => { x with ffault := none }))).waitFor c .fence

/-- The last write-back is answered: FENCE retires, or ends with the first port fault. -/
def fenceDone (c : Nat) (s : Chip) : Chip :=
  let x := s.ctxAt c
  if x.st = .waiting ∧ x.wait = some .fence ∧ ¬ x.ended ∧ ¬ s.allRequests.any (fun r => r.kind == .fenceWb && r.ctx == some c) then
    match x.ffault with
    | none => (s.retireNext c).wake c
    | some rep => (s.updCtx c (fun x => { x with ended := true, faddr := x.ip, ffault := none })).report rep
  else s

/-! ### The progress watchdog (R479) -/

def progressWatchdog (c : Nat) (s : Chip) : Chip :=
  let x := s.ctxAt c
  if (x.st = .ready ∨ x.st = .waiting) ∧ x.progress + 100000 * s.regF Reg.rsqTmo 32 16 ≤ s.time then
    (s.progressed c).report { s.ownReport c Src.progress with ends := false }
  else s

/-! ### Meanings -/

def execPortGrant (l : Lane) (s : State) : Out := s.run (portGrant l)
def execPortReadData (l : Lane) (b : RspBeat) (s : State) : Out := s.run (portReadData l b)
def execPortWriteAck (l : Lane) (b : RspBeat) (s : State) : Out := s.run (portWriteAck l b)
def execPortCreditReturn (l : Lane) (wdat : Bool) (s : State) : Out := s.run (portCreditReturn l wdat)
def execTxnTimeout (l : Lane) (tag : Nat) (s : State) : Out := s.run (txnTimeout l tag)
def execTagBarExpiry (l : Lane) (tag : Nat) (s : State) : Out := s.run (tagBarExpiry l tag)
def execPortHoldWatchdog (n : Nat) (s : State) : Out := s.run (portHoldWatchdog n)
def execIssueWindow (s : State) : Out := s.run issueWindow
def execQuotaWindow (s : State) : Out := s.run quotaWindow
def execFence (c : Nat) (s : State) : Out := s.run (fence c)
def execFenceDone (c : Nat) (s : State) : Out := s.run (fenceDone c)
def execProgressWatchdog (c : Nat) (s : State) : Out := s.run (progressWatchdog c)

end Sys2Proof.Machine
end

