-- ==== Sys2Proof/Machine/Link.lean ====
section
/-! DEFINITION. Link ports: training, arrival, forwarding, replay, credits, watchdogs; link registers
(13_dweath_link R401–R417, R433–R437, 17_ports_and_integration R561). -/

namespace Sys2Proof.Machine

/-! ### Malformed frames and messages (R423, R424, R433) -/

/-- A DELEG request at the owner is gone. -/
def Chip.dropDeleg (src mtag : Nat) (s : Chip) : Chip :=
  { s with link := { s.link with delegs := s.link.delegs.filter (fun d => !(d.src == src && d.mtag == mtag)) } }

/-- The owner aborts the guest that serves a request (R429). -/
def Chip.abortGuest (c : Nat) (s : Chip) : Chip :=
  if (s.ctxAt c).st.abortable then
    (s.startAbort c .remote).request { kind := .ctxAbort, obj := c, origin := .gone, ctx := some c }
  else s

/-- A request is over: its entry stays so that its later frames are dropped (R421). -/
def Chip.overDeleg (d : Deleg) (s : Chip) : Chip :=
  let s := s.dropDeleg d.src d.mtag
  { s with link := { s.link with delegs := s.link.delegs ++ [{ d with ended := true, guest := none, images := [], ops := [] }] } }

/-- A request ends at the owner before its guest has finished (R427, R433). -/
def Chip.endDeleg (d : Deleg) (status : Nat) (s : Chip) : Chip :=
  let s := (s.overDeleg d).sendCmpl d.cls d.tagp d.src d.mtag d.rroute 1 status 0 0
  match d.guest with | some c => s.abortGuest c | none => s

/-- A frame that the link engine finds malformed: it counts, and its message ends where its return route is known. -/
def Chip.malFrame (n : Nat) (h : BitVec 128) (s : Chip) : Chip :=
  let s := s.malformed n
  if 1 ≤ hType h ∧ hType h ≤ 2 then
    match s.link.lands.find? (fun l => l.src == hSrc h && l.mtag == hMtag h && l.status.isNone) with
    | some l => s.endLand l 3
    | none => s
  else if 3 ≤ hType h ∧ hType h ≤ 4 then
    match s.link.delegs.find? (fun d => d.src == hSrc h && d.mtag == hMtag h && !d.ended) with
    | some d => s.endDeleg d 3
    | none => s
  else s

/-! ### Training (R401, R406, R415) -/

/-- Widths that a set of lanes allows: 0 eight lanes, 1 lanes 0–3, 2 lanes 4–7. -/
def widthOk (lanes : BitVec 8) (w : Nat) : Bool :=
  match w with | 0 => lanes == 0xFF | 1 => lanes &&& 0x0F == 0x0F | _ => lanes &&& 0xF0 == 0xF0

/-- The widths of a port: in WMASK, and its lanes locked. -/
def Chip.widths (s : Chip) (n : Nat) : List Nat :=
  ([0, 1, 2]).filter (fun w => bitB (s.reg (Reg.lk n 0)) (4 + w) && widthOk (s.portAt n).lanes w)

/-- The width common with a peer that announces a width: an end with all lanes can use either half. -/
def Chip.commonWidth (s : Chip) (n peer : Nat) : Option Nat :=
  (s.widths n).find? (fun w => peer == 0 || w == peer)

def Chip.lkEn (s : Chip) (n : Nat) : Bool := bitB (s.reg (Reg.lk n 0)) 0
def Chip.lkGen (s : Chip) (n : Nat) : Nat := s.regF (Reg.lk n 0) 2 2
def Chip.lkThru (s : Chip) (n : Nat) : Nat := s.regF (Reg.lk n 0) 12 4

/-- A port begins to train. -/
def Chip.beginTraining (n : Nat) (s : Chip) : Chip :=
  s.updPort n (fun p => { p with st := .training, trainAt := s.time, retryAt := none, sent1 := none, got1 := none })

/-- The PCS reports lane lock: an enabled port trains. -/
def pcsLock (n : Nat) (lanes : BitVec 8) (s : Chip) : Chip :=
  let p := s.portAt n
  if s.build.nlp ≤ n ∨ s.lkEn n = false then s
  else match p.st with
    | .waitPcs =>
      let t := s.updPort n (fun p => { p with lanes := lanes })
      if (t.widths n).isEmpty then t else t.beginTraining n
    | .training => s.updPort n (fun p => { p with lanes := lanes })
    | _ => s

/-- The port's own proposal. -/
def LinkPort.proposal (p : LinkPort) : Nat := (p.epoch + 1) % 65536

/-- Sends a TRAIN frame; they always use epoch 0 (R405). -/
def Chip.sendTrain (n step e : Nat) (s : Chip) : Chip :=
  let w := (s.widths n).headD 0
  let cfg := s.reg Reg.lkCfg
  s.sendCtl n 0 (at128 120 2 ||| at128 108 s.chipId ||| at128 92 e ||| at128 90 (s.lkGen n) ||| at128 88 w ||| at128 84 n |||
    at128 83 (fldN cfg 12 1) ||| at128 82 (fldN cfg 13 1) ||| at128 80 step ||| at128 79 (if (s.portAt n).fresh then 1 else 0))

/-- The port is training and not waiting to start again. -/
def Chip.trains (s : Chip) (n : Nat) : Bool := (s.portAt n).st == .training && (s.portAt n).retryAt.isNone

def trainProposeTimer (n : Nat) (s : Chip) : Chip := if s.trains n then s.sendTrain n 0 (s.portAt n).proposal else s

/-- A training fails: it starts again after 1 ms. -/
def Chip.trainFails (n : Nat) (s : Chip) : Chip :=
  (s.updPort n (fun p => { p with retryAt := some (s.time + 100000) })).linkReport n Src.trainfail

def trainTimeout (n : Nat) (s : Chip) : Chip :=
  if s.trains n ∧ (s.portAt n).trainAt + 10000 ≤ s.time then s.trainFails n else s

def trainRetry (n : Nat) (s : Chip) : Chip :=
  match (s.portAt n).retryAt with
  | some t => if (s.portAt n).st = .training ∧ t ≤ s.time then s.beginTraining n else s
  | none => s

/-- E: of the end that is not fresh when one is, else the later proposal, else that of the higher CHIP. -/
def agreeEpoch (mine his : Nat) (freshMine freshHis : Bool) (chipMine chipHis : Nat) : Nat :=
  if freshMine && !freshHis then his
  else if freshHis && !freshMine then mine
  else
    let later := fun (e f : Nat) => let d := (e + 65536 - f) % 65536; decide (1 ≤ d) && decide (d ≤ 32767)
    if later mine his then mine else if later his mine then his else if chipHis < chipMine then mine else his

/-- Each end has sent and received STEP 1 with one E: the port is UP. -/
def Chip.goUp (n : Nat) (s : Chip) : Chip :=
  let p := s.portAt n
  if p.sent1.isSome ∧ p.sent1 = p.got1 then
    (s.updPort n (fun p =>
      { p with st := .up, oldEpoch := if p.fresh then none else some p.epoch, epoch := p.sent1.getD 0, fresh := false, txSeq := 0, rxSeq := 0,
               nacked := false, cred0 := 128, cred1 := 128, freed0 := 0, freed1 := 0, since := 0, retries := 0, lastRx := s.time,
               lastSent := s.time, laneTx0 := s.time, laneTx1 := s.time })).raise (608 + n) false
  else s

/-- A TRAIN frame in training. -/
def Chip.trainFrame (n : Nat) (h : BitVec 128) (s : Chip) : Chip :=
  let chip := fldN h 108 12
  let e := fldN h 92 16
  match s.commonWidth n (fldN h 88 2) with
  | none => s.trainFails n
  | some w =>
    if chip = s.chipId ∨ fldN h 90 2 ≠ s.lkGen n then s.trainFails n
    else
      let s := s.updPort n (fun p =>
        { p with peerChip := chip, peerPort := fldN h 84 4, peerZc := bitB h 83, peerDel := bitB h 82, genUp := s.lkGen n, wUp := w })
      match fldN h 80 2 with
      | 0 =>
        let p := s.portAt n
        let a := agreeEpoch p.proposal e p.fresh (bitB h 79) s.chipId chip
        ((s.sendTrain n 1 a).updPort n (fun p => { p with sent1 := some a })).goUp n
      | _ => (s.updPort n (fun p => { p with got1 := some e })).goUp n

/-- A TRAIN frame arrives; a port that is UP ignores it (R415, log 30). -/
def train (n : Nat) (f : Frame) (s : Chip) : Chip :=
  if hType f.hdr ≠ 15 ∨ hOp f.hdr ≠ 2 ∨ Frame.checks f 0 = false then s
  else match (s.portAt n).st with
    | .up => s.updPort n (fun p => { p with lastRx := s.time })
    | .training =>
      if s.trains n = false then s
      else if fldN f.hdr 24 55 ≠ 0 ∨ 2 ≤ fldN f.hdr 80 2 then s.malformed n
      else s.trainFrame n f.hdr
    | _ => s

/-! ### Ports that go down (R412, R414, R416, R561) -/

/-- Frees an ingress slot of a lane. -/
def Chip.freeIngress (n vl : Nat) (s : Chip) : Chip :=
  s.updPort n (fun p => if vl = 0 then { p with freed0 := p.freed0 + 1 } else { p with freed1 := p.freed1 + 1 })

/-- Frames in ingress slots of all ports that wait for an egress port that is down are discarded (R408). -/
def Chip.dropWaiting (n : Nat) (s : Chip) : Chip :=
  (List.range 16).foldl (fun s a =>
    let out := (s.portAt a).ingress.filter (fun i => i.egress == some n)
    let s := s.updPort a (fun p => { p with ingress := p.ingress.filter (fun i => i.egress != some n) })
    let s := out.foldl (fun s i => s.freeIngress a i.vl) s
    s.discarded (out.flatMap (fun i => s.localsOf i.f.hdr)) (out.map (fun i => i.f.hdr))) s

/-- A port goes down, and what waited for it goes on. -/
def Chip.linkDown (n : Nat) (s : Chip) : Chip :=
  if s.portUp n then ((s.portDown n).dropWaiting n).pumpAll else s

def linkSilence (n : Nat) (s : Chip) : Chip :=
  if s.portUp n ∧ (s.portAt n).lastRx + 150 ≤ s.time then s.linkDown n else s

/-- The PCS loses lane lock; a port that trains on too few lanes waits for its PCS again. -/
def laneLockLoss (n : Nat) (lanes : BitVec 8) (s : Chip) : Chip :=
  let p := s.portAt n
  if p.lanes &&& ~~~lanes = 0 then s
  else
    let s := s.updPort n (fun p => { p with lanes := p.lanes &&& lanes })
    match p.st with
    | .up => (s.linkDown n).linkReport n Src.lanedeg
    | .training => if (s.widths n).isEmpty then s.updPort n (fun p => { p with st := .waitPcs }) else s
    | _ => s

/-- A port stops for its PCS: UP it goes down, training it waits for the PCS. -/
def Chip.pcsDown (n src : Nat) (s : Chip) : Chip :=
  match (s.portAt n).st with
  | .up => (s.linkDown n).linkReport n src
  | .training => (s.updPort n (fun p => { p with st := .waitPcs })).linkReport n src
  | .waitPcs => s.linkReport n src
  | _ => s

def pcsError (n : Nat) (s : Chip) : Chip := s.pcsDown n Src.pcserr
def rxFifoOverflow (n : Nat) (s : Chip) : Chip := s.pcsDown n Src.fifoovf

/-! ### Replay (R413) -/

/-- Frames sent and not acknowledged, oldest first. -/
def LinkPort.unacked (p : LinkPort) : List EgFrame :=
  let n := (p.egress.filter (fun e => e.seq.isSome)).length
  (List.range n).filterMap (fun k => p.egress.find? (fun e => e.seq == some ((p.txSeq + 512 - n + k) % 512)))

/-- The sequence number of the oldest unacknowledged frame, or the next one to send. -/
def LinkPort.una (p : LinkPort) : Nat := (p.txSeq + 512 - (p.egress.filter (fun e => e.seq.isSome)).length) % 512

/-- A sequence number is outstanding, or the next one to be sent. -/
def LinkPort.outstanding (p : LinkPort) (q : Nat) : Bool :=
  decide ((q + 512 - p.una) % 512 ≤ (p.txSeq + 512 - p.una) % 512)

/-- Resends from a number on: one retry. A fourth from one number is not made: the port goes down. -/
def Chip.resend (n from_ : Nat) (s : Chip) : Chip :=
  let p := s.portAt n
  let k := if p.retries ≠ 0 ∧ p.retrySeq = from_ then p.retries + 1 else 1
  let again : EgFrame → Bool := fun e => match e.seq with
    | some q => decide ((from_ + 512 - p.una) % 512 ≤ (q + 512 - p.una) % 512)
    | none => false
  let m := (p.egress.filter again).length
  if m = 0 then s
  else if 4 ≤ k then s.linkDown n
  else
    (((s.updPort n (fun p =>
      { p with retrySeq := from_, retries := k, lastSent := s.time,
               egress := p.egress.map (fun e => if again e then { e with at_ := s.time } else e) })).bump
      (Reg.lk n 0x10) 16 16 1).bump (Reg.lk n 0x18) 0 32 m)

def replayTimer (n : Nat) (s : Chip) : Chip :=
  if s.portUp n then
    match (s.portAt n).unacked.head? with
    | some e => if e.at_ + 100 ≤ s.time then s.resend n (s.portAt n).una else s
    | none => s
  else s

/-! ### Moving frames to an egress port (R407, R411) -/

/-- The first frame of an ingress port that waits for an egress port moves there while it has room. -/
def Chip.moveOne (a n : Nat) (s : Chip) : Chip :=
  if (s.portAt n).room = false then s
  else match (s.portAt a).ingress.find? (fun i => i.egress == some n) with
    | some i =>
      ((s.updPort a (fun p => { p with ingress := p.ingress.erase i })).freeIngress a i.vl).queueFrame n
        { f := i.f, vl := hVl i.f.hdr, cls := hClass i.f.hdr, src := some a, msg := none, at_ := s.time }
    | none => s

/-- Frames that waited for room at an egress port move there, in turn over the ingress ports. -/
def Chip.moveWaiting (n : Nat) : Nat → Chip → Chip
  | 0, s => s
  | k + 1, s => Chip.moveWaiting n k ((List.range 16).foldl (fun s a => s.moveOne a n) s)

/-- Slots of an egress port have become free. -/
def Chip.egressFreed (n : Nat) (s : Chip) : Chip := ((Chip.moveWaiting n 256 s).linkFlush n).pumpAll

/-! ### Arrival of frames (R405, R413, R416, R433) -/

/-- A frame fails its CRC or skips a number: NACK at the first (R413). -/
def Chip.crcFail (n : Nat) (s : Chip) : Chip :=
  let s := s.bump (Reg.lk n 0x10) 0 16 1
  if (s.portAt n).nacked then s else s.sendNack n

/-- The size of a frame is that of its type. -/
def Frame.whole (f : Frame) : Bool := f.payload.length == (if hType f.hdr = 15 then 0 else 256)

/-- The checks of a frame at a port that is UP; the second value: it passed. -/
def Chip.frameCheck (n : Nat) (f : Frame) (s : Chip) : Chip × Bool :=
  let p := s.portAt n
  if Frame.whole f && Frame.checks f p.epoch then (s.updPort n (fun p => { p with lastRx := s.time }), true)
  else if Frame.whole f && (match p.oldEpoch with | some e => Frame.checks f e | none => false) then (s.bump (Reg.lk n 0x10) 32 16 1, false)
  else (s.crcFail n, false)

/-- The header of a frame after a hop, and its egress port; none where it is delivered here (R407). -/
def Chip.nextHop (s : Chip) (n : Nat) (h : BitVec 128) : BitVec 128 × Option Nat :=
  let r := hRoute h
  let date := fun (e : Nat) (h : BitVec 128) => if bitB (s.reg (Reg.lk e 0)) 11 then put128 84 1 1 h else h
  if segCount r 0 = 1 then
    let r := r / 4096
    let h := put128 84 1 0 (put128 24 48 r h)
    if r % 4096 = 0 then (h, none) else (date (segPort r 0) h, some (segPort r 0))
  else
    let e := s.lkThru n
    (date e (put128 24 48 (r - 1) h), some e)

/-- The frame leaves through no port: it is discarded as by a port that goes down (R408). -/
def Chip.noEgress (n vl : Nat) (h : BitVec 128) (s : Chip) : Chip :=
  ((s.freeIngress n vl).discarded (s.localsOf h) [h]).pumpAll

/-- An accepted frame goes on its way: to an egress port, or to this chip (R407, R408, R411). -/
def Chip.routeFrame (n : Nat) (f : Frame) (s : Chip) : Chip :=
  let vl := hVl f.hdr
  if routeValid 16 (hRoute f.hdr) = false then (s.freeIngress n vl).malFrame n f.hdr
  else
    let (h, out) := s.nextHop n f.hdr
    match out with
    | none =>
      if hDst h ≠ s.chipId then (s.freeIngress n vl).malFrame n h
      else s.updPort n (fun p => { p with ingress := p.ingress ++ [{ f := { f with hdr := h }, vl := vl, egress := none }] })
    | some e =>
      if s.portUp e = false ∨ (segCount (hRoute f.hdr) 0 ≠ 1 ∧ e = n) then s.noEgress n vl h
      else if (s.portAt e).room && !(s.portAt n).ingress.any (fun i => i.egress == some e) then
        (s.freeIngress n vl).queueFrame e { f := { f with hdr := h }, vl := hVl h, cls := hClass h, src := some n, msg := none, at_ := s.time }
      else s.updPort n (fun p => { p with ingress := p.ingress ++ [{ f := { f with hdr := h }, vl := vl, egress := some e }] })

/-- Ingress slots of a lane that the sender counts as taken. -/
def LinkPort.taken (p : LinkPort) (vl : Nat) : Nat :=
  (p.ingress.filter (fun i => i.vl == vl)).length + (if vl = 0 then p.freed0 else p.freed1)

/-- A data frame that has passed its CRC: its number, its credit, its acceptance. -/
def Chip.takeFrame (n : Nat) (f : Frame) (s : Chip) : Chip :=
  let p := s.portAt n
  let d := (hSeq f.hdr + 512 - p.rxSeq) % 512
  if 256 ≤ d then s.sendCredit n
  else if d ≠ 0 then s.crcFail n
  else if 128 ≤ p.taken (hVl f.hdr) then s.crcFail n
  else
    let s := (s.updPort n (fun p => { p with rxSeq := (p.rxSeq + 1) % 512, nacked := false, since := p.since + 1 })).bump (Reg.lk n 0x18) 32 32 1
    let s := s.routeFrame n f
    if 32 ≤ (s.portAt n).since ∧ s.portUp n then s.sendCredit n else s

/-- A data frame arrives at a port (R407). A reserved TYPE breaks the framing (R561, log 31). -/
def frameForward (n : Nat) (f : Frame) (s : Chip) : Chip :=
  if s.portUp n = false ∨ hType f.hdr = 15 then s
  else if hType f.hdr = 0 ∨ 8 ≤ hType f.hdr then s.crcFail n
  else match s.frameCheck n f with
    | (s, true) => s.takeFrame n f
    | (s, false) => s

/-- A LINKCTL frame of an operation at a port that is UP; `mask` are the bits its layout uses. -/
def Chip.ctlFrame (n op : Nat) (mask : Nat) (f : Frame) (body : Chip → Chip) (s : Chip) : Chip :=
  if s.portUp n = false ∨ hType f.hdr ≠ 15 ∨ (hOp f.hdr = 2 ∧ op ≠ 2) then s
  else match s.frameCheck n f with
    | (s, false) => s
    | (s, true) =>
      if 3 ≤ hOp f.hdr then s.malformed n
      else if hOp f.hdr ≠ op then s
      else if f.hdr &&& BitVec.ofNat 128 (2 ^ 120 - 2 ^ 24) &&& ~~~(BitVec.ofNat 128 mask) ≠ 0 then s.malformed n
      else body s

/-- CREDIT: frames before ASEQ leave their slots, and credits come back (R411, R413). -/
def linkctlCredit (n : Nat) (f : Frame) : Chip → Chip :=
  Chip.ctlFrame n 0 (2 ^ 120 - 2 ^ 95) f fun s =>
    let p := s.portAt n
    let a := fldN f.hdr 111 9
    if p.outstanding a = false then s.linkReport n Src.malformed
    else
      let k := (a + 512 - p.una) % 512
      let gone := (p.unacked.take k).map (·.seq)
      (s.updPort n (fun p =>
        { p with egress := p.egress.filter (fun e => e.seq.isNone || !gone.contains e.seq),
                 cred0 := p.cred0 + fldN f.hdr 103 8, cred1 := p.cred1 + fldN f.hdr 95 8,
                 retries := if k = 0 then p.retries else 0 })).egressFreed n

def nack (n : Nat) (f : Frame) : Chip → Chip :=
  Chip.ctlFrame n 1 (2 ^ 120 - 2 ^ 111) f fun s =>
    let e := fldN f.hdr 111 9
    if (s.portAt n).outstanding e then s.resend n e else s

def creditTimer (n : Nat) (s : Chip) : Chip := if s.portUp n then s.sendCredit n else s

/-- A port that is UP keeps sending LINKCTL frames (R414): CREDIT frames. -/
def keepaliveTimer (n : Nat) (s : Chip) : Chip := if s.portUp n then s.sendCredit n else s

/-- Frames wait at an egress lane for 1 ms and none is sent: those that wait are discarded (R412). -/
def forwardWatchdog (n vl : Nat) (s : Chip) : Chip :=
  let p := s.portAt n
  let out := p.egress.filter (fun e => e.waits && e.vl == vl)
  if s.portUp n && !out.isEmpty && out.any (fun e => decide (e.at_ + 100000 ≤ s.time)) &&
      decide ((if vl = 0 then p.laneTx0 else p.laneTx1) + 100000 ≤ s.time) then
    let s := s.updPort n (fun p => { p with egress := p.egress.filter (fun e => !(e.waits && e.vl == vl)) })
    (((s.discarded (out.filterMap (·.msg)) (out.map (fun e => e.f.hdr))).linkReport n Src.fwdstall).egressFreed n)
  else s

/-! ### Registers (R434–R437) -/

def Chip.noPortEn (s : Chip) : Bool := (List.range s.build.nlp).all (fun n => !s.lkEn n)

/-- LK_CFG (R434). -/
def lkCfg (v : Word) : Chip → Chip :=
  Chip.accept fun s =>
    let old := s.reg Reg.lkCfg
    if s.build.nlp = 0 then s.answer .ok
    else if fldN v 32 16 = 0 ∨ 1000 < fldN v 32 16 then s.answer .err
    else if fldN v 0 14 ≠ fldN old 0 14 ∧ s.noPortEn = false then s.answer .err
    else (s.setReg Reg.lkCfg (v &&& (maskBits 32 16 ||| maskBits 0 14))).answer .ok

/-- LK_PCTL (R435, R613): EN set begins with a clean count of downs (R417); EN cleared leaves UP. -/
def lkPctl (n : Nat) (v : Word) : Chip → Chip :=
  Chip.accept fun s =>
    let off := Reg.lk n 0
    let old := s.reg off
    let rest := maskBits 11 5 ||| maskBits 4 3 ||| maskBits 2 2
    if s.build.nlp ≤ n then s.answer .ok
    else if fldN v 2 2 = 0 ∨ fldN v 2 2 = 3 ∨ s.build.nlp ≤ fldN v 12 4 then s.answer .err
    else if bitB old 0 ∧ v &&& rest ≠ old &&& rest then s.answer .err
    else
      let set := fun (s : Chip) => s.setReg off (v &&& (rest ||| maskBits 0 1))
      if bitB v 0 && !bitB old 0 then ((set s).updPort n (fun p => { p with st := .waitPcs, downs := [] })).answer .ok
      else if !bitB v 0 && bitB old 0 then ((set (s.linkDown n)).updPort n (fun p => { p with st := .disabled })).answer .ok
      else (set s).answer .ok

/-- A remote target entry (R436). -/
def rtEntryWrite (p e r : Nat) (v : Word) : Chip → Chip :=
  Chip.accept fun s =>
    let off := Reg.rt p e r
    let en := s.rtEn p e
    if s.build.nlp = 0 ∨ s.build.npart ≤ p ∨ 64 ≤ e then s.answer .ok
    else match r with
      | 0x00 =>
        let set := fun (s : Chip) => (s.setReg off (v &&& (maskBits 62 2 ||| maskBits 52 7 ||| maskBits 32 16 ||| maskBits 0 12))).answer .ok
        if en ∧ bitB v 63 then s.answer .err
        else if bitB v 63 ∧ (routeValid s.build.nlp (s.rtRoute p e) = false ∨ routeValid s.build.nlp (s.rtRroute p e) = false ∨ s.rtSize p e = 0) then
          (s.logCtl Src.rtcfg 42).answer .err
        else set s
      | 0x18 => if en then s.answer .err else (s.setReg off (v &&& maskBits 0 52)).answer .ok
      | 0x08 => if en then s.answer .err else (s.setReg off (v &&& maskBits 0 48)).answer .ok
      | 0x10 => if en then s.answer .err else (s.setReg off (v &&& maskBits 0 48)).answer .ok
      | _ => s

/-- Message slots of the enabled windows but one. -/
def Chip.slotsBut (s : Chip) (w : Nat) : Nat :=
  ((List.range 256).map (fun k => if k ≠ w ∧ s.lwEn k then s.regF (Reg.lw k 0) 53 6 + 1 else 0)).foldl (· + ·) 0

/-- A landing window (R437, R613). -/
def lwWrite (w r : Nat) (v : Word) : Chip → Chip :=
  Chip.accept fun s =>
    let off := Reg.lw w r
    let en := s.lwEn w
    if s.build.nlp = 0 ∨ 256 ≤ w then s.answer .ok
    else match r with
      | 0x00 =>
        if en ∧ bitB v 63 then s.answer .err
        else if s.build.npart ≤ fldN v 59 3 then s.answer .err
        else if bitB v 63 ∧ 4096 < s.slotsBut w + fldN v 53 6 + 1 then s.answer .err
        else (s.setReg off (v &&& (maskBits 53 11 ||| maskBits 0 40))).answer .ok
      | 0x08 => if en then s.answer .err else (s.setReg off (v &&& maskBits 12 36)).answer .ok
      | 0x10 => if en then s.answer .err else (s.setReg off (v &&& maskBits 0 52)).answer .ok
      | 0x18 => if en then s.answer .err else (s.setReg off v).answer .ok
      | _ => s

/-! ### Meanings -/

def execPcsLock (n : Nat) (lanes : BitVec 8) (s : State) : Out := s.run (pcsLock n lanes)
def execTrainProposeTimer (n : Nat) (s : State) : Out := s.run (trainProposeTimer n)
def execTrain (n : Nat) (f : Frame) (s : State) : Out := s.run (train n f)
def execTrainTimeout (n : Nat) (s : State) : Out := s.run (trainTimeout n)
def execTrainRetry (n : Nat) (s : State) : Out := s.run (trainRetry n)
def execLinkctlCredit (n : Nat) (f : Frame) (s : State) : Out := s.run (linkctlCredit n f)
def execNack (n : Nat) (f : Frame) (s : State) : Out := s.run (nack n f)
def execReplayTimer (n : Nat) (s : State) : Out := s.run (replayTimer n)
def execCreditTimer (n : Nat) (s : State) : Out := s.run (creditTimer n)
def execKeepaliveTimer (n : Nat) (s : State) : Out := s.run (keepaliveTimer n)
def execLinkSilence (n : Nat) (s : State) : Out := s.run (linkSilence n)
def execLaneLockLoss (n : Nat) (lanes : BitVec 8) (s : State) : Out := s.run (laneLockLoss n lanes)
def execPcsError (n : Nat) (s : State) : Out := s.run (pcsError n)
def execRxFifoOverflow (n : Nat) (s : State) : Out := s.run (rxFifoOverflow n)
def execFrameForward (n : Nat) (f : Frame) (s : State) : Out := s.run (frameForward n f)
def execForwardWatchdog (n vl : Nat) (s : State) : Out := s.run (forwardWatchdog n vl)
def execLkCfg (v : Word) (s : State) : Out := s.run (lkCfg v)
def execLkPctl (n : Nat) (v : Word) (s : State) : Out := s.run (lkPctl n v)
def execRtEntryWrite (p e r : Nat) (v : Word) (s : State) : Out := s.run (rtEntryWrite p e r v)
def execLwWrite (w r : Nat) (v : Word) (s : State) : Out := s.run (lwWrite w r v)

end Sys2Proof.Machine
end

