-- ==== Sys2Proof/Machine/Landing.lean ====
section
/-! DEFINITION. The landing engine, delegated work, completions (13_dweath_link R418–R430, 02_contexts_and_execution
R74–R75, 09_delta_compression R307–R309). -/

namespace Sys2Proof.Machine

/-! ### Delivered frames -/

/-- The next frame delivered at a port, when it has the type: it leaves its ingress slot (R411). -/
def Chip.takeDelivered (n ty : Nat) (s : Chip) : Option (Frame × Chip) :=
  match (s.portAt n).ingress.find? (fun i => i.egress.isNone) with
  | some i =>
    if hType i.f.hdr = ty then some (i.f, (s.updPort n (fun p => { p with ingress := p.ingress.erase i })).freeIngress n i.vl)
    else none
  | none => none

def Chip.onFrame (n ty : Nat) (body : Frame → Chip → Chip) (s : Chip) : Chip :=
  match s.takeDelivered n ty with | some (f, s) => body f s | none => s

def Frame.word (f : Frame) (k : Nat) : Word := imgWord f.payload (8 * k)

/-- A frame dropped for a DELEG that is gone (R429, R430). -/
def Chip.goneDrop (n : Nat) (s : Chip) : Chip := s.bump (Reg.lk n 0x20) 32 16 1

/-! ### Landing bursts (R422) -/

/-- A landing burst is written whole: its bytes are added to the landing counter of its window, where that is in the
window's partition (R26, R422). -/
def landingBurst (id : Nat) (s : Chip) : Chip :=
  match s.link.lands.find? (fun l => l.bursts.any (fun b => b.1 == id)) with
  | none => { s with ports := { s.ports with fills := s.ports.fills.filter (fun x =>
      !(x.r.id == id && (match x.r.kind with | .landing _ => true | _ => false))) } }
  | some l =>
    if s.allRequests.any (fun r => r.id == id) then s
    else
      let rsp := match s.ports.fills.find? (fun x => x.r.id == id) with | some x => x.rsp | none => .ok
      let n := match l.bursts.find? (fun b => b.1 == id) with | some b => b.2.2 | none => 0
      let s := (s.dropFill id).updLand l (fun x => { x with bursts := x.bursts.filter (fun b => b.1 != id) })
      if rsp = .ok then
        let s := if s.ksPart l.kcnt = l.part then s.signal l.kcnt n else s.bump (Reg.lk l.port 0x20) 48 16 1
        s.landStep l.src l.mtag
      else s.landFault l

/-! ### SHEAD and SDATA (R307–R309, R420, R421) -/

/-- Slots of a window in use. -/
def Chip.lwUsed (s : Chip) (w : Nat) : Nat :=
  (s.link.lands.filter (fun l => l.win == w && l.status.isNone)).length + (s.link.delegs.filter (fun d => d.win == w && !d.ended)).length

/-- The window refuses the source, or has no slot (R421). -/
def Chip.lwRefuses (s : Chip) (w src : Nat) (deleg : Bool) : Bool :=
  let a := s.reg (Reg.lw w 0)
  let mask := fldN a 16 12
  !s.lwEn w || s.lwDeleg w != deleg || decide (src &&& mask ≠ fldN a 28 12 &&& mask) || decide (fldN a 53 6 + 1 ≤ s.lwUsed w)

/-- A DELEG of this chip is outstanding under a tag. -/
def Chip.delegOut (s : Chip) (tag : Nat) : Bool := s.link.msgs.any (fun m => m.deleg && m.mtag == tag)

/-- The status with which a head is refused; none where it is accepted. -/
def Chip.sheadStatus (s : Chip) (src w : Nat) (tb : Desc) (len : Nat) (zc dres : Bool) (dmtag : Nat) : Option Nat :=
  if dres && !s.delegOut dmtag then some 2
  else if s.lwRefuses w src false || !spanIn tb (s.lwSize w) then some 2
  else if (checkDesc { dst := true } true tb).isSome || (zc && !bitB (s.reg Reg.lkCfg) 12) || streamLen tb != len then some 3
  else none

/-- The landing that a SHEAD opens (R421): its window as it is now, the descriptor image and the fields of its payload. -/
def Chip.newLand (n : Nat) (f : Frame) (s : Chip) : Land :=
  let w := fun k => Frame.word f k
  let win := fldN (w 30) 0 8
  { src := hSrc f.hdr, mtag := hMtag f.hdr, win := win, part := s.lwPart win, tagp := hPart f.hdr, asid := s.lwAsid win,
    root := s.lwRoot win, base := s.lwBase win, kcnt := s.lwKcnt win, cls := hClass f.hdr, port := n, rroute := fldN (w 28) 0 48,
    t := (List.range 28).foldl (fun (t : Tab Word) k => Tab.set 0 k (w k) t) [], len := fldN (w 29) 0 48, zc := bitB (w 29) 63,
    dmtag := fldN (w 31) 0 12, dres := bitB (w 31) 12 }

/-- The head of a SEND message (R420, R421). An earlier message of the same source and tag is over. -/
def Chip.sheadFrame (n : Nat) (f : Frame) (s : Chip) : Chip :=
  let w := fun k => Frame.word f k
  if fldN (w 28) 48 16 ≠ 0 ∨ fldN (w 29) 48 15 ≠ 0 ∨ fldN (w 30) 19 45 ≠ 0 ∨ fldN (w 31) 13 51 ≠ 0 ∨ routeValid 16 (fldN (w 28) 0 48) = false then
    s.malFrame n f.hdr
  else
    let l := s.newLand n f
    let st := s.sheadStatus l.src l.win l.desc l.len l.zc l.dres l.dmtag
    let s := { s with link := { s.link with lands := s.link.lands.filter (fun (x : Land) => !(x.src == l.src && x.mtag == l.mtag)) ++ [l] } }
    match st with
    | some st =>
      let s := if l.dres && !s.delegOut l.dmtag then s.goneDrop n else s
      let s := if st = 3 then s.malformed n else s
      s.endLand l st
    | none => s.landStep l.src l.mtag

/-- Whole chunks of a coded stream (R307, R309): the chunk's bytes and what is left, or that it is malformed. A chunk is
judged once all of it has arrived; of an entry whose LEN is longer than any chunk, once the entry has. -/
def takeChunk (k total : Nat) (raw : List Byte) : Option (Option (List Byte × List Byte)) :=
  let r := min 4096 (total - 4096 * k)
  let e := imgWord raw 0
  if raw.length < 8 then none
  else if entryLen e ≤ 256 ∧ raw.length < 8 + 16 * entryLen e then none
  else if entryBad e r || entryOffset e != 4096 * k then some none
  else match decodePayload (entryMode e) (entryLen e) r ((raw.drop 8).take (16 * entryLen e)) with
    | some bs => some (some (bs, raw.drop (8 + 16 * entryLen e)))
    | none => some none

/-- Chunks that have arrived whole land. -/
def Chip.landChunks (n src mtag : Nat) (h : BitVec 128) : Nat → Chip → Chip
  | 0, s => s
  | k + 1, s =>
    match s.landAt src mtag with
    | none => s
    | some l =>
      if l.status.isSome ∨ l.len ≤ l.next then s
      else match takeChunk l.chunk l.len l.raw with
        | none => s
        | some none => s.malFrame n h
        | some (some (bs, rest)) =>
          let l := { l with raw := rest, chunk := l.chunk + 1 }
          Chip.landChunks n src mtag h k ((s.updLand l (fun _ => l)).landBytes l bs)

/-- A frame of a message's stream (R422, R433). -/
def Chip.sdataFrame (n : Nat) (f : Frame) (s : Chip) : Chip :=
  match s.landAt (hSrc f.hdr) (hMtag f.hdr) with
  | none => s.malFrame n f.hdr
  | some l =>
    if l.status = some 0 then s.malFrame n f.hdr
    else if l.status.isSome then (if l.dres && !s.delegOut l.dmtag then s.goneDrop n else s)
    else if l.len ≤ l.next then s.malFrame n f.hdr
    else if l.zc then
      let l := { l with raw := l.raw ++ f.payload }
      Chip.landChunks n l.src l.mtag f.hdr (l.raw.length / 8 + 1) (s.updLand l (fun _ => l))
    else s.landBytes l (f.payload.take (l.len - l.next))

def shead (n : Nat) : Chip → Chip := Chip.onFrame n 1 (Chip.sheadFrame n)
def sdata (n : Nat) : Chip → Chip := Chip.onFrame n 2 (Chip.sdataFrame n)

/-! ### Requests at the owner (R426, R427) -/

/-- The word of a delegated instruction has its form (R426). -/
def guestWordOk (w : Word) : Bool :=
  decide (0x44 ≤ wOpc w) && decide (wOpc w ≤ 0x46) && w &&& ~~~(maskBits 56 8 ||| maskBits 23 1 ||| maskBits 0 4) == at64 48 1 ||| at64 44 2

/-- A partition has a guest context. -/
def Chip.hasGuest (s : Chip) (p : Nat) : Bool := (List.range s.build.nctx).any (fun c => s.ctxGuest c && s.ctxPart c == p)

/-- The head of a DELEG request. A refused request is answered at once. -/
def Chip.dheadFrame (n : Nat) (f : Frame) (s : Chip) : Chip :=
  let w := fun k => Frame.word f k
  let src := hSrc f.hdr
  let tag := hMtag f.hdr
  let rroute := fldN (w 1) 0 48
  let win := fldN (w 2) 0 8
  if routeValid 16 rroute = false then s.malFrame n f.hdr
  else
    let d : Deleg := { src := src, mtag := tag, win := win, rlwin := fldN (w 2) 8 8, part := s.lwPart win, tagp := hPart f.hdr,
                       cls := hClass f.hdr, rroute := rroute, word := w 0, len := fldN (w 3) 0 48 }
    let refuse := fun (st : Nat) (s : Chip) => (s.overDeleg d).sendCmpl (hClass f.hdr) (hPart f.hdr) src tag rroute 1 st 0 0
    if fldN (w 1) 48 16 ≠ 0 ∨ fldN (w 2) 27 37 ≠ 0 ∨ fldN (w 3) 48 16 ≠ 0 ∨ (List.range 28).any (fun k => w (4 + k) != 0) ∨
        guestWordOk (w 0) = false then refuse 3 (s.malformed n)
    else if bitB (s.reg Reg.lkCfg) 13 = false then refuse 5 s
    else if s.lwRefuses win src true then refuse 2 s
    else if s.hasGuest (s.lwPart win) = false then refuse 5 s
    else
      let s := s.dropDeleg src tag
      { s with link := { s.link with delegs := s.link.delegs ++ [d] } }

def dhead (n : Nat) : Chip → Chip := Chip.onFrame n 3 (Chip.dheadFrame n)

def Chip.updDeleg (d : Deleg) (s : Chip) : Chip :=
  { s with link := { s.link with delegs := s.link.delegs.map (fun x => if x.src == d.src && x.mtag == d.mtag then d else x) } }

/-! ### Operands of a guest (R426) -/

/-- The index at a place of the operand stream, and the place after it. -/
def takeIndex (fmt pos : Nat) (ops : List Byte) : Int × Nat :=
  if fmt = 9 then
    let p := (pos + 7) / 8 * 8
    (sextN 64 (ofBytes ((ops.drop p).take 8)), p + 8)
  else (sextN 32 (ofBytes ((ops.drop pos).take 4)), pos + 4)

def takeIndices (fmt : Nat) (ops : List Byte) : Nat → Nat → List Int × Nat
  | 0, pos => ([], pos)
  | n + 1, pos =>
    let (v, p) := takeIndex fmt pos ops
    let (l, q) := takeIndices fmt ops n p
    (v :: l, q)

def takeU32s (ops : List Byte) : Nat → Nat → List Nat × Nat
  | 0, pos => ([], pos)
  | n + 1, pos =>
    let (l, q) := takeU32s ops n (pos + 4)
    (ofBytes ((ops.drop pos).take 4) :: l, q)

/-- Bags of a POOL: each length, its indices, its weights; `left` rubble elements are still to come. -/
def takeBags (fmt : Nat) (wsum : Bool) (ops : List Byte) : Nat → Nat → Nat → Shipped
  | 0, _, _ => {}
  | n + 1, left, pos =>
    let len := ofBytes ((ops.drop pos).take 4)
    let k := min len left
    let (vs, p) := takeIndices fmt ops k (pos + 4)
    let (ws, q) := if wsum then takeU32s ops k p else ([], p)
    let r := takeBags fmt wsum ops n (left - k) q
    { rubble := vs ++ r.rubble, lens := len :: r.lens, wts := ws ++ r.wts }

/-- Staged bytes of one granule join the line that holds it. -/
def stageIn (run key lo n : Nat) (bs : List Byte) : List SLine → List SLine
  | [] =>
    let m := byteMask lo n
    [{ run := run, id := key, kind := .stg, key := key, win := 0, want := m, asked := m, got := m, data := granuleBytes lo bs,
       from_ := 0, to_ := 0, keep := true }]
  | l :: r =>
    if l.key = key then
      let m := byteMask lo n
      { (l.land m (granuleBytes lo bs)) with want := l.want ||| m, asked := l.asked ||| m } :: r
    else l :: stageIn run key lo n bs r

/-- Bytes that the link delivered stand in staging at an address, for the whole walk. -/
def stageBytes (run : Nat) (va : Int) (bs : List Byte) (ls : List SLine) : List SLine :=
  ((Need.parts { va := vaOf va, n := bs.length, kind := .stg }).foldl (fun (st : List SLine × List Byte) (key, at_, m) =>
    let n := (onesBelow m 256).length
    (stageIn run key (at_ - key) n (st.2.take n) st.1, st.2.drop n)) (ls, bs)).1

/-- Where a shipped row's bytes stand in T1: codes, with the header before them and the scales of an MX row. -/
def rowStore (run : Nat) (t1 : Desc) (rd r : Nat) (bs : List Byte) (buf : List SLine) : List SLine :=
  let xs := rowIndices t1 rd r
  let a := Dsc.aOf t1 (Dsc.alloc t1 (xs.headD []))
  let h := if Dsc.rowhdr t1 = 1 ∨ Dsc.rq t1 then 8 else 0
  let n := ceilDiv (xs.length * fmtBits (Dsc.fmt t1)) 8
  let at_ := Int.fdiv (Dsc.nibAddr t1 a) 2
  let put := fun (b : List SLine) (base : Int) (l : List Byte) => stageBytes run base l b
  let buf := put (put buf (at_ - (h : Nat)) (bs.take h)) at_ ((bs.drop h).take n)
  if Dsc.mx t1 then put buf (Dsc.scaleAddr t1 a) ((bs.drop (h + n)).take (ceilDiv xs.length 32)) else buf

def shippedRowLen (t1 : Desc) (rd : Nat) : Nat :=
  let k := (rowIndices t1 rd 0).length
  let n := (if Dsc.rowhdr t1 = 1 ∨ Dsc.rq t1 then 8 else 0) + ceilDiv (k * fmtBits (Dsc.fmt t1)) 8 + (if Dsc.mx t1 then ceilDiv k 32 else 0)
  (n + 3) / 4 * 4

/-- Rubble elements of a SCATTER with their rows. -/
def takeRows (run fmt : Nat) (t1 : Desc) (rd : Nat) (ops : List Byte) : Nat → Nat → Nat → List SLine → List Int × List SLine
  | 0, _, _, buf => ([], buf)
  | n + 1, r, pos, buf =>
    let (v, p) := takeIndex fmt pos ops
    let k := shippedRowLen t1 rd
    let (l, buf) := takeRows run fmt t1 rd ops n (r + 1) (p + k) (rowStore run t1 rd r ((ops.drop p).take k) buf)
    (v :: l, buf)

/-- The operands as the walk reads them: `o` has the table of a SCATTER as its destination. -/
def operandsOf (run : Nat) (o : XOp) (ops : List Byte) : Shipped × List SLine :=
  let f := Dsc.fmt o.c
  let n := Dsc.ext o.c 0
  match o.op with
  | 0x45 => (takeBags f (o.md % 8 == 1) ops (Dsc.nbags o.c) n 0, [])
  | 0x46 => let (l, buf) := takeRows run f o.a (rowDim o.b) ops n 0 0 []; ({ rubble := l }, buf)
  | _ => ({ rubble := (takeIndices f ops n 0).1 }, [])

/-! ### Guests (R75, R427, R428) -/

/-- The lowest-numbered guest of a partition that is BOUND, and to which nothing is being done. -/
def Chip.boundGuest (s : Chip) (p : Nat) : Option Nat :=
  (List.range s.build.nctx).find? (fun c => s.ctxGuest c && s.ctxPart c == p && (s.ctxAt c).st == .bound && (s.ctxAt c).busy.isNone)

/-- The faults of a delegated instruction at its start (R288). -/
def guestFault (o : XOp) : Option Nat :=
  firstFault [o.descFault, (if o.fmtOk then none else some Src.opfmt), (if o.rubbleOk then none else some Src.rubble),
    (if o.poolDimOk then none else some Src.pooldim)]

/-- A CREDIT frame grants operand bytes. -/
def Chip.grant (d : Deleg) (n : Nat) (s : Chip) : Chip :=
  s.engineFrame 6 d.cls d.tagp d.src d.mtag d.rroute [d.mtag + n * 2 ^ 32]

/-- The operands of a guest are complete: its walk begins. -/
def Chip.guestBegin (c : Nat) (d : Deleg) (s : Chip) : Chip :=
  match (s.ctxAt c).xfer with
  | some t =>
    let (h, lines) := operandsOf t.grp (s.opOf c t) d.ops
    (s.updXfer c (fun t => { t with shipped := some h, lines := lines })).heard c
  | none => s

/-- The return route of a guest's result back to the owner: no rule gives it (log 32). -/
def Chip.openRoute (s : Chip) : Nat := fldN (Config.freeWord s.free) 0 48

/-- A guest's result is a SEND along the request's return route with T1 as its layout. The second value is its number. -/
def Chip.openResult (c : Nat) (d : Deleg) (tb : Desc) (s : Chip) : Chip × Nat :=
  let id := s.uid
  let head := sheadBytes tb s.openRoute (streamLen tb) false d.rlwin c (s.ctxPart c) d.mtag true
  let m : Msg := { id := 0, mtag := 0, deleg := false, ctx := c, part := s.ctxPart c, cls := s.ctxClass c, entry := 64, route := d.rroute,
                   dst := d.src, crec := false, ring := 0, ip := (s.ctxAt c).ip, ks := 0, km := 0, len := streamLen tb, zc := false,
                   res := some (d.src, d.mtag), heads := [(1, head)] }
  ((({ s with free := s.free + 1 }).openMsg m).framesOut id, id)

/-- A guest takes a request: its instruction and images, its staging; the first grant goes out. -/
def Chip.dispatchTo (c : Nat) (d : Deleg) (s : Chip) : Chip :=
  let w := d.word
  let d := { d with guest := some c, granted := 65536 }
  let s := s.updDeleg d
  let img := (List.range 96).foldl (fun (t : Tab Word) k => Tab.set 0 k (imgWord d.images (8 * k)) t) (s.ctxAt c).t
  let t : Xfer := { word := w, ip := (s.ctxAt c).ip, shipped := some {}, grp := s.uid, credits := s.workingSet c w }
  let s := ({ s with uid := s.uid + 1 }).updCtx c (fun x =>
    { x with t := img, iword := some w, exit := 0, fclass := 0, fcode := 0, ended := false, progress := s.time, promoted := false, xfer := some t })
  let s := s.setSt c .ready none
  let o := s.opOf c t
  match guestFault o with
  | some code => s.ownFault c code
  | none =>
    let s := s.grant d 65536
    let s := if o.op = 0x46 then s
      else
        let (s, id) := s.openResult c d o.b
        s.updXfer c (fun t => { t with msg := some id })
    if d.ops.length = d.len then s.guestBegin c d else s

/-- A request of a partition finds a guest, staging and a tag for its result (R61, R427). -/
def guestDispatch (p : Nat) (s : Chip) : Chip :=
  match s.link.delegs.find? (fun d => d.part == p && d.guest.isNone && !d.ended), s.boundGuest p with
  | some d, some c =>
    let m := s.slotMover c
    let n := s.creditNeed c d.word
    if d.images.length = 768 ∧ ¬ s.freeTags.isEmpty ∧ n ≤ (s.yieldStg c m n).freeCredits m then (s.yieldStg c m n).dispatchTo c d
    else s
  | _, _ => s

/-- Further grants for operands that the guest has taken. -/
def Chip.grantMore (d : Deleg) : Nat → Chip → Chip
  | 0, s => s
  | k + 1, s => Chip.grantMore d k (s.grant d 16384)

/-- Images, then operands, of a request; operands beyond its length or its grant are malformed (R427, R433). -/
def Chip.ddataFrame (n : Nat) (f : Frame) (s : Chip) : Chip :=
  match s.link.delegs.find? (fun d => d.src == hSrc f.hdr && d.mtag == hMtag f.hdr) with
  | none => s.malFrame n f.hdr
  | some d =>
    if d.ended then s
    else if d.images.length < 768 then s.updDeleg { d with images := d.images ++ f.payload }
    else
      let left := d.len - d.ops.length
      let bs := f.payload.take left
      if left = 0 ∨ d.granted < d.ops.length + bs.length then s.malFrame n f.hdr
      else
        let d := { d with ops := d.ops ++ bs }
        let more := d.ops.length / 16384 - d.taken
        let d := { d with taken := d.ops.length / 16384, granted := d.granted + 16384 * more }
        let s := Chip.grantMore d more (s.updDeleg d)
        match d.guest with
        | some c => if d.ops.length = d.len then s.guestBegin c d else s
        | none => s

def ddata (n : Nat) : Chip → Chip := Chip.onFrame n 4 (Chip.ddataFrame n)

/-! ### Completions, grants and GONE at their receiver (R423, R427, R429, R430, R433) -/

def Chip.msgOfTag (s : Chip) (tag : Nat) : Option Msg := s.link.msgs.find? (fun m => m.mtag == tag)

/-- A completion or grant for a tag that names no message: of a DELEG that has ended it counts in GONEDROP. -/
def Chip.noMsg (n tag : Nat) (s : Chip) : Chip :=
  if s.link.mbars.any (fun b => b.1 == tag) || s.link.gone.contains tag then s.goneDrop n else s.bump (Reg.lk n 0x10) 48 16 1

/-- A CMPL: progress, or the end of its message.  The acknowledged bytes never fall: the CMPL of a chip on the way that
discarded a frame carries none of the receiver's (R416). -/
def Chip.cmplFrame (n : Nat) (f : Frame) (s : Chip) : Chip :=
  let a := Frame.word f 0
  let b := Frame.word f 1
  match s.msgOfTag (hMtag f.hdr) with
  | none => s.noMsg n (hMtag f.hdr)
  | some m =>
    if a &&& ~~~(maskBits 12 4 ||| maskBits 16 10) ≠ 0 ∨ fldN b 48 16 ≠ 0 ∨ 2 ≤ fldN a 12 4 then s.malformed n
    else
      let s := (s.updMsg m.id (fun x => { x with acked := max x.acked (fldN b 0 48), heard := s.time })).progressed m.ctx
      match s.msgAt m.id with
      | none => s
      | some m => ((if fldN a 12 4 = 0 then s.courseSignals m else s.msgEnd m (fldN a 16 8) (fldN a 24 2)).pumpAll)

def cmpl (n : Nat) : Chip → Chip := Chip.onFrame n 5 (Chip.cmplFrame n)

/-- A grant of operand bytes: the requester's frames go on. -/
def Chip.creditFrame (n : Nat) (f : Frame) (s : Chip) : Chip :=
  let a := Frame.word f 0
  match s.link.msgs.find? (fun m => m.deleg && m.mtag == hMtag f.hdr) with
  | none => s.noMsg n (hMtag f.hdr)
  | some m =>
    if fldN a 0 32 ≠ hMtag f.hdr then s.malformed n
    else (((s.updMsg m.id (fun x => { x with granted := x.granted + fldN a 32 32 })).progressed m.ctx).framesOut m.id).heard m.ctx

def delegCredit (n : Nat) : Chip → Chip := Chip.onFrame n 6 (Chip.creditFrame n)

/-- GONE: the owner aborts the guest, or removes the request; it sends no final CMPL. -/
def Chip.goneFrame (n : Nat) (f : Frame) (s : Chip) : Chip :=
  match s.link.delegs.find? (fun d => d.src == hSrc f.hdr && d.mtag == hMtag f.hdr && !d.ended) with
  | none => s.bump (Reg.lk n 0x10) 48 16 1
  | some d =>
    let s := s.dropDeleg d.src d.mtag
    match d.guest with | some c => s.abortGuest c | none => s

def gone (n : Nat) : Chip → Chip := Chip.onFrame n 7 (Chip.goneFrame n)

/-- A message has heard nothing for RTO (R425). -/
def completionTimeout (id : Nat) (s : Chip) : Chip :=
  match s.msgAt id with
  | some m => if m.heard + s.rto ≤ s.time then (s.msgEnd m 1 2).pumpAll else s
  | none => s

/-- The bar of a message tag ends (R430). -/
def mtagBarExpiry (tag : Nat) (s : Chip) : Chip :=
  ({ s with link := { s.link with mbars := s.link.mbars.filter (fun b => !(b.1 == tag && decide (b.2 ≤ s.time))) } }).pumpAll

/-! ### Page walks end (R335, R337) -/

/-- A next-line fill's walk ends: the fill goes out, or is dropped (R62, R64, log 16). -/
def Chip.lineWalked (m line : Nat) (w : PWalk) (s : Chip) : Chip :=
  match (s.movAt m).icFill.find? (fun f => f.line == line && f.asid == w.asid), w.ans with
  | some f, some (.leaf e) => s.lineGo m (if s.installs w.epoch e then none else some { epoch := w.epoch, e := e }) f
  | some f, _ => s.dropLine m f
  | none, _ => s

/-- What waited for a page walk goes on with its result. -/
def Chip.walkServes (w : PWalk) (s : Chip) (f : WalkFor) : Chip :=
  match f with
  | .ctx c => s.walkFor c w
  | .land src mtag => s.landWalked src mtag w
  | .shadow m => s.shadowWalked m w
  | .line m line => s.lineWalked m line w

/-- A page walk that has its result completes (R335): its number, its partition and its address name it. -/
def pageWalkComplete (id p va : Nat) (s : Chip) : Chip :=
  match s.walkAt id with
  | some w => if w.ans.isSome && w.part == p && w.va == va then w.who.foldl (Chip.walkServes w) (s.endWalk w) else s
  | none => s

/-! ### Meanings -/

def execShead (n : Nat) (s : State) : Out := s.run (shead n)
def execSdata (n : Nat) (s : State) : Out := s.run (sdata n)
def execLandingBurst (id : Nat) (s : State) : Out := s.run (landingBurst id)
def execDhead (n : Nat) (s : State) : Out := s.run (dhead n)
def execDdata (n : Nat) (s : State) : Out := s.run (ddata n)
def execGuestDispatch (p : Nat) (s : State) : Out := s.run (guestDispatch p)
def execCmpl (n : Nat) (s : State) : Out := s.run (cmpl n)
def execDelegCredit (n : Nat) (s : State) : Out := s.run (delegCredit n)
def execGone (n : Nat) (s : State) : Out := s.run (gone n)
def execCompletionTimeout (id : Nat) (s : State) : Out := s.run (completionTimeout id)
def execPageWalkComplete (id p va : Nat) (s : State) : Out := s.run (pageWalkComplete id p va)
def execMtagBarExpiry (tag : Nat) (s : State) : Out := s.run (mtagBarExpiry tag)

end Sys2Proof.Machine
end

