-- ==== Sys2Proof/Machine/Recovery.lean ====
section
/-! DEFINITION. The recovery sequencer: aborts, resets, escalation, crash dumps (15_recovery_and_reset R480–R501,
01_block_organisation R41–R45, 19_register_map R605). -/

namespace Sys2Proof.Machine

/-! ### What an abort does outside the mover (R157, R428, R429, R487) -/

/-- EXIT, FCLASS and FCODE (R84, R448). -/
def AbortCause.exit : AbortCause → Nat × Nat × Nat
  | .host => (3, 0, 0)
  | .fault src => (4, srcClass src, src)
  | .collateral => (5, 0, 0)
  | .remote => (6, 0, 0)

/-- A DELEG of an aborted context is withdrawn: GONE goes to its owner, and what has begun to land of its result ends. -/
def Chip.withdraw (m : Msg) (s : Chip) : Chip :=
  let lk := s.link
  let stop := fun (l : Land) => if l.dres && l.dmtag == m.mtag && l.status.isNone then { l with status := some 2 } else l
  ({ s with link := { lk with msgs := lk.msgs.filter (fun x => x.id != m.id), gone := m.mtag :: lk.gone,
                              lands := lk.lands.map stop } }).engineFrame 7 m.cls m.part m.dst m.mtag m.route []

/-- Messages of an aborted context: frames not handed on are never sent, completions are dropped. -/
def Chip.endMsgs (c : Nat) (s : Chip) : Chip :=
  (s.link.msgs.filter (fun m => m.ctx == c && !m.dead)).foldl (fun s m =>
    if m.deleg then s.withdraw m
    else s.updMsg m.id (fun x => { x with dead := true, stream := [], raw := [], whole := true })) s

/-- Fills of PREFETCH.rc belong to the row cache: they complete, their credits are free. -/
def freePrefetch (c : Nat) (r : PortReq) : PortReq := if r.kind == .prefetchRc && r.ctx == some c then { r with req := 64 } else r

def Chip.endPrefetches (c : Nat) (s : Chip) : Chip :=
  let p := s.ports
  { s with ports := { p with queue := p.queue.map (freePrefetch c),
                             outs := p.outs.map (fun (o : Outst) => { o with r := freePrefetch c o.r }),
                             fills := p.fills.map (fun (x : FillDone) => { x with r := freePrefetch c x.r }) } }

/-- A guest's request ends with GUESTFAULT; its bytes are those that landed or were combined (R288, R424, R428). -/
def Chip.endService (c : Nat) (s : Chip) : Chip :=
  match s.link.delegs.find? (fun d => d.guest == some c && !d.ended) with
  | none => s
  | some d =>
    let n := match (s.ctxAt c).xfer with
      | some t => if t.remote then (match t.msg.bind s.msgAt with | some m => m.acked | none => 0) else t.bytes
      | none => 0
    s.delegDone d.src d.mtag 6 n

/-- Every shadow check of a context ends as skipped (R43). -/
def Chip.skipAll (c : Nat) (s : Chip) : Chip :=
  (s.mov.map Prod.fst).foldl (fun s m =>
    ((s.movAt m).samples.filter (fun p => p.ctx == c)).foldl (fun s p => s.skipSample m p) s) s

/-- Responses to these requests are discarded (R31, R392). -/
def Chip.deaden (which : PortReq → Bool) (s : Chip) : Chip :=
  { s with ports := { s.ports with outs := s.ports.outs.map (fun (o : Outst) => if which o.r then { o with dead := true } else o) } }

/-! ### Entry to ABORTED (R51, R84, R485) -/

/-- The registers of a context whose slot contents are discarded (R51). -/
def Ctx.zeroed (x : Ctx) : Ctx := { x with s := [], p := 1, t := [], loops := [] }

/-- What the context was doing is gone; EXIT records why. -/
def Ctx.released (x : Ctx) : Ctx :=
  let (e, cl, co) := match x.cause with | some k => k.exit | none => (5, 0, 0)
  { x with exit := e, fclass := cl, fcode := co, cause := none, busy := none, abortReq := false, stopReq := false,
           promoted := false, iword := none, ended := false, halting := false, kw := none, drainSig := none, acc := none,
           walk := none, leaf := none, halt := none, xfer := none, stgHold := 0, stgBuf := [], detached := [],
           ffault := none }

/-- Phase 3 of an abort; `zero`: the slot contents are discarded. -/
def Chip.enterAborted (c : Nat) (zero : Bool) (s : Chip) : Chip :=
  let s := ((((s.skipAll c).endService c).endMsgs c).endPrefetches c).releaseStg c
  let s := ((s.freeSlotOf c).deaden (fun r => r.kind == .save && r.ctx == some c)).updCtx c (fun x =>
    if zero then x.released.zeroed else x.released)
  s.setSt c .aborted none

/-- A rung completes (R500). -/
def Chip.rungDone (code dur : Nat) (s : Chip) : Chip := (s.setF Reg.rsqLast 61 3 code).setF Reg.rsqLast 0 32 dur

def Chip.dropRungs (which : Rung → Bool) (s : Chip) : Chip :=
  { s with rsq := { s.rsq with rungs := s.rsq.rungs.filter (fun r => !which r) } }

/-- The sequencer works: it has not failed, and its clock runs (R499). -/
def Chip.sequencer (s : Chip) : Bool := !s.rsq.failed && s.pins.refclk

/-- A granted request of the context that an abort waits for (R485), the reads of its page walks among them: not its
save-area writes, nor what the row cache owns. -/
def PortReq.holdsAbort (c : Nat) (r : PortReq) : Bool :=
  (r.tagCtx == some c && r.kind != .save && r.kind != .prefetchRc) ||
    (r.ctx == some c && (match r.kind with | .walk _ => true | _ => false))

def Chip.abortDrained (s : Chip) (c : Nat) : Bool := !s.ports.outs.any (fun (o : Outst) => !o.dead && o.r.holdsAbort c)

def isRung (k : RungKind) (o : Nat) (r : Rung) : Bool := r.kind == k && r.obj == o

/-- A context abort completes (R485, R486). -/
def abortComplete (c : Nat) (s : Chip) : Chip :=
  if s.sequencer ∧ (s.ctxAt c).st = .aborting ∧ s.rsq.rungs.any (isRung .ctxAbort c) ∧ s.abortDrained c then
    let d := fldN (Config.freeWord s.free) 0 32
    ((((({ s with free := s.free + 1 }).enterAborted c false).raise (256 + c) false).dropRungs (isRung .ctxAbort c)).rungDone 1 d).pumpAll
  else s

/-! ### Rungs meet (R483) -/

/-- The block is between the start of a block reset and the rise of RST_DONE. -/
def Chip.inBlockReset (s : Chip) : Bool :=
  match s.phase with
  | .blkDump | .blkReset | .readyBlk => true
  | _ => false

/-- The object of a rung lies inside that of another. -/
def Chip.inside (s : Chip) (r big : Rung) : Bool :=
  match big.kind, r.kind with
  | .block, _ => true
  | .partition, .partition => r.obj == big.obj
  | .partition, .mover => s.movPart r.obj == big.obj
  | .partition, .ctxAbort => s.ctxPart r.obj == big.obj
  | .mover, .mover => s.leaderOf r.obj == s.leaderOf big.obj
  | .mover, .ctxAbort => (s.ctxAt r.obj).slotOf == some (s.leaderOf big.obj)
  | .unit, .unit => r.obj == big.obj
  | .ctxAbort, .ctxAbort => r.obj == big.obj
  | _, _ => false

/-- A request is absorbed: its object lies inside a running rung. -/
def Chip.absorbed (s : Chip) (r : Rung) : Bool := s.inBlockReset || s.rsq.rungs.any (s.inside r)

/-- The cause with which a rung ends a context (R484). -/
def Rung.causeFor (r : Rung) (c : Nat) : AbortCause :=
  match r.origin with
  | .report => if r.ctx = some c then .fault r.src else .collateral
  | .host => if r.kind = .ctxAbort then .host else .collateral
  | .gone => .remote
  | _ => .collateral

/-- The context ends at once, without phase 2 (R488, R490). -/
def Chip.killCtx (r : Rung) (c : Nat) (s : Chip) : Chip :=
  let s := if (s.ctxAt c).st = .aborting then s else s.startAbort c (r.causeFor c)
  (s.deaden (PortReq.holdsAbort c)).enterAborted c true

/-! ### Crash dumps (R493–R495) -/

/-- The sources whose reaction dumps nothing. -/
def dumpExcluded (src : Nat) : Bool :=
  src == Src.eccuBus || src == Src.dcheck 3 || src == Src.dcheck 4 || src == Src.wire 13 || src == Src.wire 14 ||
    src == Src.wire 15 || src == Src.wire 18

/-- RUNG, partition and source of a dump, and the slot of the starting report's record. -/
def dumpHeader (d : Dump) : List Byte :=
  toBytes 8 ((match d.part with | some p => 3 + p * 2 ^ 4 | none => 4) + d.src * 2 ^ 8) ++ toBytes 8 d.started ++
  toBytes 8 (d.movers.foldl (fun n m => n + 2 ^ m) 0) ++
  toBytes 8 (match d.slot with | some k => k + 2 ^ 4 | none => 0)

def Chip.dumpBase (s : Chip) : Nat := s.regF Reg.rsqDump 20 28 * 2 ^ 20 + 0x90000 * s.regF Reg.rsqDump 4 4

/-- The first write of a dump: its header. None where the crash area lies in no region. -/
def Chip.dumpFirst (d : Dump) (s : Chip) : Option Chip :=
  (s.decodePA s.dumpBase).map (fun p => s.enq
    { id := 0, kind := .dump, write := true, lane := p.lane, loc := granuleOf p.loc, mask := byteMask 0 32,
      data := granuleBytes 0 (dumpHeader d), grp := (match d.part with | some p => p + 1 | none => 0), cls := 4, req := 64 })

/-- The dump of a rung begins, or is skipped. The second value: it has begun. -/
def Chip.startDump (r : Rung) (s : Chip) : Chip × Bool :=
  let part := if r.kind = .partition then some r.obj else none
  let d : Dump := { part := part, src := if r.origin = .report then r.src else 0, slot := r.slot, started := s.time,
                    movers := (List.range s.build.nmov).filter (fun m => part == none || part == some (s.movPart m)), acked := false }
  if !bitB (s.reg Reg.rsqDump) 0 then (s.dumpSkipped 0 part, false)
  else if r.origin = .report ∧ dumpExcluded r.src then (s.dumpSkipped 1 part, false)
  else match s.dumpFirst d with
    | some s => ({ s with rsq := { s.rsq with dumps := s.rsq.dumps ++ [d] } }, true)
    | none => ((s.dumpSkipped 3 part).report { src := Src.paddr, kind := .shared, unit := 9, part := part }, false)

/-- Tag entry `t` of bank `b`: which line stands there, if any, and its address bits are open (log 5). -/
def Chip.tagEntry (s : Chip) (b n : Nat) : Word :=
  let ls := s.rc.filter (fun e => Config.rcBank e.1 % 64 == b && e.2.present)
  match ls[(Config.freeWord n).toNat % (ls.length + 1)]? with
  | some (_, l) =>
    at64 0 1 ||| at64 1 (sectorsOf l.dirty).toNat ||| at64 5 l.freq ||| at64 8 l.part ||| flag64 11 l.pinned |||
      (Config.freeWord (n + 1) &&& maskBits 12 40)
  | none => 0

/-- The content of a dump slot: offset and bytes. Where a sector of staging stands is not given, so the staging halves are
open bytes (log 5). -/
def Chip.dumpPieces (s : Chip) (d : Dump) : List (Nat × List Byte) :=
  let f := s.free
  d.movers.flatMap (fun m => (List.range 2).map (fun h =>
    (0x1000 + 0x2000 * m + 0x1000 * h, (List.range 4096).map (fun i => Config.freeByte (f + 8192 * m + 4096 * h + i))))) ++
  (List.range 64).map (fun b => (0x81000 + 0x200 * b, (List.range 64).flatMap (fun t => toBytes 8 (s.tagEntry b (f + 2 * (64 * b + t))).toNat)))

/-- The writes of a dump after its header; a truncated dump leaves each burst written or not (log 5). -/
def Chip.writeDump (d : Dump) (cut : Option Nat) (s : Chip) : Chip :=
  let base := s.dumpBase
  let f := s.free + 524288
  let ps := s.dumpPieces d
  let n := 32 + (ps.map (fun p => p.2.length)).foldl (· + ·) 0
  let s := ps.foldl (fun s p => s.burstWrite (base + p.1) p.2 (fun k => match cut with
    | some _ => Config.freeBit (f + p.1 / 64 + k)
    | none => true)) s
  let st := match cut with | some k => 2 + (k % 2 ^ 31) * 2 ^ 8 | none => 1 + n * 2 ^ 8
  { s.bypassWrite (base + 0x20) (toBytes 8 st) with free := f + 65536 }

/-- The dump whose rung a command names. -/
def Chip.dumpOf (s : Chip) (part : Option Nat) : Option Dump := s.rsq.dumps.find? (fun d => d.part == part)

/-- After its dump a block reset goes on with step 3. -/
def Chip.afterDump (part : Option Nat) (s : Chip) : Chip :=
  if part = none ∧ s.phase = .blkDump then s.blockStepThree true else s

/-- A dump finishes, or stops 50 µs after its start (R493, R494). -/
def dumpEnd (part : Option Nat) (bytes : Option Nat) (s : Chip) : Chip :=
  match s.dumpOf part with
  | none => s
  | some d =>
    if s.sequencer ∧ d.acked then
      let s := s.writeDump d bytes
      let s := s.setF Reg.rsqDump 4 4 ((s.regF Reg.rsqDump 4 4 + 1) % (s.regF Reg.rsqDump 8 4 + 1))
      let s := s.bump Reg.rsqStat (match bytes with | some _ => 16 | none => 24) 8 1
      (s.updDump part (fun _ => none)).afterDump part
    else s

/-- The first write of a dump has had no acknowledgement for 10 µs (R495). -/
def dumpAckTimeout (part : Option Nat) (s : Chip) : Chip :=
  match s.dumpOf part with
  | none => s
  | some d => if s.sequencer ∧ ¬ d.acked ∧ d.started + 1000 ≤ s.time then s.dumpStops 2 part else s

/-! ### Starts of rungs (R480, R485–R490, R496) -/

def Chip.addRung (r : Rung) (s : Chip) : Chip := { s with rsq := { s.rsq with rungs := s.rsq.rungs ++ [r] } }

/-- The rungs inside a rung that starts end with it; what they still owe is its own work (R483). -/
def Chip.absorb (r : Rung) (s : Chip) : Chip := s.dropRungs (fun x => s.inside x r)
def Chip.widened (s : Chip) (r : Rung) : Rung := { r with ended := (s.rsq.rungs.filter (fun x => s.inside x r)).flatMap (·.ended) }

def Chip.startCtxRung (r : Rung) (s : Chip) : Chip :=
  let x := s.ctxAt r.obj
  if x.st = .aborting then s.addRung r
  else if x.st.abortable then (s.startAbort r.obj (r.causeFor r.obj)).addRung r
  else s

/-- Samples end that movers of a team originated or re-execute (R43). -/
def Chip.skipTeam (team : List Nat) (s : Chip) : Chip :=
  (s.mov.map Prod.fst).foldl (fun s k =>
    if team.contains k || (s.shadowMovers k).any team.contains then (s.movAt k).samples.foldl (fun s p => s.skipSample k p) s else s) s

/-- Steps 1–3 of a mover reset (R488): its contexts end, the samples it originated and those it re-executes are skipped. -/
def Chip.startMover (r : Rung) (s : Chip) : Chip :=
  let m := s.leaderOf r.obj
  let cs := slotCtxs (s.movAt m)
  let s := (cs.foldl (fun s c => s.killCtx r c) s).skipTeam (s.teamOf m)
  (s.addRung { r with kind := .mover, obj := m, ended := cs }).bump Reg.rsqStat 40 8 1

/-- The lanes of a port unit: a stack or far port, a tile port group (R489). -/
def unitLanes (key : Nat) : List Lane :=
  if key / 256 = 1 then [{ kind := .stackPort, port := key % 256, lane := 0 }, { kind := .stackPort, port := key % 256, lane := 1 }]
  else if key / 256 = 2 then [{ kind := .farPort, port := key % 256, lane := 0 }]
  else if key / 256 = 6 ∧ 26 ≤ key % 256 ∧ key % 256 < 42 then
    (List.range 8).map (fun i => { kind := .tilePort, port := 8 * (key % 256 - 26) + i, lane := 0 })
  else []

/-- A port stops granting; its outstanding tags are discarded and barred, each request ending as TIMEOUT TXN; its
controller's credit counts are those of a reset (R489, R544). -/
def Chip.startPortReset (ls : List Lane) (s : Chip) : Chip :=
  let outs := s.ports.outs.filter (fun (o : Outst) => ls.contains o.r.lane)
  let s := { s with ports := { s.ports with held := s.ports.held ++ ls.map laneCode } }
  let s := ls.foldl (fun s l => s.updLane l (fun _ => {})) s
  outs.foldl (fun s o => (s.barTag o (4 * s.txnTicks)).finish o 0 0 .timeout) s

/-- The sensors start anew; user offsets stay (R489). -/
def Chip.clearSensors (s : Chip) : Chip :=
  { (List.range 20).foldl (fun s i =>
      let off := if i < 16 then Reg.snsT i else Reg.snsV (i - 16)
      s.setReg off (s.reg off &&& maskBits 32 16)) s with envOn := 0, snsAt := [], snsRef := s.time }

/-- Trace records on their way are dropped (R489, R596). -/
def Chip.clearTrace (s : Chip) : Chip :=
  ({ s with ports := { s.ports with queue := s.ports.queue.filter (fun (r : PortReq) => r.kind != ReqKind.trace) } }).deaden (fun r => r.kind == ReqKind.trace)

def Chip.startUnit (r : Rung) (s : Chip) : Chip :=
  let s := (s.addRung r).bump Reg.rsqStat 40 8 1
  if r.obj / 256 = 4 then s.linkDown (r.obj % 256)
  else if r.obj = 0x607 then s.clearSensors
  else if r.obj = 0x608 then s.clearTrace
  else s.startPortReset (unitLanes r.obj)

/-- Steps 1 and 2 of a partition reset (R490): what is on its way for the partition is discarded; the dump begins. -/
def Chip.startPartition (r : Rung) (s : Chip) : Chip :=
  let s := ((s.addRung r).bump Reg.rsqStat 48 8 1).deaden (fun q => q.part == some r.obj && q.kind != .dump)
  (s.startDump r).1

/-- Steps 1 and 2 of a block reset (R496, R497, R606): the requests that wait are absorbed (R483), every link port goes
down, the dump begins; without one, step 3 follows at once. -/
def Chip.startBlock (r : Rung) (s : Chip) : Chip :=
  let host : Bool := r.origin != .hrst
  let cause := match r.origin with | .hrst => 3 | .glbRst => 2 | _ => 1
  let s := (s.addRung r).bump Reg.rsqStat 56 8 1
  let s := s.setReg Reg.rstStat (flag64 16 host ||| at64 8 (if cause = 1 then r.src else 0) ||| at64 0 cause)
  let s := { s with phase := .blkDump, guard := .closed, rsq := { s.rsq with reqs := [] }, pins := { s.pins with rstDone := false } }
  let s := (List.range s.build.nlp).foldl (fun s n => s.linkDown n) s
  if host then
    match s.startDump r with
    | (s, true) => s
    | (s, false) => s.blockStepThree true
  else s.blockStepThree false

def Chip.startRung (r : Rung) (s : Chip) : Chip :=
  match r.kind with
  | .ctxAbort => s.startCtxRung r
  | .mover => (s.absorb r).startMover r
  | .unit => s.startUnit r
  | .partition => (s.absorb r).startPartition (s.widened r)
  | .block => (s.absorb r).startBlock r

/-- The sequencer takes the next request (R480): it is absorbed, or its rung starts. -/
def rungStart (s : Chip) : Chip :=
  if s.sequencer ∧ s.clocked then
    match s.rsq.reqs with
    | [] => s
    | r :: rest =>
      let s := { s with rsq := { s.rsq with reqs := rest } }
      (if s.absorbed r then s else s.startRung r).pumpAll
  else s

/-! ### Missed deadlines (R481, R482) -/

/-- The rung that a selector names. -/
def Chip.rungOf (s : Chip) : RungSel → Rung → Bool
  | .ctx c, r => isRung .ctxAbort c r
  | .mover m, r => isRung .mover (s.leaderOf m) r
  | .unit k u, r => isRung .unit (unitKey k u) r
  | .part p, r => isRung .partition p r
  | .block, r => isRung .block 0 r

/-- The report of a missed deadline: it names the object of the next rung. -/
def Chip.deadlineReport (s : Chip) : RungSel → Report
  | .ctx c =>
    match (s.ctxAt c).slotOf with
    | some m => { src := Src.ctxdl, kind := .mover, unit := m, part := some (s.ctxPart c), detail := some 0 }
    | none => { src := Src.ctxdl, kind := .sequencer, unit := 0, part := some (s.ctxPart c), detail := some 0 }
  | .mover m => { src := Src.movdl, kind := .sequencer, unit := 0, part := some (s.movPart m), detail := some 0 }
  | .unit _ _ => { src := Src.movdl, kind := .sequencer, unit := 0, detail := some 0 }
  | .part _ => { src := Src.partdl, kind := .sequencer, unit := 0, detail := some 0 }
  | .block => { src := Src.chipdl, kind := .sequencer, unit := 0, detail := some 0 }

def rungDeadline (k : RungSel) (s : Chip) : Chip :=
  if s.sequencer ∧ s.rsq.rungs.any (fun r => s.rungOf k r && !r.late) then
    let mark := fun (r : Rung) => if s.rungOf k r then { r with late := true } else r
    let t := ({ s with rsq := { s.rsq with rungs := s.rsq.rungs.map mark } }).bump Reg.rsqStat 32 8 1
    t.report (s.deadlineReport k)
  else s

/-! ### Ends of rungs (R488–R490, R496) -/

/-- Steps 4 and 5 of a mover reset: its arrays are initialised, its route slots empty, its LFSR reloaded. -/
def Chip.clearMover (m : Nat) (s : Chip) : Chip :=
  (s.updMov m (fun _ => {})).loadLfsr m

/-- The members' arrays are initialised, their route slots empty; the ended contexts raise their sources. -/
def Chip.endMover (r : Rung) (s : Chip) : Chip :=
  let s := (s.teamOf r.obj).foldl (fun s m => s.clearMover m) s
  r.ended.foldl (fun s c => s.raise (256 + c) false) s

def moverResetDone (m dur : Nat) (s : Chip) : Chip :=
  let l := s.leaderOf m
  match s.rsq.rungs.find? (isRung .mover l) with
  | some r => if s.sequencer then ((((s.endMover r).dropRungs (isRung .mover l)).rungDone 2 dur).pumpAll) else s
  | none => s

/-- The unit resumes service (R489). -/
def unitResetDone (kind : UnitKind) (u dur : Nat) (s : Chip) : Chip :=
  let key := unitKey kind u
  if s.sequencer ∧ s.rsq.rungs.any (isRung .unit key) then
    let ls := (unitLanes key).map laneCode
    ((({ s with ports := { s.ports with held := s.ports.held.filter (fun (l : Nat) => !ls.contains l) } }).dropRungs (isRung .unit key)).rungDone 2 dur).pumpAll
  else s

/-- The movers of a partition are reset, in parallel (R490 step 3). -/
def Chip.resetMovers (r : Rung) (s : Chip) : Chip :=
  let ls := ((List.range s.build.nmov).filter (fun m => s.movPart m == r.obj && s.leaderOf m == m))
  ls.foldl (fun s m =>
    let cs := slotCtxs (s.movAt m)
    ((cs.foldl (fun s c => s.killCtx r c) s).skipTeam (s.teamOf m)).endMover { r with obj := m, ended := cs }) s

/-- The contexts of the partition that hold no slot are aborted (R490 step 4). -/
def Chip.abortUnbound (r : Rung) (s : Chip) : Chip :=
  let cs := s.ctxKeys.filter (fun c => s.ctxPart c == r.obj && (s.ctxAt c).st != .idle && (s.ctxAt c).st != .aborted)
  cs.foldl (fun s c => (s.killCtx r c).raise (256 + c) false) s

/-- Messages landing in windows of the partition end with REMOTEFAULT, and the windows are disabled (R490 step 6). -/
def Chip.endLandings (p : Nat) (s : Chip) : Chip :=
  let s := (s.link.lands.filter (fun l => l.part == p && l.status.isNone)).foldl (fun s l => s.endLand l 4) s
  let s := (s.link.delegs.filter (fun d => d.part == p && !d.ended)).foldl (fun s d => s.endDeleg d 4) s
  ((List.range 256).filter (fun w => s.lwEn w && s.lwPart w == p)).foldl (fun s w => s.setF (Reg.lw w 0) 63 1 0) s

/-- The TLB entries of the partition are invalid (R490 step 5). -/
def Chip.flushTlbs (p : Nat) (s : Chip) : Chip :=
  let keep := fun (e : TlbEnt) => e.part != p
  (s.mov.map Prod.fst).foldl (fun s m => s.updMov m (fun x => { x with l1 := x.l1.filter keep })) { s with l2 := s.l2.filter keep }

/-- Tracing for the partition ends (R596). -/
def Chip.endTrace (p : Nat) (s : Chip) : Chip :=
  if s.regF Reg.trcCfg 4 3 = p then ((s.setF Reg.trcCfg 0 1 0).clearTrace) else s

/-- A write that a row cache bank makes for a combine or a row update that it has accepted. -/
def PortReq.ofBank (r : PortReq) : Bool := match r.kind with | .combine _ | .header _ => r.write | _ => false

/-- The requests of the partition that no arbiter has granted are gone with their contexts, its page walks with them, its
write-backs with their lines; what the banks have accepted stays. -/
def Chip.dropQueued (p : Nat) (s : Chip) : Chip :=
  ({ s with walks := s.walks.filter (fun (w : PWalk) => w.part != p), ports := { s.ports with
      queue := s.ports.queue.filter (fun (q : PortReq) => !(q.part == some p && q.kind != ReqKind.dump && !q.ofBank)),
      fills := s.ports.fills.filter (fun (x : FillDone) => !(x.r.part == some p)) } }).nextWalks 32

/-- Steps 3 to 7 of a partition reset (R490). -/
def Chip.partitionSteps (r : Rung) (s : Chip) : Chip :=
  let p := r.obj
  let s := r.ended.foldl (fun s c => s.raise (256 + c) false) s
  (((((((s.resetMovers r).abortUnbound r).dropQueued p).discardDirty p).flushTlbs p).endLandings p).endTrace p).deaden
    (fun q => q.part == some p && q.kind != .dump)

def partitionResetDone (p dur : Nat) (s : Chip) : Chip :=
  match s.rsq.rungs.find? (isRung .partition p) with
  | some r =>
    if s.sequencer ∧ (s.dumpOf (some p)).isNone then
      (((s.partitionSteps r).dropRungs (isRung .partition p)).rungDone 3 dur).pumpAll
    else s
  | none => s

/-- Step 4 of a block reset (R496): HOSTRST_REQ_N is released, the ready phase follows. -/
def blockResetDone (dur : Nat) (s : Chip) : Chip :=
  if s.sequencer ∧ s.phase = .blkReset then
    ({ s with phase := .readyBlk, pins := { s.pins with hostRstReq := false }, rsq := { s.rsq with rungs := [] } }).rungDone 4 dur
  else s

/-! ### Failure of the sequencer (R498, R499) -/

/-- The sequencer has passed its self-test. -/
def Chip.seqLive (s : Chip) : Bool :=
  match s.phase with
  | .porst | .selfTest | .selfTestFailed => false
  | _ => true

def Chip.seqFails (src : Nat) (s : Chip) : Chip :=
  if s.seqLive && s.pins.refclk then s.pinStop.report { src := src, kind := .sequencer, unit := 0, detail := some 0 } else s

def lockstepDisagree (s : Chip) : Chip := s.seqFails Src.lockstep
def rsqWatchdog (s : Chip) : Chip := s.seqFails Src.rsqwd

/-- REFCLK stops: whatever counts in REFCLK stands still (R499). -/
def refclkLoss (s : Chip) : Chip := { s with pins := { s.pins with refclk := false } }

/-! ### Host requests (R501, R532, R605) -/

/-- RSQ_REQ OP 1: the mover, or the gang it is a member of. -/
def rsqMoverReset (t : Nat) : Chip → Chip :=
  Chip.accept fun s =>
    if s.build.nmov ≤ t ∨ s.movCovered t then s.answer .err
    else (s.request { kind := .mover, obj := t, origin := .host }).answer .ok

/-- RSQ_REQ OP 2. -/
def rsqPartitionReset (t : Nat) : Chip → Chip :=
  Chip.accept fun s =>
    if s.build.npart ≤ t ∨ s.inReset t then s.answer .err
    else (s.request { kind := .partition, obj := t, origin := .host }).answer .ok

/-- GLB_RST (R605). -/
def glbRst (v : Word) : Chip → Chip :=
  Chip.accept fun s =>
    if !bitB v 0 then s.answer .ok
    else if fldN v 8 8 ≠ 0xC3 then s.answer .err
    else (s.request { kind := .block, obj := 0, origin := .glbRst }).answer .ok

/-- HRST_N is low for 2 REFCLK: one request, until it has been 1 again (R532). Before RST_DONE first rises it is
ignored (R576). -/
def hrst (s : Chip) : Chip :=
  if s.pins.hrstArmed ∧ s.pins.refclk ∧ bitB (s.reg Reg.stupStat) 0 then
    ({ s with pins := { s.pins with hrstArmed := false } }).request { kind := .block, obj := 0, origin := .hrst }
  else s

def hrstRelease (s : Chip) : Chip := if s.pins.refclk then { s with pins := { s.pins with hrstArmed := true } } else s

/-! ### Registers of the sequencer (R477, R500) -/

/-- RSQ_TMO: TXNUS changes only while every context is IDLE. -/
def rsqTmo (v : Word) : Chip → Chip :=
  Chip.accept fun s =>
    let t := fldN v 0 10
    if fldN v 32 16 = 0 ∨ t = 0 ∨ 1000 < t then s.answer .err
    else if t ≠ s.regF Reg.rsqTmo 0 10 ∧ ¬ s.allIdle then s.answer .err
    else (s.setReg Reg.rsqTmo (v &&& (maskBits 32 16 ||| maskBits 0 10))).answer .ok

/-- RSQ_DUMP: while EN = 1, only a write that clears EN. NEXT is read-only. -/
def rsqDump (v : Word) : Chip → Chip :=
  Chip.accept fun s =>
    let m := maskBits 20 28 ||| maskBits 8 4 ||| maskBits 0 1
    if bitB (s.reg Reg.rsqDump) 0 && bitB v 0 then s.answer .err
    else (s.setReg Reg.rsqDump (mergeMask m (s.reg Reg.rsqDump) v)).answer .ok

/-! ### Meanings -/

def execAbortComplete (c : Nat) (s : State) : Out := s.run (abortComplete c)
def execRsqMoverReset (t : Nat) (s : State) : Out := s.run (rsqMoverReset t)
def execRsqPartitionReset (t : Nat) (s : State) : Out := s.run (rsqPartitionReset t)
def execGlbRst (v : Word) (s : State) : Out := s.run (glbRst v)
def execRsqTmo (v : Word) (s : State) : Out := s.run (rsqTmo v)
def execRsqDump (v : Word) (s : State) : Out := s.run (rsqDump v)
def execHrst (s : State) : Out := s.run hrst
def execHrstRelease (s : State) : Out := s.run hrstRelease
def execLockstepDisagree (s : State) : Out := s.run lockstepDisagree
def execRsqWatchdog (s : State) : Out := s.run rsqWatchdog
def execRefclkLoss (s : State) : Out := s.run refclkLoss
def execRungStart (s : State) : Out := s.run rungStart
def execRungDeadline (k : RungSel) (s : State) : Out := s.run (rungDeadline k)
def execMoverResetDone (m dur : Nat) (s : State) : Out := s.run (moverResetDone m dur)
def execDumpEnd (part bytes : Option Nat) (s : State) : Out := s.run (dumpEnd part bytes)
def execDumpAckTimeout (part : Option Nat) (s : State) : Out := s.run (dumpAckTimeout part)
def execPartitionResetDone (p dur : Nat) (s : State) : Out := s.run (partitionResetDone p dur)
def execBlockResetDone (dur : Nat) (s : State) : Out := s.run (blockResetDone dur)
def execUnitResetDone (kind : UnitKind) (u dur : Nat) (s : State) : Out := s.run (unitResetDone kind u dur)

end Sys2Proof.Machine
end

