-- ==== Sys2Proof/Machine/Startup.lean ====
section
/-! DEFINITION. Power-on, clocks, straps, GUARD, sensors, the trace unit's configuration
(18_startup_and_calibration, 17_ports_and_integration R530, R536, R562, R563, 01_block_organisation R37). -/

namespace Sys2Proof.Machine

/-! ### GUARD (R589–R591, R611) -/

/-- The state of GUARD once the expiry of its window has taken effect. -/
def Chip.guardNow (s : Chip) : GuardSt :=
  match s.guard with
  | .opened till => if s.time < till then s.guard else .closed
  | g => g

/-- A write of GUARD: judged on KEY alone; the unlock takes two consecutive writes with the presence strap asserted. -/
def guardStep (key : Nat) (present : Bool) (time : Nat) (g : GuardSt) : Option GuardSt :=
  match g with
  | .closed => if key = 0x00A5 ∧ present then some .key1 else none
  | .key1 => if key = 0x005A ∧ present then some (.opened (time + 1000000)) else none
  | .opened _ => none

def guard (v : Word) (s : Chip) : Chip :=
  if !s.clocked then s
  else if !s.pins.rstDone then s.answer .err
  else match guardStep (fldN v 0 16) (!s.pins.presenceN) s.time s.guardNow with
    | some g => { s with guard := g }.answer .ok
    | none => ({ s with guard := .closed }.logCtl Src.guardref 0).answer .err

/-- The window of 10 ms ends (R590). -/
def guardExpiry (s : Chip) : Chip := { s with guard := s.guardNow }

/-! ### Clock gating, thresholds, user offsets, trace (R582, R585, R595, R608) -/

def clkGate (v : Word) : Chip → Chip :=
  Chip.accept fun s => (s.setReg Reg.clkGate (v &&& maskBits 0 1)).answer .ok

/-- Register of a sensor: 0–15 temperature, 16–19 voltage. -/
def snsReg (i : Nat) : Nat := if i < 16 then Reg.snsT i else Reg.snsV (i - 16)

/-- The sensor whose register an offset is. -/
def snsOf (off : Nat) : Option Nat := (List.range 20).find? (fun i => off == snsReg i)

def snsUseroff (off : Nat) (v : Word) : Chip → Chip :=
  Chip.accept fun s =>
    match snsOf off with
    | none => s
    | some i =>
      let u := sextN 16 (fldN v 32 16)
      let m : Int := if i < 16 then 64 else 32
      if u < -m ∨ m < u then s.answer .err
      else (s.setReg off (mergeMask (maskBits 32 16) (s.reg off) v)).answer .ok

/-- The orderings and ranges of R585; temperatures are signed. -/
def thresholdsOk (off : Nat) (v : Word) : Bool :=
  if off = Reg.snsTthr then
    decide (sextN 16 (fldN v 0 16) < sextN 16 (fldN v 16 16)) && decide (sextN 16 (fldN v 16 16) ≤ 500)
  else
    decide (fldN v 0 16 < fldN v 16 16) && decide (fldN v 16 16 < fldN v 32 16) && decide (fldN v 32 16 < fldN v 48 16)

def snsThreshold (off : Nat) (v : Word) : Chip → Chip :=
  Chip.accept fun s =>
    if off = Reg.snsTthr ∨ off = Reg.snsVthr then
      if thresholdsOk off v then
        (s.setReg off (if off = Reg.snsTthr then v &&& maskBits 0 32 else v)).answer .ok
      else s.answer .err
    else s

/-- The bits of TRC_CFG. -/
def trcMask : Word := maskBits 8 12 ||| maskBits 4 3 ||| maskBits 0 1

/-- TRC_CFG would trace a partition other than the ring's owner (R588). -/
def tracesOthers (v : Word) : Bool := bitB v 0 && (List.range 8).any (fun p => p != fldN v 4 3 && bitB v (8 + p))

def trcStore (v : Word) (s : Chip) : Chip :=
  let old := s.reg Reg.trcCfg
  if s.build.npart ≤ fldN v 4 3 ∨ 2 ^ s.build.npart ≤ fldN v 8 8 then s.answer .err
  else if bitB old 0 ∧ v &&& trcMask &&& ~~~1 ≠ old &&& ~~~1 then s.answer .err
  else (s.setReg Reg.trcCfg (v &&& trcMask)).answer .ok

def trcCfg (v : Word) : Chip → Chip :=
  Chip.accept fun s => if tracesOthers v then s.guarded (trcStore v) else trcStore v s

/-! ### The power-on sequence (R569–R578) -/

/-- PORST_N falls: the block is held in power-on reset; what devices hold stays. -/
def porstAssert (s : Chip) : Chip :=
  { Chip.porst s.build with
    mem := s.mem, uid := s.uid, free := s.free, pins := { presenceN := s.pins.presenceN, mfrid := s.pins.mfrid } }

/-- PORST_N is released: the debounced straps are latched and factory test mode is decided (R570, R592). -/
def porstRelease (presenceN ftmN rclkOk : Bool) (s : Chip) : Chip :=
  if s.phase = .porst then
    let ftm := !presenceN && !ftmN
    { s with phase := .selfTest, pins := { s.pins with presenceN := presenceN, ftm := ftm, rclkOk := rclkOk } }.setReg
      Reg.stupStat (flag64 4 ftm)
  else s

/-- Step 2 ends (R571). -/
def selfTestDone (pass : Bool) (s : Chip) : Chip :=
  if s.phase = .selfTest ∧ s.pins.refclk then
    if pass then { s with phase := .fuses, pins := { s.pins with alive := true, aliveLvl := true } }
    else { s.pinStop with phase := .selfTestFailed }.report { src := Src.selftest, kind := .sequencer, unit := 0 }
  else s

/-- One bit of the CRC-32 of IEEE 802.3, least significant bit first. -/
def crc32Bit (c : BitVec 32) (b : Bool) : BitVec 32 :=
  if bitB c 0 != b then (c >>> 1) ^^^ 0xEDB88320 else c >>> 1

def crc32Byte (c : BitVec 32) (b : Byte) : BitVec 32 := (List.range 8).foldl (fun c i => crc32Bit c (bitB b i)) c

def crc32 (l : List Byte) : BitVec 32 := ~~~(l.foldl crc32Byte 0xFFFFFFFF)

def Chip.fuseWord (s : Chip) (k : Nat) : Nat := s.regF (Reg.fuseShd k) 0 32

/-- The integrity check of R580. -/
def Chip.fusesGood (s : Chip) : Bool :=
  decide ((crc32 ((List.range 63).flatMap (fun k => toBytes 4 (s.fuseWord k)))).toNat = s.fuseWord 63) &&
  decide (s.fuseWord 0 % 256 = 1)

def Chip.fuseReport (s : Chip) : Chip := s.report { src := Src.fuse, kind := .shared, unit := 7 }

/-- The fuse read is complete: the check runs, and step 4 waits for RCLK_OK (R570, R580). -/
def Chip.fusesRead (s : Chip) : Chip :=
  let s := if s.fusesGood then s else (s.setF Reg.stupStat 3 1 1).fuseReport
  let s := if s.pins.rclkOk then s else s.setF Reg.stupStat 1 1 1
  { s with phase := .clockWait }

/-- The next fuse word. -/
def Chip.takeFuse (w : BitVec 32) (s : Chip) : Chip :=
  let s := { s.setReg (Reg.fuseShd s.fuseIdx) (w.setWidth 64) with fuseIdx := s.fuseIdx + 1 }
  if s.fuseIdx < 64 then s else s.fusesRead

/-- The fuse read is under way. -/
def Chip.readsFuses (s : Chip) : Bool := s.phase == .fuses && s.pins.refclk && decide (s.fuseIdx < 64)

def fuseWordAck (w : BitVec 32) (s : Chip) : Chip := if s.readsFuses then s.takeFuse w else s

/-- No acknowledgement within 64 REFCLK: the word is zero (R563, R572). -/
def fuseTimeout (s : Chip) : Chip :=
  if s.readsFuses then ({ s with fuseTmo := true }.fuseReport).takeFuse 0 else s

/-- RCLK_OK is seen 1: step 4 starts the dividers; later it only shows in CLK_STAT (R570, R607). -/
def clockStart (s : Chip) : Chip :=
  if s.pins.refclk then
    let s := { s with pins := { s.pins with rclkOk := true } }
    if s.phase = .clockWait then { s with phase := .march } else s
  else s

/-- A report of the march test: ECC-U of its array, DETAIL bit 61 set (R573). -/
def marchRep (r : Report) : Report := { r with detail := some (r.detail.getD 0 ||| at64 61 1) }

/-- Step 5 ends: the failures are recorded, every array is initialised (R463, R570, R573). -/
def marchTestDone (movFail : Word) (shFail : Bool) (reps : List Report) (s : Chip) : Chip :=
  if s.phase = .march ∧ s.pins.refclk then
    let s := s.setReg Reg.stupMovfail (movFail &&& maskBits 0 s.build.nmov)
    let s := if shFail then s.setF Reg.stupStat 2 1 1 else s
    let s := (reps.filter (fun r => srcClass r.src == 1)).foldl (fun s r => s.report (marchRep r)) s
    { s.loadLfsrs with phase := .readyPor, snsRef := s.time }
  else s

def Chip.fuseBad (s : Chip) : Bool := bitB (s.reg Reg.stupStat) 3

/-- The capture-tap code of port `p`, numbered as in R579; 8 with bad fuses (R580). -/
def Chip.tapCode (s : Chip) (p : Nat) : Nat :=
  if s.fuseBad then 8 else s.fuseWord (12 + p / 8) / 16 ^ (p % 8) % 16

/-- The ports of the build, as R579 numbers them. -/
def tapPorts (b : Build) : List Nat :=
  List.range b.nsp ++ (List.range b.nfp).map (24 + ·) ++ (List.range b.ntp).map (32 + ·)

/-- The capture taps are set from the fuse codes (R574). -/
def Chip.setTaps (s : Chip) : Chip :=
  { s with taps := (tapPorts s.build).foldl (fun t p => Tab.set 0 p (s.tapCode p) t) [] }

/-- Step 6 of the power-on sequence, or the ready phase of a block reset, ends: RST_DONE rises (R574, R575). -/
def readyPhaseDone (s : Chip) : Chip :=
  if (s.phase = .readyPor ∨ s.phase = .readyBlk) ∧ s.pins.refclk then
    let s := s.setTaps
    { s with phase := .run, pins := { s.pins with rstDone := true } }.setF Reg.stupStat 0 1 1
  else s

/-! ### Clock monitor, straps, ALIVE_O (R37, R473, R536, R593, R607) -/

def Chip.clkmon (s : Chip) : Chip :=
  if s.pins.ftm then s else s.report { src := Src.clkmon, kind := .sequencer, unit := 0 }

/-- RCLK_OK falls while the block runs. -/
def rclkOkLoss (s : Chip) : Chip :=
  if s.pins.refclk then
    let s := { s with pins := { s.pins with rclkOk := false } }
    if s.clocked then s.clkmon else s
  else s

/-- A window of 100 REFCLK in which `n` TCLK pulses were counted. -/
def clockMonitorWindow (n : Nat) (s : Chip) : Chip :=
  if s.clocked ∧ s.pins.refclk then
    let bad : Bool := decide (n < 97) || decide (103 < n)
    let t := (s.setF Reg.clkStat 8 8 n).setF Reg.clkStat 1 1 (if bad then 0 else 1)
    let t := if bad && !s.pins.ftm then t.bump Reg.clkStat 16 16 1 else t
    let t := { t with clkBad := bad }
    if bad && s.clkBad then t.clkmon else t
  else s

/-- The debounced PRESENCE_N takes a new level; a rise closes an OPEN GUARD (R590). -/
def presenceChange (level : Bool) (s : Chip) : Chip :=
  if s.pins.refclk then
    let g := match s.guard with
      | .opened t => if level && !s.pins.presenceN then .closed else .opened t
      | g => g
    { s with guard := g, pins := { s.pins with presenceN := level } }
  else s

def aliveToggle (s : Chip) : Chip :=
  if s.pins.alive ∧ s.pins.refclk then { s with pins := { s.pins with aliveLvl := !s.pins.aliveLvl } } else s

/-! ### Sensors (R581–R584) -/

/-- The trim of a sensor: 16 bits of fuse word 2–11, zero with bad fuses (R579, R580). -/
def Chip.trim (s : Chip) (i : Nat) : Nat :=
  if s.fuseBad then 0 else s.regF (Reg.fuseShd (2 + i / 2)) (16 * (i % 2)) 16

/-- A reading (R581). -/
def snsReading (trim : Nat) (useroff raw : Int) : Int :=
  let gain := sextN 6 (trim / 1024)
  let off := sextN 10 trim
  let v := (raw * (1024 + gain) + 512) / 1024 + off + useroff
  if v < -32768 then -32768 else if 32767 < v then 32767 else v

/-- RAW lies in the sensor's range (R584). -/
def rawOk (i : Nat) (raw : Int) : Bool :=
  if i < 16 then decide (-160 ≤ raw) && decide (raw ≤ 680) else decide (400 ≤ raw) && decide (raw ≤ 1100)

/-- Sensors that take part: initialised, converted since, not failed. -/
def Chip.snsLive (s : Chip) (is : List Nat) : List Nat :=
  is.filter (fun i => Tab.get 0 s.snsAt i != 0 && !s.snsFailed i)

def tempSensors : List Nat := List.range 16
def voltSensors : List Nat := [16, 17, 18, 19]

/-- The ENV conditions, in the order TWARN, TCRIT, VWARN, VCRIT: whether each is reported, and whether it re-arms
(R583). -/
def Chip.envConds (s : Chip) : List (Nat × Bool × Bool) :=
  let ts := (s.snsLive tempSensors).map s.snsValue
  let vs := (s.snsLive voltSensors).map s.snsValue
  let tw := sextN 16 (s.regF Reg.snsTthr 0 16)
  let tc := sextN 16 (s.regF Reg.snsTthr 16 16)
  let lost := decide (4 < (tempSensors.filter s.snsFailed).length)
  let v := fun (k : Nat) => (s.regF Reg.snsVthr (16 * k) 16 : Int)
  let outside := fun (lo hi : Int) => vs.any (fun x => decide (x < lo) || decide (hi < x))
  let inside := fun (lo hi : Int) => vs.all (fun x => decide (lo ≤ x) && decide (x ≤ hi))
  [(Src.twarn, ts.any (fun x => decide (tw ≤ x)), ts.all (fun x => decide (x < tw - 8))),
   (Src.tcrit, ts.any (fun x => decide (tc ≤ x)) || lost, ts.all (fun x => decide (x < tc - 8)) && !lost),
   (Src.vwarn, outside (v 1) (v 2), inside (v 1 + 10) (v 2 - 10)),
   (Src.vcrit, outside (v 0) (v 3), inside (v 0 + 10) (v 3 - 10))]

/-- One ENV condition: reported once, until the readings have returned inside its re-arm bound. -/
def Chip.envOne (i k : Nat) (c : Nat × Bool × Bool) (s : Chip) : Chip :=
  if bitB s.envOn k then (if c.2.2 then { s with envOn := setBit s.envOn k false } else s)
  else if c.2.1 then { s with envOn := setBit s.envOn k true }.report { src := c.1, kind := .sensor, unit := i }
  else s

/-- The conditions are evaluated from the rise of RST_DONE on. -/
def Chip.evalEnv (i : Nat) (s : Chip) : Chip :=
  if s.pins.rstDone then (s.envConds.zipIdx).foldl (fun s c => s.envOne i c.2 c.1) s else s

/-- A sensor fails: SENSOR is reported once (R584). -/
def Chip.snsFail (i : Nat) (s : Chip) : Chip :=
  if s.snsFailed i then s
  else (s.setF (snsReg i) 48 1 1).report { src := Src.sensor, kind := .sensor, unit := i }

/-- A conversion. -/
def sensorConversion (i : Nat) (raw : BitVec 16) (s : Chip) : Chip :=
  if s.clocked ∧ s.phase ≠ .march ∧ s.phase ≠ .blkReset ∧ i < 20 then
    let r := snsReg i
    let v := snsReading (s.trim i) (sextN 16 (s.regF r 32 16)) (sextN 16 raw.toNat)
    let s := ((s.setF r 16 16 raw.toNat).setF r 0 16 (BitVec.ofInt 16 v).toNat)
    let s := { s with snsAt := Tab.set 0 i (s.time + 1) s.snsAt }
    (if rawOk i (sextN 16 raw.toNat) then s else s.snsFail i).evalEnv i
  else s

/-- RAW has not been updated for 30 µs. -/
def Chip.snsStale (s : Chip) (i : Nat) : Bool :=
  match Tab.get 0 s.snsAt i with
  | 0 => decide (s.snsRef + 3000 ≤ s.time)
  | t + 1 => decide (t + 3000 ≤ s.time)

def sensorStale (i : Nat) (s : Chip) : Chip :=
  if s.clocked ∧ s.phase ≠ .march ∧ s.phase ≠ .blkReset ∧ i < 20 ∧ s.snsStale i then (s.snsFail i).evalEnv i else s

/-! ### Meanings -/

def execGuard (v : Word) (s : State) : Out := s.run (guard v)
def execGuardExpiry (s : State) : Out := s.run guardExpiry
def execClkGate (v : Word) (s : State) : Out := s.run (clkGate v)
def execSnsUseroff (off : Nat) (v : Word) (s : State) : Out := s.run (snsUseroff off v)
def execSnsThreshold (off : Nat) (v : Word) (s : State) : Out := s.run (snsThreshold off v)
def execTrcCfg (v : Word) (s : State) : Out := s.run (trcCfg v)
def execPorstAssert (s : State) : Out := s.run porstAssert
def execPorstRelease (presenceN ftmN rclkOk : Bool) (s : State) : Out := s.run (porstRelease presenceN ftmN rclkOk)
def execSelfTestDone (pass : Bool) (s : State) : Out := s.run (selfTestDone pass)
def execFuseWordAck (w : BitVec 32) (s : State) : Out := s.run (fuseWordAck w)
def execFuseTimeout (s : State) : Out := s.run fuseTimeout
def execClockStart (s : State) : Out := s.run clockStart
def execMarchTestDone (movFail : Word) (shFail : Bool) (reps : List Report) (s : State) : Out :=
  s.run (marchTestDone movFail shFail reps)
def execReadyPhaseDone (s : State) : Out := s.run readyPhaseDone
def execRclkOkLoss (s : State) : Out := s.run rclkOkLoss
def execClockMonitorWindow (n : Nat) (s : State) : Out := s.run (clockMonitorWindow n)
def execPresenceChange (level : Bool) (s : State) : Out := s.run (presenceChange level)
def execAliveToggle (s : State) : Out := s.run aliveToggle
def execSensorConversion (i : Nat) (raw : BitVec 16) (s : State) : Out := s.run (sensorConversion i raw)
def execSensorStale (i : Nat) (s : State) : Out := s.run (sensorStale i)

end Sys2Proof.Machine
end

