-- ==== Sys2Proof/Machine/Tier.lean ====
section
/-! DEFINITION. Configuration of the memory tiers, the traffic governor and the row cache's policy
(10_memory_tiers_and_translation R311–R329, 12_streaming_and_traffic R397, 08_embedding_pooling R276). -/

namespace Sys2Proof.Machine

/-! ### Channels and regions as the registers describe them (R313, R315, R324–R326) -/

/-- CAPLG of a stack and the enable of a channel. -/
def Chip.caplg (s : Chip) (k : Nat) : Nat := s.regF (Reg.tnStk k) 0 6
def Chip.chanOn (s : Chip) (c : Nat) : Bool := bitB (s.reg (Reg.tnChen (c / 64))) (c % 64) && s.caplg (c / 64) != 0

def Chip.channels (s : Chip) : List Nat := (List.range (64 * s.build.nsp)).filter s.chanOn

/-- The largest CAPLG of the enabled stacks, 0 where there is none. -/
def Chip.topCap (s : Chip) : Nat :=
  (((List.range s.build.nsp).filter (fun k => s.caplg k != 0 && s.reg (Reg.tnChen k) != 0)).map s.caplg).foldl max 0

def Chip.fpType (s : Chip) (n : Nat) : Nat := s.regF (Reg.fp n 0) 1 2
def Chip.fpOn (s : Chip) (n : Nat) : Bool := bitB (s.reg (Reg.fp n 0)) 0

/-- The far, tile and residue regions that are enabled: base and size. -/
def Chip.otherRegions (s : Chip) : List (Nat × Nat) :=
  (if bitB (s.reg Reg.tnRes) 0 then [(s.resBase, 64 * s.build.nsp * 2 ^ s.resLg)] else []) ++
  (List.range s.build.nfp).map (fun n => (s.farBase n, s.farSize n)) ++
  (if bitB (s.reg Reg.tpWin) 0 then [(s.tileBase, s.build.ntp * 2 ^ s.tileLg)] else [])

/-- Every enabled region; the interleaved one has the depth of the active table. -/
def Chip.regions (s : Chip) : List (Nat × Nat) :=
  (if s.tnNative then [(s.tnBase, s.tier.depth * 2 ^ 20)] else []) ++
  (if s.tnLegacy then [(s.tnBase, s.build.nsp * 2 ^ 36)] else []) ++ s.otherRegions

def meet (a b : Nat × Nat) : Bool := decide (a.2 ≠ 0 ∧ b.2 ≠ 0 ∧ a.1 < b.1 + b.2 ∧ b.1 < a.1 + a.2)

/-- No two regions share an address, and none reaches beyond 2^48 − 1. -/
def regionsFit : List (Nat × Nat) → Bool
  | [] => true
  | r :: l => (r.2 == 0 || decide (r.1 + r.2 ≤ 2 ^ 48)) && !l.any (meet r) && regionsFit l

/-- The content rules of R313, of a write of the register at `off`: the capacity rule is one of TN_RES, whose other
operands are no region registers. -/
def Chip.regionsOk (s : Chip) (off : Nat) : Bool :=
  let native := !bitB (s.reg Reg.tnCfg) 1
  let far := (List.range s.build.nfp).filter s.fpOn
  regionsFit s.regions &&
  (!bitB (s.reg Reg.tnRes) 0 || (native && (off != Reg.tnRes || decide (s.topCap ≤ s.resLg)))) &&
  !(native && far.any (fun n => s.fpType n == 2)) &&
  decide ((far.map (fun n => s.farSize n / 2 ^ 30)).foldl (· + ·) 0 ≤ 4096) &&
  !far.any (fun n => s.farSize n == 0)

/-- The bits of a region register that a write sets. -/
def regionMask (off : Nat) : Word :=
  if off = Reg.tnCfg then maskBits 41 7 ||| maskBits 0 2
  else if off = Reg.tnRes then maskBits 40 8 ||| maskBits 8 6 ||| maskBits 0 1
  else if off = Reg.tpWin then maskBits 23 25 ||| maskBits 8 5 ||| maskBits 0 1
  else maskBits 30 18 ||| maskBits 16 13 ||| maskBits 0 3

/-- The fields of the word are in their ranges. -/
def regionRange (off : Nat) (v : Word) : Bool :=
  if off = Reg.tnCfg then true
  else if off = Reg.tnRes then decide (20 ≤ fldN v 8 6) && decide (fldN v 8 6 ≤ 36)
  else if off = Reg.tpWin then
    decide (16 ≤ fldN v 8 5) && decide (fldN v 8 5 ≤ 26) && fldN v 23 25 * 2 ^ 23 % 2 ^ (fldN v 8 5 + 7) == 0
  else fldN v 1 2 != 3 && decide (fldN v 16 13 ≤ 4096)

/-- The register is one of the region registers of the build: 0 none, 1 absent, 2 present. -/
def Chip.regionReg (s : Chip) (off : Nat) : Nat :=
  if off = Reg.tnCfg ∨ off = Reg.tnRes ∨ off = Reg.tpWin then 2
  else match (List.range 8).find? (fun n => off == Reg.fp n 0) with
    | some n => if n < s.build.nfp then 2 else 1
    | none => 0

/-- When EN is set in legacy mode, TN_STK and TN_CHEN take effect (R327). -/
def Chip.legacyStart (was : Word) (s : Chip) : Chip :=
  if s.tnLegacy ∧ ¬ bitB was 0 then
    { s with tier := { s.tier with
        lcap := (List.range s.build.nsp).foldl (fun t k => Tab.set 0 k (s.caplg k) t) [],
        lchen := (List.range s.build.nsp).foldl (fun t k => Tab.set 0 k (s.reg (Reg.tnChen k)) t) [] } }
  else s

/-- A write of a region register (R313). -/
def regionConfigWrite (off : Nat) (v : Word) : Chip → Chip :=
  Chip.accept fun s =>
    match s.regionReg off with
    | 0 => s
    | 1 => s.answer .ok
    | _ =>
      if !s.allIdle then s.answer .err
      else
        let was := s.reg off
        let t := s.setReg off (v &&& regionMask off)
        let modeMoves := off == Reg.tnCfg && bitB was 0 && bitB was 1 != bitB v 1
        if regionRange off v && t.regionsOk off && !modeMoves then
          ((if off = Reg.tnCfg then t.legacyStart was else t).answer .ok)
        else (s.logCtl Src.mapovl 9).answer .err

/-! ### The Channel Map Table (R315–R319) -/

/-- The order in which AUTOFILL lists channels. -/
def chanKey (c : Nat) : Nat := 32 * (c % 64) + c / 64

def insertChan (c : Nat) : List Nat → List Nat
  | [] => [c]
  | d :: l => if chanKey c ≤ chanKey d then c :: d :: l else d :: insertChan c l

def sortChans (l : List Nat) : List Nat := l.foldr insertChan []

/-- The table AUTOFILL writes. -/
def filled (l : List Nat) : Tab Nat :=
  ((List.range 4096).map (fun h => (h, l.getD (h % l.length) 0))).filter (fun e => e.2 != 0)

def Chip.updTier (f : TierSt → TierSt) (s : Chip) : Chip := { s with tier := f s.tier }

/-- A failed AUTOFILL or commit. -/
def Chip.cmtFail (err : Nat) (s : Chip) : Chip := (s.updTier (fun t => { t with err := err })).logCtl Src.cmtcfg 9

/-- AUTOFILL (R318): the second value says that a table was written. -/
def Chip.fillShadow (s : Chip) : Chip × Bool :=
  let l := sortChans s.channels
  if l.isEmpty then (s.cmtFail 3, false) else (s.updTier (fun t => { t with shadow := filled l, err := 0 }), true)

/-- The depth of the shadow table over the enabled channels (R316). -/
def Chip.shadowDepth (s : Chip) : Nat :=
  match (s.channels.map (fun c => 2 ^ (s.caplg (c / 64) - 8) / cmtApp s.tier.shadow c)).min? with
  | some u => u
  | none => 0

/-- What the checks of a commit find: 0, or CMT_STAT.ERR (R315, R319). -/
def Chip.commitCheck (s : Chip) : Nat :=
  let cs := s.channels
  let n := cs.length
  if n = 0 then 3
  else if (List.range 4096).any (fun h => !s.chanOn (Tab.get 0 s.tier.shadow h) || decide (64 * s.build.nsp ≤ Tab.get 0 s.tier.shadow h)) then 2
  else if cs.any (fun c => cmtApp s.tier.shadow c != 4096 / n && cmtApp s.tier.shadow c != ceilDiv 4096 n) then 1
  else if s.shadowDepth = 0 then 4
  else if bitB (s.reg Reg.tnCfg) 0 && !regionsFit ((s.tnBase, s.shadowDepth * 2 ^ 20) :: s.otherRegions) then 5
  else 0

/-- The write of CMT_CTL: AUTOFILL, then COMMIT (R318, R319). -/
def Chip.cmtOps (v : Word) (s : Chip) : Chip :=
  let s := s.setReg Reg.cmtCtl (v &&& maskBits 2 1)
  let (s, ok) := if bitB v 1 then s.fillShadow else (s, true)
  (if bitB v 0 && ok then s.updTier (fun t => { t with busy := true }) else s).answer .ok

/-- CMT_CTL: no commit while one runs, and a guarded one while a context is not IDLE (R319, R327). -/
def cmtCtl (v : Word) : Chip → Chip :=
  Chip.accept fun s =>
    if bitB v 0 && s.tier.busy then s.answer .err
    else if bitB v 0 then s.whenMapped (Chip.cmtOps v)
    else s.cmtOps v

/-- What waited at the governor while a commit ran goes on (R319): page walks, instruction fills, scalar accesses, register
images, walks of transfers, landings. -/
def Chip.commitResumes (s : Chip) : Chip :=
  let s := s.walks.foldl (fun s w => if w.active && !s.banking (.walk w.id) then s.walkOut w.id 5 else s) s
  let s := (s.mov.map Prod.fst).foldl (fun s m => s.linesGo m) s
  (s.ctxKeys.foldl (fun s c =>
    let x := s.ctxAt c
    let s := s.imageGo c
    if x.st ≠ .waiting ∨ x.ended then s
    else match x.wait, x.acc with
      | some .ifetch, _ => if (s.icFilling (s.slotMover c) (s.ctxAsid c) (x.ip / 256)).isSome then s else s.fetchMiss c
      | some .scalarmem, some a =>
        if s.bringing.any (fun r => r.kind == .scalar && r.ctx == some c) then s else s.scalarGo c a
      | _, _ => s) s).pumpAll

/-- The commit ends: a table that passes every check comes into force with the stacks as they are (R319, R327), and
what waited at the governor goes on. -/
def commitComplete (s : Chip) : Chip :=
  if s.tier.busy then
    let s := s.updTier (fun t => { t with busy := false })
    (match s.commitCheck with
    | 0 => s.updTier (fun t =>
        { t with active := t.shadow, depth := s.shadowDepth, nch := s.channels.length, err := 0,
                 cap := (List.range s.build.nsp).foldl (fun t k => Tab.set 0 k (s.caplg k) t) [],
                 chen := (List.range s.build.nsp).foldl (fun t k => Tab.set 0 k (s.reg (Reg.tnChen k)) t) [] })
    | e => s.cmtFail e).commitResumes
  else s

/-! ### The traffic governor (R397) and the row cache's policy (R276) -/

def inRange (lo n hi : Nat) : Bool := decide (lo ≤ n) && decide (n ≤ hi)

def govMask (off : Nat) : Word :=
  if off = Reg.govSplit then maskBits 16 7 ||| maskBits 8 7 ||| maskBits 0 7
  else if off = Reg.govCred then maskBits 16 12 ||| maskBits 0 5
  else maskBits 32 8 ||| maskBits 0 24

/-- The stated ranges. -/
def govRange (b : Build) (off : Nat) (v : Word) : Bool :=
  if off = Reg.govSplit then
    let rd := fldN v 0 7
    let wr := fldN v 8 7
    let rm := fldN v 16 7
    inRange 2 rd 96 && inRange 2 wr 96 && inRange 2 rm 96 && decide (rd + wr + rm ≤ 100)
  else if off = Reg.govCred then
    let t := fldN v 0 4
    inRange 1 t 8 && inRange 16 (fldN v 16 12) (4096 - 64 - b.nctx * t)
  else inRange 16 (fldN v 32 8) 255 && inRange 16 (fldN v 8 16) 65535 && inRange 1 (fldN v 0 8) 255

def govConfigWrite (off : Nat) (v : Word) : Chip → Chip :=
  Chip.accept fun s =>
    if off = Reg.govSplit ∨ off = Reg.govCred ∨ off = Reg.govArb then
      if s.allIdle && govRange s.build off v then (s.setReg off (v &&& govMask off)).answer .ok
      else (s.logCtl Src.govcfg 4).answer .err
    else s

/-- RC_EMBCFG: without a row cache it has no effect (R276, R612). -/
def rcEmbcfg (v : Word) : Chip → Chip :=
  Chip.accept fun s =>
    if s.build.rcache = 0 then s.answer .ok
    else if fldN v 8 8 < 8 then s.answer .err
    else (s.setReg Reg.rcEmbcfg (v &&& (maskBits 8 8 ||| maskBits 0 2))).answer .ok

/-! ### Meanings -/

def execAutofill (v : Word) (s : State) : Out := s.run (cmtCtl v)
def execCommit (v : Word) (s : State) : Out := s.run (cmtCtl v)
def execCommitComplete (s : State) : Out := s.run commitComplete
def execRegionConfigWrite (off : Nat) (v : Word) (s : State) : Out := s.run (regionConfigWrite off v)
def execGovConfigWrite (off : Nat) (v : Word) (s : State) : Out := s.run (govConfigWrite off v)
def execRcEmbcfg (v : Word) (s : State) : Out := s.run (rcEmbcfg v)

end Sys2Proof.Machine
end

