-- ==== Sys2Proof/Machine/RegWrite.lean ====
section
/-! DEFINITION. The register port: decode checks, and the register each offset reaches (17_ports_and_integration R533,
R537–R540, R567, 19_register_map R597–R613).

Register-write commands with a row of their own are the same writes: `writeReg` calls their definitions. -/

namespace Sys2Proof.Machine

/-! ### Offsets -/

/-- Index and offset within its block of an offset in an array of `n` blocks of `stride` bytes at `base`. -/
def blockOf (base stride n off : Nat) : Option (Nat × Nat) :=
  if base ≤ off ∧ off < base + stride * n then some ((off - base) / stride, (off - base) % stride) else none

def allOnes : Word := maskBits 0 64
def mask48 : Word := maskBits 0 48

/-- Bits of FC_SEV`k` that software sets (R451). -/
def sevMask (k : Nat) : Word :=
  (List.range 16).foldl (fun w j => if srcAssigned (16 * k + j) && !sevFixed (16 * k + j) then w ||| maskBits (4 * j) 3 else w) 0

/-- Near groups of the stacks of LEG_NEAR`k` that the build has. -/
def nearMask (b : Build) (k : Nat) : Word :=
  (List.range 16).foldl (fun w j => if 16 * k + j < b.nsp then w ||| maskBits (4 * j) 3 else w) 0

/-- Bits that a write sets in the registers of a mover block (R86, R125, R212, R213, R256, R289, R310, R399, R475). -/
def movMask (r : Nat) : Word :=
  if r = 0x20 ∨ r = 0x28 then mask48
  else if r = 0x30 then maskBits 8 32
  else if r = 0x38 ∨ r = 0x40 ∨ r = 0x48 ∨ r = 0x50 ∨ r = 0x58 ∨ r = 0x60 ∨ r = 0x68 ∨ r = 0x78 then allOnes
  else 0

/-- The bits a write sets in a register without rules of its own; 0 elsewhere. -/
def plainMask (b : Build) (off : Nat) : Word :=
  if off = Reg.clkStat then maskBits 16 16
  else if off = Reg.trInvVa then maskBits 12 40
  else if off = Reg.trWalks ∨ off = Reg.trL2hit then mask48
  else if off = Reg.legNear 0 then nearMask b 0
  else if off = Reg.legNear 1 then nearMask b 1
  else if off = Reg.fcStat then maskBits 48 16
  else if off = Reg.fcScrub then maskBits 0 16
  else if off = Reg.fcSdc then maskBits 14 34 ||| maskBits 8 1
  else if off = Reg.rsqStat then maskBits 16 48
  else if off = Reg.govPhstat then maskBits 0 32
  else if off = Reg.rcEmbhit ∨ off = Reg.rcEmbmiss ∨ off = Reg.rcSeqwait then (if b.rcache = 0 then 0 else mask48)
  else match blockOf 0x020000 0x400 b.nmov off with
  | some (_, r) => movMask r
  | none => match blockOf 0x050200 8 b.nsp off with
  | some _ => allOnes
  | none => match blockOf 0x054000 0x40 b.nsp off with
  | some (_, r) => if r = 8 then allOnes else 0
  | none => match blockOf 0x060000 0x40 b.nfp off with
  | some (_, r) => if r = 0x10 then allOnes else 0
  | none => match blockOf 0x069000 0x10 b.ntp off with
  | some (_, r) => if r = 0 then allOnes else 0
  | none => match blockOf 0x070100 0x40 b.nlp off with
  | some (_, r) => if r = 0x10 ∨ r = 0x18 ∨ r = 0x20 then allOnes else 0
  | none => match blockOf 0x0A0000 8 16 off with
  | some (k, _) => sevMask k
  | none => match blockOf 0x0A3000 8 16 off with
  | some _ => mask48
  | none => match blockOf 0x0C1000 8 (2 * b.nmov) off with
  | some _ => allOnes
  | none => match blockOf 0x110000 0x10 16 off with
  | some (_, r) => if r = 8 then mask48 else 0
  | none => 0

/-- A register that a write sets under a mask and nothing else; a register no write changes ignores it (R12, R13). -/
def plainWrite (off : Nat) (v : Word) : Chip → Chip :=
  Chip.accept fun s => (s.setReg off (mergeMask (plainMask s.build off) (s.reg off) v)).answer .ok

/-- A write that is answered and ignored. -/
def ignoreWrite : Chip → Chip := Chip.accept fun s => s.answer .ok

/-! ### Registers with rules of their own and no row of their own -/

/-- CTX_CMD (R82). -/
def ctxCmd (c : Nat) (v : Word) : Chip → Chip :=
  match fldN v 0 4 with
  | 1 => bind c
  | 2 => unbind c
  | 3 => start c
  | 4 => stop c
  | 5 => resume c
  | 6 => abort c
  | 7 => clear c
  | 8 => loadregs c
  | 9 => saveregs c
  | _ => Chip.accept fun s => if s.build.nctx ≤ c then s.answer .ok else s.refuse Src.ctxcmd

/-- MOV_ICCTL (R86). -/
def icctl (m : Nat) (v : Word) : Chip → Chip :=
  if bitB v 0 then invall m else if bitB v 1 then invasid m (fld v 16 16) else ignoreWrite

/-- TR_INV (R337, R345). -/
def trInvWrite (v : Word) : Chip → Chip :=
  if fldN v 0 3 ≤ 4 then trInv (fldN v 0 3) (if fldN v 0 3 = 0 then 0 else fldN v 8 3)
    (if fldN v 0 3 = 2 ∨ fldN v 0 3 = 3 then fld v 16 16 else 0)
  else Chip.accept fun s => s.answer .err

/-- TN_STK (R328): CAPLG 0 or 20–36. -/
def tnStkWrite (k : Nat) (v : Word) : Chip → Chip :=
  Chip.accept fun s =>
    let lg := fldN v 0 6
    if s.build.nsp ≤ k then s.answer .ok
    else if lg = 0 ∨ (20 ≤ lg ∧ lg ≤ 36) then (s.setReg (Reg.tnStk k) (v &&& maskBits 0 6)).answer .ok
    else s.answer .err

/-- LEG_CFG (R328). -/
def legCfgWrite (v : Word) : Chip → Chip :=
  Chip.accept fun s =>
    if fldN v 0 7 ≤ 64 then (s.setReg Reg.legCfg (v &&& maskBits 0 7)).answer .ok else s.answer .err

/-- An entry of the shadow Channel Map Table (R328). -/
def cmtWrite (h : Nat) (v : Word) : Chip → Chip :=
  Chip.accept fun s =>
    if s.build.nsp ≤ fldN v 6 5 then s.answer .err
    else (s.updTier (fun t => { t with shadow := Tab.set 0 h (fldN v 0 11) t.shadow })).answer .ok

/-- A completion ring's register (R438). -/
def ringRegWrite (k r : Nat) (v : Word) : Chip → Chip :=
  Chip.accept fun s => if s.build.nlp = 0 then s.answer .ok else s.ringWrite (Reg.cr k 0) r (.ring k) v

/-- A register of the trace ring (R595). -/
def trcRingWrite (r : Nat) (v : Word) : Chip → Chip := Chip.accept fun s => s.ringWrite Reg.trcBase r .trace v

/-- RSQ_REQ (R500, R501). -/
def rsqReq (v : Word) : Chip → Chip :=
  match fldN v 0 2 with
  | 0 => ignoreWrite
  | 1 => rsqMoverReset (fldN v 8 8)
  | 2 => rsqPartitionReset (fldN v 8 8)
  | _ => Chip.accept fun s => s.answer .err

/-- The unit whose status register an offset is (R442, R443, R554, R612). -/
def statUnit (b : Build) (off : Nat) : Option Nat :=
  match blockOf 0x0A2000 8 43 off with
  | some (u, _) => if 26 ≤ u ∧ u ≤ 41 ∧ 26 + b.ntp / 8 ≤ u then none else some (0x600 + u)
  | none => match blockOf 0x020000 0x400 b.nmov off with
  | some (m, r) => if r = 0x70 then some (unitKey .mover m) else none
  | none => match blockOf 0x054000 0x40 b.nsp off with
  | some (n, r) => if r = 0 then some (unitKey .stackPort n) else none
  | none => match blockOf 0x060000 0x40 b.nfp off with
  | some (n, r) => if r = 8 then some (unitKey .farPort n) else none
  | none => match blockOf 0x070100 0x40 b.nlp off with
  | some (n, r) => if r = 0x28 then some (unitKey .linkPort n) else none
  | none => none

/-- A status register: COUNT is set, ERR and WIRE are cleared where 1 is written; WIRE unmasks (R441, R443). -/
def UnitStat.write (v : Word) (u : UnitStat) : UnitStat :=
  { u with count := fldN v 32 16, err := u.err && !bitB v 2, masked := if bitB v 3 then [] else u.masked }

def statWrite (key : Nat) (v : Word) : Chip → Chip :=
  Chip.accept fun s => ({ s with fc := { s.fc with units := Tab.upd {} key (UnitStat.write v) s.fc.units } }).answer .ok

/-! ### The register an offset reaches -/

def ctxRegWrite (c r : Nat) (v : Word) : Chip → Chip :=
  if r = 0x30 then ctxCmd c v else Chip.accept (ctxWrite c r v)

/-- Registers below 0x06_0000 with rules of their own. -/
def lowWrite (off : Nat) (v : Word) : Option (Chip → Chip) :=
  if off = Reg.glbRst then some (glbRst v)
  else if off = Reg.clkGate then some (clkGate v)
  else if off = Reg.guard then some (guard v)
  else if off = Reg.gangForm then some (gangForm v)
  else if off = Reg.trInv then some (trInvWrite v)
  else if off = Reg.tnCfg ∨ off = Reg.tnRes then some (regionConfigWrite off v)
  else if off = Reg.cmtCtl then some (cmtCtl v)
  else if off = Reg.legCfg then some (legCfgWrite v)
  else match blockOf 0x010000 0x100 256 off with
  | some (c, r) => some (ctxRegWrite c r v)
  | none => match blockOf 0x020000 0x400 64 off with
  | some (m, r) => if r = 0x10 then some (icctl m v) else none
  | none => match blockOf 0x030010 8 4 off with
  | some (k, _) => some (partMov k v)
  | none => match blockOf 0x030040 8 4 off with
  | some (k, _) => some (ksPart k v)
  | none => match blockOf 0x041000 0x40 16 off with
  | some (q, r) => some (trqEnable q r v)
  | none => match blockOf 0x050100 8 24 off with
  | some (k, _) => some (tnStkWrite k v)
  | none => match blockOf 0x058000 8 4096 off with
  | some (h, _) => some (cmtWrite h v)
  | none => none

/-- Registers of the ports and the link engine with rules of their own. -/
def linkWrite (off : Nat) (v : Word) : Option (Chip → Chip) :=
  if off = Reg.tpWin then some (regionConfigWrite off v)
  else if off = Reg.lkCfg then some (lkCfg v)
  else match blockOf 0x060000 0x40 8 off with
  | some (_, r) => if r = 0 then some (regionConfigWrite off v) else none
  | none => match blockOf 0x070100 0x40 16 off with
  | some (n, r) => if r = 0 then some (lkPctl n v) else none
  | none => match blockOf 0x071000 0x20 512 off with
  | some (i, r) => some (rtEntryWrite (i / 64) (i % 64) r v)
  | none => match blockOf 0x075000 0x20 256 off with
  | some (w, r) => some (lwWrite w r v)
  | none => match blockOf 0x077000 0x40 16 off with
  | some (k, r) => some (ringRegWrite k r v)
  | none => none

/-- Registers of the interrupt controller. -/
def irqWrite (off : Nat) (v : Word) : Option (Chip → Chip) :=
  if off = Reg.icEvtcfg then some (icEvtcfg v)
  else match blockOf 0x080000 8 12 off with
  | some (k, _) => some (icPset k v)
  | none => match blockOf 0x080080 8 12 off with
  | some (k, _) => some (icPclr k v)
  | none => match blockOf 0x080100 8 12 off with
  | some (k, _) => some (icMset k v)
  | none => match blockOf 0x080180 8 12 off with
  | some (k, _) => some (icMclr k v)
  | none => match blockOf 0x081000 0x40 8 off with
  | some (t, r) =>
    if r = 0 then some (Chip.accept (icVbase t v)) else if r = 8 then some (icTcfg t v)
    else if r = 0x10 then some (icEoi t v) else if r = 0x18 then some (Chip.accept (icTstat t v)) else none
  | none => match blockOf 0x088000 8 768 off with
  | some (n, _) => some (icSrc n v)
  | none => match blockOf 0x08A000 8 768 off with
  | some (n, _) => some (icSst n v)
  | none => none

/-- Registers from 0x0A_0000 on with rules of their own. -/
def highWrite (off : Nat) (v : Word) : Option (Chip → Chip) :=
  if off = Reg.fcAck then some (fcAck v)
  else if off = Reg.fcSwrep then some (fcSwrep v)
  else if off = Reg.fcInj then some (fcInjArm v)
  else if off = Reg.shdCfg ∨ off = Reg.shdSeed then some (shdConfigWrite off v)
  else if off = Reg.rsqTmo then some (rsqTmo v)
  else if off = Reg.rsqReq then some (rsqReq v)
  else if off = Reg.rsqDump then some (rsqDump v)
  else if off = Reg.govSplit ∨ off = Reg.govCred ∨ off = Reg.govArb then some (govConfigWrite off v)
  else if off = Reg.rcEmbcfg then some (rcEmbcfg v)
  else if off = Reg.snsTthr ∨ off = Reg.snsVthr then some (snsThreshold off v)
  else if off = Reg.trcCfg then some (trcCfg v)
  else if (snsOf off).isSome then some (snsUseroff off v)
  else match blockOf 0x0F0040 0x20 1 off with
  | some (_, r) => some (trcRingWrite r v)
  | none => match blockOf 0x100000 0x10 4096 off with
  | some (n, r) => some (if r = 0 then ksVal n v else ksAdd n v)
  | none => match blockOf 0x110000 0x10 16 off with
  | some (w, r) => if r = 0 then some (kwatchCfg w v) else none
  | none => none

/-- The first of two. -/
def orElse {α : Type} (a b : Option α) : Option α := match a with | some x => some x | none => b

/-- A write of the register at an aligned offset of the register space. -/
def writeReg (off : Nat) (v : Word) (s : Chip) : Chip :=
  match statUnit s.build off with
  | some key => statWrite key v s
  | none =>
    match orElse (lowWrite off v) (orElse (linkWrite off v) (orElse (irqWrite off v) (highWrite off v))) with
    | some f => f s
    | none => plainWrite off v s

/-! ### The register port (R533, R537–R539) -/

/-- A request that fails a decode check: DECERR, a PROTOCOL report, no other effect, at any time. -/
def Chip.decodeError (src : Nat) : Chip → Chip :=
  Chip.acceptAny fun s => (s.report { src := src, kind := .shared, unit := 0 }).answer .decerr

/-- An accepted write: the decode checks, then the register. -/
def registerWrite (off size : Nat) (v : Word) (s : Chip) : Chip :=
  if size ≠ 3 then s.decodeError Src.rpsize
  else if off % 8 ≠ 0 ∨ Reg.inRegion off = false then s.decodeError Src.rpaddr
  else writeReg off v s

/-! ### Meanings -/

def execRegisterWrite (off size : Nat) (v : Word) (s : State) : Out := s.run (registerWrite off size v)

end Sys2Proof.Machine
end

