-- ==== Sys2Proof/Machine/Tap.lean ====
section
/-! DEFINITION. The test access port: its IEEE 1149.1 controller, its instructions and the IEEE 1687 network
(17_ports_and_integration R564–R567). -/

namespace Sys2Proof.Machine

/-! ### The controller (R564) -/

/-- The next state of the IEEE 1149.1 controller at a rising edge of TCK (R564, log 98). -/
def TapFsm.next : TapFsm → Bool → TapFsm
  | .reset, tms => if tms then .reset else .idle
  | .idle, tms => if tms then .selDr else .idle
  | .selDr, tms => if tms then .selIr else .capDr
  | .capDr, tms => if tms then .exit1Dr else .shiftDr
  | .shiftDr, tms => if tms then .exit1Dr else .shiftDr
  | .exit1Dr, tms => if tms then .updDr else .pauseDr
  | .pauseDr, tms => if tms then .exit2Dr else .pauseDr
  | .exit2Dr, tms => if tms then .updDr else .shiftDr
  | .updDr, tms => if tms then .selDr else .idle
  | .selIr, tms => if tms then .reset else .capIr
  | .capIr, tms => if tms then .exit1Ir else .shiftIr
  | .shiftIr, tms => if tms then .exit1Ir else .shiftIr
  | .exit1Ir, tms => if tms then .updIr else .pauseIr
  | .pauseIr, tms => if tms then .exit2Ir else .pauseIr
  | .exit2Ir, tms => if tms then .updIr else .shiftIr
  | .updIr, tms => if tms then .selDr else .idle

/-! ### The instructions (R565, R566) -/

inductive TapInstr where
  | extest | sample | idcode | netacc | bypass
  deriving DecidableEq, Repr

/-- The instruction of a code; codes not listed select BYPASS (R565). -/
def tapInstr (c : BitVec 8) : TapInstr :=
  if c = 0x00 then .extest else if c = 0x01 then .sample else if c = 0x02 then .idcode else if c = 0x10 then .netacc else .bypass

/-- Bits of an instruction's data register (R565). -/
def TapInstr.len : TapInstr → Nat
  | .extest | .sample => Config.boundaryLen
  | .idcode => 32
  | .netacc => Config.networkLen
  | .bypass => 1

/-- IDCODE of the test access port (R566). -/
def Chip.idcode (s : Chip) : BitVec 32 :=
  BitVec.ofNat 32 (s.build.patch.toNat % 16 * 2 ^ 28 + 0xBE17 * 2 ^ 12 + s.pins.mfrid.toNat * 2 + 1)

def Chip.updTap (f : TapSt → TapSt) (s : Chip) : Chip := { s with tap := f s.tap }

/-- What Capture-DR loads: IDCODE, 0 for BYPASS; what the boundary and the network hold has no stated layout (log 98). -/
def Chip.tapCapture (s : Chip) : Chip :=
  match tapInstr s.tap.ir with
  | .idcode => s.updTap (fun t => { t with dr := s.idcode.toNat })
  | .bypass => s.updTap (fun t => { t with dr := 0 })
  | i => { s.updTap (fun t => { t with dr := (Config.freeWord s.free).toNat % 2 ^ i.len }) with free := s.free + 1 }

/-- A register of `n` bits shifts towards bit 0, TDI entering at the top. -/
def tapShift (n : Nat) (tdi : Bool) (r : Nat) : Nat := r / 2 + (if tdi then 2 ^ (n - 1) else 0)

/-- TDO: driven while a register shifts, high impedance otherwise (R529). -/
def TapSt.tdo (t : TapSt) : Option Bool :=
  match t.fsm with
  | .shiftDr => some (t.dr.testBit 0)
  | .shiftIr => some (t.irs.toNat.testBit 0)
  | _ => none

/-! ### The network (R567) -/

/-- A read-out that the network writes as it stands: a fuse shadow word or a sensor. -/
def netRaw (off : Nat) : Word :=
  if (blockOf 0x0E0400 8 64 off).isSome then maskBits 0 32 else if (snsOf off).isSome then maskBits 0 49 else 0

/-- A write through the IEEE 1687 network: outside factory test mode it is ignored and logged.  The unlock of GUARD is the
register port's alone, and no response is driven. -/
def netWrite (off : Nat) (v : Word) (s : Chip) : Chip :=
  if !s.clocked then s
  else if !s.pins.ftm then s.logCtl Src.guardref 8
  else if off % 8 ≠ 0 ∨ Reg.inRegion off = false ∨ off = Reg.guard then s
  else if netRaw off ≠ 0 then s.setReg off (mergeMask (netRaw off) (s.reg off) v)
  else
    let t := writeReg off v s
    { t with rp := s.rp, guard := if s.guard = .key1 then .key1 else t.guard }

/-! ### TCK (R564) -/

/-- What the state that an edge enters does: Test-Logic-Reset selects IDCODE, Update-IR takes the shifted code, Update-DR
the boundary or the network's write. -/
def Chip.tapEnter (off : Nat) (v : Word) (s : Chip) : Chip :=
  match s.tap.fsm with
  | .reset => s.updTap (fun t => { t with ir := 0x02 })
  | .updIr => s.updTap (fun t => { t with ir := t.irs })
  | .updDr =>
    match tapInstr s.tap.ir with
    | .extest | .sample => s.updTap (fun t => { t with bnd := t.dr })
    | .netacc => netWrite off v s
    | _ => s
  | _ => s

/-- What the present state does at a rising edge: it captures or shifts. -/
def Chip.tapAct (tdi : Bool) (s : Chip) : Chip :=
  match s.tap.fsm with
  | .capDr => s.tapCapture
  | .shiftDr => s.updTap (fun t => { t with dr := tapShift (tapInstr t.ir).len tdi t.dr })
  | .capIr => s.updTap (fun t => { t with irs := 1 })
  | .shiftIr => s.updTap (fun t => { t with irs := BitVec.ofNat 8 (tapShift 8 tdi t.irs.toNat) })
  | _ => s

/-- One event on the port's pins: TRST_N resets the controller at once. -/
def Chip.tapEvent (off : Nat) (v : Word) (s : Chip) : TckEv → Chip
  | .trst => s.updTap (fun t => { t with fsm := .reset, ir := 0x02 })
  | .edge tms tdi =>
    let s := s.tapAct tdi
    (s.updTap (fun t => { t with fsm := t.fsm.next tms })).tapEnter off v

/-- A write through the network: the pins' events of the scan that makes it; `off` and `v` are the register and the value
that the scanned bits name (log 98). -/
def tapNetaccWrite (tck : List TckEv) (off : Nat) (v : Word) (s : Chip) : Chip :=
  tck.foldl (fun s e => s.tapEvent off v e) s

/-! ### The wrapper at the outputs (R567) -/

inductive OutPin where
  | rstDone | hostRstReqN | pwrCycReqN | alive
  deriving DecidableEq, Repr

def OutPin.num : OutPin → Nat
  | .rstDone => 0 | .hostRstReqN => 1 | .pwrCycReqN => 2 | .alive => 3

/-- What a global output drives: while EXTEST is selected, its cell of the boundary, and no rule of its own. -/
def Chip.drives (k : OutPin) (s : Chip) : Bool :=
  if tapInstr s.tap.ir = .extest then Config.boundaryCell s.tap.bnd k.num
  else match k with
    | .rstDone => s.pins.rstDone
    | .hostRstReqN => !s.pins.hostRstReq
    | .pwrCycReqN => !s.pins.pwrCycReq
    | .alive => s.pins.aliveLvl

def execTapNetaccWrite (tck : List TckEv) (r : NetWr) (s : State) : Out := s.run (tapNetaccWrite tck r.off r.v)

end Sys2Proof.Machine
end

