-- ==== Sys2Proof/Machine/Dispatch.lean ====
section
/-! DEFINITION. One arm for every command: the command's meaning. -/

namespace Sys2Proof.Machine

def exec (i : Instr) (s : State) : Host.Outcome State Fault Refusal :=
  match i with
  | .nop c => Sys2Proof.Machine.execNop c s
  | .halt c => Sys2Proof.Machine.execHalt c s
  | .haltDrainDone c => Sys2Proof.Machine.execHaltDrainDone c s
  | .yield c => Sys2Proof.Machine.execYield c s
  | .jmp c => Sys2Proof.Machine.execJmp c s
  | .br c => Sys2Proof.Machine.execBr c s
  | .call c => Sys2Proof.Machine.execCall c s
  | .ret c => Sys2Proof.Machine.execRet c s
  | .loop c => Sys2Proof.Machine.execLoop c s
  | .endl c => Sys2Proof.Machine.execEndl c s
  | .sli c => Sys2Proof.Machine.execSli c s
  | .slih c => Sys2Proof.Machine.execSlih c s
  | .sadd c => Sys2Proof.Machine.execSadd c s
  | .ssub c => Sys2Proof.Machine.execSsub c s
  | .smul c => Sys2Proof.Machine.execSmul c s
  | .sand c => Sys2Proof.Machine.execSand c s
  | .sor c => Sys2Proof.Machine.execSor c s
  | .sxor c => Sys2Proof.Machine.execSxor c s
  | .sshl c => Sys2Proof.Machine.execSshl c s
  | .sshr c => Sys2Proof.Machine.execSshr c s
  | .scmp c => Sys2Proof.Machine.execScmp c s
  | .ssel c => Sys2Proof.Machine.execSsel c s
  | .sld c => Sys2Proof.Machine.execSld c s
  | .sst c => Sys2Proof.Machine.execSst c s
  | .ldtd c => Sys2Proof.Machine.execLdtd c s
  | .sttd c => Sys2Proof.Machine.execSttd c s
  | .scalarmemComplete c va size => Sys2Proof.Machine.execScalarmemComplete c va size s
  | .tdset c => Sys2Proof.Machine.execTdset c s
  | .tdget c => Sys2Proof.Machine.execTdget c s
  | .ksig c => Sys2Proof.Machine.execKsig c s
  | .kwait c => Sys2Proof.Machine.execKwait c s
  | .kwaitTimeout c => Sys2Proof.Machine.execKwaitTimeout c s
  | .kdrain c => Sys2Proof.Machine.execKdrain c s
  | .kdrainDone c => Sys2Proof.Machine.execKdrainDone c s
  | .fence c => Sys2Proof.Machine.execFence c s
  | .fenceDone c => Sys2Proof.Machine.execFenceDone c s
  | .intr c => Sys2Proof.Machine.execIntr c s
  | .kread c => Sys2Proof.Machine.execKread c s
  | .move c => Sys2Proof.Machine.execMove c s
  | .moveLdrt c => Sys2Proof.Machine.execMoveLdrt c s
  | .mset c => Sys2Proof.Machine.execMset c s
  | .msetDataPass c => Sys2Proof.Machine.execMsetDataPass c s
  | .fill c => Sys2Proof.Machine.execFill c s
  | .window c => Sys2Proof.Machine.execWindow c s
  | .gather c => Sys2Proof.Machine.execGather c s
  | .pool c => Sys2Proof.Machine.execPool c s
  | .scatter c => Sys2Proof.Machine.execScatter c s
  | .expand c => Sys2Proof.Machine.execExpand c s
  | .pack c => Sys2Proof.Machine.execPack c s
  | .digest c => Sys2Proof.Machine.execDigest c s
  | .prefetch c => Sys2Proof.Machine.execPrefetch c s
  | .prefetchFillLand c id => Sys2Proof.Machine.execPrefetchFillLand c id s
  | .send c => Sys2Proof.Machine.execSend c s
  | .deleg c => Sys2Proof.Machine.execDeleg c s
  | .cinv c => Sys2Proof.Machine.execCinv c s
  | .creditAcquired c => Sys2Proof.Machine.execCreditAcquired c s
  | .stageAllWritePass c => Sys2Proof.Machine.execStageAllWritePass c s
  | .courseComplete c => Sys2Proof.Machine.execCourseComplete c s
  | .transferRetire c => Sys2Proof.Machine.execTransferRetire c s
  | .stopEffect c => Sys2Proof.Machine.execStopEffect c s
  | .ifetchFill c m line => Sys2Proof.Machine.execIfetchFill c m line s
  | .pageWalkComplete id part va => Sys2Proof.Machine.execPageWalkComplete id part va s
  | .translationHalt c => Sys2Proof.Machine.execTranslationHalt c s
  | .rowCacheFill id => Sys2Proof.Machine.execRowCacheFill id s
  | .combineSegment id => Sys2Proof.Machine.execCombineSegment id s
  | .rowUpdateEnter id => Sys2Proof.Machine.execRowUpdateEnter id s
  | .rowUpdateExit id => Sys2Proof.Machine.execRowUpdateExit id s
  | .rowUpdateAbandon id => Sys2Proof.Machine.execRowUpdateAbandon id s
  | .tornRowRetry c => Sys2Proof.Machine.execTornRowRetry c s
  | .shadowReexec m => Sys2Proof.Machine.execShadowReexec m s
  | .shadowCompare m err => Sys2Proof.Machine.execShadowCompare m err s
  | .shadowTimeout m => Sys2Proof.Machine.execShadowTimeout m s
  | .keystoneUpdate b => Sys2Proof.Machine.execKeystoneUpdate b s
  | .keystoneTick n => Sys2Proof.Machine.execKeystoneTick n s
  | .moverSwitch m => Sys2Proof.Machine.execMoverSwitch m s
  | .timesliceExpiry m => Sys2Proof.Machine.execTimesliceExpiry m s
  | .starvationPromote c => Sys2Proof.Machine.execStarvationPromote c s
  | .issueWindow => Sys2Proof.Machine.execIssueWindow s
  | .quotaWindow => Sys2Proof.Machine.execQuotaWindow s
  | .portGrant l => Sys2Proof.Machine.execPortGrant l s
  | .portReadData l b => Sys2Proof.Machine.execPortReadData l b s
  | .portWriteAck l b => Sys2Proof.Machine.execPortWriteAck l b s
  | .portCreditReturn l wdat => Sys2Proof.Machine.execPortCreditReturn l wdat s
  | .txnTimeout l tag => Sys2Proof.Machine.execTxnTimeout l tag s
  | .tagBarExpiry l tag => Sys2Proof.Machine.execTagBarExpiry l tag s
  | .portHoldWatchdog n => Sys2Proof.Machine.execPortHoldWatchdog n s
  | .progressWatchdog c => Sys2Proof.Machine.execProgressWatchdog c s
  | .bind c => Sys2Proof.Machine.execBind c s
  | .bindComplete c => Sys2Proof.Machine.execBindComplete c s
  | .unbind c => Sys2Proof.Machine.execUnbind c s
  | .unbindComplete c => Sys2Proof.Machine.execUnbindComplete c s
  | .start c => Sys2Proof.Machine.execStart c s
  | .stop c => Sys2Proof.Machine.execStop c s
  | .resume c => Sys2Proof.Machine.execResume c s
  | .abort c => Sys2Proof.Machine.execAbort c s
  | .abortComplete c => Sys2Proof.Machine.execAbortComplete c s
  | .clear c => Sys2Proof.Machine.execClear c s
  | .loadregs c => Sys2Proof.Machine.execLoadregs c s
  | .saveregs c => Sys2Proof.Machine.execSaveregs c s
  | .regimageComplete c part save => Sys2Proof.Machine.execRegimageComplete c part save s
  | .gangForm v => Sys2Proof.Machine.execGangForm v s
  | .partMov k v => Sys2Proof.Machine.execPartMov k v s
  | .ksPart k v => Sys2Proof.Machine.execKsPart k v s
  | .invall m => Sys2Proof.Machine.execInvall m s
  | .invasid m asid => Sys2Proof.Machine.execInvasid m asid s
  | .ksVal n v => Sys2Proof.Machine.execKsVal n v s
  | .ksAdd n v => Sys2Proof.Machine.execKsAdd n v s
  | .kwatchCfg w v => Sys2Proof.Machine.execKwatchCfg w v s
  | .trInvAll => Sys2Proof.Machine.execTrInvAll s
  | .trInvPartition p => Sys2Proof.Machine.execTrInvPartition p s
  | .trInvAsid p asid => Sys2Proof.Machine.execTrInvAsid p asid s
  | .trInvAsidPage p asid => Sys2Proof.Machine.execTrInvAsidPage p asid s
  | .trInvGlobalPage p => Sys2Proof.Machine.execTrInvGlobalPage p s
  | .invalidationComplete => Sys2Proof.Machine.execInvalidationComplete s
  | .trqEnable q r v => Sys2Proof.Machine.execTrqEnable q r v s
  | .autofill v => Sys2Proof.Machine.execAutofill v s
  | .commit v => Sys2Proof.Machine.execCommit v s
  | .commitComplete => Sys2Proof.Machine.execCommitComplete s
  | .regionConfigWrite off v => Sys2Proof.Machine.execRegionConfigWrite off v s
  | .fcAck v => Sys2Proof.Machine.execFcAck v s
  | .fcSwrep v => Sys2Proof.Machine.execFcSwrep v s
  | .fcInjArm v => Sys2Proof.Machine.execFcInjArm v s
  | .injectionFire => Sys2Proof.Machine.execInjectionFire s
  | .shdConfigWrite off v => Sys2Proof.Machine.execShdConfigWrite off v s
  | .rsqMoverReset t => Sys2Proof.Machine.execRsqMoverReset t s
  | .rsqPartitionReset t => Sys2Proof.Machine.execRsqPartitionReset t s
  | .glbRst v => Sys2Proof.Machine.execGlbRst v s
  | .guard v => Sys2Proof.Machine.execGuard v s
  | .guardExpiry => Sys2Proof.Machine.execGuardExpiry s
  | .clkGate v => Sys2Proof.Machine.execClkGate v s
  | .icPset k v => Sys2Proof.Machine.execIcPset k v s
  | .icPclr k v => Sys2Proof.Machine.execIcPclr k v s
  | .icMset k v => Sys2Proof.Machine.execIcMset k v s
  | .icMclr k v => Sys2Proof.Machine.execIcMclr k v s
  | .icEvtcfg v => Sys2Proof.Machine.execIcEvtcfg v s
  | .icSrc n v => Sys2Proof.Machine.execIcSrc n v s
  | .icSst n v => Sys2Proof.Machine.execIcSst n v s
  | .icEoi t v => Sys2Proof.Machine.execIcEoi t v s
  | .icTcfg t v => Sys2Proof.Machine.execIcTcfg t v s
  | .vectorPresent t early => Sys2Proof.Machine.execVectorPresent t early s
  | .vectorClaim t => Sys2Proof.Machine.execVectorClaim t s
  | .vpackTimeout t => Sys2Proof.Machine.execVpackTimeout t s
  | .evtEdge n merged => Sys2Proof.Machine.execEvtEdge n merged s
  | .evtLevelRise n => Sys2Proof.Machine.execEvtLevelRise n s
  | .evtLevelFall n => Sys2Proof.Machine.execEvtLevelFall n s
  | .stormWindow n => Sys2Proof.Machine.execStormWindow n s
  | .lkCfg v => Sys2Proof.Machine.execLkCfg v s
  | .lkPctl n v => Sys2Proof.Machine.execLkPctl n v s
  | .rtEntryWrite p e r v => Sys2Proof.Machine.execRtEntryWrite p e r v s
  | .lwWrite w r v => Sys2Proof.Machine.execLwWrite w r v s
  | .govConfigWrite off v => Sys2Proof.Machine.execGovConfigWrite off v s
  | .rcEmbcfg v => Sys2Proof.Machine.execRcEmbcfg v s
  | .snsUseroff off v => Sys2Proof.Machine.execSnsUseroff off v s
  | .snsThreshold off v => Sys2Proof.Machine.execSnsThreshold off v s
  | .trcCfg v => Sys2Proof.Machine.execTrcCfg v s
  | .rsqTmo v => Sys2Proof.Machine.execRsqTmo v s
  | .rsqDump v => Sys2Proof.Machine.execRsqDump v s
  | .tapNetaccWrite tck r => Sys2Proof.Machine.execTapNetaccWrite tck r s
  | .registerWrite off size v => Sys2Proof.Machine.execRegisterWrite off size v s
  | .porstAssert => Sys2Proof.Machine.execPorstAssert s
  | .porstRelease presenceN ftmN rclkOk => Sys2Proof.Machine.execPorstRelease presenceN ftmN rclkOk s
  | .selfTestDone pass => Sys2Proof.Machine.execSelfTestDone pass s
  | .fuseWordAck w => Sys2Proof.Machine.execFuseWordAck w s
  | .fuseTimeout => Sys2Proof.Machine.execFuseTimeout s
  | .clockStart => Sys2Proof.Machine.execClockStart s
  | .marchTestDone movFail shFail reps => Sys2Proof.Machine.execMarchTestDone movFail shFail reps s
  | .readyPhaseDone => Sys2Proof.Machine.execReadyPhaseDone s
  | .hrst => Sys2Proof.Machine.execHrst s
  | .rclkOkLoss => Sys2Proof.Machine.execRclkOkLoss s
  | .clockMonitorWindow n => Sys2Proof.Machine.execClockMonitorWindow n s
  | .presenceChange level => Sys2Proof.Machine.execPresenceChange level s
  | .aliveToggle => Sys2Proof.Machine.execAliveToggle s
  | .sensorConversion n raw => Sys2Proof.Machine.execSensorConversion n raw s
  | .sensorStale n => Sys2Proof.Machine.execSensorStale n s
  | .scrubRead w flip => Sys2Proof.Machine.execScrubRead w flip s
  | .reportAccept raised => Sys2Proof.Machine.execReportAccept raised s
  | .lockstepDisagree => Sys2Proof.Machine.execLockstepDisagree s
  | .rsqWatchdog => Sys2Proof.Machine.execRsqWatchdog s
  | .rungStart => Sys2Proof.Machine.execRungStart s
  | .rungDeadline k => Sys2Proof.Machine.execRungDeadline k s
  | .moverResetDone m dur => Sys2Proof.Machine.execMoverResetDone m dur s
  | .dumpEnd part bytes => Sys2Proof.Machine.execDumpEnd part bytes s
  | .dumpAckTimeout part => Sys2Proof.Machine.execDumpAckTimeout part s
  | .partitionResetDone p dur => Sys2Proof.Machine.execPartitionResetDone p dur s
  | .blockResetDone dur => Sys2Proof.Machine.execBlockResetDone dur s
  | .pcsLock n lanes => Sys2Proof.Machine.execPcsLock n lanes s
  | .trainProposeTimer n => Sys2Proof.Machine.execTrainProposeTimer n s
  | .train n f => Sys2Proof.Machine.execTrain n f s
  | .trainTimeout n => Sys2Proof.Machine.execTrainTimeout n s
  | .trainRetry n => Sys2Proof.Machine.execTrainRetry n s
  | .linkctlCredit n f => Sys2Proof.Machine.execLinkctlCredit n f s
  | .nack n f => Sys2Proof.Machine.execNack n f s
  | .replayTimer n => Sys2Proof.Machine.execReplayTimer n s
  | .creditTimer n => Sys2Proof.Machine.execCreditTimer n s
  | .keepaliveTimer n => Sys2Proof.Machine.execKeepaliveTimer n s
  | .linkSilence n => Sys2Proof.Machine.execLinkSilence n s
  | .laneLockLoss n lanes => Sys2Proof.Machine.execLaneLockLoss n lanes s
  | .pcsError n => Sys2Proof.Machine.execPcsError n s
  | .rxFifoOverflow n => Sys2Proof.Machine.execRxFifoOverflow n s
  | .frameForward n f => Sys2Proof.Machine.execFrameForward n f s
  | .shead n => Sys2Proof.Machine.execShead n s
  | .sdata n => Sys2Proof.Machine.execSdata n s
  | .landingBurst id => Sys2Proof.Machine.execLandingBurst id s
  | .dhead n => Sys2Proof.Machine.execDhead n s
  | .ddata n => Sys2Proof.Machine.execDdata n s
  | .guestDispatch p => Sys2Proof.Machine.execGuestDispatch p s
  | .cmpl n => Sys2Proof.Machine.execCmpl n s
  | .delegCredit n => Sys2Proof.Machine.execDelegCredit n s
  | .gone n => Sys2Proof.Machine.execGone n s
  | .forwardWatchdog n vl => Sys2Proof.Machine.execForwardWatchdog n vl s
  | .completionTimeout id => Sys2Proof.Machine.execCompletionTimeout id s
  | .mtagBarExpiry tag => Sys2Proof.Machine.execMtagBarExpiry tag s
  | .unitResetDone kind u dur => Sys2Proof.Machine.execUnitResetDone kind u dur s
  | .hrstRelease => Sys2Proof.Machine.execHrstRelease s
  | .refclkLoss => Sys2Proof.Machine.execRefclkLoss s
  | .brokenWire kind u codes sub => Sys2Proof.Machine.execBrokenWire kind u codes sub s

end Sys2Proof.Machine
end

