-- ==== Sys2Proof/WellFormed.lean ====
section
/-! DEFINITION. Which builds exist (R5) and which commands name things a build has.

A command that names an absent register, context, mover or port is still executed: the register is
absent and ignores the write (R6), an absent thing has no step. -/

namespace Sys2Proof

/-- The ranges of R5. -/
def Build.wf (b : Build) : Bool :=
  (b.nmov == 8 || b.nmov == 16 || b.nmov == 32 || b.nmov == 64) &&
  decide (4 ≤ b.nsp) && decide (b.nsp ≤ 24) && decide (b.nfp ≤ 8) &&
  decide (16 ≤ b.ntp) && decide (b.ntp ≤ 128) && decide (b.nlp ≤ 16) &&
  (b.rcache == 0 || b.rcache == 24 || b.rcache == 48 || b.rcache == 96) &&
  decide (64 ≤ b.nctx) && decide (b.nctx ≤ 256) && decide (1 ≤ b.npart) && decide (b.npart ≤ 8)

/-- The lane exists: stack ports have lanes A and B, the other ports one (R541). -/
def Lane.wf (b : Build) (l : Lane) : Bool :=
  match l.kind with
  | .stackPort => decide (l.port < b.nsp) && decide (l.lane < 2)
  | .farPort => decide (l.port < b.nfp) && l.lane == 0
  | .tilePort => decide (l.port < b.ntp) && l.lane == 0
  | .mover | .linkPort | .bank | .shared | .sequencer | .sensor => false

/-- The unit exists (R5, R439, R442). -/
def unitWf (b : Build) (k : UnitKind) (u : Nat) : Bool :=
  match k with
  | .mover => decide (u < b.nmov)
  | .stackPort => decide (u < b.nsp)
  | .farPort => decide (u < b.nfp)
  | .tilePort => decide (u < b.ntp)
  | .linkPort => decide (u < b.nlp)
  | .bank => decide (u < 64)
  | .shared => decide (u < 43)
  | .sequencer => decide (u < 2)
  | .sensor => decide (u < 20)

/-- The command names contexts, movers, ports, counters and register indices of the build. -/
def Instr.wf (b : Build) : Instr → Bool
  | .nop c | .halt c | .haltDrainDone c | .yield c | .jmp c | .br c | .call c | .ret c | .loop c | .endl c
  | .sli c | .slih c | .sadd c | .ssub c | .smul c | .sand c | .sor c | .sxor c | .sshl c | .sshr c
  | .scmp c | .ssel c | .sld c | .sst c | .ldtd c | .sttd c | .tdset c | .tdget c | .ksig c | .kwait c
  | .kwaitTimeout c | .kdrain c | .kdrainDone c | .fence c | .fenceDone c | .intr c | .kread c | .move c
  | .moveLdrt c | .mset c | .msetDataPass c | .fill c | .window c | .gather c | .pool c | .scatter c
  | .expand c | .pack c | .digest c | .prefetch c | .send c | .deleg c | .cinv c | .creditAcquired c
  | .stageAllWritePass c | .courseComplete c | .transferRetire c | .stopEffect c | .translationHalt c
  | .tornRowRetry c | .starvationPromote c | .progressWatchdog c | .bind c | .bindComplete c | .unbind c
  | .unbindComplete c | .start c | .stop c | .resume c | .abort c | .abortComplete c | .clear c
  | .loadregs c | .saveregs c => decide (c < b.nctx)
  | .scalarmemComplete c va _ => decide (c < b.nctx) && decide (va < 2 ^ 52)
  | .ifetchFill c m line => decide (c < b.nctx) && decide (m < b.nmov) && decide (line < 2 ^ 44)
  | .regimageComplete c p _ => decide (c < b.nctx) && decide (p < b.npart)
  | .pageWalkComplete _ p va => decide (p < b.npart) && decide (va < 2 ^ 52)
  | .prefetchFillLand c _ => decide (c < b.nctx)
  | .rowCacheFill _ | .combineSegment _ | .rowUpdateEnter _ | .rowUpdateExit _ | .rowUpdateAbandon _ => true
  | .shadowReexec m | .shadowCompare m _ | .shadowTimeout m | .moverSwitch m | .timesliceExpiry m
  | .moverResetDone m _ | .invall m | .invasid m _ => decide (m < b.nmov)
  | .keystoneUpdate k => decide (k < 16)
  | .keystoneTick _ | .issueWindow | .quotaWindow => true
  | .portGrant l | .portReadData l _ | .portWriteAck l _ | .portCreditReturn l _ => l.wf b
  | .txnTimeout l t | .tagBarExpiry l t => l.wf b && decide (t < 4096)
  | .portHoldWatchdog n => decide (n < b.nfp)
  | .gangForm _ => true
  | .partMov k _ => decide (k < 4)
  | .ksPart k _ => decide (k < 4)
  | .ksVal n _ | .ksAdd n _ => decide (n < 4096)
  | .kwatchCfg w _ => decide (w < 16)
  | .trInvAll => true
  | .trInvPartition p | .trInvAsid p _ | .trInvAsidPage p _ | .trInvGlobalPage p => decide (p < 8)
  | .invalidationComplete => true
  | .trqEnable q r _ => decide (q < 2 * b.npart) && (r == 0 || r == 8 || r == 0x18)
  | .autofill _ | .commit _ | .commitComplete => true
  | .regionConfigWrite off _ =>
      off == 0x050000 || off == 0x050008 || off == 0x068000 ||
      (decide (0x060000 ≤ off) && decide (off < 0x060200) && off % 0x40 == 0)
  | .fcAck _ | .fcSwrep _ | .fcInjArm _ | .injectionFire => true
  | .shdConfigWrite off _ => off == 0x0A00C0 || off == 0x0A00C8
  | .rsqMoverReset t => decide (t < b.nmov)
  | .rsqPartitionReset t => decide (t < b.npart)
  | .glbRst _ | .guard _ | .guardExpiry | .clkGate _ => true
  | .icPset k _ | .icPclr k _ | .icMset k _ | .icMclr k _ => decide (k < 12)
  | .icEvtcfg _ => true
  | .icSrc s _ | .icSst s _ | .stormWindow s => decide (s < 768)
  | .icEoi t _ | .icTcfg t _ | .vectorClaim t | .vpackTimeout t => decide (t < 8)
  | .vectorPresent t early => decide (t < 8) && (match early with | some n => decide (n < 768) | none => true)
  | .evtEdge i _ | .evtLevelRise i | .evtLevelFall i => decide (i < 32)
  | .lkCfg _ => true
  | .lkPctl n _ => decide (n < b.nlp)
  | .rtEntryWrite p e r _ => decide (p < 8) && decide (e < 64) && decide (r ≤ 0x18) && r % 8 == 0
  | .lwWrite w r _ => decide (w < 256) && decide (r ≤ 0x18) && r % 8 == 0
  | .govConfigWrite off _ => off == 0x0C0000 || off == 0x0C0008 || off == 0x0C0010
  | .rcEmbcfg _ => true
  | .snsUseroff off _ => decide (0x0E0000 ≤ off) && decide (off < 0x0E00A0) && off % 8 == 0
  | .snsThreshold off _ => off == 0x0E0100 || off == 0x0E0108
  | .trcCfg _ | .rsqTmo _ | .rsqDump _ => true
  | .tapNetaccWrite _ r => decide (r.off < 2 ^ 24)
  | .registerWrite off size _ => decide (off < 2 ^ 24) && decide (size < 4)
  | .porstAssert | .porstRelease _ _ _ | .selfTestDone _ | .fuseWordAck _ | .fuseTimeout | .clockStart => true
  | .marchTestDone _ _ reps => reps.all (fun r => unitWf b r.kind r.unit)
  | .readyPhaseDone | .hrst | .rclkOkLoss | .presenceChange _ | .aliveToggle => true
  | .clockMonitorWindow n => decide (n < 256)
  | .sensorConversion i _ | .sensorStale i => decide (i < 20)
  | .scrubRead w _ => decide (w.array < 16) && unitWf b w.kind w.unit
  | .reportAccept raised => raised.all (fun r => unitWf b r.kind r.unit)
  | .lockstepDisagree | .rsqWatchdog | .rungStart => true
  | .rungDeadline k =>
    (match k with
     | .ctx c => decide (c < b.nctx) | .mover m => decide (m < b.nmov) | .unit k u => unitWf b k u
     | .part p => decide (p < b.npart) | .block => true)
  | .dumpEnd p _ | .dumpAckTimeout p => (match p with | some p => decide (p < b.npart) | none => true)
  | .partitionResetDone p _ | .guestDispatch p => decide (p < b.npart)
  | .blockResetDone _ => true
  | .pcsLock n _ | .trainProposeTimer n | .train n _ | .trainTimeout n | .trainRetry n | .linkctlCredit n _
  | .nack n _ | .replayTimer n | .creditTimer n | .keepaliveTimer n | .linkSilence n | .laneLockLoss n _
  | .pcsError n | .rxFifoOverflow n | .frameForward n _ | .shead n | .sdata n | .dhead n | .ddata n
  | .cmpl n | .delegCredit n | .gone n => decide (n < b.nlp)
  | .landingBurst _ | .completionTimeout _ => true
  | .forwardWatchdog n vl => decide (n < b.nlp) && decide (vl < 2)
  | .mtagBarExpiry t => decide (t < 65536)
  | .unitResetDone k u _ => unitWf b k u
  | .hrstRelease | .refclkLoss => true
  | .brokenWire k u _ sub => unitWf b k u && decide (1 ≤ sub) && decide (sub ≤ 23)

end Sys2Proof
end

