-- ==== Sys2Proof/Safety.lean ====
section
/-! DEFINITION. What every state of the block keeps, and the terms that claims use. -/

namespace Sys2Proof.Machine

/-! ### The invariant -/

/-- The tables that the memory, the contexts, the movers and the counters are kept in hold their canonical form (keys
strictly rising, no entry equal to what an unlisted one reads as), and the build is `b`. -/
def Chip.Ok (b : Build) (s : Chip) : Prop :=
  s.build = b ∧ Tab.wf 0 s.mem = true ∧ Tab.wf {} s.ctx = true ∧ Tab.wf {} s.mov = true ∧ Tab.wf 0 s.ks = true

/-! ### Instructions of a context -/

/-- Context `c` issues the word `w` now, and its guard is true (R48, R55, R133). -/
def Chip.issues (s : Chip) (c : Nat) (w : Word) : Prop :=
  s.canIssue c = true ∧ s.fetched c = some w ∧ (s.ctxAt c).guardTrue w = true

/-- The block once context `c` has fetched the word `w`. -/
def Chip.taken (c : Nat) (w : Word) (s : Chip) : Chip := (s.icTouch c).updCtx c (fun x => { x with iword := some w })

/-- A context whose instruction has retired at timebase `time` and goes on at `ip` (R55, R85, R479). -/
def Ctx.retiredTo (time ip : Nat) (x : Ctx) : Ctx :=
  { x with ip := ip % 2 ^ 52, iword := none, retired := x.retired + 1, progress := time }

/-- The block once context `c` has issued `w`, the instruction has changed the context by `f` and retired, and execution
goes on at `ip`. -/
def Chip.retires (c : Nat) (w : Word) (f : Ctx → Ctx) (ip : Nat) (s : Chip) : Chip :=
  (s.taken c w).updCtx c (fun x => (f x).retiredTo s.time ip)

/-- A command that executes an instruction: its context, the words it is for, those whose fields hold defined values, and
the counter a word names. -/
structure IssueRow where
  ctx : Nat
  sel : Word → Bool
  enc : Word → Bool
  ctr : Word → Option Nat

/-- The row of every command that executes an instruction (R130–R132 and the instructions' own pages). -/
def issueRow : Instr → Option IssueRow
  | .nop c => some ⟨c, isOp 0x00, encS 0, noCtr⟩
  | .halt c => some ⟨c, isOp 0x01, encS 0, noCtr⟩
  | .yield c => some ⟨c, isOp 0x02, encS 0, noCtr⟩
  | .jmp c => some ⟨c, isOp 0x03, encS (mSB ||| mImm), noCtr⟩
  | .br c => some ⟨c, isOp 0x04, encS mImm, noCtr⟩
  | .call c => some ⟨c, isOp 0x05, encS mImm, noCtr⟩
  | .ret c => some ⟨c, isOp 0x06, encS 0, noCtr⟩
  | .loop c => some ⟨c, isOp 0x07, fun w => encS (mSD ||| mSA ||| mSB ||| mImm) w && loopLen w != 0, noCtr⟩
  | .endl c => some ⟨c, isOp 0x08, encS 0, noCtr⟩
  | .sli c => some ⟨c, isOp 0x10, encS (mSD ||| mImm), noCtr⟩
  | .slih c => some ⟨c, isOp 0x11, encS (mSD ||| mImm), noCtr⟩
  | .sadd c => some ⟨c, isOp 0x12, encS maskABD, noCtr⟩
  | .ssub c => some ⟨c, isOp 0x13, encS maskABD, noCtr⟩
  | .smul c => some ⟨c, isOp 0x14, encS maskABD, noCtr⟩
  | .sand c => some ⟨c, isOp 0x15, encS maskABD, noCtr⟩
  | .sor c => some ⟨c, isOp 0x16, encS maskABD, noCtr⟩
  | .sxor c => some ⟨c, isOp 0x17, encS maskABD, noCtr⟩
  | .sshl c => some ⟨c, isOp 0x18, encS maskABD, noCtr⟩
  | .sshr c => some ⟨c, isOp 0x19, fun w => encS (maskABD ||| mPD) w && fldN w 39 2 == 0, noCtr⟩
  | .scmp c => some ⟨c, isOp 0x1A, fun w => encS (maskABD ||| mPD) w && decide (wSD w < 8), noCtr⟩
  | .ssel c => some ⟨c, isOp 0x1B, encS (maskABD ||| mPD), noCtr⟩
  | .sld c => some ⟨c, isOp 0x1C, fun w => encS (maskABD ||| mPD) w && !(bitB w 40 && fldN w 38 2 == 3), noCtr⟩
  | .sst c => some ⟨c, isOp 0x1D, fun w => encS (maskABD ||| mPD) w && !bitB w 40, noCtr⟩
  | .ldtd c => some ⟨c, isOp 0x20, fun w => encS maskABD w && decide (wSD w < 16), noCtr⟩
  | .sttd c => some ⟨c, isOp 0x21, fun w => encS maskABD w && decide (wSD w < 16), noCtr⟩
  | .tdset c => some ⟨c, isOp 0x22, fun w => encS (mSD ||| mSA ||| mImm) w && (selOk w && !bitB w 23 && decide (wSD w < 16)), noCtr⟩
  | .tdget c => some ⟨c, isOp 0x23, fun w => encS (mSD ||| mSA ||| mImm) w && (selOk w && decide (wSA w < 16)), noCtr⟩
  | .ksig c => some ⟨c, isOp 0x30, fun w => unusedZero maskYall w && decide (wModeY w ≤ 1), namesK⟩
  | .kwait c => some ⟨c, isOp 0x31, unusedZero maskYall, namesK⟩
  | .kdrain c => some ⟨c, isOp 0x32, kdrainEnc, kdrainCtr⟩
  | .fence c => some ⟨c, isOp 0x33, unusedZero maskY, noCtr⟩
  | .intr c => some ⟨c, isOp 0x34, intrEnc, noCtr⟩
  | .kread c => some ⟨c, isOp 0x35, unusedZero (maskY ||| mK ||| mSAy), namesK⟩
  | .move c => some ⟨c, fun w => isOp 0x40 w && !isLdrt w, encMove, xCtr⟩
  | .moveLdrt c => some ⟨c, fun w => isOp 0x40 w && isLdrt w, encLdrt, xCtr⟩
  | .mset c => some ⟨c, isOp 0x41, encMset, xCtr⟩
  | .fill c => some ⟨c, isOp 0x42, encFill, xCtr⟩
  | .window c => some ⟨c, isOp 0x43, encWindow, xCtr⟩
  | .gather c => some ⟨c, isOp 0x44, encGather, xCtr⟩
  | .pool c => some ⟨c, isOp 0x45, encPool, xCtr⟩
  | .scatter c => some ⟨c, isOp 0x46, encScatter, xCtr⟩
  | .expand c => some ⟨c, isOp 0x47, encExpand, xCtr⟩
  | .pack c => some ⟨c, isOp 0x48, encPack, xCtr⟩
  | .digest c => some ⟨c, isOp 0x49, encDigest, xCtr⟩
  | .prefetch c => some ⟨c, isOp 0x4A, encPrefetch, xCtr⟩
  | .send c => some ⟨c, isOp 0x4B, encSend, xCtr⟩
  | .deleg c => some ⟨c, isOp 0x4C, encDeleg, xCtr⟩
  | .cinv c => some ⟨c, isOp 0x4E, encCinv, xCtr⟩
  | _ => none

/-- The row issues `w` now: its context may issue, `w` is the word at its CTX_IP and an instruction of the row with every
field defined, its guard is true, and a counter it names is of the context's partition (R48, R133). -/
def IssueRow.issues (r : IssueRow) (w : Word) (s : Chip) : Prop :=
  s.issues r.ctx w ∧ r.sel w = true ∧ r.enc w = true ∧ ∀ k, r.ctr w = some k → s.ksPart k = s.ctxPart r.ctx

/-- The command is an instruction of context `c` that issues `w` now. -/
def Chip.issuesAs (s : Chip) (i : Instr) (c : Nat) (w : Word) : Prop :=
  match issueRow i with
  | some r => r.ctx = c ∧ r.issues w s
  | none => False

/-- The address of the instruction after the one at the context's IP. -/
def Chip.nextOf (s : Chip) (c : Nat) : Nat := nextIp (s.ctxAt c).ip

/-- The block once context `c` has issued `w`, written `v` to the instruction's destination S register and retired. -/
def Chip.setsSD (c : Nat) (w v : Word) (s : Chip) : Chip := s.retires c w (Ctx.setS (wSD w) v) (s.nextOf c)

/-- The first operand and B of an instruction of format S (R130). -/
def Chip.opA (s : Chip) (c : Nat) (w : Word) : Word := (s.ctxAt c).sr (wSA w)
def Chip.opB (s : Chip) (c : Nat) (w : Word) : Word := (s.ctxAt c).opB w

/-- The conditions of SCMP as the table of R142 gives them. -/
def scmpMeans (k : Nat) (a b : Word) : Bool :=
  match k with
  | 0 => decide (a = b)
  | 1 => decide (a ≠ b)
  | 2 => decide (a.toInt < b.toInt)
  | 3 => decide (b.toInt ≤ a.toInt)
  | 4 => decide (a.toNat < b.toNat)
  | 5 => decide (b.toNat ≤ a.toNat)
  | 6 => decide (a &&& b ≠ 0)
  | _ => decide (a &&& b = 0)

/-- The access of SLD, SST, LDTD or STTD (R143, R145): its context, kind, size, register and sign extension. -/
structure ScalarRow where
  ctx  : Nat
  op   : ScalarOp
  size : Nat
  reg  : Nat
  sext : Bool

def scalarRow : Instr → Word → Option ScalarRow
  | .sld c, w => some ⟨c, .sld, 2 ^ fldN w 38 2, wSD w, bitB w 40⟩
  | .sst c, w => some ⟨c, .sst, 2 ^ fldN w 38 2, wSD w, false⟩
  | .ldtd c, w => some ⟨c, .ldtd, 256, wSD w, false⟩
  | .sttd c, w => some ⟨c, .sttd, 256, wSD w, false⟩
  | _, _ => none

/-- The access that a row asks for at a virtual address, not yet translated. -/
def ScalarRow.at (r : ScalarRow) (va : Nat) : ScalarAcc :=
  { op := r.op, va := va, pa := 0, size := r.size, reg := r.reg, sext := r.sext }

/-- The state with another block, the queue as it is. -/
def State.to (s : State) (t : Chip) : State := { s with chip := t }

/-! ### The row cache -/

/-- The line has a way of its set, or an unpinned one can be had for it (R273, R274). -/
def Chip.wayFor (s : Chip) (g : Nat) : Prop :=
  ((s.lineAt g).here = true ∧ (s.lineAt g).evict = false) ∨ (s.setWays g).length < 24 ∨ ∃ w ∈ s.setWays g, w.2.pinned = false

/-- The sectors of a fill that its line does not hold valid. -/
def Chip.fillNew (s : Chip) (x : FillDone) : BitVec 4 := x.ok &&& ~~~(s.lineAt x.r.loc).valid

/-- `u` is the block once the fill has entered its line: its sectors are valid, their bytes are the answer's, but for the
dirty ones and those that the point of coherence has taken since (R348). -/
def Chip.fillsLine (s : Chip) (x : FillDone) (u : Chip) : Prop :=
  let l := s.lineAt x.r.loc
  let v := u.lineAt x.r.loc
  v.valid = l.valid ||| s.fillNew x ∧ v.dirty = l.dirty ∧ u.mem = s.mem ∧
    v.data = mergeMask (wide (sectorBytes (s.fillNew x) &&& ~~~l.dirty)) l.data (mergeMask (wide x.r.skip) x.data (s.memGranule x.r.loc))

/-- `u` is the block once bytes `w` (their mask, their values, the bits of them kept) have been written into a line: they are
dirty under the partition (R32, R348). -/
def Chip.writesLine (s : Chip) (g part : Nat) (w : BitVec 256 × Granule × Granule) (u : Chip) : Prop :=
  let l := s.lineAt g
  let v := u.lineAt g
  v.here = true ∧ v.part = part ∧ v.dirty = l.dirty ||| w.1 ∧ u.mem = s.mem ∧
    v.data = mergeMask (wide w.1) l.data (mergeMask w.2.2 w.2.1 (s.viewGranule g))

/-! ### Register writes -/

/-- The register port works and answers writes (R533, R570). -/
def Chip.takesWrites (s : Chip) : Prop := s.clocked = true ∧ s.pins.rstDone = true

/-- The block once a write other than to GUARD has been accepted: GUARD in KEY1 is CLOSED again (R589). -/
def Chip.accepted (s : Chip) : Chip := if s.guard = .key1 then { s with guard := .closed } else s

/-- A write answered OK that leaves the block as `t`. -/
def Chip.wrote (t : Chip) (s : State) : Out := .next { s with chip := t.answer .ok }

/-- A write answered ERR that leaves the block as `t`. -/
def Chip.refusedAs (t : Chip) (s : State) : Out := .next { s with chip := t.answer .err }

end Sys2Proof.Machine
end

