-- ==== Sys2Proof/Certificates/Slice0/Obligations.lean ====
section
/-! DEFINITION. The statements for the provers: what the commands do, reset, the invariant. A statement about a command says
that it completes, in which state, and with the frame that its equation gives. -/

open Sys2Proof Sys2Proof.Machine

/-! ### The queue, reset, the invariant -/

/-- A step takes the command at the front of the queue and is `exec` of it with the rest of the queue; on an empty queue the
block idles (the form of a block's step; log 11). -/
def Obligations.StepRunsFront : Prop :=
  (∀ (s : State) (i : Instr) (rest : List Instr), step { s with pending := i :: rest } = exec i { s with pending := rest }) ∧
  ∀ s : State, step { s with pending := [] } = .next { s with pending := [] }

/-- Every command of the table completes in every state, and none touches the queue. -/
def Obligations.EveryCommandCompletes : Prop :=
  ∀ (i : Instr) (s : State), ∃ t : Chip, exec i s = .next (s.to t)

/-- The state after reset: the block is held in power-on reset, no command waits, every context is IDLE (R48, R569), every
interrupt source is masked and not pending (R524), no rung runs, ALIVE_O and RST_DONE are 0, every register reads its reset
value (R601). Memory lists nothing, which is the model's choice (log 7); that the model's reset is this state is log 1. -/
def Obligations.ResetState : Prop :=
  State.reset.pending = [] ∧ State.reset.chip.phase = .porst ∧ State.reset.chip.build = Build.beldel7L ∧
  (∀ c, (State.reset.chip.ctxAt c).st = .idle) ∧
  (∀ n, (State.reset.chip.srcAt n).mask = true ∧ (State.reset.chip.srcAt n).pend = false) ∧
  State.reset.chip.rsq = {} ∧ State.reset.chip.pins.alive = false ∧ State.reset.chip.pins.rstDone = false ∧
  (∀ off, State.reset.chip.reg off = Reg.reset Build.beldel7L off) ∧
  (∀ k, State.reset.chip.ksAt k = 0) ∧ State.reset.chip.mem = []

/-- The state after reset meets the invariant. -/
def Obligations.ResetMeetsInvariant : Prop :=
  State.reset.chip.Ok Build.beldel7L

/-- Every step keeps the build and the canonical form of memory, of the contexts, of the movers and of the counters: whatever
command stands in front, in every state that meets the invariant. -/
def Obligations.StepKeepsInvariant : Prop :=
  ∀ (b : Build) (s t : State), s.chip.Ok b → step s = .next t → t.chip.Ok b

/-! ### Issue -/

/-- Steps 1, 2 and 4 of R133, and R134: an unassigned opcode, a field that holds no defined value, a counter of another
partition. The instruction has no effect: the context alone is stopped, CTX_FADDR holds its address, and the fault is
reported. -/
def Obligations.DecodeFaults : Prop :=
  ∀ (s : State) (i : Instr) (r : IssueRow) (w : Word), issueRow i = some r →
    s.chip.canIssue r.ctx = true → s.chip.fetched r.ctx = some w →
    let stop := fun (src : Nat) => Host.Outcome.next (s.to ((s.chip.taken r.ctx w).ownFault r.ctx src))
    (opcAssigned (wOpc w) = false → exec i s = stop Src.illop) ∧
    (r.sel w = true → r.enc w = false → exec i s = stop Src.encoding) ∧
    (r.sel w = true → r.enc w = true → (s.chip.ctxAt r.ctx).guardTrue w = true →
      (∃ k, r.ctr w = some k ∧ s.chip.ksPart k ≠ s.chip.ctxPart r.ctx) → exec i s = stop Src.xpart)

/-- Step 3 of R133 (R55, R139): an instruction whose guard is false retires and has no other effect, whatever instruction it is. -/
def Obligations.FalseGuardOnlyRetires : Prop :=
  ∀ (s : State) (i : Instr) (r : IssueRow) (w : Word), issueRow i = some r →
    s.chip.canIssue r.ctx = true → s.chip.fetched r.ctx = some w → r.sel w = true → r.enc w = true →
    (s.chip.ctxAt r.ctx).guardTrue w = false →
    exec i s = .next (s.to (s.chip.retires r.ctx w id (s.chip.nextOf r.ctx)))

/-- An instruction of a context that may not issue does nothing (R48); one whose word is not in the instruction cache asks for
its line: with the translation at hand a read slot is used, the line is read past the row cache, and the context waits with
cause IFETCH; with the line already on its way it only waits; with no translation it waits for a page walk; and while the
mover's read share is exhausted nothing is asked for (R64, R381, R382). IFETCH_FILL completes (R62–R64): the line that its
port returned well enters the mover's instruction cache as its most recently used, every context of the mover that waits for
it is READY, and memory is as before; a line that an invalidation has met is fetched again (R63); a port's fault ends the
contexts that wait. -/
def Obligations.InstructionFetch : Prop :=
  (∀ (s : State) (i : Instr) (r : IssueRow), issueRow i = some r →
     let c := r.ctx
     let m := s.chip.slotMover c
     let ip := (s.chip.ctxAt c).ip
     let coming := ((s.chip.icFilling m (s.chip.ctxAsid c) (ip / 256)).bind (·.pa)).isSome
     (s.chip.canIssue c = false → exec i s = .next s) ∧
     (s.chip.canIssue c = true → s.chip.fetched c = none →
       (s.chip.rdFree m = false → exec i s = .next s) ∧
       (s.chip.rdFree m = true → coming = true → exec i s = .next (s.to (s.chip.waitFor c .ifetch))) ∧
       (s.chip.rdFree m = true → coming = false →
         (∀ pa p l, s.chip.look c .fetch ip = .ok pa p l → s.chip.tnWaits p = false →
           exec i s = .next (s.to (((s.chip.lookTouch c ip).askLine m { asid := s.chip.ctxAsid c, line := ip / 256, ctx := c }
             (pa / 256 * 256) p l).waitFor c .ifetch))) ∧
         (s.chip.look c .fetch ip = .miss → exec i s = .next (s.to (s.chip.startWalk c { va := ip, acc := .fetch, walk := .other })))))) ∧
  (∀ (s : State) (c m line : Nat) (x : FillDone) (f : ICFill),
     s.chip.ports.fills.find? (fun x => x.r.kind == .ifetch && x.r.ctx == some c && x.r.req == m && x.r.va == 256 * line) = some x →
     (s.chip.movAt m).icFill.find? (fun f => f.pa.isSome && f.ctx == c && f.line == line) = some f →
     let u := s.chip.dropFill x.r.id
     (f.redo = false → x.rsp = .ok → ∃ t : Chip, exec (.ifetchFill c m line) s = .next (s.to t) ∧
       (t.movAt m).ic = icInsert { asid := f.asid, va := f.line, data := x.data } (s.chip.movAt m).ic ∧
       (t.movAt m).icFill = (s.chip.movAt m).icFill.filter (fun g => !g.is f) ∧
       (∀ d ∈ s.chip.lineWaiters m f, (t.ctxAt d).st = .ready ∧ (t.ctxAt d).wait = none) ∧ t.mem = s.chip.mem) ∧
     (f.redo = true → exec (.ifetchFill c m line) s = .next (s.to (((u.useRd m).updMov m (fun y =>
       { y with icFill := y.icFill.map (fun g => if g.is f then { g with redo := false } else g) })).enq x.r))) ∧
     (f.redo = false → x.rsp ≠ .ok → exec (.ifetchFill c m line) s = .next (s.to (u.lineFails m f x))))

/-- What an instruction that changes registers of its context and retires leaves as it was: every other context, memory, every
counter, interrupt source, fault report and reset, the row cache, the link, the memory map, every register but the two
statistics of the translation unit, and of its own context everything that the change itself leaves, but for IP, the fetched
word, the count of retired instructions and the time of its last progress. Fetching the word may ask for the next line, or for
the page walk of it, at the end of a port's queue (R62, R64). -/
def Obligations.RetireFrame : Prop :=
  ∀ (s : Chip) (c : Nat) (w : Word) (f : Ctx → Ctx) (ip : Nat),
    let t := s.retires c w f ip
    (∀ d, d ≠ c → t.ctxAt d = s.ctxAt d) ∧
    (∀ loc, t.memByte loc = s.memByte loc) ∧ (∀ k, t.ksAt k = s.ksAt k) ∧ t.ksq = s.ksq ∧
    (∀ off, off ≠ Reg.trWalks → off ≠ Reg.trL2hit → t.reg off = s.reg off) ∧
    t.irq = s.irq ∧ t.fc = s.fc ∧ t.rsq = s.rsq ∧ t.rc = s.rc ∧ t.segs = s.segs ∧ t.groups = s.groups ∧ t.link = s.link ∧
    t.tier = s.tier ∧ t.inv = s.inv ∧ t.time = s.time ∧ t.pins = s.pins ∧ t.guard = s.guard ∧ t.phase = s.phase ∧
    (∃ l, t.ports = { s.ports with queue := s.ports.queue ++ l } ∧ ∀ r ∈ l, r.kind = .ifetch ∨ ∃ id, r.kind = .walk id) ∧
    (∃ x, t.ctxAt c = { f x with ip := ip % 2 ^ 52, iword := none, retired := (f x).retired + 1, progress := s.time } ∧
      x = { s.ctxAt c with iword := some w })

/-! ### Control, scalar and descriptor instructions -/

/-- NOP, JMP, BR, CALL and RET (R136, R137). -/
def Obligations.ControlTransfers : Prop :=
  ∀ (s : State) (c : Nat) (w : Word),
    let ip := (s.chip.ctxAt c).ip
    let rel := (BitVec.ofNat 64 ip + sext32 (wImm w) * 8).toNat % 2 ^ 52 / 8 * 8
    (s.chip.issuesAs (.nop c) c w → exec (.nop c) s = .next (s.to (s.chip.retires c w id ((ip + 8) % 2 ^ 52)))) ∧
    (s.chip.issuesAs (.jmp c) c w →
      exec (.jmp c) s = .next (s.to (s.chip.retires c w id ((s.chip.opB c w).toNat % 2 ^ 52 / 8 * 8)))) ∧
    (s.chip.issuesAs (.br c) c w → exec (.br c) s = .next (s.to (s.chip.retires c w id rel))) ∧
    (s.chip.issuesAs (.call c) c w →
      exec (.call c) s = .next (s.to (s.chip.retires c w (Ctx.setS 31 (BitVec.ofNat 64 ((ip + 8) % 2 ^ 52))) rel))) ∧
    (s.chip.issuesAs (.ret c) c w →
      exec (.ret c) s = .next (s.to (s.chip.retires c w id (((s.chip.ctxAt c).sr 31).toNat % 2 ^ 52 / 8 * 8))))

/-- LOOP (R138): LEN 0 is ENCODING; a zero count branches behind the body at any depth; another pushes a level whose start is
the next instruction, a fifth one is LOOPDEPTH (R67). ENDL (R67): with no level it is LOOPUNDER; a level that has run its
count is left, another goes back to its start with one run less. -/
def Obligations.LoopLevels : Prop :=
  ∀ (s : State) (c : Nat) (w : Word),
    let x := s.chip.ctxAt c
    let n := (s.chip.opB c w).toNat % 2 ^ 32
    (s.chip.canIssue c = true → s.chip.fetched c = some w → wOpc w = 0x07 → fldN w 46 10 = 0 →
      exec (.loop c) s = .next (s.to ((s.chip.taken c w).ownFault c Src.encoding))) ∧
    (s.chip.issuesAs (.loop c) c w →
      (n = 0 → exec (.loop c) s = .next (s.to (s.chip.retires c w id (target (x.ip + 8 * (fldN w 46 10 + 1)))))) ∧
      (n ≠ 0 → x.loops.length < 4 →
        exec (.loop c) s = .next (s.to (s.chip.retires c w
          (fun y => { y with loops := { start := (y.ip + 8) % 2 ^ 52, count := n } :: y.loops }) (s.chip.nextOf c)))) ∧
      (n ≠ 0 → 4 ≤ x.loops.length → exec (.loop c) s = .next (s.to ((s.chip.taken c w).ownFault c Src.loopdepth)))) ∧
    (s.chip.issuesAs (.endl c) c w →
      (x.loops = [] → exec (.endl c) s = .next (s.to ((s.chip.taken c w).ownFault c Src.loopunder))) ∧
      (∀ l r, x.loops = l :: r → l.count = 1 →
        exec (.endl c) s = .next (s.to (s.chip.retires c w (fun y => { y with loops := r }) (s.chip.nextOf c)))) ∧
      (∀ l r, x.loops = l :: r → 2 ≤ l.count → l.count < 2 ^ 32 →
        exec (.endl c) s = .next (s.to (s.chip.retires c w
          (fun y => { y with loops := { l with count := l.count - 1 } :: r }) l.start))))

/-- HALT and the end of its wait, YIELD, and a pending STOP (R48, R58, R136, R140): with no detached work HALT retires and the
context is BOUND with EXIT HALTED, its interrupt raised and CTX_FADDR its address (R85); else it waits with cause KDRAIN until the work has ended. -/
def Obligations.HaltYieldStop : Prop :=
  ∀ (s : State) (c : Nat),
    (∀ w, s.chip.issuesAs (.halt c) c w → (s.chip.ctxAt c).detached = [] →
      exec (.halt c) s = .next (s.to ((s.chip.retires c w (fun x => { x with faddr := x.ip }) (s.chip.nextOf c)).toBound c 1))) ∧
    (∀ w, s.chip.issuesAs (.halt c) c w → (s.chip.ctxAt c).detached ≠ [] →
      exec (.halt c) s = .next (s.to (((s.chip.taken c w).updCtx c (fun x => { x with halting := true })).waitFor c .kdrain))) ∧
    ((s.chip.ctxAt c).st = .waiting → (s.chip.ctxAt c).wait = some .kdrain → (s.chip.ctxAt c).halting = true →
      (s.chip.ctxAt c).detached = [] → (s.chip.ctxAt c).ended = false →
      exec (.haltDrainDone c) s = .next (s.to (((s.chip.updCtx c (fun x => { x with faddr := x.ip })).retireTo c (s.chip.nextOf c)).toBound c 1))) ∧
    (∀ w, s.chip.issuesAs (.yield c) c w →
      exec (.yield c) s = .next (s.to ((s.chip.retires c w id (s.chip.nextOf c)).passOn (s.chip.slotMover c)))) ∧
    ((s.chip.ctxAt c).stopReq = true → (s.chip.ctxAt c).st = .ready → (s.chip.ctxAt c).ended = false →
      (s.chip.ctxAt c).xfer = none → (s.chip.ctxAt c).halt = none →
      exec (.stopEffect c) s = .next (s.to ((s.chip.updCtx c (fun x => { x with xfer := none })).toBound c 2)))

/-- SLI, SLIH, SADD, SSUB, SMUL, SAND, SOR, SXOR, SSHL, SSHR and SSEL write SD as R141 says, B being Z(SB) + sext(IMM32) (R130),
and retire: nothing else of the block changes. The amount of a shift is B[5:0]; PD[38] makes SSHR arithmetic. -/
def Obligations.ScalarResults : Prop :=
  ∀ (s : State) (c : Nat) (w : Word),
    let a := s.chip.opA c w
    let b := s.chip.opB c w
    let gives := fun (i : Instr) (v : Word) => s.chip.issuesAs i c w → exec i s = .next (s.to (s.chip.setsSD c w v))
    b = (s.chip.ctxAt c).zr (wSB w) + sext32 (wImm w) ∧
    gives (.sli c) (BitVec.ofInt 64 (sextN 32 (wImm w))) ∧
    gives (.slih c) (fld w 0 32 ++ fld ((s.chip.ctxAt c).sr (wSD w)) 0 32) ∧
    gives (.sadd c) (a + b) ∧ gives (.ssub c) (a - b) ∧ gives (.smul c) (a * b) ∧
    gives (.sand c) (a &&& b) ∧ gives (.sor c) (a ||| b) ∧ gives (.sxor c) (a ^^^ b) ∧
    gives (.sshl c) (a <<< (b.toNat % 64)) ∧
    gives (.sshr c) (if bitB w 38 then a.sshiftRight (b.toNat % 64) else a >>> (b.toNat % 64)) ∧
    gives (.ssel c) (if bitB (s.chip.ctxAt c).p (wPD w) then a else b)

/-- SCMP (R142): the condition that SD names goes to P[PD]; P0 ignores it (R66), and no other predicate changes. The codes 8 to
31 are ENCODING. -/
def Obligations.CompareSetsPredicate : Prop :=
  ∀ (s : State) (c : Nat) (w : Word),
    (s.chip.canIssue c = true → s.chip.fetched c = some w → wOpc w = 0x1A → 8 ≤ wSD w →
      exec (.scmp c) s = .next (s.to ((s.chip.taken c w).ownFault c Src.encoding))) ∧
    (s.chip.issuesAs (.scmp c) c w →
    exec (.scmp c) s = .next (s.to (s.chip.retires c w (fun x =>
      if wPD w = 0 then x else { x with p := setBit x.p (wPD w) (scmpMeans (wSD w) (s.chip.opA c w) (s.chip.opB c w)) })
      (s.chip.nextOf c))))

/-- TDSET, TDGET and KREAD (R146, R147, R165): the field of WIDTH bits from LSB on of a descriptor word is written from S[SA] or
read into SD; KREAD reads a counter. -/
def Obligations.DescriptorFields : Prop :=
  ∀ (s : State) (c : Nat) (w : Word),
    let x := s.chip.ctxAt c
    let width := fldN w 16 7
    let lsb := fldN w 8 6
    let k := fldN w 0 5
    (s.chip.issuesAs (.tdset c) c w →
      exec (.tdset c) s = .next (s.to (s.chip.retires c w (Ctx.setTd (wSD w) k
        (mergeMask (maskBits lsb width) (x.td (wSD w) k) (x.sr (wSA w) <<< lsb))) (s.chip.nextOf c)))) ∧
    (s.chip.issuesAs (.tdget c) c w →
      exec (.tdget c) s = .next (s.to (s.chip.setsSD c w
        (let v := (x.td (wSA w) k).toNat / 2 ^ lsb % 2 ^ width
         if bitB w 23 then BitVec.ofInt 64 (sextN width v) else BitVec.ofNat 64 v)))) ∧
    (s.chip.issuesAs (.kread c) c w →
      exec (.kread c) s = .next (s.to (s.chip.retires c w (Ctx.setS (wSAy w) ((s.chip.ksAt (wK w)).setWidth 64)) (s.chip.nextOf c))))

/-- SLD, SST, LDTD and STTD at issue (R143–R145): the effective address is S[SA] + B as signed values, exact; outside 0 to 2^52
− 1 it is ADDR, not a multiple of the size it is ALIGN. Else the access goes to its port at the translated address, a load
whose bytes are all in a dirty row cache sector being answered at once, and the context waits with cause SCALARMEM; or with
cause TRANSLATE for the page walk; while the mover's share is exhausted the instruction stands (R382). -/
def Obligations.ScalarAccessIssues : Prop :=
  ∀ (s : State) (i : Instr) (w : Word) (r : ScalarRow), scalarRow i w = some r → s.chip.issuesAs i r.ctx w →
    let t := s.chip.taken r.ctx w
    let ea : Int := (s.chip.opA r.ctx w).toInt + (s.chip.opB r.ctx w).toInt
    let acc : Access := if r.op = .sst ∨ r.op = .sttd then .write else .read
    let share := r.op == .sst || r.op == .sttd
    (ea < 0 ∨ 2 ^ 52 ≤ ea → exec i s = .next (s.to (t.ownFault r.ctx Src.addr))) ∧
    ∀ va : Nat, ea = va → va < 2 ^ 52 →
      (va % r.size ≠ 0 → exec i s = .next (s.to (t.ownFault r.ctx Src.align))) ∧
      (va % r.size = 0 → t.shareFree r.ctx share = false → exec i s = .next (s.to t)) ∧
      (va % r.size = 0 → t.shareFree r.ctx share = true →
        (∀ pa p l, t.look r.ctx acc va = .ok pa p l → t.tnWaits p = false →
          let u := (((t.lookTouch r.ctx va).useShare r.ctx share).updCtx r.ctx
            (fun x => { x with acc := some { r.at va with pa := pa } })).waitFor r.ctx .scalarmem
          let q := u.scalarReq r.ctx (r.at va) p l
          let held := !share && byteMask (p.loc % 256) r.size &&& ~~~((u.lineAt q.loc).serves true) == 0
          (held = false → exec i s = .next (s.to (u.enq q))) ∧
          (held = true → exec i s = .next (s.to { u with uid := u.uid + 1, ports := { u.ports with fills := u.ports.fills ++
            [{ r := { q with id := u.uid }, tag := 0, data := (u.lineAt q.loc).data, ok := sectorsOf q.mask, rsp := .ok }] } }))) ∧
        (t.look r.ctx acc va = .miss →
          exec i s = .next (s.to ((t.updCtx r.ctx (fun x => { x with acc := some (r.at va) })).startWalk r.ctx
            { va := va, acc := acc, walk := .other }))) ∧
        (∀ code level, t.look r.ctx acc va = .fault code level →
          exec i s = .next (s.to ((((t.lookTouch r.ctx va).updCtx r.ctx (fun x => { x with acc := none })).trFault r.ctx
            { va := va, acc := acc, walk := .other } code level).waitFor r.ctx .translate))))

/-- The access of SLD, SST, LDTD or STTD completes (R144, R145) with the answer of its port: a load writes its register from
the bytes read, extended as it says, LDTD its descriptor register; a store has written memory when its port granted it; the
instruction retires and the context is READY. A load of a dirty line whose data is lost is ECC-U (R461); a port's fault ends
the context. -/
def Obligations.ScalarAccessCompletes : Prop :=
  ∀ (s : State) (c : Nat) (x : FillDone) (a : ScalarAcc),
    s.chip.ports.fills.find? (fun x => x.r.kind == .scalar && x.r.ctx == some c) = some x → (s.chip.ctxAt c).acc = some a →
    (s.chip.ctxAt c).st = .waiting → (s.chip.ctxAt c).ended = false →
    let t := (s.chip.dropFill x.r.id).updCtx c (fun y => { y with acc := none })
    let bs : List Byte := (List.range a.size).map (fun i => fld x.data (8 * (a.va % 256 + i)) 8)
    let lost := (s.chip.lineAt x.r.loc).lost
    (x.rsp = .ok → lost = false →
      (a.op = .sld → exec (.scalarmemComplete c a.va a.size) s =
        .next (s.to (((t.updCtx c (Ctx.setS a.reg (loadValue bs a.sext))).retireNext c).wake c))) ∧
      (a.op = .ldtd → exec (.scalarmemComplete c a.va a.size) s = .next (s.to (((t.updCtx c (Ctx.loadTd a.reg bs)).retireNext c).wake c)))) ∧
    (x.rsp = .ok → a.op = .sst ∨ a.op = .sttd → exec (.scalarmemComplete c a.va a.size) s = .next (s.to ((t.retireNext c).wake c))) ∧
    (x.rsp = .ok → a.op = .sld ∨ a.op = .ldtd → lost = true → exec (.scalarmemComplete c a.va a.size) s = .next (s.to (t.ownFault c Src.eccuRcdata))) ∧
    (x.rsp ≠ .ok → exec (.scalarmemComplete c a.va a.size) s = .next (s.to (t.portFails c (portReport x.r x.rsp x.tag))))

/-- A write of bytes at a place of a granule, as SST and STTD make it, at the point of coherence (R144, R348): every byte reads as
written, every other byte of memory as before. -/
def Obligations.StoreWritesItsBytes : Prop :=
  ∀ (s : Chip) (g j : Nat) (bs : List Byte) (a : Nat), j + bs.length ≤ 256 →
    let t := s.commitWrite g (byteMask j bs.length) (granuleBytes j bs)
    (∀ i, i < bs.length → a = g + j + i → t.memByte a = bs.getD i 0) ∧
    (a < g + j ∨ g + j + bs.length ≤ a → t.memByte a = s.memByte a)

/-! ### Synchronisation, translation, scheduling -/

/-- KSIG, INTR and KDRAIN (R158, R161, R162, R164): an update goes to the counter's bank, an interrupt source is raised, the
instruction retires; KDRAIN waits with cause KDRAIN until the context's detached work has ended, and its .sig form then adds
V to its counter. KWAIT and the end of its timeout (R150, R159, R160): a condition that holds at issue retires it, the soft
form setting P7; else the context waits with cause KWAIT, with a deadline of IMM32 TCLK where that is not 0. At the deadline
the soft form retires with P7 = 0, the other form faults with TIMEOUT KWAIT; before it nothing happens. -/
def Obligations.Synchronisation : Prop :=
  (∀ (s : State) (c : Nat) (w : Word),
     let x := s.chip.ctxAt c
     let next := s.chip.nextOf c
     let v : BitVec 48 := fld (x.opV w) 0 48
     (s.chip.issuesAs (.ksig c) c w →
       exec (.ksig c) s = .next (s.to ((s.chip.retires c w id next).ksUpdate (wK w) (wModeY w == 1) v))) ∧
     (s.chip.issuesAs (.intr c) c w →
       exec (.intr c) s = .next (s.to ((s.chip.retires c w id next).raise (if wModeY w = 1 then 736 + wImm w else c) false))) ∧
     (s.chip.issuesAs (.kdrain c) c w → x.detached = [] →
       (wModeY w = 0 → exec (.kdrain c) s = .next (s.to (s.chip.retires c w id next))) ∧
       (wModeY w = 1 → exec (.kdrain c) s = .next (s.to ((s.chip.retires c w id next).ksUpdate (wK w) false v)))) ∧
     (s.chip.issuesAs (.kdrain c) c w → x.detached ≠ [] →
       exec (.kdrain c) s = .next (s.to (((s.chip.taken c w).updCtx c (fun y =>
         { y with drainSig := if wModeY w = 1 then some (wK w, v) else none })).waitFor c .kdrain))) ∧
     (x.st = .waiting → x.wait = some .kdrain → x.halting = false → x.detached = [] → x.ended = false →
       (x.drainSig = none →
         exec (.kdrainDone c) s =
           .next (s.to (((s.chip.updCtx c (fun y => { y with drainSig := none })).retireTo c next).wake c))) ∧
       (∀ k d, x.drainSig = some (k, d) →
         exec (.kdrainDone c) s =
           .next (s.to ((((s.chip.ksUpdate k false d).updCtx c (fun y => { y with drainSig := none })).retireTo c next).wake c))))) ∧
  (∀ (s : State) (c : Nat),
     (∀ w, s.chip.issuesAs (.kwait c) c w →
       let v : BitVec 48 := fld ((s.chip.ctxAt c).zr (wSAy w)) 0 48
       let soft := decide (4 ≤ wModeY w)
       (ksCompare (wModeY w % 4) (s.chip.ksAt (wK w)) v = true →
         exec (.kwait c) s = .next (s.to (s.chip.retires c w
           (fun x => { x with p := if soft then setBit x.p 7 true else x.p }) (s.chip.nextOf c)))) ∧
       (ksCompare (wModeY w % 4) (s.chip.ksAt (wK w)) v = false →
         exec (.kwait c) s = .next (s.to (((s.chip.taken c w).updCtx c (fun x =>
           { x with kw := some { k := wK w, mode := wModeY w % 4, tgt := v, soft := soft,
                                 till := if wImm w = 0 then none else some (s.chip.time + wImm w) } })).waitFor c .kwait)))) ∧
     (∀ k t, (s.chip.ctxAt c).kw = some k → k.till = some t →
       (s.chip.time < t → exec (.kwaitTimeout c) s = .next s) ∧
       (t ≤ s.chip.time → k.soft = true →
         exec (.kwaitTimeout c) s = .next (s.to (((s.chip.updCtx c (fun x =>
           { x with kw := none, p := setBit x.p 7 false })).retireTo c (s.chip.nextOf c)).wake c))) ∧
       (t ≤ s.chip.time → k.soft = false → exec (.kwaitTimeout c) s = .next (s.to (s.chip.ownFault c Src.tkwait)))))

/-- The comparisons of R150 on 48-bit values: .ge modulo 2^48, .eq, .ne, and .geu; a counter that less than 2^47 has been added
to satisfies .ge of where it stood, whether or not it has wrapped. -/
def Obligations.CounterComparisons : Prop :=
  ∀ c v : BitVec 48,
    (ksCompare 0 c v = true ↔ (c.toNat + 2 ^ 48 - v.toNat) % 2 ^ 48 < 2 ^ 47) ∧ (ksCompare 1 c v = true ↔ c = v) ∧
    (ksCompare 2 c v = true ↔ c ≠ v) ∧ (ksCompare 3 c v = true ↔ v.toNat ≤ c.toNat) ∧
    ∀ n : Nat, n < 2 ^ 47 → ksCompare 0 (v + BitVec.ofNat 48 n) v = true

/-- FENCE (R163): with no dirty line of the partition, or no row cache, it retires; else each is written back and the context
waits with cause FENCE until all are answered; then it retires, or ends with the first port fault. -/
def Obligations.FenceWritesBack : Prop :=
  ∀ (s : State) (c : Nat),
    (∀ w, s.chip.issuesAs (.fence c) c w →
      let t := s.chip.taken c w
      let gs := t.dirtyLines (t.ctxPart c)
      (t.rcOn = false ∨ gs = [] → exec (.fence c) s = .next (s.to (s.chip.retires c w id (s.chip.nextOf c)))) ∧
      (t.rcOn = true → gs ≠ [] →
        exec (.fence c) s = .next (s.to ((gs.foldl (fun u g => u.startWb .fenceWb g (u.ctxClass c) 0 (some c))
          (t.updCtx c (fun x => { x with ffault := none }))).waitFor c .fence)))) ∧
    ((s.chip.ctxAt c).st = .waiting → (s.chip.ctxAt c).wait = some .fence → (s.chip.ctxAt c).ended = false →
      (∀ r ∈ s.chip.allRequests, ¬ (r.kind = .fenceWb ∧ r.ctx = some c)) →
      ((s.chip.ctxAt c).ffault = none → exec (.fenceDone c) s = .next (s.to ((s.chip.retireTo c (s.chip.nextOf c)).wake c))) ∧
      (∀ rep, (s.chip.ctxAt c).ffault = some rep →
        exec (.fenceDone c) s = .next (s.to ((s.chip.updCtx c (fun x =>
          { x with ended := true, faddr := x.ip, ffault := none })).report rep))))

/-- A page walk ends (R335): it leaves its walker, a leaf that no invalidation has covered since is the most recently used of
the L2 TLB and of its mover's L1, and everything that waited for it goes on; while it has no result nothing happens. A context
that waited: with a leaf its access goes on; without one it takes the fault (R333, R340), after a failed read the port's fault;
in a context that no longer waits nothing more happens. A leaf's permissions and the region of its address (R312, R333):
NOWRITE, NOEXEC, PADDR, else the address itself. -/
def Obligations.PageWalks : Prop :=
  (∀ (s : State) (id : Nat) (w : PWalk), s.chip.walkAt id = some w →
     (w.ans = none → exec (.pageWalkComplete id w.part w.va) s = .next s) ∧
     (w.ans ≠ none → exec (.pageWalkComplete id w.part w.va) s = .next (s.to (w.who.foldl (Chip.walkServes w) (s.chip.endWalk w)))) ∧
     (∀ e, w.ans = some (.leaf e) → s.chip.installs w.epoch e = true →
       let u := s.chip.endWalk w
       u.l2.head? = some e ∧ (∀ m, w.mov = some m → (u.movAt (s.chip.tlbMember m w.va)).l1.head? = some e) ∧ u.mem = s.chip.mem ∧
         u.ks = s.chip.ks ∧ u.rc = s.chip.rc ∧ u.link = s.chip.link)) ∧
  (∀ (s : Chip) (c : Nat) (req : WalkReq) (w : PWalk), (s.ctxAt c).walk = some req →
     let u := s.updCtx c (fun x => { x with walk := none })
     let t := s.walkServes w (.ctx c)
     ((s.ctxAt c).st ≠ .waiting ∨ (s.ctxAt c).ended = true → t = u) ∧
     ((s.ctxAt c).st = .waiting → (s.ctxAt c).ended = false →
       (∀ e, w.ans = some (.leaf e) → s.installs w.epoch e = true → t = u.afterWalk c) ∧
       ((s.ctxAt c).xfer = none →
         (∀ code level, w.ans = some (.fault code level) →
           t = ((u.updCtx c (fun x => { x with acc := none })).trFault c req code level).haltStep c) ∧
         (∀ rep, w.ans = some (.failed rep) → t = (u.updCtx c (fun x => { x with acc := none })).portFails c rep)))) ∧
  (∀ (s : Chip) (l : Leaf) (acc : Access) (va : Nat),
     let e := l.e
     let pa := e.pa + va % 2 ^ e.lg
     let level := (48 - e.lg) / 9
     (acc = .write → e.w = false → s.checkLeaf l acc va = .fault 2 level) ∧
     (acc = .fetch → e.x = false → s.checkLeaf l acc va = .fault 3 level) ∧
     ((acc = .write → e.w = true) → (acc = .fetch → e.x = true) →
       (s.decodePA pa = none → s.checkLeaf l acc va = .fault 5 level) ∧
       ∀ p, s.decodePA pa = some p → s.checkLeaf l acc va = .ok pa p l))

/-- Mover scheduling (R58, R59): the mover takes a slot of the least class among its READY ones, the one that is current before
any other, else the next after the last that was current; at the end of a time slice the next READY slot of the same class;
the walk of the context that becomes current goes on. A READY context that has waited too long is promoted to class 0. -/
def Obligations.MoverScheduling : Prop :=
  ∀ (s : State) (m : Nat),
    let x := s.chip.movAt m
    let rs := s.chip.readySlots m
    let cls := s.chip.slotClass m
    (rs = [] → exec (.moverSwitch m) s = .next (s.to (s.chip.pumpCur m))) ∧
    (rs ≠ [] → ∃ k ∈ rs, (∀ j ∈ rs, cls k ≤ cls j) ∧
      (∀ j ∈ rs, x.cur = some j → cls j = cls k → j = k) ∧
      (x.cur ≠ some k → nextSlot x.last (rs.filter (fun j => cls j == cls k)) = some k) ∧
      exec (.moverSwitch m) s = .next (s.to ((if x.cur = some k then s.chip else s.chip.setCur m k).pumpCur m))) ∧
    (∀ k, x.cur = some k →
      let same := rs.filter (fun j => j != k && cls j == cls k)
      (same = [] → exec (.timesliceExpiry m) s = .next (s.to (s.chip.pumpCur m))) ∧
      (same ≠ [] → ∃ j ∈ same, nextSlot k same = some j ∧
        exec (.timesliceExpiry m) s = .next (s.to ((s.chip.setCur m j).pumpCur m)))) ∧
    (∀ c, (s.chip.ctxAt c).st = .ready → s.chip.isCur c = false →
      exec (.starvationPromote c) s = .next (s.to (s.chip.updCtx c (fun x => { x with promoted := true }))))

/-! ### Transfers -/

/-- A transfer instruction at issue (R61, R124, R175, R176, R199): the first check that fails is the fault of its context, and
nothing moves; else it takes the credits of its working set and its walk begins, or it takes none and the context waits with
cause CREDIT. Staging lines kept by PREFETCH.stg for contexts without a transfer yield first. A transfer that starts holds
its working set and stands at its first unit; a CINV or PREFETCH.rc without a row cache has no walk (R9); the context stays
READY, memory, counters, and every other context are as before (R61, R172, R199). Credits that a waiting transfer needs have
come (R61): it starts, and its context is READY. -/
def Obligations.TransfersIssue : Prop :=
  (∀ (s : State) (c : Nat) (w : Word), ∀ i ∈ [Instr.move c, .moveLdrt c, .mset c, .fill c, .window c, .gather c, .pool c,
       .scatter c, .expand c, .pack c, .digest c, .prefetch c, .send c, .deleg c, .cinv c], s.chip.issuesAs i c w →
     let t := s.chip.taken c w
     let n := t.creditNeed c w
     let u := t.yieldStg c (t.slotMover c) n
     (∀ code, t.transferFault c w = some code → exec i s = .next (s.to (t.ownFault c code))) ∧
     (t.transferFault c w = none → n ≤ u.freeCredits (t.slotMover c) → exec i s = .next (s.to ((u.startTransfer c w).pump c))) ∧
     (t.transferFault c w = none → u.freeCredits (t.slotMover c) < n →
       exec i s = .next (s.to ((u.updCtx c (fun x => { x with xfer := some (u.newXfer c w) })).waitFor c .credit)))) ∧
  (∀ (s : State) (c : Nat) (t : Xfer),
     let m := s.chip.slotMover c
     let n := s.chip.creditNeed c t.word
     let u := s.chip.yieldStg c m n
     (s.chip.ctxAt c).xfer = some t → (s.chip.ctxAt c).st = .waiting → (s.chip.ctxAt c).wait = some .credit →
       (s.chip.ctxAt c).ended = false → t.resumed = false →
       (n ≤ u.freeCredits m → exec (.creditAcquired c) s = .next (s.to ((u.startTransfer c t.word).wake c))) ∧
       (u.freeCredits m < n → exec (.creditAcquired c) s = .next (s.to u))) ∧
  (∀ (s : Chip) (c : Nat) (w : Word),
     let t := s.startTransfer c w
     (∃ x, (t.ctxAt c).xfer = some x ∧ x.word = w ∧ x.ip = (s.ctxAt c).ip ∧ x.credits = s.workingSet c w ∧ x.cursor = 0 ∧
       x.courses = 0 ∧ x.halves = 0 ∧ x.ended = s.hollow w ∧ x.fault = none ∧ x.halt = none ∧
       (x.pass = 0 ↔ wOpc w = 0x41 ∨ ((s.ctxAt c).xop w).mode = .stageAll)) ∧
     (∀ d, d ≠ c → t.ctxAt d = s.ctxAt d) ∧ t.mem = s.mem ∧ t.ks = s.ks ∧ t.ksq = s.ksq ∧ t.rc = s.rc ∧ t.link = s.link ∧
     t.tier = s.tier ∧ t.irq = s.irq ∧ t.rsq = s.rsq ∧ t.time = s.time ∧ (t.ctxAt c).st = (s.ctxAt c).st ∧
     (t.ctxAt c).s = (s.ctxAt c).s ∧ (t.ctxAt c).p = (s.ctxAt c).p ∧ (t.ctxAt c).ip = (s.ctxAt c).ip ∧ (t.ctxAt c).t = (s.ctxAt c).t)

/-- What a transfer in flight waits for arrives: the last read of a stage-all copy (R220), whose write pass then begins at its
first unit; the last fill write of an MSET, whose data pass begins (R223); every write of the next course, which is complete
and signalled (R119, R155, R157); or the wait of a row's guard ends, and the row is read again (R285). Until then nothing
happens. -/
def Obligations.TransferPasses : Prop :=
  ∀ (s : State) (c : Nat) (t : Xfer), s.chip.inFlightXfer c = some t →
    let xi := s.chip.xiOf c t
    let first := fun (p : Nat) => s.chip.updXfer c (fun t => { t with pass := p, cursor := 0, scan := 0, sub := 0 })
    (t.pass = 0 → wOpc t.word ≠ 0x41 → t.nextStaged xi = none → t.due = none → s.chip.pendingReads c = false →
      exec (.stageAllWritePass c) s = .next (s.to ((first 1).heard c))) ∧
    (t.pass ≠ 0 ∨ s.chip.pendingReads c = true → exec (.stageAllWritePass c) s = .next s) ∧
    (∀ l, t.pass = 2 → wOpc t.word = 0x41 → xi.slices t.env 2 = .ok l → sliceUnits l ≤ t.cursor → t.out = [] →
      s.chip.pendingWrites c = false → exec (.msetDataPass c) s = .next (s.to ((first 3).heard c))) ∧
    (t.pass ≠ 2 ∨ s.chip.pendingWrites c = true → exec (.msetDataPass c) s = .next s) ∧
    (s.chip.courseDone c t = true → exec (.courseComplete c) s =
      .next (s.to (((s.chip.courseSignal c t).updXfer c (fun t => { t with courses := t.courses + 1 })).progressed c))) ∧
    (t.remote = false → wOpc t.word ≠ 0x4C → 131072 * (t.courses + 1) ≤ t.halves → (∀ o ∈ t.out, t.courses < o.crs) →
      (∀ r ∈ s.chip.allRequests ++ s.chip.ports.fills.map (·.r), r.ctx = some c → r.write = true → t.courses < r.crs) →
      (∀ g ∈ s.chip.segs, g.ctx = c → t.courses < g.crs) → (∀ g ∈ s.chip.groups, g.ctx = c → t.courses < g.crs) →
      s.chip.courseDone c t = true) ∧
    (s.chip.courseDone c t = false → exec (.courseComplete c) s = .next s) ∧
    (∀ q, t.rows.find? (fun q => q.phase == .waiting) = some q → ∃ u : Xfer,
      u.rows = t.rows.map (fun r => if r.same q then { q with phase := .reading } else r) ∧ u.word = t.word ∧ u.halves = t.halves ∧
      u.cursor = t.cursor ∧ exec (.tornRowRetry c) s = .next (s.to ((s.chip.updXfer c (fun _ => u)).heard c))) ∧
    ((∀ q ∈ t.rows, q.phase ≠ .waiting) → exec (.tornRowRetry c) s = .next s)

/-- A transfer retires once its walk has ended and what it waits for is answered (R157, R171, R172): bytes of memory that its
source and destination share with no rule to order them take open values (R109, R222, log 35), its last signals are applied,
its staging and credits are free, CTX_IP goes on and the context is READY. A CINV whose write-back failed ends its context
instead (R206). Until then nothing happens. A translation halt is complete (R48, R123, R340): a scalar access or a fetch at
once, a transfer once the writes of what it saves are acknowledged. The context is FAULTED, and its event is on its way to
its partition's queue. -/
def Obligations.TransferEnds : Prop :=
  (∀ (s : State) (c : Nat) (t : Xfer), s.chip.inFlightXfer c = some t →
     (s.chip.mayRetire c t = false → exec (.transferRetire c) s = .next s) ∧
     (s.chip.mayRetire c t = true →
       (t.fault = none → t.shipped = none → exec (.transferRetire c) s =
         .next (s.to ((((s.chip.retireEffects c t).updCtx c (fun x => { x with xfer := none })).retireNext c).wake c))) ∧
       (∀ r, t.fault = some r → exec (.transferRetire c) s =
         .next (s.to ((s.chip.updCtx c (fun x => { x with ended := true, faddr := x.ip })).report r))) ∧
       (t.fault = none → t.shipped.isSome = true → ∀ d, s.chip.link.delegs.find? (fun d => d.guest == some c) = some d →
         exec (.transferRetire c) s = .next (s.to (((s.chip.stgAfter c t).guestFree c).delegDone d.src d.mtag 0 t.bytes))))) ∧
  (∀ (s : State) (c : Nat) (h : Halt), (s.chip.ctxAt c).st = .waiting → (s.chip.ctxAt c).ended = false →
     ((s.chip.ctxAt c).halt = some h → (s.chip.ctxAt c).xfer = none →
       exec (.translationHalt c) s = .next (s.to (s.chip.faulted c h))) ∧
     (∀ t, (s.chip.ctxAt c).xfer = some t → (s.chip.ctxAt c).halt = none → t.halt = some h → t.saving = true →
       (∀ r ∈ s.chip.allRequests, ¬ (r.ctx = some c ∧ r.kind = .save)) →
       exec (.translationHalt c) s = .next (s.to (s.chip.faulted c h))))

/-- The amounts that a transfer adds to its counter KS under each KM (R155, R157): nothing, 1 at its retirement, every
destination byte course by course, or 1 for every course begun. -/
def Obligations.SignalAmounts : Prop :=
  ∀ (s : Chip) (c : Nat) (t : Xfer),
    let whole := t.halves / 131072
    let rest := (t.halves % 131072 + 1) / 2
    let n := whole - t.courses
    let add := fun (l : List Nat) => s.ksq ++ l.map (fun v => { k := wKS t.word % 4096, set := false, v := BitVec.ofNat 48 v })
    (wKM t.word = 0 → (s.lastSignals c t).ksq = s.ksq) ∧
    (wKM t.word = 1 → (s.lastSignals c t).ksq = add [1]) ∧
    (wKM t.word = 2 → (s.lastSignals c t).ksq = add (List.replicate n 65536 ++ if rest = 0 then [] else [rest])) ∧
    (wKM t.word = 3 → (s.lastSignals c t).ksq = add (List.replicate n 1 ++ if rest = 0 then [] else [1]))

/-- A row cache fill that returned well enters its line, everyone who waited for it is served, and their walks go on; while
every way of its set is pinned it waits (R274, R348, R377); a prefetch's fill ends its share of the detached work besides
(R198, R376). A bank applies a combine segment in its turn, once the bytes it needs are there for all of its row, in one update
of its sector, and asks for absent ones (R179, R277–R279); an OVERWRITE that a later position has overtaken is discarded. A row
update group (R282–R284): ENTER with every line present pins them, makes VERSION odd and hands the body to the banks; EXIT
writes the header's sector with the even VERSION once the body is applied, and unpins; a group whose fill failed is abandoned
and reported, and ends the context that still runs its SCATTER. -/
def Obligations.RowCacheUpdates : Prop :=
  (∀ (s : State) (id c : Nat) (x : FillDone),
     let room := s.chip.fillNew x = 0 ∨ s.chip.wayFor x.r.loc
     (s.chip.ports.fills.find? (fun x => x.r.id == id && x.r.kind == .fill) = some x →
       (¬ room → exec (.rowCacheFill id) s = .next s) ∧
       (room → x.rsp = .ok → ∃ u : Chip, s.chip.fillsLine x u ∧ exec (.rowCacheFill id) s =
         .next (s.to ((((u.dropFill id).landDests x.r).pinFor x.r.loc).pumpList ((x.r.dests.map (·.ctx)).eraseDups))))) ∧
     (s.chip.ports.fills.find? (fun x => x.r.id == id && x.r.ctx == some c &&
         (x.r.kind == .prefetchRc || x.r.kind == .prefetchStg || x.r.kind == .prefetchFill)) = some x →
       let ends := fun (u : Chip) => exec (.prefetchFillLand c id) s =
         .next (s.to (((u.dropFill id).groupEnd x.r.grp).pumpList ((c :: x.r.dests.map (fun (d : Dest) => d.ctx)).eraseDups)))
       (x.r.kind ≠ .prefetchStg → ¬ room → exec (.prefetchFillLand c id) s = .next s) ∧
       (x.r.kind ≠ .prefetchStg → room → x.rsp = .ok →
         ∃ u : Chip, s.chip.fillsLine x u ∧ ends ((u.landDests x.r).pinFor x.r.loc)) ∧
       (x.r.kind = .prefetchStg → x.rsp = .ok → ends (x.r.dests.foldl (fun u d => u.deliver d x.data) s.chip)))) ∧
  (∀ (s : State) (id : Nat) (g : Seg), s.chip.segs.find? (fun g => g.id == id) = some g →
     let key := g.loc / 64 + g.sector
     (s.chip.segTurn g = false → exec (.combineSegment id) s = .next s) ∧
     (s.chip.segTurn g = true → g.grp = none →
       (g.cmb = 0 → s.chip.stalePos g.run key g.pos = true → s.chip.banking (.combine g.id) = false →
         exec (.combineSegment id) s = .next (s.to (s.chip.dropSeg id).pumpAll)) ∧
       (g.cmb ≠ 0 ∨ s.chip.stalePos g.run key g.pos = false →
         (s.chip.cachedLoc g.loc = false → exec (.combineSegment id) s = .next (s.to (s.chip.combineThrough g))) ∧
         (s.chip.cachedLoc g.loc = true → s.chip.rowReady g = true → s.chip.wayFor g.loc →
           ∃ u : Chip, exec (.combineSegment id) s = .next (s.to u.pumpAll) ∧ u.segs = s.chip.segs.filter (fun h => h.id != g.id) ∧
             s.chip.writesLine g.loc g.part (granuleWrite (g.apply (fun j => s.chip.viewByte false (g.loc + j))).1) u ∧
             u.lastPos g.run key = some g.pos)))) ∧
  (∀ (s : State) (id : Nat) (g : RowGroup), s.chip.groupAt id = some g →
     let line := granuleOf g.hdr
     let bytes := fun (n : Nat) => versionBytes g.hdr n
     (s.chip.groupTurn g = true → g.entered = none → g.failed = none → s.chip.stalePos g.run g.hdr g.pos = false →
       s.chip.cachedLoc g.hdr = true → (∀ l ∈ g.lines, s.chip.groupLacks g l = 0) → (s.chip.lineAt line).here = true →
       (s.chip.lineAt line).evict = false →
       ∃ u : Chip, exec (.rowUpdateEnter id) s = .next (s.to (u.entered g (enterVersion (s.chip.rowVersion g)))) ∧
         s.chip.writesLine line g.part (locWrite (bytes (enterVersion (s.chip.rowVersion g)))) u ∧
         (∀ l ∈ g.lines, s.chip.cachedLoc l = true → (u.lineAt l).pinned = true) ∧ u.segs = s.chip.segs) ∧
     (s.chip.groupTurn g = true → g.entered = none → g.failed = none → s.chip.stalePos g.run g.hdr g.pos = true →
       exec (.rowUpdateEnter id) s = .next (s.to (s.chip.dropGroup g))) ∧
     (∀ v, g.entered = some v → (∀ h ∈ s.chip.segs, h.grp ≠ some id) → s.chip.banking (.header id) = false →
       let bs := g.bytes.filter (fun q => q.1 / 64 == g.hdr / 64) ++ bytes ((v + 1) % 65536)
       (s.chip.cachedLoc g.hdr = false → exec (.rowUpdateExit id) s = .next (s.to (s.chip.headerWrite g 1 bs))) ∧
       (s.chip.cachedLoc g.hdr = true → s.chip.wayFor line → ∃ u : Chip, exec (.rowUpdateExit id) s = .next (s.to (u.dropGroup g)) ∧
         s.chip.writesLine line g.part (locWrite bs) u)) ∧
     (∀ rep, g.failed = some rep →
       let r : Report := { rep with unit := Config.rcBank line % 64, part := some g.part }
       let u := s.chip.dropGroup g
       let x := fun (c : Nat) => u.ctxAt c
       (u.liveRun g.ctx g.run = none → exec (.rowUpdateAbandon id) s = .next (s.to (u.report r))) ∧
       (∀ c, u.liveRun g.ctx g.run = some c → exec (.rowUpdateAbandon id) s = .next (s.to ((u.updCtx c (fun x =>
         { x with ended := true, faddr := x.ip })).report
           { r with ctx := some c, iaddr := (x c).iword.map (fun w => ((x c).ip, w)), ends := true })))))

/-! ### What transfers compute -/

/-- Codes of the formats (R231–R234, R240, R241): a value that an integer code or a floating-point code other than a NaN stands
for is encoded as that code again; an integer code is the value rounded, clamped to the format's ends, NaN as 0. -/
def Obligations.FormatsRoundTrip : Prop :=
  (∀ f code : Nat, fmtInt f = true → code < 2 ^ fmtBits f → encodePlain f (decodePlain f code) = { code := code }) ∧
  (∀ f code : Nat, fmtFloat f = true ∨ f = 0x23 → code < 2 ^ fmtBits f → decodePlain f code ≠ .nan →
    (encodePlain f (decodePlain f code)).code = code) ∧
  (∀ (f : Nat) (v : Val), fmtInt f = true →
    intOf f (encodeInt f v).code =
      match v with
      | .nan | .zero _ => 0
      | .inf neg => if neg then fmtMin f else fmtMax f
      | .fin neg n e => max (fmtMin f) (min (fmtMax f) (signedN neg (rneNat n e)))) ∧
  ∀ n d : Nat, 0 < d → 2 * n ≤ (2 * rneQ n d + 1) * d ∧ (2 * (rneQ n d : Int) - 1) * d ≤ 2 * n ∧
    (2 * n = (2 * rneQ n d + 1) * d ∨ (2 * n : Int) = (2 * (rneQ n d : Int) - 1) * d → rneQ n d % 2 = 0)

/-- A block of PACK is what EXPAND reads of it (R292–R300, R304): the payload that the coder chooses for an XOR stream decodes
to that stream, or where it is RAW to the variant; its entry is one that no check refuses. -/
def Obligations.BlocksDecode : Prop :=
  ∀ (variant x : List Byte) (off : Nat), x ≠ [] → x.length ≤ 4096 → variant.length = x.length → off < 2 ^ 48 → off % 8 = 0 →
    ∃ mode len p, encodeBlock variant x = (mode, len, p) ∧ p.length = 16 * len ∧
      decodePayload mode len x.length p = some (if mode = 1 then variant else x) ∧
      entryBad (mkEntry mode len off) x.length = false ∧ entryMode (mkEntry mode len off) = mode ∧ entryLen (mkEntry mode len off) = len ∧
      entryOffset (mkEntry mode len off) = off

/-- The walk of a descriptor (R93, R117): its elements are numbered with index 0 fastest, each index vector once; the allocation
indices of an element and its logical ones name each other under a permutation that R124 accepts. -/
def Obligations.WalkVisitsEveryElement : Prop :=
  ∀ (d : Desc), Dsc.rank d ≤ 8 →
    (∀ n, n < Dsc.count d → Dsc.rankOf d (Dsc.unrank d n) = n ∧ (Dsc.unrank d n).length = Dsc.rank d ∧
      ∀ k, k < Dsc.rank d → (Dsc.unrank d n).getD k 0 < Dsc.ext d k) ∧
    (∀ i : List Nat, i.length = Dsc.rank d → (∀ k, k < Dsc.rank d → i.getD k 0 < Dsc.ext d k) →
      Dsc.rankOf d i < Dsc.count d ∧ Dsc.unrank d (Dsc.rankOf d i) = i ∧
      (chkPerm d = false → Dsc.alloc d (Dsc.logical d i) = i))

/-- What an element of a walk writes into a plain dense destination (R97, R99, R100, R105, R186): FILL the code of its own GROUT
at the element's address, nothing outside the valid range; a MOVE that casts nothing the source's code at the same logical
index, the source's GROUT where the source is out of bounds, or with PADMODE SKIP nothing. -/
def Obligations.ElementsWritten : Prop :=
  ∀ (xi : XI) (e : Env) (acc : WAcc) (n : Nat),
    let b := xi.b
    let a := Dsc.aOf b (Dsc.unrank b n)
    let h := Dsc.nibAddr b a
    let bits := fmtBits (Dsc.fmt b)
    let src := Dsc.aOf xi.a (Dsc.alloc xi.a (Dsc.logical b (Dsc.unrank b n)))
    Dsc.mx b = false → Dsc.rq b = false → Dsc.blist b = false → 0 ≤ h → h < 2 ^ 53 →
      (Dsc.validA b a = true → xi.fillUnit e acc n =
        .ok { acc := acc, writes := [{ at_ := h.toNat, bits := bits, code := (Dsc.grout b).toNat % 2 ^ bits }], halves := bits / 4 }) ∧
      (Dsc.validA b a = false → xi.fillUnit e acc n = .ok { acc := acc, dropped := 1 }) ∧
      (xi.op = 0x40 → xi.pass = 1 → xi.down = false → xi.noCast = true → Dsc.blist xi.a = false →
        (∀ c, Dsc.validA xi.a src = true → e.codeAt .data xi.a (Dsc.nibAddr xi.a src) = .ok c →
          (Dsc.validA b a = true → xi.dstUnit e acc n =
            .ok { acc := acc, writes := [{ at_ := h.toNat, bits := bits, code := c }], halves := bits / 4 }) ∧
          (Dsc.validA b a = false → xi.dstUnit e acc n = .ok { acc := acc, dropped := 1 })) ∧
        (Dsc.validA xi.a src = false → Dsc.validA b a = true →
          (Dsc.skip b = false → xi.dstUnit e acc n =
            .ok { acc := acc, writes := [{ at_ := h.toNat, bits := bits, code := (Dsc.grout xi.a).toNat % 2 ^ bits }], halves := bits / 4, filled := 1 }) ∧
          (Dsc.skip b = true → xi.dstUnit e acc n = .ok { acc := acc, filled := 1 })))

/-! ### Counters, ports, the shadow checker -/

/-- A bank applies the oldest update that waits for it (R148, R149): SET stores the value, ADD adds modulo 2^48, no other
counter changes, and the update is done; memory and every other waiting update stay. With none waiting nothing happens. `n`
edges of TCLK advance the timebase by `n` once TCLK runs (R570), and change no counter, no byte of memory and no context
that does not wait in KWAIT. -/
def Obligations.CountersAndTime : Prop :=
  (∀ (s : State) (b : Nat),
     (s.chip.ksq.find? (fun o => o.k % 16 == b) = none → exec (.keystoneUpdate b) s = .next s) ∧
     ∀ o, s.chip.ksq.find? (fun o => o.k % 16 == b) = some o →
       ∃ t : Chip, exec (.keystoneUpdate b) s = .next (s.to t) ∧
         t.ksAt o.k = (if o.set then o.v else s.chip.ksAt o.k + o.v) ∧ (∀ k, k ≠ o.k → t.ksAt k = s.chip.ksAt k) ∧
         t.ksq = s.chip.ksq.erase o ∧ (∀ loc, t.memByte loc = s.chip.memByte loc) ∧ t.time = s.chip.time ∧ t.link = s.chip.link ∧
         t.rsq = s.chip.rsq ∧ ∀ c, (s.chip.ctxAt c).kw = none → t.ctxAt c = s.chip.ctxAt c) ∧
  (∀ (s : State) (n : Nat),
     (s.chip.clocked = false ∨ n = 0 → exec (.keystoneTick n) s = .next s) ∧
     (s.chip.clocked = true → n ≠ 0 → ∃ t : Chip, exec (.keystoneTick n) s = .next (s.to t) ∧ t.time = s.chip.time + n ∧
       t.ks = s.chip.ks ∧ t.ksq = s.chip.ksq ∧ (∀ loc, t.memByte loc = s.chip.memByte loc) ∧ t.link = s.chip.link ∧ t.rsq = s.chip.rsq ∧
       ∀ c, (s.chip.ctxAt c).kw = none → t.ctxAt c = s.chip.ctxAt c))

/-- Host writes of a counter and of a watch slot (R152–R154): KS_VAL and KS_ADD put an update in the counter's queue and the
write is answered OK; an armed slot whose comparison holds disarms, sets FIRED and raises source 720 + w. -/
def Obligations.CounterRegisters : Prop :=
  ∀ (s : State) (n : Nat) (v : Word), s.chip.takesWrites →
    let a := s.chip.accepted
    let cfg := (v &&& (maskBits 15 1 ||| maskBits 0 14)) ||| (a.reg (Reg.kwatchCfg n) &&& maskBits 14 1 &&& ~~~v)
    let holds := bitB cfg 15 && ksCompare (fldN cfg 12 2) (a.ksAt (fldN cfg 0 12)) (fld (a.reg (Reg.kwatchTgt n)) 0 48)
    (n < 4096 → exec (.ksVal n v) s = Chip.wrote (a.ksHost n true (fld v 0 48)) s) ∧
    (n < 4096 → exec (.ksAdd n v) s = Chip.wrote (a.ksHost n false (fld v 0 48)) s) ∧
    (n < 16 → holds = false → exec (.kwatchCfg n v) s = Chip.wrote (a.setReg (Reg.kwatchCfg n) cfg) s) ∧
    (n < 16 → holds = true → exec (.kwatchCfg n v) s =
      Chip.wrote ((a.setReg (Reg.kwatchCfg n) (setBit (setBit cfg 15 false) 14 true)).raise (720 + n) false) s)

/-- A lane's arbiter grants the request it picks (R384, R391, R545, R549): the request leaves the queue and is outstanding under
a free tag; a write's bytes are memory's from now on, a half-byte that it does not write keeping what memory holds (R226); a write that
bypasses the row cache first writes back what the sectors it touches hold dirty (R347); no other byte changes. It picks the one request that waits at the lane, once the lane drives no beats and credits and a tag
are there and no quota masks it. With none to grant nothing happens. -/
def Obligations.PortGrants : Prop :=
  ∀ (s : State) (l : Lane),
    (s.chip.arbitrate l = none → exec (.portGrant l) s = .next s) ∧
    (∀ r, s.chip.waitingAt l = [r] → s.chip.ports.held.contains (laneCode l) = false → (s.chip.laneAt l).owe = 0 →
      1 ≤ (s.chip.laneAt l).rq → (r.write = true → 1 ≤ (s.chip.laneAt l).wd) → (s.chip.tagFor r).isSome = true →
      s.chip.masked r = false → r.cls ≤ 4 → ∃ st, s.chip.arbitrate l = some (st, r)) ∧
    ∀ st r pool, s.chip.arbitrate l = some (st, r) → s.chip.tagFor r = some pool →
      let line := s.chip.lineAt r.loc
      let has := fun (m : BitVec 256) (loc : Nat) => r.loc ≤ loc ∧ loc < r.loc + 256 ∧ bitB m (loc - r.loc) = true
      ∃ t : Chip, exec (.portGrant l) s = .next (s.to t) ∧ (∀ q ∈ t.ports.queue, q.id ≠ r.id) ∧
        t.ports.outs.length = s.chip.ports.outs.length + 1 ∧
        (∃ o ∈ t.ports.outs, o.r = r ∧ o.pool = pool ∧ o.at_ = s.chip.time ∧
          (s.chip.freePortTags l ≠ [] → o.tag ∈ s.chip.freePortTags l)) ∧
        (∀ loc, t.memByte loc = if r.write = true ∧ has r.mask loc then fld (mergeMask r.keep r.data (s.chip.memGranule r.loc)) (8 * (loc - r.loc)) 8
          else if r.write = true ∧ r.kind.bypasses = true ∧ line.here = true ∧ has (line.dirty &&& sectorBytes (sectorsOf r.mask)) loc
          then fld line.data (8 * (loc - r.loc)) 8 else s.chip.memByte loc)

/-- A response beat of a write, or of a read (R546, R551, R552): a write that was outstanding is answered and its tag is free; a
read takes the beat; a beat with a tag that no request has is a violation. -/
def Obligations.PortResponses : Prop :=
  ∀ (s : State) (l : Lane) (b : RspBeat) (o : Outst), s.chip.phase = .run →
    (s.chip.outOf l b.tag = some o → b.ptag = o.r.part.getD 15 → b.kind = (if o.r.write then 1 else 0) → l = o.r.lane → b.status ≠ 3 →
      (o.r.write = true → b.last = true →
        exec (.portWriteAck l b) s = .next (s.to (s.chip.finish o 0 0 (if b.status = 0 then .ok else .err)))) ∧
      (o.r.write = false → l.kind = .farPort → b.beat < o.r.nb → bitB o.got (o.r.first + b.beat) = false →
        exec (.portReadData l b) s = .next (s.to (s.chip.takeBeat o (BitVec.ofNat 4 (2 ^ (o.r.first + b.beat))) b.beat
          { b with poison := b.poison % 2 }))) ∧
      (o.r.write = false → l.kind ≠ .farPort → b.beat = 0 → o.got = 0 →
        exec (.portReadData l b) s = .next (s.to (s.chip.takeBeat o o.r.bursts 0 { b with poison := b.poison % 16 / 2 ^ o.r.first })))) ∧
    (s.chip.outOf l b.tag = none → (∀ x ∈ s.chip.portBars l, x.tag ≠ b.tag) →
      exec (.portReadData l b) s = .next (s.to (s.chip.violate l 0 b.tag)) ∧
      exec (.portWriteAck l b) s = .next (s.to (s.chip.violate l 0 b.tag)))

/-- Credits, timeouts and windows of a port (R380, R385, R477, R478, R544). The watchdogs of a far port and of a context (R389,
R479): a write that holds the port without a beat for 200 TCLK is taken back, named in GOV_PHSTAT and reported; a context that has made no progress for
PROG is reported at LOG and its time runs anew. -/
def Obligations.PortTimers : Prop :=
  (∀ (s : State) (l : Lane) (tag : Nat),
     (s.chip.phase = .run →
       ((s.chip.laneAt l).rq < 64 → exec (.portCreditReturn l false) s = .next (s.to (s.chip.updLane l (fun x => { x with rq := x.rq + 1 })))) ∧
       ((s.chip.laneAt l).wd < 256 →
         exec (.portCreditReturn l true) s = .next (s.to (s.chip.updLane l (fun x => ({ x with wd := x.wd + 1 } : LaneSt).drive s.chip.time)))) ∧
       (64 ≤ (s.chip.laneAt l).rq → exec (.portCreditReturn l false) s = .next (s.to (s.chip.violate l 5 0))) ∧
       (256 ≤ (s.chip.laneAt l).wd → exec (.portCreditReturn l true) s = .next (s.to (s.chip.violate l 5 0)))) ∧
     (∀ o, s.chip.outOf l tag = some o →
       (o.at_ + s.chip.txnTicks ≤ s.chip.time → exec (.txnTimeout l tag) s =
         .next (s.to (((s.chip.bump (portStatReg l) 16 16 1).barTag o (4 * s.chip.txnTicks)).finish o 0 0 .timeout))) ∧
       (s.chip.time < o.at_ + s.chip.txnTicks → exec (.txnTimeout l tag) s = .next s)) ∧
     (∃ t : Chip, exec (.tagBarExpiry l tag) s = .next (s.to t) ∧
       (∀ b, b ∈ t.ports.bars ↔ b ∈ s.chip.ports.bars ∧ ¬ (samePort b.lane l = true ∧ b.tag = tag ∧ b.till ≤ s.chip.time)) ∧
       t.ports.outs = s.chip.ports.outs ∧ t.ports.queue = s.chip.ports.queue ∧ t.mem = s.chip.mem ∧ t.ctx = s.chip.ctx ∧ t.regs = s.chip.regs) ∧
     (∃ t : Chip, exec .quotaWindow s = .next (s.to t) ∧ t.ports.quota = [] ∧ t.ports.queue = s.chip.ports.queue ∧
       t.ports.outs = s.chip.ports.outs ∧ t.ports.lanes = s.chip.ports.lanes ∧ t.mem = s.chip.mem ∧ t.ctx = s.chip.ctx ∧ t.regs = s.chip.regs) ∧
     (let ms := s.chip.mov.map Prod.fst
      let t := ms.foldl (fun s m => s.updMov m (fun x =>
        { x with rdUsed := x.rdUsed - s.shareOf 0 m, wrUsed := x.wrUsed - s.shareOf 8 m, rmUsed := x.rmUsed - s.shareOf 16 m })) s.chip
      exec .issueWindow s = .next (s.to (ms.foldl (fun u m => u.linesGo m) t).pumpAll))) ∧
  (∀ (s : State) (n c : Nat),
     (∀ o, s.chip.holder { kind := .farPort, port := n, lane := 0 } = some o → o.r.req < 64 →
       (s.chip.laneAt { kind := .farPort, port := n, lane := 0 }).beatAt + 200 ≤ s.chip.time →
       ∃ t : Chip, ∃ rep : Report, exec (.portHoldWatchdog n) s = .next (s.to (t.report rep)) ∧ rep.src = Src.porthold ∧
         rep.kind = .mover ∧ rep.unit = o.r.req ∧ rep.ctx = o.r.ctx ∧
         t.ports.outs.map (fun x => x.tag) = (s.chip.ports.outs.erase o).map (fun x => x.tag) ∧
         t.reg Reg.govPhstat = (phCode n o.r ||| at64 0 ((s.chip.regF Reg.govPhstat 0 32 + 1) % 2 ^ 32)) ∧
         (∀ loc, loc < o.r.loc ∨ o.r.loc + 256 ≤ loc → t.memByte loc = s.chip.memByte loc)) ∧
     (s.chip.holder { kind := .farPort, port := n, lane := 0 } = none ∨
         s.chip.time < (s.chip.laneAt { kind := .farPort, port := n, lane := 0 }).beatAt + 200 →
       exec (.portHoldWatchdog n) s = .next s) ∧
     ((s.chip.ctxAt c).st = .ready ∨ (s.chip.ctxAt c).st = .waiting →
       ((s.chip.ctxAt c).progress + 100000 * s.chip.regF Reg.rsqTmo 32 16 ≤ s.chip.time →
         exec (.progressWatchdog c) s = .next (s.to ((s.chip.progressed c).report { s.chip.ownReport c Src.progress with ends := false }))) ∧
       (s.chip.time < (s.chip.ctxAt c).progress + 100000 * s.chip.regF Reg.rsqTmo 32 16 → exec (.progressWatchdog c) s = .next s)))

/-- The shadow checker (R42–R44, R465–R468): in cycles that no READY context of the partner claims, the partner re-executes the
oldest sample that has not been; that writes no byte of memory, no line of the row cache and no counter, and once every unit
is done its digests stand with the sample. Equal digests end the sample; different ones are SDC SHADOW, as an armed injection
of MODE 3 makes them (R472); a torn row or different versions skip it, as does a sample that has waited for TMO. -/
def Obligations.ShadowChecks : Prop :=
  ∀ (s : State) (m : Nat) (err : Word) (p : Sample),
    let mine := (s.chip.movAt m).samples
    (mine.find? (fun p => p.redo.isNone) = some p →
      (s.chip.shadowIdle m = false ∨ p.stuck = true ∨ s.chip.partnerOf m = none → exec (.shadowReexec m) s = .next s) ∧
      (∃ t : Chip, exec (.shadowReexec m) s = .next (s.to t) ∧ t.mem = s.chip.mem ∧ t.rc = s.chip.rc ∧ t.ks = s.chip.ks ∧
        t.ksq = s.chip.ksq ∧ t.ctx = s.chip.ctx ∧ t.link = s.chip.link ∧ t.irq = s.chip.irq ∧ t.fc = s.chip.fc) ∧
      (∀ k t, s.chip.partnerOf m = some k → s.chip.shadowIdle m = true → p.stuck = false → p.walk = some t → t.rows = [] →
        wOpc p.word ≠ 0x41 → wOpc p.word ≠ 0x45 → p.need ≤ s.chip.freeCredits (s.chip.leaderOf k) →
        (p.xop.xi t.pass (s.chip.routesOf m (rsel p.word - 1))).view.total ≤ t.cursor → (∀ q ∈ mine, q.id = p.id → q = p) →
        exec (.shadowReexec m) s = .next (s.to (s.chip.updSampleAt m p.id (fun q =>
          { q with redo := some (t.odig.value, t.vdig, t.torn), walk := none, leaf := none }))))) ∧
    (∀ d r v torn, mine.find? (fun p => p.digest.isSome && p.redo.isSome) = some p → p.digest = some d →
      p.redo = some (r, v, torn) →
      (torn = true ∨ p.torn = true ∨ v ≠ p.vdigest → exec (.shadowCompare m err) s = .next (s.to (s.chip.skipSample m p))) ∧
      (torn = false → p.torn = false → v = p.vdigest →
        let inj := s.chip.reg Reg.fcInj
        let fires := bitB inj 0 = true ∧ fldN inj 24 2 = 3 ∧ fldN inj 32 16 = m
        let u := s.chip.setReg Reg.fcInj (setBit (setBit inj 0 false) 1 true)
        (¬ fires → d = r ^^^ err → exec (.shadowCompare m err) s = .next (s.to (s.chip.dropSample m p))) ∧
        (¬ fires → d ≠ r ^^^ err → exec (.shadowCompare m err) s =
          .next (s.to ((s.chip.dropSample m p).reportSdc m ((s.chip.partnerOf m).getD 0) p d (r ^^^ err)))) ∧
        (fires → d = r ^^^ err → exec (.shadowCompare m err) s =
          .next (s.to ((u.dropSample m p).reportSdc m ((s.chip.partnerOf m).getD 0) p d (r ^^^ err ^^^ 1)))))) ∧
    (∀ x, mine = [x] → x.redo = none → ∀ t, x.retired = some t →
      (t + s.chip.shadowTicks ≤ s.chip.time → exec (.shadowTimeout m) s = .next (s.to (s.chip.skipSample m x))) ∧
      (s.chip.time < t + s.chip.shadowTicks → exec (.shadowTimeout m) s = .next s))

/-! ### Contexts, gangs, partitions, the memory map -/

/-- The commands of CTX_CMD in the states that list them (R48–R52, R54, R69, R70, R72): the write is answered OK, CMDERR is
cleared, and the command acts or is in progress. BIND needs a target that exists and has passed its test, of the context's
partition, outside a running reset, with a free slot, and a save area that is valid and large enough; else it is refused with
the code of the first that it lacks. A register image moves by 18 requests of 256 B; a save area in no region is PADDR
(R312). A command of a context that is BUSY, or inside a running partition reset, is refused: an error response and CTXCMD
(R49, R483); ABORT alone waits for the command in progress. -/
def Obligations.ContextCommands : Prop :=
  (∀ (s : State) (c : Nat), s.chip.takesWrites →
     let a := s.chip.accepted
     let x := a.ctxAt c
     c < a.build.nctx → x.busy = none → a.ctxCovered c = false →
     (x.st = .idle ∨ (x.st = .faulted ∧ x.slotOf = none) →
       (a.bindMovers c = none → exec (.bind c) s = .next (s.to (a.refuse Src.bindtgt))) ∧
       ∀ m ms, a.bindMovers c = some (m :: ms) →
         let tested := a.sharedFailed = false ∧ ∀ n ∈ m :: ms, a.movFailed n = false
         let mine := a.movPart m = a.ctxPart c
         let room := ∃ k, k < 8 ∧ Tab.get none (a.movAt m).slots k = none
         let valid := bitB (a.reg (Reg.ctx c 0x18)) 0 = true
         let large := ms.length + 1 ≤ 2 ^ a.ctxSavew c
         (¬ tested → exec (.bind c) s = .next (s.to (a.refuse Src.bindtgt))) ∧
         (tested → ¬ mine → exec (.bind c) s = .next (s.to (a.refuse Src.xpart))) ∧
         (tested → mine → a.movCovered m = true → exec (.bind c) s = .next (s.to (a.refuse Src.ctxcmd))) ∧
         (tested → mine → a.movCovered m = false → ¬ room → exec (.bind c) s = .next (s.to (a.refuse Src.noslot))) ∧
         (tested → mine → a.movCovered m = false → room → ¬ valid → exec (.bind c) s = .next (s.to (a.refuse Src.nosave))) ∧
         (tested → mine → a.movCovered m = false → room → valid → ¬ large → exec (.bind c) s = .next (s.to (a.refuse Src.savesz))) ∧
         (tested → mine → a.movCovered m = false → room → valid → large → exec (.bind c) s =
           .next (s.to (((a.takeSlot c m (ms.length + 1)).updCtx c (fun x => { x with busy := some .bind })).ctxOk c)))) ∧
     (x.st = .bound ∨ (x.st = .faulted ∧ x.slotOf.isSome = true) →
       exec (.unbind c) s = .next (s.to ((a.updCtx c (fun x => { x with busy := some .unbind })).ctxOk c))) ∧
     (x.st = .bound → s.chip.ctxGuest c = false → exec (.start c) s =
       .next (s.to (((a.updCtx c (fun x => { x with exit := 0, fclass := 0, fcode := 0, ended := false, progress := a.time,
                                                    promoted := false })).setSt c .ready none).ctxOk c))) ∧
     (x.st = .ready → x.wait = none → s.chip.ctxGuest c = false →
       exec (.stop c) s = .next (s.to ((a.updCtx c (fun x => { x with stopReq := true })).ctxOk c))) ∧
     (∀ w, x.st = .waiting → x.wait = some w → s.chip.ctxGuest c = false →
       (w.stopsAtOnce = true → x.ended = false → (∀ t, x.xfer = some t → t.resumed = false) →
         exec (.stop c) s = .next (s.to (((a.disown c).stopNow c).ctxOk c))) ∧
       (w.stopsAtOnce = false → exec (.stop c) s = .next (s.to ((a.updCtx c (fun x => { x with stopReq := true })).ctxOk c)))) ∧
     (x.st = .faulted → x.slotOf.isSome = true →
       (x.size = x.faultSize → x.xfer = none → exec (.resume c) s =
         .next (s.to (((a.ctxOk c).updCtx c (fun x => { x with halt := none, progress := a.time })).setSt c .ready none))) ∧
       (∀ t, x.size = x.faultSize → x.xfer = some t → exec (.resume c) s = .next (s.to (((a.ctxOk c).updCtx c (fun x =>
         { x with halt := none, progress := a.time, xfer := some { t with halt := none, resumed := true } })).resumeTransfer c))) ∧
       (x.size ≠ x.faultSize → exec (.resume c) s = .next (s.to (a.refuse Src.savesz)))) ∧
     (x.st.abortable = true → exec (.abort c) s = .next (s.to ((a.hostAbort c).ctxOk c))) ∧
     (x.st = .aborted → exec (.clear c) s = .next (s.to ((a.setSt c .idle none).ctxOk c)))) ∧
  (∀ (s : State) (c : Nat) (b : Bool), s.chip.takesWrites →
     let a := s.chip.accepted
     let x := a.ctxAt c
     let i := if b then Instr.saveregs c else .loadregs c
     let u := (a.ctxOk c).updCtx c (fun x => { x with busy := some (if b then .saveregs else .loadregs) })
     let v : Chip := if b then { u with free := u.free + 8 } else u
     let bs := if b then x.image a.free else []
     c < a.build.nctx → x.busy = none → a.ctxCovered c = false → x.st = .idle ∨ x.st = .bound → a.tier.busy = false →
     ((∀ k, k < 18 → (a.decodePA (a.ctxSaveBase c + 256 * k)).isSome = true) → ∃ l : List PortReq, l.length = 18 ∧
       (∀ k, k < 18 → ∃ r p, l[k]? = some r ∧ a.decodePA (a.ctxSaveBase c + 256 * k) = some p ∧ r.kind = .image ∧ r.write = b ∧
         r.lane = p.lane ∧ r.loc = granuleOf p.loc ∧ r.mask = BitVec.allOnes 256 ∧ r.va = 256 * k ∧ r.ctx = some c ∧
         r.part = some (a.ctxPart c) ∧ (b = true → r.data = granuleBytes 0 ((bs.drop (256 * k)).take 256))) ∧
       exec i s = .next (s.to { v with uid := v.uid + 18, ports := { v.ports with queue := v.ports.queue ++ l } })) ∧
     ((∃ k, k < 18 ∧ a.decodePA (a.ctxSaveBase c + 256 * k) = none) →
       exec i s = .next (s.to ((v.cmdFailed c).report (v.ownReport c Src.paddr))))) ∧
  (∀ (s : State) (c : Nat), s.chip.takesWrites →
     let a := s.chip.accepted
     c < a.build.nctx → (a.ctxAt c).busy.isSome = true ∨ a.ctxCovered c = true →
     (∀ i ∈ [Instr.bind c, .unbind c, .start c, .stop c, .resume c, .clear c, .loadregs c, .saveregs c],
       exec i s = .next (s.to (a.refuse Src.ctxcmd))) ∧
     (a.ctxCovered c = false → exec (.abort c) s = .next (s.to ((a.updCtx c (fun x => { x with abortReq := true })).ctxOk c))))

/-- A command in progress ends (R48, R51, R52, R69–R72, R485): BIND makes an IDLE context BOUND, UNBIND makes a BOUND one IDLE
and frees its slot; once the 18 requests of an image are answered, LOADREGS loads a good image, SAVEREGS has written its own,
and a bad image or a failed request sets CMDERR and changes nothing; an abort that has drained makes the context ABORTED,
raises source 256 + c and ends its rung. The duration of an abort in RSQ_LAST is a free value (log 5). -/
def Obligations.ContextCompletions : Prop :=
  ∀ (s : State) (c p : Nat),
    let x := s.chip.ctxAt c
    let mine := fun (r : PortReq) => r.kind == .image && r.ctx == some c && r.part == some p
    let xs := s.chip.ports.fills.filter (fun y => mine y.r)
    let u : Chip := { s.chip with ports := { s.chip.ports with fills := s.chip.ports.fills.filter (fun y => !mine y.r) } }
    let bs := (List.range 18).flatMap (fun k => match xs.find? (fun y => y.r.va == 256 * k) with | some y => toBytes 256 y.data.toNat | none => [])
    (x.busy = some .bind → x.st = .idle → exec (.bindComplete c) s = .next (s.to ((s.chip.setSt c .bound none).busyEnd c))) ∧
    (x.busy = some .unbind → x.st = .bound → exec (.unbindComplete c) s =
      .next (s.to ((((s.chip.releaseStg c).freeSlotOf c).setSt c .idle none).busyEnd c))) ∧
    (∀ save, xs.length < 18 → exec (.regimageComplete c p save) s = .next s) ∧
    (18 ≤ xs.length → x.busy = some .loadregs →
      ((∀ y ∈ xs, y.rsp = .ok) → imageOk bs = true →
        exec (.regimageComplete c p false) s = .next (s.to ((u.updCtx c (Ctx.loadImage bs)).busyEnd c))) ∧
      (imageOk bs = false ∨ (∃ y ∈ xs, y.rsp ≠ .ok) → exec (.regimageComplete c p false) s = .next (s.to (u.cmdFailed c)))) ∧
    (18 ≤ xs.length → x.busy = some .saveregs →
      ((∀ y ∈ xs, y.rsp = .ok) → exec (.regimageComplete c p true) s = .next (s.to (u.busyEnd c))) ∧
      ((∃ y ∈ xs, y.rsp ≠ .ok) → exec (.regimageComplete c p true) s = .next (s.to (u.cmdFailed c)))) ∧
    (s.chip.sequencer = true → x.st = .aborting → s.chip.rsq.rungs.any (isRung .ctxAbort c) = true → s.chip.abortDrained c = true →
      ∃ d, exec (.abortComplete c) s = .next (s.to
        (((((({ s.chip with free := s.chip.free + 1 } : Chip).enterAborted c false).raise (256 + c) false).dropRungs
          (isRung .ctxAbort c)).rungDone 1 d).pumpAll)))

/-- What SAVEREGS writes LOADREGS accepts, and it restores the S registers, the predicates, the descriptors, the loop levels and
CTX_IP, whatever stands in the words of levels that are not active (R69, R71). -/
def Obligations.ImagesRestore : Prop :=
  ∀ (x y : Ctx) (free : Nat), x.ip < 2 ^ 52 → x.ip % 8 = 0 → x.loops.length ≤ 4 → bitB x.p 0 = true →
    (∀ l ∈ x.loops, l.start < 2 ^ 52 ∧ l.start % 8 = 0 ∧ l.count < 2 ^ 32) →
    imageOk (x.image free) = true ∧
    let z := Ctx.loadImage (x.image free) y
    z.ip = x.ip ∧ z.p = x.p ∧ z.loops = x.loops ∧ (∀ n, n < 32 → z.sr n = x.sr n) ∧
    (∀ k, k < 512 → Tab.get 0 z.t k = Tab.get 0 x.t k)

/-- GANG_FORM, PART_MOV, KS_PART and MOV_ICCTL (R20–R28, R63): a legal configuration is stored and answered OK, one that a rule
forbids is refused and nothing is stored; with every context IDLE a mover changes its partition without restriction. An
invalidation of an instruction cache drops its lines, and those on their way are fetched again. -/
def Obligations.GangAndPartitionWrites : Prop :=
  ∀ (s : State) (k m : Nat) (v : Word) (asid : BitVec 16), s.chip.takesWrites →
    let a := s.chip.accepted
    let w := v &&& maskBits 1 (a.build.nmov - 1)
    let moved := (List.range a.build.nmov).filter (fun m => gangIn a.build w m != gangIn a.build (a.reg Reg.gangForm) m)
    let n := min 16 (a.build.nmov - 16 * k)
    (moved.any a.movCovered = false → gangClash a.build w = false → moved.any a.teamHolds = false →
      ((formedIn a.build w).filter (fun n => !(formedIn a.build (a.reg Reg.gangForm)).contains n)).any (fun n =>
        (gangMovers a.build n).any (fun m => a.movPart m != a.movPart (gangBase a.build n) || a.movFailed m)) = false →
      exec (.gangForm v) s = Chip.wrote (a.setReg Reg.gangForm w) s) ∧
    (moved.any a.movCovered = false → gangClash a.build w = true →
      exec (.gangForm v) s = Chip.refusedAs (a.logCtl Src.gangcfg 1) s) ∧
    (k < 4 → n ≠ 0 → a.allIdle = true →
      ((∀ j, j < n → fldN v (4 * j) 3 < a.build.npart) → (∀ j, j < n → fldN v (4 * j) 3 ≠ a.movPart (16 * k + j) →
          a.movCovered (16 * k + j) = false) →
        exec (.partMov k v) s = Chip.wrote (a.setReg (Reg.partMov k) (v &&& partMask n)) s) ∧
      ((∃ j, j < n ∧ a.build.npart ≤ fldN v (4 * j) 3) → exec (.partMov k v) s = Chip.refusedAs a s)) ∧
    (k < 4 → a.allIdle = true →
      ((∀ j, j < 16 → fldN v (4 * j) 3 < a.build.npart) →
        exec (.ksPart k v) s = Chip.wrote (a.setReg (Reg.ksPart k) (v &&& partMask 16)) s) ∧
      ((∃ j, j < 16 ∧ a.build.npart ≤ fldN v (4 * j) 3) → exec (.ksPart k v) s = Chip.refusedAs a s)) ∧
    (let again := fun (x : Mover) => x.icFill.map (fun (f : ICFill) => if f.pa.isSome then { f with redo := true } else f)
     m < a.build.nmov →
      exec (.invall m) s = Chip.wrote (a.updMov m (fun x => { x with ic := [], icFill := again x })) s ∧
      exec (.invasid m asid) s = Chip.wrote (a.updMov m (fun x =>
        { x with ic := x.ic.filter (fun l => l.asid != asid), icFill := again x })) s)

/-- The memory map (R313, R315, R318, R319): a region register that keeps every rule is stored, another is refused with MAPOVL;
AUTOFILL writes the shadow table; COMMIT runs until its end, when a shadow table that passes every check comes into force
and another changes nothing but CMT_STAT; then what waited at the governor goes on. -/
def Obligations.MemoryMap : Prop :=
  ∀ (s : State) (off : Nat) (v : Word),
    (s.chip.takesWrites → s.chip.accepted.regionReg off = 2 → s.chip.accepted.allIdle = true →
      let a := s.chip.accepted
      let t := a.setReg off (v &&& regionMask off)
      let ok := regionRange off v && t.regionsOk off && !(off == Reg.tnCfg && bitB (a.reg off) 0 && bitB (a.reg off) 1 != bitB v 1)
      (ok = true → off ≠ Reg.tnCfg → exec (.regionConfigWrite off v) s = Chip.wrote t s) ∧
      (ok = true → off = Reg.tnCfg → exec (.regionConfigWrite off v) s = Chip.wrote (t.legacyStart (a.reg off)) s) ∧
      (ok = false → exec (.regionConfigWrite off v) s = Chip.refusedAs (a.logCtl Src.mapovl 9) s)) ∧
    (s.chip.takesWrites → s.chip.accepted.regionReg off = 2 → s.chip.accepted.allIdle = false →
      exec (.regionConfigWrite off v) s = Chip.refusedAs s.chip.accepted s) ∧
    (s.chip.takesWrites → bitB v 0 = false → bitB v 1 = true →
      let a := s.chip.accepted.setReg Reg.cmtCtl (v &&& maskBits 2 1)
      (a.channels ≠ [] → ∃ l, l.length = a.channels.length ∧ (∀ ch, ch ∈ l ↔ ch ∈ a.channels) ∧
        exec (.autofill v) s = Chip.wrote (a.updTier (fun t => { t with shadow := filled l, err := 0 })) s) ∧
      (a.channels = [] → exec (.autofill v) s = Chip.wrote (a.cmtFail 3) s)) ∧
    (s.chip.takesWrites → bitB v 0 = true → bitB v 1 = false → s.chip.accepted.tier.busy = false → s.chip.accepted.allIdle = true →
      exec (.commit v) s = Chip.wrote ((s.chip.accepted.setReg Reg.cmtCtl (v &&& maskBits 2 1)).updTier (fun t => { t with busy := true })) s) ∧
    (s.chip.tier.busy = true →
      let u := s.chip.updTier (fun t => { t with busy := false })
      (u.commitCheck = 0 → exec .commitComplete s = .next (s.to ((u.updTier (fun t =>
        { t with active := t.shadow, depth := u.shadowDepth, nch := u.channels.length, err := 0,
                 cap := (List.range u.build.nsp).foldl (fun t k => Tab.set 0 k (u.caplg k) t) [],
                 chen := (List.range u.build.nsp).foldl (fun t k => Tab.set 0 k (u.reg (Reg.tnChen k)) t) [] })).commitResumes))) ∧
      (u.commitCheck ≠ 0 → exec .commitComplete s = .next (s.to ((u.cmtFail u.commitCheck).commitResumes)))) ∧
    (s.chip.tier.busy = false → exec .commitComplete s = .next s)

/-- Invalidations of translations (R337): a write starts one unless one is in progress or its partition is absent; every entry
that it covers is gone from the L1 and L2 TLBs; it is complete when every request translated
before it, and every walk begun before it, that it may cover has been answered.
The translation queues' registers are the partition's (R345). -/
def Obligations.Invalidations : Prop :=
  ∀ (s : State) (p : Nat) (asid : BitVec 16),
    (s.chip.takesWrites → s.chip.accepted.inv = none → p < s.chip.accepted.build.npart →
      exec .trInvAll s = Chip.wrote (s.chip.accepted.invalidate 0 0 0) s ∧
      exec (.trInvPartition p) s = Chip.wrote (s.chip.accepted.invalidate 1 p 0) s ∧
      exec (.trInvAsid p asid) s = Chip.wrote (s.chip.accepted.invalidate 2 p asid) s ∧
      exec (.trInvAsidPage p asid) s = Chip.wrote (s.chip.accepted.invalidate 3 p asid) s ∧
      exec (.trInvGlobalPage p) s = Chip.wrote (s.chip.accepted.invalidate 4 p 0) s) ∧
    (s.chip.takesWrites → s.chip.accepted.inv.isSome = true →
      ∀ i ∈ [Instr.trInvAll, .trInvPartition p, .trInvAsid p asid, .trInvAsidPage p asid, .trInvGlobalPage p],
        exec i s = Chip.refusedAs s.chip.accepted s) ∧
    (∀ scope, let t := s.chip.invalidate scope p asid
      ∃ i, t.inv = some i ∧ i.scope = scope ∧ i.part = p ∧ i.asid = asid ∧ (∀ e ∈ t.l2, e ∈ s.chip.l2 ∧ i.covers e = false) ∧
        ∀ m, m < s.chip.build.nmov → ∀ e ∈ (t.movAt m).l1, e ∈ (s.chip.movAt m).l1 ∧ i.covers e = false) ∧
    (∀ i, s.chip.inv = some i →
      ((∀ l ∈ s.chip.leavesInUse, l.epoch < i.epoch → i.covers l.e = false) →
        (∀ w ∈ s.chip.walks, w.epoch < i.epoch → ∃ e, w.ans = some (.leaf e) ∧ i.covers e = false) →
        exec .invalidationComplete s = .next (s.to { s.chip with inv := none })) ∧
      (∀ r ∈ s.chip.allRequests, ∀ l, r.tr = some l → l.epoch < i.epoch → i.covers l.e = true →
        exec .invalidationComplete s = .next s)) ∧
    (∀ q r v, s.chip.takesWrites → q < 2 * s.chip.accepted.build.npart → q < 16 →
      exec (.trqEnable q r v) s = .next (s.to (s.chip.accepted.ringWrite (Reg.trq q 0) r (.trq q) v)))

/-! ### Faults and interrupts -/

/-- Fault registers (R455, R463, R470–R472, R475): FC_ACK frees exactly the records written 1; FC_SWREP reports SDC SWSDC; a
word of FC_INJ that does not arm is stored, one that arms needs GUARD and factory test mode and fields that agree, and an
armed injection fires once, as a report of its source, a broken pair or a corrected symbol; SHD_CFG and SHD_SEED outside their ranges are refused. That the report of an injection arises at
once is log 13. -/
def Obligations.FaultRegisters : Prop :=
  ∀ (s : State) (off : Nat) (v : Word),
    let a := s.chip.accepted
    (s.chip.clocked = true → ∃ t : Chip, exec (.fcAck v) s = Chip.wrote t s ∧ t.mem = s.chip.mem ∧ t.ctx = s.chip.ctx ∧ t.regs = s.chip.regs ∧
      ∀ r, r < 16 → t.recAt r = if bitB v r then (s.chip.recAt r).map (fun x => { x with valid := false }) else s.chip.recAt r) ∧
    (s.chip.takesWrites → exec (.fcSwrep v) s = Chip.wrote (a.report
      { src := Src.swsdc, kind := .shared, unit := 5, ctx := if bitB v 7 then some (fldN v 8 8) else none,
        part := if bitB v 3 then some (fldN v 4 3) else none, detail := some (at64 0 (fldN v 32 32)) }) s) ∧
    (s.chip.takesWrites → bitB v 0 = false → exec (.fcInjArm v) s = .next (s.to (fcInjStore v a))) ∧
    (s.chip.takesWrites → bitB v 0 = true → a.unlocked = false → exec (.fcInjArm v) s = Chip.refusedAs (a.logCtl Src.guardref 0) s) ∧
    (s.chip.takesWrites → bitB v 0 = true → a.unlocked = true → a.pins.ftm = true →
      (injMatches v = true → exec (.fcInjArm v) s = .next (s.to (fcInjStore v { a with guard := .closed }))) ∧
      (injMatches v = false → exec (.fcInjArm v) s = Chip.refusedAs { a with guard := .closed } s)) ∧
    (∀ k, bitB (s.chip.reg Reg.fcInj) 0 = true → unitKindOf (fldN (s.chip.reg Reg.fcInj) 40 8) = some k → s.chip.phase ≠ .porst →
      let w := s.chip.reg Reg.fcInj
      let src := fldN w 48 8
      let unit := fldN w 32 8
      let fired := s.chip.setReg Reg.fcInj (setBit (setBit w 0 false) 1 true)
      (fldN w 24 2 = 0 → srcAssigned src = true → exec .injectionFire s = .next (s.to (fired.report { src := src, kind := k, unit := unit }))) ∧
      (fldN w 24 2 = 1 → src ∉ (s.chip.unitStat k unit).masked → ∃ t : Chip, exec .injectionFire s = .next (s.to t) ∧ t.regs = fired.regs ∧
        t.fc.pend = foldReport { src := Src.wire (unitSubsystem k unit), kind := k, unit := unit, detail := some (at64 0 src) } s.chip.fc.pend) ∧
      (fldN w 24 2 = 2 → fldN w 26 2 = 1 → src ≤ 0x0F → ∃ pos, pos < 36 ∧
        let rep : Report := { src := Src.eccC src, kind := k, unit := unit, detail := some (at64 0 pos) }
        exec .injectionFire s = .next (s.to ((({ fired with free := fired.free + 1 } : Chip).countEcc rep).report rep)))) ∧
    (bitB (s.chip.reg Reg.fcInj) 0 = false → exec .injectionFire s = .next s) ∧
    (s.chip.takesWrites → off = Reg.shdCfg →
      (fldN v 0 5 ≤ 20 → fldN v 24 16 ≠ 0 →
        exec (.shdConfigWrite off v) s = Chip.wrote ((a.setReg off (v &&& (maskBits 24 16 ||| maskBits 8 1 ||| maskBits 0 5))).loadLfsrs) s) ∧
      (20 < fldN v 0 5 ∨ fldN v 24 16 = 0 → exec (.shdConfigWrite off v) s = Chip.refusedAs a s)) ∧
    (s.chip.takesWrites → off = Reg.shdSeed →
      (fldN v 0 32 ≠ 0 → exec (.shdConfigWrite off v) s = Chip.wrote ((a.setReg off (v &&& maskBits 0 32)).loadLfsrs) s) ∧
      (fldN v 0 32 = 0 → exec (.shdConfigWrite off v) s = Chip.refusedAs a s))

/-- The fault store accepts the held report that comes first (R440, R453): lower source first, then lower unit; it leaves the
held reports. A pair of a unit (R439, R441): it rises to (1, 0) and its source is reported; two bad codes in turn are a broken
pair, reported once and masked; a single bad code is nothing. A word that the scrubber reads (R460–R462): a symbol that the
decoder corrects is counted and reported with its place as ECC-C of the array, a word of row cache data is written back
corrected; one that it cannot correct is ECC-U of the array, and a dirty line has lost its data; a healthy word is nothing. -/
def Obligations.FaultReports : Prop :=
  ∀ (s : State) (k : UnitKind) (u pair sub : Nat),
    (s.chip.clocked = true → s.chip.phase ≠ .porst → s.chip.fc.pend ≠ [] → ∃ p ∈ s.chip.fc.pend,
      exec (.reportAccept []) s = .next (s.to
        (({ s.chip with fc := { s.chip.fc with pend := s.chip.fc.pend.erase p } } : Chip).acceptReport p)) ∧
      ∀ q ∈ s.chip.fc.pend, reportBefore q.rep p.rep = false) ∧
    (s.chip.fc.pend = [] → exec (.reportAccept []) s = .next s) ∧
    (s.chip.phase ≠ .porst → srcAssigned pair = true →
      exec (.brokenWire k u ⟨pair, [2#2]⟩ sub) s = .next (s.to (s.chip.report { src := pair, kind := k, unit := u }))) ∧
    (∀ x, badCode x = true →
      exec (.brokenWire k u ⟨pair, [x]⟩ sub) s = .next s ∧ exec (.brokenWire k u ⟨pair, [x, 1#2, x]⟩ sub) s = .next s ∧
      ∀ y, badCode y = true → s.chip.phase ≠ .porst → 1 ≤ sub → sub ≤ 23 → pair < 65536 →
        (pair ∈ (s.chip.unitStat k u).masked → exec (.brokenWire k u ⟨pair, [x, y]⟩ sub) s = .next s) ∧
        (pair ∉ (s.chip.unitStat k u).masked → ∃ t : Chip, exec (.brokenWire k u ⟨pair, [x, y]⟩ sub) s = .next (s.to t) ∧
          pair ∈ (t.unitStat k u).masked ∧ (t.unitStat k u).pair = pair ∧
          t.fc.pend = foldReport { src := Src.wire sub, kind := k, unit := u, detail := some (at64 0 pair) } s.chip.fc.pend ∧
          t.mem = s.chip.mem ∧ t.ctx = s.chip.ctx ∧ t.regs = s.chip.regs)) ∧
    (∀ (a loc : Nat) (flip : BitVec 288), s.chip.phase = .run → s.chip.regF Reg.fcScrub 0 16 ≠ 0 → scrubbed a = true →
      let found := rsDecode (toBytes 36 flip.toNat)
      let corrected := fun (k : UnitKind) (u pos : Nat) (t : Chip) =>
        let rep : Report := { src := Src.eccC a, kind := k, unit := u, detail := some (at64 0 pos ||| at64 62 1) }
        Host.Outcome.next (s.to ((t.countEcc rep).report rep))
      (a ≠ 0 →
        (found = .ok → exec (.scrubRead ⟨a, k, u, loc⟩ flip) s = .next s) ∧
        (∀ pos x, found = .fixed pos x → exec (.scrubRead ⟨a, k, u, loc⟩ flip) s = corrected k u pos s.chip) ∧
        (∀ e, found = .bad → eccuOf a = some e →
          exec (.scrubRead ⟨a, k, u, loc⟩ flip) s = .next (s.to (s.chip.report { src := e, kind := k, unit := u, detail := some (at64 62 1) })))) ∧
      (a = 0 →
        let g := granuleOf loc
        let j := loc % 256 / 32 * 32
        let l := s.chip.lineAt g
        let word := (rsWord (toBytes 32 (fld l.data (8 * j) 256).toNat)).zipWith (fun a b => a ^^^ b) (toBytes 36 flip.toNat)
        (rsDecode word = .ok → exec (.scrubRead ⟨a, k, u, loc⟩ flip) s = .next s) ∧
        (∀ pos x, rsDecode word = .fixed pos x → exec (.scrubRead ⟨a, k, u, loc⟩ flip) s =
          corrected .bank (Config.rcBank g % 64) pos (s.chip.updLine g (fun l =>
            { l with data := mergeMask (wide (byteMask j 32)) l.data (granuleBytes j ((rsFix word (.fixed pos x)).take 32)) }))) ∧
        (rsDecode word = .bad → l.dirty ≠ 0 → exec (.scrubRead ⟨a, k, u, loc⟩ flip) s =
          .next (s.to ((s.chip.updLine g (fun l => { l with lost := true })).report
            { src := Src.eccuRcdata, kind := .bank, unit := Config.rcBank g % 64, part := some l.part, detail := some (at64 62 1) })))))

/-- The registers of the interrupt controller (R507, R508, R518, R521, R526–R528): sources are set and cleared pending, masked
and unmasked one by one; IC_SRC is refused while its source is in use; an end of interrupt ends the ACTIVE source, a level
source whose input is still asserted pending again, or sets EOIERR. Sources that a build lacks are left alone. -/
def Obligations.InterruptRegisters : Prop :=
  ∀ (s : State) (k n t : Nat) (v : Word), s.chip.takesWrites →
    let a := s.chip.accepted
    (exec (.icPset k v) s = Chip.wrote ((a.srcSet k v).foldl (fun s n => s.raise n false) a) s) ∧
    (exec (.icPclr k v) s = Chip.wrote ((a.srcSet k v).foldl Chip.clearPend a) s) ∧
    (∃ u : Chip, exec (.icMset k v) s = Chip.wrote u s ∧
      (∀ n, u.srcAt n = if n ∈ a.srcSet k v then { a.srcAt n with mask := true } else a.srcAt n) ∧
      (∀ n, n ∈ u.irq.grace ↔ n ∈ a.irq.grace ∨ n ∈ a.srcSet k v ∧ (a.srcAt n).mask = false)) ∧
    (∃ u : Chip, exec (.icMclr k v) s = Chip.wrote u s ∧
      (∀ n, u.srcAt n = if n ∈ a.srcSet k v then { a.srcAt n with mask := false } else a.srcAt n) ∧
      (∀ n, n ∈ u.irq.grace ↔ n ∈ a.irq.grace ∧ n ∉ a.srcSet k v)) ∧
    ((∃ i, i < 32 ∧ (bitB (a.reg Reg.icEvtcfg ^^^ v) i = true ∨ bitB (a.reg Reg.icEvtcfg ^^^ v) (32 + i) = true) ∧
        ((a.srcAt (736 + i)).mask = false ∨ (a.srcAt (736 + i)).active = true)) → exec (.icEvtcfg v) s = Chip.refusedAs a s) ∧
    ((∀ i, i < 32 → (a.srcAt (736 + i)).mask = true ∧ (a.srcAt (736 + i)).active = false) →
      ∃ u : Chip, exec (.icEvtcfg v) s = Chip.wrote u s ∧ u.reg Reg.icEvtcfg = v) ∧
    (a.srcPresent n = true →
      let x := a.srcAt n
      let y := { x with prio := fldN v 0 8, target := fldN v 8 3, nmi := bitB v 11 }
      (y ≠ x → x.mask = true → x.active = false → a.presented n = false → exec (.icSrc n v) s = Chip.wrote (a.updSrc n (fun _ => y)) s) ∧
      (y ≠ x → x.mask = false ∨ x.active = true ∨ a.presented n = true → exec (.icSrc n v) s = Chip.refusedAs a s) ∧
      exec (.icSst n v) s = Chip.wrote (a.updSrc n (fun x =>
        { x with phant := fldN v 24 8, cnt := fldN v 16 8, lost := x.lost && !bitB v 6, storm := x.storm && !bitB v 7 })) s) ∧
    (t < 8 →
      (fldN v 0 10 < 768 → a.activeOn t (fldN v 0 10) = true → a.lvlOf (fldN v 0 10) = false →
        exec (.icEoi t v) s = Chip.wrote (a.updSrc (fldN v 0 10) (fun x => { x with active := false, actNmi := false })) s) ∧
      (fldN v 0 10 < 768 → a.activeOn t (fldN v 0 10) = true → a.lvlOf (fldN v 0 10) = true →
        exec (.icEoi t v) s = Chip.wrote (a.updSrc (fldN v 0 10) (fun x =>
          IrqSrc.again a.time { x with active := false, actNmi := false })) s) ∧
      (768 ≤ fldN v 0 10 ∨ a.activeOn t (fldN v 0 10) = false →
        exec (.icEoi t v) s = Chip.wrote (a.updTgt t (fun x => { x with eoierr := true })) s) ∧
      (fldN v 16 16 ≠ 0 → fldN v 8 4 = (a.tgtAt t).prigroup → (a.tgtAt t).prigroup ≤ 8 →
        exec (.icTcfg t v) s = Chip.wrote (a.updTgt t (fun x =>
          { x with vptmo := fldN v 16 16, prigroup := fldN v 8 4, en := bitB v 0 })) s) ∧
      (fldN v 16 16 = 0 ∨ 8 < fldN v 8 4 → exec (.icTcfg t v) s = Chip.refusedAs a s))

/-- Vectors and events (R502–R506, R512–R519, R522): a free enabled port presents the most urgent candidate, a pending NMI
before every other; a mask write may come too late for one selected (R521); a claim makes it ACTIVE and no longer pending; a vector not claimed in time is withdrawn and its port is
disabled; inputs raise their sources, and a level that falls clears what it
raised; a source that passes 1,024 in a window is a storm, once. -/
def Obligations.InterruptDelivery : Prop :=
  ∀ (s : State) (t n i : Nat),
    (t < 8 → (s.chip.tgtAt t).en = true → (s.chip.tgtAt t).pres = none →
      let ready := fun (j : Nat) => s.chip.candidate t j = true ∧ ((s.chip.srcAt j).nmireq = true ∨ s.chip.preempts t j = true)
      ((∃ j ∈ s.chip.srcKeys, ready j) → s.chip.nmiActive t = false → ∃ m ∈ s.chip.srcKeys, ready m ∧
        exec (.vectorPresent t none) s = .next (s.to (s.chip.updTgt t (fun x =>
          { x with pres := some (m, (s.chip.srcAt m).nmireq), presAt := s.chip.time, ackHigh := none }))) ∧
        ((s.chip.srcAt m).nmireq = true ∨ ∀ j ∈ s.chip.srcKeys, s.chip.candidate t j = true → (s.chip.srcAt j).nmireq = false) ∧
        ∀ j ∈ s.chip.srcKeys, ready j → (s.chip.srcAt j).nmireq = (s.chip.srcAt m).nmireq →
          (s.chip.srcAt m).prio < (s.chip.srcAt j).prio ∨ ((s.chip.srcAt m).prio = (s.chip.srcAt j).prio ∧ m ≤ j)) ∧
      (s.chip.nmiActive t = true ∨ (∀ j ∈ s.chip.srcKeys, ¬ ready j) → exec (.vectorPresent t none) s = .next s) ∧
      (n ∈ s.chip.irq.grace → s.chip.wants t n = true → s.chip.nmiActive t = false → s.chip.preempts t n = true →
        exec (.vectorPresent t (some n)) s = .next (s.to (s.chip.updTgt t (fun x =>
          { x with pres := some (n, (s.chip.srcAt n).nmireq), presAt := s.chip.time, ackHigh := none }))))) ∧
    (∀ nmi, (s.chip.tgtAt t).pres = some (n, nmi) → s.chip.isLevel n = false →
      exec (.vectorClaim t) s = .next (s.to ((s.chip.updTgt t (fun x => { x with pres := none, ackHigh := some s.chip.time })).updSrc n
        (fun x => { x with pend := false, nmireq := false, byLevel := false, active := true, actNmi := nmi })))) ∧
    (t < 8 → (s.chip.tgtAt t).pres = none → (s.chip.tgtAt t).ackHigh = none → exec (.vpackTimeout t) s = .next s) ∧
    (t < 8 → s.chip.vpackDue t = true → exec (.vpackTimeout t) s =
      .next (s.to ((s.chip.updTgt t (fun x => { x with pres := none, ackHigh := none, en := false })).report
        { src := Src.vpack, kind := .shared, unit := 6, detail := some (at64 0 t) }))) ∧
    (i < 32 → s.chip.evtEn i = true →
      (s.chip.evtLevel i = false → ∀ merged, exec (.evtEdge i merged) s =
        .next (s.to ((s.chip.raise (736 + i) false).updSrc (736 + i) (fun x => { x with lost := x.lost || merged })))) ∧
      (s.chip.evtLevel i = true → bitB s.chip.irq.lvl i = false → (s.chip.srcAt (736 + i)).active = true →
        exec (.evtLevelRise i) s = .next (s.to { s.chip with irq := { s.chip.irq with lvl := setBit s.chip.irq.lvl i true } })) ∧
      (s.chip.evtLevel i = true → bitB s.chip.irq.lvl i = false → (s.chip.srcAt (736 + i)).active = false →
        exec (.evtLevelRise i) s = .next (s.to (({ s.chip with irq := { s.chip.irq with lvl := setBit s.chip.irq.lvl i true } } : Chip).updSrc (736 + i)
          (fun x => { x.event s.chip.time false with byLevel := x.byLevel || !x.pend })))) ∧
      (bitB s.chip.irq.lvl i = true → (s.chip.srcAt (736 + i)).byLevel = true → s.chip.presented (736 + i) = false →
        exec (.evtLevelFall i) s = .next (s.to (({ s.chip with irq := { s.chip.irq with lvl := setBit s.chip.irq.lvl i false } } : Chip).updSrc (736 + i)
          (fun x => { x with pend := false, nmireq := false, byLevel := false })))) ∧
      (bitB s.chip.irq.lvl i = true → (s.chip.srcAt (736 + i)).byLevel = false →
        exec (.evtLevelFall i) s = .next (s.to { s.chip with irq := { s.chip.irq with lvl := setBit s.chip.irq.lvl i false } }))) ∧
    (n < 768 → 1024 < (s.chip.srcAt n).winCnt → (s.chip.srcAt n).winRep = false →
      exec (.stormWindow n) s = .next (s.to ((s.chip.updSrc n (fun x => { x with storm := true, winRep := true })).report
        { src := Src.irqstorm, kind := .shared, unit := 6, detail := some (at64 0 n) })))

/-! ### Registers, power-on, recovery -/

/-- A register write (R533, R538–R540): a wrong size, a misaligned offset or one outside the register space is answered DECERR
and reported; with RST_DONE 0 every other write but one of FC_ACK is answered ERR; else the write is that of the register
the offset names, with its rules: the command that the table has for it. The test access port (R564–R567): TRST_N and five edges with
TMS = 1 reset it and select IDCODE; IDCODE and BYPASS are captured and shifted out; a scanned instruction is selected, a code
not listed as BYPASS; EXTEST and SAMPLE/PRELOAD update the boundary, NETACC makes a write through the IEEE 1687 network: outside
factory test mode it is ignored and logged; in it the read-out of a sensor and a fuse shadow word are written as they stand,
any other register as a register write is. The state table is IEEE 1149.1's, which the spec names; how the scanned bits name
the register is the model's choice (log 98), as it is that no response is driven and GUARD stays the register port's. -/
def Obligations.RegisterWrites : Prop :=
  (∀ (s : State) (v : Word),
     let at_ := fun (off : Nat) (i : Instr) => exec (.registerWrite off 3 v) s = exec i s
     let guardOff := fun (t : Chip) => if t.guard = .key1 then { t with guard := .closed } else t
     (s.chip.clocked = true →
       (∀ off size, size ≠ 3 → exec (.registerWrite off size v) s = .next (s.to
         (((guardOff s.chip).report { src := Src.rpsize, kind := .shared, unit := 0 }).answer .decerr))) ∧
       (∀ off, off % 8 ≠ 0 ∨ 0x120000 ≤ off → exec (.registerWrite off 3 v) s = .next (s.to
         (((guardOff s.chip).report { src := Src.rpaddr, kind := .shared, unit := 0 }).answer .decerr)))) ∧
     (s.chip.clocked = true → s.chip.pins.rstDone = false → ∀ i ∈ [Instr.clkGate v, .gangForm v, .autofill v, .lkCfg v, .rsqTmo v, .icEvtcfg v],
       exec i s = .next (s.to ((guardOff s.chip).answer .err))) ∧
     (s.chip.build.nmov ≤ 64 → s.chip.build.nsp ≤ 24 → s.chip.build.nfp ≤ 8 → s.chip.build.nlp ≤ 16 →
     at_ Reg.glbRst (.glbRst v) ∧ at_ Reg.clkGate (.clkGate v) ∧ at_ Reg.guard (.guard v) ∧ at_ Reg.gangForm (.gangForm v) ∧
     (∀ k, k < 4 → at_ (Reg.partMov k) (.partMov k v) ∧ at_ (Reg.ksPart k) (.ksPart k v)) ∧
     (∀ c, c < 256 → let cmd := fun (n : Nat) (i : Instr) => fldN v 0 4 = n → at_ (Reg.ctx c 0x30) i
       cmd 1 (.bind c) ∧ cmd 2 (.unbind c) ∧ cmd 3 (.start c) ∧ cmd 4 (.stop c) ∧ cmd 5 (.resume c) ∧ cmd 6 (.abort c) ∧ cmd 7 (.clear c) ∧
       cmd 8 (.loadregs c) ∧ cmd 9 (.saveregs c)) ∧
     (∀ m, m < 64 → (bitB v 0 = true → at_ (Reg.mov m 0x10) (.invall m)) ∧
       (bitB v 0 = false → bitB v 1 = true → at_ (Reg.mov m 0x10) (.invasid m (fld v 16 16)))) ∧
     (fldN v 0 3 = 0 → at_ Reg.trInv .trInvAll) ∧ (fldN v 0 3 = 1 → at_ Reg.trInv (.trInvPartition (fldN v 8 3))) ∧
     (fldN v 0 3 = 2 → at_ Reg.trInv (.trInvAsid (fldN v 8 3) (fld v 16 16))) ∧
     (fldN v 0 3 = 3 → at_ Reg.trInv (.trInvAsidPage (fldN v 8 3) (fld v 16 16))) ∧
     (fldN v 0 3 = 4 → at_ Reg.trInv (.trInvGlobalPage (fldN v 8 3))) ∧
     (∀ q r, q < 16 → r < 64 → r % 8 = 0 → at_ (Reg.trq q r) (.trqEnable q r v)) ∧
     (∀ off ∈ [Reg.tnCfg, Reg.tnRes, Reg.tpWin], at_ off (.regionConfigWrite off v)) ∧
     at_ Reg.cmtCtl (.autofill v) ∧ at_ Reg.cmtCtl (.commit v) ∧
     at_ Reg.lkCfg (.lkCfg v) ∧ (∀ n, n < 16 → at_ (Reg.lk n 0) (.lkPctl n v)) ∧
     (∀ p e r, p < 8 → e < 64 → r < 32 → r % 8 = 0 → at_ (Reg.rt p e r) (.rtEntryWrite p e r v)) ∧ (∀ w r, w < 256 → r < 32 → r % 8 = 0 → at_ (Reg.lw w r) (.lwWrite w r v)) ∧
     (∀ k, k < 12 → at_ (Reg.icPset k) (.icPset k v) ∧ at_ (Reg.icPclr k) (.icPclr k v) ∧ at_ (Reg.icMset k) (.icMset k v) ∧
       at_ (Reg.icMclr k) (.icMclr k v)) ∧
     at_ Reg.icEvtcfg (.icEvtcfg v) ∧ (∀ t, t < 8 → at_ (Reg.icTgt t 8) (.icTcfg t v) ∧ at_ (Reg.icTgt t 0x10) (.icEoi t v)) ∧
     (∀ n, n < 768 → at_ (Reg.icSrc n) (.icSrc n v) ∧ at_ (Reg.icSst n) (.icSst n v)) ∧
     at_ Reg.fcAck (.fcAck v) ∧ at_ Reg.fcSwrep (.fcSwrep v) ∧ at_ Reg.fcInj (.fcInjArm v) ∧
     (∀ off ∈ [Reg.shdCfg, Reg.shdSeed], at_ off (.shdConfigWrite off v)) ∧
     at_ Reg.rsqTmo (.rsqTmo v) ∧ at_ Reg.rsqDump (.rsqDump v) ∧ (fldN v 0 2 = 1 → at_ Reg.rsqReq (.rsqMoverReset (fldN v 8 8))) ∧
     (fldN v 0 2 = 2 → at_ Reg.rsqReq (.rsqPartitionReset (fldN v 8 8))) ∧
     (∀ off ∈ [Reg.govSplit, Reg.govCred, Reg.govArb], at_ off (.govConfigWrite off v)) ∧ at_ Reg.rcEmbcfg (.rcEmbcfg v) ∧
     (∀ i, i < 20 → at_ (snsReg i) (.snsUseroff (snsReg i) v)) ∧ (∀ off ∈ [Reg.snsTthr, Reg.snsVthr], at_ off (.snsThreshold off v)) ∧
     at_ Reg.trcCfg (.trcCfg v) ∧
     (∀ n, n < 4096 → at_ (Reg.ksVal n) (.ksVal n v) ∧ at_ (Reg.ksAdd n) (.ksAdd n v)) ∧ (∀ w, w < 16 → at_ (Reg.kwatchCfg w) (.kwatchCfg w v)))) ∧
  (∀ (s : State) (off : Nat) (v : Word) (tdi : Bool),
     let tap := s.chip.tap
     let edge := fun (tms : Bool) => exec (.tapNetaccWrite [.edge tms tdi] ⟨off, v⟩) s
     let at_ := fun (f : TapFsm) => s.chip.updTap (fun t => { t with fsm := f })
     exec (.tapNetaccWrite [.trst] ⟨off, v⟩) s = .next (s.to (s.chip.updTap (fun t => { t with fsm := .reset, ir := 0x02 }))) ∧
     (∃ t : Chip, exec (.tapNetaccWrite (List.replicate 5 (.edge true tdi)) ⟨off, v⟩) s = .next (s.to t) ∧ t.tap.fsm = .reset ∧ t.tap.ir = 0x02) ∧
     (tap.fsm = .capDr → tap.ir = 0x02 →
       edge false = .next (s.to (s.chip.updTap (fun t => { t with fsm := .shiftDr, dr := s.chip.idcode.toNat })))) ∧
     (tap.fsm = .capDr → tapInstr tap.ir = .bypass → edge false = .next (s.to (s.chip.updTap (fun t => { t with fsm := .shiftDr, dr := 0 })))) ∧
     (tap.fsm = .shiftDr → edge false = .next (s.to (s.chip.updTap (fun t =>
         { t with dr := t.dr / 2 + (if tdi then 2 ^ ((tapInstr t.ir).len - 1) else 0) }))) ∧ tap.tdo = some (tap.dr.testBit 0)) ∧
     (tap.fsm = .exit1Ir ∨ tap.fsm = .exit2Ir → edge true = .next (s.to (s.chip.updTap (fun t => { t with fsm := .updIr, ir := t.irs })))) ∧
     (tap.fsm = .exit1Dr ∨ tap.fsm = .exit2Dr →
       (tap.ir = 0x00 ∨ tap.ir = 0x01 → edge true = .next (s.to (s.chip.updTap (fun t => { t with fsm := .updDr, bnd := t.dr })))) ∧
       (tap.ir = 0x10 → edge true = .next (s.to (netWrite off v (at_ .updDr))))) ∧
     (∀ c : BitVec 8, c ≠ 0x00 → c ≠ 0x01 → c ≠ 0x02 → c ≠ 0x10 → tapInstr c = .bypass ∧ (tapInstr c).len = 1)) ∧
  (∀ (s : State) (off : Nat) (v : Word), s.chip.clocked = true →
     let u := netWrite off v s.chip
     (s.chip.pins.ftm = false → u = s.chip.logCtl Src.guardref 8) ∧
     (s.chip.pins.ftm = true →
       (∀ k, k < 64 → off = Reg.fuseShd k → u = s.chip.setReg off (mergeMask (maskBits 0 32) (s.chip.reg off) v)) ∧
       (∀ i, i < 20 → off = snsReg i → u = s.chip.setReg off (mergeMask (maskBits 0 49) (s.chip.reg off) v)) ∧
       (off < 0x120000 → off % 8 = 0 → netRaw off = 0 → off ≠ Reg.guard → ∃ t : Chip, exec (.registerWrite off 3 v) s = .next (s.to t) ∧
         u.regs = t.regs ∧ u.mem = t.mem ∧ u.ctx = t.ctx ∧ u.irq = t.irq ∧ u.rp = s.chip.rp) ∧
       (off = Reg.guard ∨ 0x120000 ≤ off → u = s.chip)))

/-- GUARD (R589–R591): the two keys in turn open a window of 10 ms while the presence strap is asserted; any other write closes
it and is refused and logged; the window ends by itself. -/
def Obligations.GuardUnlocks : Prop :=
  ∀ (s : State) (v : Word),
    (s.chip.takesWrites → s.chip.pins.presenceN = false →
      (s.chip.guardNow = .closed → fldN v 0 16 = 0x00A5 → exec (.guard v) s = Chip.wrote { s.chip with guard := .key1 } s) ∧
      (s.chip.guardNow = .key1 → fldN v 0 16 = 0x005A →
        exec (.guard v) s = Chip.wrote { s.chip with guard := .opened (s.chip.time + 1000000) } s) ∧
      (s.chip.guardNow = .closed → fldN v 0 16 ≠ 0x00A5 →
        exec (.guard v) s = Chip.refusedAs (({ s.chip with guard := .closed } : Chip).logCtl Src.guardref 0) s) ∧
      (s.chip.guardNow = .key1 → fldN v 0 16 ≠ 0x005A →
        exec (.guard v) s = Chip.refusedAs (({ s.chip with guard := .closed } : Chip).logCtl Src.guardref 0) s)) ∧
    (s.chip.takesWrites → s.chip.pins.presenceN = true →
      exec (.guard v) s = Chip.refusedAs (({ s.chip with guard := .closed } : Chip).logCtl Src.guardref 0) s) ∧
    (∀ till, s.chip.guard = .opened till →
      (till ≤ s.chip.time → exec .guardExpiry s = .next (s.to { s.chip with guard := .closed })) ∧
      (s.chip.time < till → exec .guardExpiry s = .next s))

/-- Configuration registers (R276, R397, R477, R500, R501, R582, R585, R595, R605, R608): a word in the stated ranges is stored
under its fields and answered OK, or asks the sequencer for its rung; another is refused and nothing is stored. -/
def Obligations.ConfigurationWrites : Prop :=
  ∀ (s : State) (off i t : Nat) (v : Word), s.chip.takesWrites →
    let a := s.chip.accepted
    (exec (.clkGate v) s = Chip.wrote (a.setReg Reg.clkGate (v &&& maskBits 0 1)) s) ∧
    (i < 20 → off = snsReg i →
      let u := sextN 16 (fldN v 32 16)
      let m : Int := if i < 16 then 64 else 32
      (-m ≤ u → u ≤ m → exec (.snsUseroff off v) s = Chip.wrote (a.setReg off (mergeMask (maskBits 32 16) (a.reg off) v)) s) ∧
      (u < -m ∨ m < u → exec (.snsUseroff off v) s = Chip.refusedAs a s)) ∧
    (off = Reg.snsTthr →
      (sextN 16 (fldN v 0 16) < sextN 16 (fldN v 16 16) → sextN 16 (fldN v 16 16) ≤ 500 →
        exec (.snsThreshold off v) s = Chip.wrote (a.setReg off (v &&& maskBits 0 32)) s) ∧
      (sextN 16 (fldN v 16 16) ≤ sextN 16 (fldN v 0 16) ∨ 500 < sextN 16 (fldN v 16 16) →
        exec (.snsThreshold off v) s = Chip.refusedAs a s)) ∧
    (tracesOthers v = false → exec (.trcCfg v) s = .next (s.to (trcStore v a))) ∧
    (tracesOthers v = true → a.unlocked = false → exec (.trcCfg v) s = Chip.refusedAs (a.logCtl Src.guardref 0) s) ∧
    (fldN v 32 16 ≠ 0 → fldN v 0 10 ≠ 0 → fldN v 0 10 ≤ 1000 → a.allIdle = true →
      exec (.rsqTmo v) s = Chip.wrote (a.setReg Reg.rsqTmo (v &&& (maskBits 32 16 ||| maskBits 0 10))) s) ∧
    (fldN v 32 16 = 0 ∨ fldN v 0 10 = 0 ∨ 1000 < fldN v 0 10 → exec (.rsqTmo v) s = Chip.refusedAs a s) ∧
    (bitB (a.reg Reg.rsqDump) 0 = false ∨ bitB v 0 = false →
      exec (.rsqDump v) s = Chip.wrote (a.setReg Reg.rsqDump (mergeMask (maskBits 20 28 ||| maskBits 8 4 ||| maskBits 0 1) (a.reg Reg.rsqDump) v)) s) ∧
    (t < a.build.nmov → a.movCovered t = false →
      exec (.rsqMoverReset t) s = Chip.wrote (a.request { kind := .mover, obj := t, origin := .host }) s) ∧
    (a.build.nmov ≤ t ∨ a.movCovered t = true → exec (.rsqMoverReset t) s = Chip.refusedAs a s) ∧
    (t < a.build.npart → a.inReset t = false →
      exec (.rsqPartitionReset t) s = Chip.wrote (a.request { kind := .partition, obj := t, origin := .host }) s) ∧
    (a.build.npart ≤ t ∨ a.inReset t = true → exec (.rsqPartitionReset t) s = Chip.refusedAs a s) ∧
    (bitB v 0 = true → fldN v 8 8 = 0xC3 →
      exec (.glbRst v) s = Chip.wrote (a.request { kind := .block, obj := 0, origin := .glbRst }) s) ∧
    (bitB v 0 = true → fldN v 8 8 ≠ 0xC3 → exec (.glbRst v) s = Chip.refusedAs a s) ∧
    (off = Reg.govSplit ∨ off = Reg.govCred ∨ off = Reg.govArb →
      (a.allIdle = true → govRange a.build off v = true → exec (.govConfigWrite off v) s = Chip.wrote (a.setReg off (v &&& govMask off)) s) ∧
      (a.allIdle = false ∨ govRange a.build off v = false → exec (.govConfigWrite off v) s = Chip.refusedAs (a.logCtl Src.govcfg 4) s)) ∧
    (a.build.rcache ≠ 0 →
      (8 ≤ fldN v 8 8 → exec (.rcEmbcfg v) s = Chip.wrote (a.setReg Reg.rcEmbcfg (v &&& (maskBits 8 8 ||| maskBits 0 2))) s) ∧
      (fldN v 8 8 < 8 → exec (.rcEmbcfg v) s = Chip.refusedAs a s))

/-- The link engine's registers (R434–R437): LK_CFG keeps its identity while a port is enabled; a port's configuration changes
only while it is disabled, and setting EN makes it wait for its PCS; an enabled target entry or landing window is closed to
changes. -/
def Obligations.LinkRegisters : Prop :=
  ∀ (s : State) (n p e w : Nat) (v : Word), s.chip.takesWrites → s.chip.accepted.build.nlp ≠ 0 →
    let a := s.chip.accepted
    let rest := maskBits 11 5 ||| maskBits 4 3 ||| maskBits 2 2
    (fldN v 32 16 ≠ 0 → fldN v 32 16 ≤ 1000 →
      (fldN v 0 14 = fldN (a.reg Reg.lkCfg) 0 14 ∨ a.noPortEn = true →
        exec (.lkCfg v) s = Chip.wrote (a.setReg Reg.lkCfg (v &&& (maskBits 32 16 ||| maskBits 0 14))) s) ∧
      (fldN v 0 14 ≠ fldN (a.reg Reg.lkCfg) 0 14 → a.noPortEn = false → exec (.lkCfg v) s = Chip.refusedAs a s)) ∧
    (n < a.build.nlp → fldN v 2 2 ≠ 0 → fldN v 2 2 ≠ 3 → fldN v 12 4 < a.build.nlp →
      (bitB (a.reg (Reg.lk n 0)) 0 = false → bitB v 0 = true → exec (.lkPctl n v) s =
        Chip.wrote ((a.setReg (Reg.lk n 0) (v &&& (rest ||| maskBits 0 1))).updPort n (fun p => { p with st := .waitPcs, downs := [] })) s) ∧
      (bitB (a.reg (Reg.lk n 0)) 0 = false → bitB v 0 = false →
        exec (.lkPctl n v) s = Chip.wrote (a.setReg (Reg.lk n 0) (v &&& (rest ||| maskBits 0 1))) s) ∧
      (bitB (a.reg (Reg.lk n 0)) 0 = true → v &&& rest ≠ a.reg (Reg.lk n 0) &&& rest → exec (.lkPctl n v) s = Chip.refusedAs a s)) ∧
    (p < a.build.npart → e < 64 →
      (a.rtEn p e = true →
        exec (.rtEntryWrite p e 0x18 v) s = Chip.refusedAs a s ∧ exec (.rtEntryWrite p e 8 v) s = Chip.refusedAs a s ∧
        exec (.rtEntryWrite p e 0x10 v) s = Chip.refusedAs a s ∧ (bitB v 63 = true → exec (.rtEntryWrite p e 0 v) s = Chip.refusedAs a s)) ∧
      (a.rtEn p e = false →
        exec (.rtEntryWrite p e 0x18 v) s = Chip.wrote (a.setReg (Reg.rt p e 0x18) (v &&& maskBits 0 52)) s ∧
        exec (.rtEntryWrite p e 8 v) s = Chip.wrote (a.setReg (Reg.rt p e 8) (v &&& maskBits 0 48)) s ∧
        exec (.rtEntryWrite p e 0x10 v) s = Chip.wrote (a.setReg (Reg.rt p e 0x10) (v &&& maskBits 0 48)) s ∧
        (bitB v 63 = true → routeValid a.build.nlp (a.rtRoute p e) = false ∨ routeValid a.build.nlp (a.rtRroute p e) = false ∨ a.rtSize p e = 0 →
          exec (.rtEntryWrite p e 0 v) s = Chip.refusedAs (a.logCtl Src.rtcfg 42) s) ∧
        (bitB v 63 = true → routeValid a.build.nlp (a.rtRoute p e) = true → routeValid a.build.nlp (a.rtRroute p e) = true → a.rtSize p e ≠ 0 →
          exec (.rtEntryWrite p e 0 v) s = Chip.wrote (a.setReg (Reg.rt p e 0)
            (v &&& (maskBits 62 2 ||| maskBits 52 7 ||| maskBits 32 16 ||| maskBits 0 12))) s))) ∧
    (w < 256 →
      (a.lwEn w = true → exec (.lwWrite w 8 v) s = Chip.refusedAs a s ∧ exec (.lwWrite w 0x10 v) s = Chip.refusedAs a s ∧
        exec (.lwWrite w 0x18 v) s = Chip.refusedAs a s ∧ (bitB v 63 = true → exec (.lwWrite w 0 v) s = Chip.refusedAs a s)) ∧
      (a.lwEn w = false → exec (.lwWrite w 8 v) s = Chip.wrote (a.setReg (Reg.lw w 8) (v &&& maskBits 12 36)) s ∧
        exec (.lwWrite w 0x10 v) s = Chip.wrote (a.setReg (Reg.lw w 0x10) (v &&& maskBits 0 52)) s ∧
        exec (.lwWrite w 0x18 v) s = Chip.wrote (a.setReg (Reg.lw w 0x18) v) s) ∧
      (bitB v 63 = false → fldN v 59 3 < a.build.npart →
        exec (.lwWrite w 0 v) s = Chip.wrote (a.setReg (Reg.lw w 0) (v &&& (maskBits 53 11 ||| maskBits 0 40))) s))

/-- The power-on sequence (R570–R575, R580, R592): each step ends as it says and the next begins; RST_DONE rises at the end.
PORST_N starts it anew from the reset state, with what devices hold as it was. -/
def Obligations.PowerOnSequence : Prop :=
  ∀ (s : State),
    (∃ t : Chip, exec .porstAssert s = .next (s.to t) ∧ t.phase = .porst ∧ t.build = s.chip.build ∧ t.mem = s.chip.mem ∧ t.regs = [] ∧
      t.ctx = [] ∧ t.rsq = {} ∧ t.fc = {} ∧ t.pins.alive = false ∧ t.pins.rstDone = false) ∧
    (∀ presenceN ftmN rclk, s.chip.phase = .porst → ∃ t : Chip, exec (.porstRelease presenceN ftmN rclk) s = .next (s.to t) ∧
      t.phase = .selfTest ∧ t.pins.ftm = (!presenceN && !ftmN) ∧ t.pins.presenceN = presenceN ∧ bitB (t.reg Reg.stupStat) 4 = (!presenceN && !ftmN)) ∧
    (s.chip.phase = .selfTest → s.chip.pins.refclk = true →
      exec (.selfTestDone true) s = .next (s.to { s.chip with phase := .fuses, pins := { s.chip.pins with alive := true, aliveLvl := true } }) ∧
      exec (.selfTestDone false) s = .next (s.to (({ s.chip.pinStop with phase := .selfTestFailed } : Chip).report
        { src := Src.selftest, kind := .sequencer, unit := 0 }))) ∧
    (∀ w, s.chip.phase = .fuses → s.chip.pins.refclk = true → s.chip.fuseIdx < 63 →
      exec (.fuseWordAck w) s = .next (s.to
        { s.chip.setReg (Reg.fuseShd s.chip.fuseIdx) (w.setWidth 64) with fuseIdx := s.chip.fuseIdx + 1 })) ∧
    (∀ w, s.chip.phase = .fuses → s.chip.pins.refclk = true → s.chip.fuseIdx = 63 →
      exec (.fuseWordAck w) s = .next (s.to
        ({ s.chip.setReg (Reg.fuseShd 63) (w.setWidth 64) with fuseIdx := 64 } : Chip).fusesRead)) ∧
    (s.chip.phase = .fuses → s.chip.pins.refclk = true → s.chip.fuseIdx < 64 →
      exec .fuseTimeout s = .next (s.to ((({ s.chip with fuseTmo := true } : Chip).fuseReport).takeFuse 0))) ∧
    (s.chip.phase = .clockWait → s.chip.pins.refclk = true →
      exec .clockStart s = .next (s.to { s.chip with phase := .march, pins := { s.chip.pins with rclkOk := true } })) ∧
    (s.chip.phase = .march → s.chip.pins.refclk = true → ∀ mf, ∃ t : Chip, exec (.marchTestDone mf false []) s = .next (s.to t) ∧
      t.phase = .readyPor ∧ t.reg Reg.stupMovfail = mf &&& maskBits 0 s.chip.build.nmov ∧ t.mem = s.chip.mem) ∧
    (s.chip.phase = .readyPor ∨ s.chip.phase = .readyBlk → s.chip.pins.refclk = true → ∃ t : Chip,
      exec .readyPhaseDone s = .next (s.to t) ∧ t.phase = .run ∧ t.pins.rstDone = true ∧ bitB (t.reg Reg.stupStat) 0 = true ∧
      t.mem = s.chip.mem ∧ t.ctx = s.chip.ctx)

/-- Clocks, straps, ALIVE_O, HRST_N (R473, R474, R532, R536, R576, R607): a window of 97 to 103 pulses is good; two bad ones in
turn report CLKMON outside factory test; HRST_N asks for one block reset until it is released. A conversion of a sensor
while the block runs (R581, R583, R584): RAW and VALUE are written, VALUE as the trims and the user offset make it of RAW,
saturated to 16 bits; a RAW outside the sensor's range, or none for 30 µs, fails the sensor, once. -/
def Obligations.ClocksAndSensors : Prop :=
  (∀ (s : State) (n : Nat) (level : Bool), s.chip.pins.refclk = true →
     let counted := (s.chip.setF Reg.clkStat 8 8 n).setF Reg.clkStat 1 1 1
     (s.chip.clocked = true → 97 ≤ n → n ≤ 103 → exec (.clockMonitorWindow n) s = .next (s.to { counted with clkBad := false })) ∧
     (s.chip.clocked = true → (n < 97 ∨ 103 < n) → s.chip.pins.ftm = false →
       let bad := ({ ((s.chip.setF Reg.clkStat 8 8 n).setF Reg.clkStat 1 1 0).bump Reg.clkStat 16 16 1 with clkBad := true } : Chip)
       (s.chip.clkBad = false → exec (.clockMonitorWindow n) s = .next (s.to bad)) ∧
       (s.chip.clkBad = true → exec (.clockMonitorWindow n) s =
         .next (s.to (bad.report { src := Src.clkmon, kind := .sequencer, unit := 0 })))) ∧
     (s.chip.clocked = true → s.chip.pins.ftm = false → exec .rclkOkLoss s =
       .next (s.to (({ s.chip with pins := { s.chip.pins with rclkOk := false } } : Chip).report { src := Src.clkmon, kind := .sequencer, unit := 0 }))) ∧
     (∃ t : Chip, exec (.presenceChange level) s = .next (s.to t) ∧ t.pins = { s.chip.pins with presenceN := level } ∧
       t.guard = (match s.chip.guard with
         | .opened till => if level && !s.chip.pins.presenceN then .closed else .opened till
         | g => g) ∧ t.regs = s.chip.regs ∧ t.mem = s.chip.mem ∧ t.ctx = s.chip.ctx) ∧
     (s.chip.pins.alive = true → exec .aliveToggle s = .next (s.to { s.chip with pins := { s.chip.pins with aliveLvl := !s.chip.pins.aliveLvl } })) ∧
     (s.chip.pins.alive = false → exec .aliveToggle s = .next s) ∧
     (exec .refclkLoss s = .next (s.to { s.chip with pins := { s.chip.pins with refclk := false } })) ∧
     (s.chip.pins.hrstArmed = true → bitB (s.chip.reg Reg.stupStat) 0 = true → exec .hrst s =
       .next (s.to (({ s.chip with pins := { s.chip.pins with hrstArmed := false } } : Chip).request { kind := .block, obj := 0, origin := .hrst }))) ∧
     (s.chip.pins.hrstArmed = false ∨ bitB (s.chip.reg Reg.stupStat) 0 = false → exec .hrst s = .next s) ∧
     (exec .hrstRelease s = .next (s.to { s.chip with pins := { s.chip.pins with hrstArmed := true } }))) ∧
  ((∀ (trim : Nat) (u raw : Int), -32768 ≤ snsReading trim u raw ∧ snsReading trim u raw ≤ 32767) ∧
   ∀ (s : State) (i : Nat) (raw : BitVec 16), s.chip.phase = .run → i < 20 →
     let r := snsReg i
     let v := snsReading (s.chip.trim i) (sextN 16 (s.chip.regF r 32 16)) (sextN 16 raw.toNat)
     let t : Chip := { (s.chip.setF r 16 16 raw.toNat).setF r 0 16 (BitVec.ofInt 16 v).toNat with snsAt := Tab.set 0 i (s.chip.time + 1) s.chip.snsAt }
     (rawOk i (sextN 16 raw.toNat) = true → exec (.sensorConversion i raw) s = .next (s.to (t.evalEnv i))) ∧
     (rawOk i (sextN 16 raw.toNat) = false → exec (.sensorConversion i raw) s = .next (s.to ((t.snsFail i).evalEnv i))) ∧
     (s.chip.snsStale i = true → exec (.sensorStale i) s = .next (s.to ((s.chip.snsFail i).evalEnv i))) ∧
     (s.chip.snsStale i = false → exec (.sensorStale i) s = .next s) ∧
     (s.chip.snsFailed i = true → s.chip.snsFail i = s.chip))

/-- Rungs (R480–R483, R485, R488–R490, R496, R499, R500): the oldest request is absorbed by a rung it lies inside, or starts; a
missed deadline is reported once; a rung that is done leaves the running ones, and RSQ_LAST names it; a sequencer that fails
stops ALIVE_O, asks for a power cycle and takes no further request. -/
def Obligations.RecoveryRungs : Prop :=
  ∀ (s : State),
    (∀ r rest, s.chip.sequencer = true → s.chip.clocked = true → s.chip.rsq.reqs = r :: rest →
      let t : Chip := { s.chip with rsq := { s.chip.rsq with reqs := rest } }
      (t.absorbed r = true → exec .rungStart s = .next (s.to t.pumpAll)) ∧
      (t.absorbed r = false → exec .rungStart s = .next (s.to ((t.startRung r).pumpAll)))) ∧
    (s.chip.rsq.reqs = [] → exec .rungStart s = .next s) ∧
    (∀ k, s.chip.sequencer = true → s.chip.rsq.rungs.any (fun r => s.chip.rungOf k r && !r.late) = true →
      ∃ t : Chip, exec (.rungDeadline k) s = .next (s.to (t.report (t.deadlineReport k))) ∧
        t.rsq.rungs = s.chip.rsq.rungs.map (fun r => if s.chip.rungOf k r then { r with late := true } else r) ∧
        t.rsq.reqs = s.chip.rsq.reqs ∧ t.ctx = s.chip.ctx ∧ t.mem = s.chip.mem) ∧
    (∀ m dur r, s.chip.sequencer = true → s.chip.rsq.rungs.find? (isRung .mover (s.chip.leaderOf m)) = some r →
      exec (.moverResetDone m dur) s =
        .next (s.to ((((s.chip.endMover r).dropRungs (isRung .mover (s.chip.leaderOf m))).rungDone 2 dur).pumpAll))) ∧
    (∀ k u dur, s.chip.sequencer = true → s.chip.rsq.rungs.any (isRung .unit (unitKey k u)) = true →
      exec (.unitResetDone k u dur) s = .next (s.to ((((({ s.chip with ports := { s.chip.ports with held := (s.chip.ports.held.filter
        (fun l => !((unitLanes (unitKey k u)).map laneCode).contains l)) } } : Chip).dropRungs (isRung .unit (unitKey k u))).rungDone 2 dur).pumpAll)))) ∧
    (∀ p dur r, s.chip.sequencer = true → s.chip.rsq.rungs.find? (isRung .partition p) = some r → s.chip.dumpOf (some p) = none →
      exec (.partitionResetDone p dur) s =
        .next (s.to ((((s.chip.partitionSteps r).dropRungs (isRung .partition p)).rungDone 3 dur).pumpAll))) ∧
    (∀ dur, s.chip.sequencer = true → s.chip.phase = .blkReset → exec (.blockResetDone dur) s =
      .next (s.to (({ s.chip with phase := .readyBlk, pins := { s.chip.pins with hostRstReq := false }, rsq := { s.chip.rsq with rungs := [] } } : Chip).rungDone 4 dur))) ∧
    (∀ p d bytes, s.chip.sequencer = true → s.chip.dumpOf (some p) = some d → d.acked = true → ∃ t : Chip,
      exec (.dumpEnd (some p) bytes) s = .next (s.to t) ∧ t.dumpOf (some p) = none ∧
      t.regF Reg.rsqDump 4 4 = ((s.chip.regF Reg.rsqDump 4 4 + 1) % (s.chip.regF Reg.rsqDump 8 4 + 1))) ∧
    (∀ p d, s.chip.sequencer = true → s.chip.dumpOf (some p) = some d → d.acked = false → d.started + 1000 ≤ s.chip.time →
      exec (.dumpAckTimeout (some p)) s = .next (s.to (s.chip.dumpSkipped 2 (some p)))) ∧
    (s.chip.phase = .run → s.chip.pins.refclk = true →
      exec .lockstepDisagree s = .next (s.to (s.chip.pinStop.report { src := Src.lockstep, kind := .sequencer, unit := 0, detail := some 0 })) ∧
      exec .rsqWatchdog s = .next (s.to (s.chip.pinStop.report { src := Src.rsqwd, kind := .sequencer, unit := 0, detail := some 0 })) ∧
      s.chip.pinStop.pins = { s.chip.pins with alive := false, pwrCycReq := true } ∧ ∀ r, s.chip.pinStop.request r = s.chip.pinStop)

/-! ### The link -/

/-- Training (R401, R406, R415): lane lock starts it on an enabled port whose lanes allow a width; the port proposes the epoch
after its own; a proposal is answered with the E that both ends compute alike; with one E sent and received in STEP 1 the
port is UP, SEQ 0 and credits 128. A peer with this chip's ID, another generation or no common width, or 100 µs without an
end, is TRAINFAIL, and training begins again after 1 ms. Ports that leave UP (R414, R416, R561): 150 TCLK without a frame
that passes its CRC, lanes that the PCS loses, an error of the PCS, an overflow of its FIFO; a port that trains waits for
its PCS again. -/
def Obligations.LinkStates : Prop :=
  ((∀ (e f : Nat) (freshE freshF : Bool) (chipE chipF : Nat), e < 65536 → f < 65536 → chipE ≠ chipF →
     agreeEpoch e f freshE freshF chipE chipF = agreeEpoch f e freshF freshE chipF chipE) ∧
   ∀ (s : State) (n : Nat) (lanes : BitVec 8) (f : Frame),
     let p := s.chip.portAt n
     (n < s.chip.build.nlp → s.chip.lkEn n = true → p.st = .waitPcs →
       let t := s.chip.updPort n (fun p => { p with lanes := lanes })
       (t.widths n = [] → exec (.pcsLock n lanes) s = .next (s.to t)) ∧
       (t.widths n ≠ [] → exec (.pcsLock n lanes) s = .next (s.to (t.beginTraining n)))) ∧
     (p.st = .training → p.retryAt = none →
       exec (.trainProposeTimer n) s = .next (s.to (s.chip.sendTrain n 0 ((p.epoch + 1) % 65536))) ∧
       (p.trainAt + 10000 ≤ s.chip.time → exec (.trainTimeout n) s = .next (s.to (s.chip.trainFails n))) ∧
       (s.chip.time < p.trainAt + 10000 → exec (.trainTimeout n) s = .next s)) ∧
     (∀ t, p.st = .training → p.retryAt = some t →
       (t ≤ s.chip.time → exec (.trainRetry n) s = .next (s.to (s.chip.beginTraining n))) ∧
       (s.chip.time < t → exec (.trainRetry n) s = .next s)) ∧
     (p.st = .training → p.retryAt = none → hType f.hdr = 15 → hOp f.hdr = 2 → Frame.checks f 0 = true → fldN f.hdr 24 55 = 0 →
       let chip := fldN f.hdr 108 12
       let e := fldN f.hdr 92 16
       (fldN f.hdr 80 2 < 2 → s.chip.commonWidth n (fldN f.hdr 88 2) = none ∨ chip = s.chip.chipId ∨ fldN f.hdr 90 2 ≠ s.chip.lkGen n →
         exec (.train n f) s = .next (s.to (s.chip.trainFails n))) ∧
       (∀ w, s.chip.commonWidth n (fldN f.hdr 88 2) = some w → chip ≠ s.chip.chipId → fldN f.hdr 90 2 = s.chip.lkGen n →
         let t := s.chip.updPort n (fun p => { p with peerChip := chip, peerPort := fldN f.hdr 84 4, peerZc := bitB f.hdr 83,
                                                      peerDel := bitB f.hdr 82, genUp := s.chip.lkGen n, wUp := w })
         let a := agreeEpoch ((p.epoch + 1) % 65536) e p.fresh (bitB f.hdr 79) s.chip.chipId chip
         (fldN f.hdr 80 2 = 0 → exec (.train n f) s =
           .next (s.to (((t.sendTrain n 1 a).updPort n (fun p => { p with sent1 := some a })).goUp n))) ∧
         (fldN f.hdr 80 2 = 1 → exec (.train n f) s = .next (s.to ((t.updPort n (fun p => { p with got1 := some e })).goUp n))))) ∧
     (∀ e, p.sent1 = some e → p.got1 = some e → ∀ t, s.chip.goUp n = t →
       (t.portAt n).st = .up ∧ (t.portAt n).epoch = e ∧ (t.portAt n).fresh = false ∧ (t.portAt n).txSeq = 0 ∧ (t.portAt n).rxSeq = 0 ∧
       (t.portAt n).cred0 = 128 ∧ (t.portAt n).cred1 = 128)) ∧
  (∀ (s : State) (n : Nat) (lanes : BitVec 8),
     let p := s.chip.portAt n
     let t := s.chip.updPort n (fun p => { p with lanes := p.lanes &&& lanes })
     (p.st = .up →
       (p.lastRx + 150 ≤ s.chip.time → exec (.linkSilence n) s = .next (s.to (s.chip.linkDown n))) ∧
       (s.chip.time < p.lastRx + 150 → exec (.linkSilence n) s = .next s) ∧
       (p.lanes &&& ~~~lanes ≠ 0 → exec (.laneLockLoss n lanes) s = .next (s.to ((t.linkDown n).linkReport n Src.lanedeg))) ∧
       exec (.pcsError n) s = .next (s.to ((s.chip.linkDown n).linkReport n Src.pcserr)) ∧
       exec (.rxFifoOverflow n) s = .next (s.to ((s.chip.linkDown n).linkReport n Src.fifoovf)) ∧
       s.chip.linkDown n = ((s.chip.portDown n).dropWaiting n).pumpAll) ∧
     (p.lanes &&& ~~~lanes = 0 → exec (.laneLockLoss n lanes) s = .next s) ∧
     (p.st = .training →
       (p.lanes &&& ~~~lanes ≠ 0 → t.widths n = [] →
         exec (.laneLockLoss n lanes) s = .next (s.to (t.updPort n (fun p => { p with st := .waitPcs })))) ∧
       exec (.pcsError n) s = .next (s.to ((s.chip.updPort n (fun p => { p with st := .waitPcs })).linkReport n Src.pcserr)) ∧
       exec (.rxFifoOverflow n) s = .next (s.to ((s.chip.updPort n (fun p => { p with st := .waitPcs })).linkReport n Src.fifoovf))))

/-- R407: the port that a frame goes on by, its route and its lane; every other field stays. A route is valid when its segments
are contiguous, each counts at least 1, the counts total 1 to 255 and SEG0.PORT is a port; the source sends on SEG0.PORT
with the full route. -/
def Obligations.RoutesForward : Prop :=
  (∀ (s : Chip) (n : Nat) (h : BitVec 128),
    let r := hRoute h
    let g := (s.nextHop n h).1
    let out := (s.nextHop n h).2
    let dateline := fun (e : Nat) => bitB (s.reg (Reg.lk e 0)) 11
    (segCount r 0 = 1 → hRoute g = r / 4096 ∧
      (r / 4096 % 4096 = 0 → out = none ∧ hVl g = 0) ∧
      (r / 4096 % 4096 ≠ 0 → out = some (segPort r 1) ∧ hVl g = if dateline (segPort r 1) then 1 else 0)) ∧
    (2 ≤ segCount r 0 → hRoute g = r - 1 ∧ out = some (s.lkThru n) ∧ hVl g = if dateline (s.lkThru n) then 1 else hVl h) ∧
    hType g = hType h ∧ hClass g = hClass h ∧ hPart g = hPart h ∧ hDst g = hDst h ∧ hSrc g = hSrc h ∧ hMtag g = hMtag h) ∧
  (∀ nlp r : Nat, routeValid nlp r = true ↔
    (∀ k, k < 3 → r / 2 ^ (12 * k) % 4096 = 0 → r / 2 ^ (12 * (k + 1)) % 4096 = 0) ∧
    (∀ k, k < 4 → r / 2 ^ (12 * k) % 4096 ≠ 0 → 1 ≤ segCount r k) ∧
    1 ≤ segCount r 0 + segCount r 1 + segCount r 2 + segCount r 3 ∧ segCount r 0 + segCount r 1 + segCount r 2 + segCount r 3 ≤ 255 ∧
    segPort r 0 < nlp) ∧
  ∀ (s : Chip) (m : Msg) (ty : Nat) (bs : List Byte), m.route < 2 ^ 48 → s.portUp (segPort m.route 0) = true →
    ∃ e : EgFrame, s.sendFrame m ty bs = s.queueFrame (segPort m.route 0) e ∧ hRoute e.f.hdr = m.route ∧ e.msg = some m.id

/-- Data frames of a hop (R405, R411–R413, R416): a frame whose CRC checks and whose SEQ is the next goes on its way; one
already accepted is answered with CREDIT; one that fails its CRC or skips a number with NACK, at the first; one of the epoch
before is only counted. Hop control (R411–R414): a CREDIT frame frees the slots of the frames before ASEQ and returns
credits; a NACK or 1 µs of the oldest frame resends from it; CREDIT frames leave as their timers ask; frames that wait at a
lane for 1 ms are discarded and FWDSTALL is reported. -/
def Obligations.HopFrames : Prop :=
  (∀ (s : State) (n : Nat) (f : Frame),
     let p := s.chip.portAt n
     let d := (hSeq f.hdr + 512 - p.rxSeq) % 512
     p.st = .up → 1 ≤ hType f.hdr → hType f.hdr ≤ 7 →
       (Frame.whole f = false → exec (.frameForward n f) s = .next (s.to (s.chip.crcFail n))) ∧
       (Frame.whole f = true → Frame.checks f p.epoch = true →
         let a := s.chip.updPort n (fun p => { p with lastRx := s.chip.time })
         (d = 0 → p.taken (hVl f.hdr) < 128 →
           let t := ((a.updPort n (fun p => { p with rxSeq := (p.rxSeq + 1) % 512, nacked := false, since := p.since + 1 })).bump
             (Reg.lk n 0x18) 32 32 1).routeFrame n f
           exec (.frameForward n f) s = .next (s.to (if 32 ≤ (t.portAt n).since ∧ t.portUp n = true then t.sendCredit n else t))) ∧
         (256 ≤ d → exec (.frameForward n f) s = .next (s.to (a.sendCredit n))) ∧
         (d ≠ 0 → d < 256 → exec (.frameForward n f) s = .next (s.to (a.crcFail n)))) ∧
       (Frame.whole f = true → Frame.checks f p.epoch = false →
         (∀ e, p.oldEpoch = some e → Frame.checks f e = true →
           exec (.frameForward n f) s = .next (s.to (s.chip.bump (Reg.lk n 0x10) 32 16 1))) ∧
         (p.oldEpoch = none → exec (.frameForward n f) s = .next (s.to (s.chip.crcFail n))) ∧
         (∀ e, p.oldEpoch = some e → Frame.checks f e = false → exec (.frameForward n f) s = .next (s.to (s.chip.crcFail n))))) ∧
  (∀ (s : State) (n vl : Nat) (f : Frame),
     let p := s.chip.portAt n
     p.st = .up →
     let a := s.chip.updPort n (fun p => { p with lastRx := s.chip.time })
     let out := p.egress.filter (fun e => e.waits && e.vl == vl)
     (hType f.hdr = 15 → Frame.whole f = true → Frame.checks f p.epoch = true →
       (hOp f.hdr = 0 → f.hdr &&& BitVec.ofNat 128 (2 ^ 120 - 2 ^ 24) &&& ~~~(BitVec.ofNat 128 (2 ^ 120 - 2 ^ 95)) = 0 →
         p.outstanding (fldN f.hdr 111 9) = true →
         let k := (fldN f.hdr 111 9 + 512 - p.una) % 512
         let gone := (p.unacked.take k).map (fun e => e.seq)
         exec (.linkctlCredit n f) s = .next (s.to ((a.updPort n (fun p =>
           { p with egress := p.egress.filter (fun e => e.seq.isNone || !gone.contains e.seq), cred0 := p.cred0 + fldN f.hdr 103 8,
                    cred1 := p.cred1 + fldN f.hdr 95 8, retries := if k = 0 then p.retries else 0 })).egressFreed n))) ∧
       (hOp f.hdr = 1 → f.hdr &&& BitVec.ofNat 128 (2 ^ 120 - 2 ^ 24) &&& ~~~(BitVec.ofNat 128 (2 ^ 120 - 2 ^ 111)) = 0 →
         p.outstanding (fldN f.hdr 111 9) = true → exec (.nack n f) s = .next (s.to (a.resend n (fldN f.hdr 111 9))))) ∧
     (∀ e, p.unacked.head? = some e →
       (e.at_ + 100 ≤ s.chip.time → exec (.replayTimer n) s = .next (s.to (s.chip.resend n p.una))) ∧
       (s.chip.time < e.at_ + 100 → exec (.replayTimer n) s = .next s)) ∧
     exec (.creditTimer n) s = .next (s.to (s.chip.sendCredit n)) ∧ exec (.keepaliveTimer n) s = .next (s.to (s.chip.sendCredit n)) ∧
     ((∃ e ∈ out, e.at_ + 100000 ≤ s.chip.time) → (if vl = 0 then p.laneTx0 else p.laneTx1) + 100000 ≤ s.chip.time →
       exec (.forwardWatchdog n vl) s = .next (s.to
         ((((s.chip.updPort n (fun p => { p with egress := p.egress.filter (fun e => !(e.waits && e.vl == vl)) })).discarded
           (out.filterMap (fun e => e.msg)) (out.map (fun e => e.f.hdr))).linkReport n Src.fwdstall).egressFreed n))) ∧
     ((∀ e ∈ out, s.chip.time < e.at_ + 100000) → exec (.forwardWatchdog n vl) s = .next s))

/-- A SEND at its receiver (R348, R420–R424, R430): its head opens a landing, or is refused with the status that R421 gives; a
frame of its stream is placed in order; a burst written whole is added to the window's counter, where that is in the
window's partition; a burst that faults ends the message. A frame leaves its ingress slot as it is handed over (R411).
Completions at the sender (R423–R425, R427, R430): progress and the final completion of a message, the grant of operand
bytes, the timeout RTO, and the end of a tag's bar; a completion or a grant that names no message is only counted. -/
def Obligations.LinkMessages : Prop :=
  (∀ (s : State) (n : Nat) (i : InFrame), (s.chip.portAt n).ingress.find? (fun i => i.egress.isNone) = some i →
     let f := i.f
     let t := (s.chip.updPort n (fun p => { p with ingress := p.ingress.erase i })).freeIngress n i.vl
     (hType f.hdr = 1 →
       let w := fun k => Frame.word f k
       let l := s.chip.newLand n f
       let u : Chip := { t with link := { t.link with lands := t.link.lands.filter (fun x => !(x.src == l.src && x.mtag == l.mtag)) ++ [l] } }
       let whole := fldN (w 28) 48 16 = 0 ∧ fldN (w 29) 48 15 = 0 ∧ fldN (w 30) 19 45 = 0 ∧ fldN (w 31) 13 51 = 0 ∧
         routeValid 16 (fldN (w 28) 0 48) = true
       let stray := l.dres = true ∧ s.chip.delegOut l.dmtag = false
       let denied := s.chip.lwEn l.win = false ∨ s.chip.lwDeleg l.win = true ∨
         l.src &&& s.chip.regF (Reg.lw l.win 0) 16 12 ≠ s.chip.regF (Reg.lw l.win 0) 28 12 &&& s.chip.regF (Reg.lw l.win 0) 16 12 ∨
         s.chip.regF (Reg.lw l.win 0) 53 6 + 1 ≤ s.chip.lwUsed l.win ∨ spanIn l.desc (s.chip.lwSize l.win) = false
       let bad := (checkDesc { dst := true } true l.desc).isSome = true ∨ (l.zc = true ∧ bitB (s.chip.reg Reg.lkCfg) 12 = false) ∨
         streamLen l.desc ≠ l.len
       (¬ whole → exec (.shead n) s = .next (s.to (t.malFrame n f.hdr))) ∧
       (whole → stray → exec (.shead n) s = .next (s.to ((u.goneDrop n).endLand l 2))) ∧
       (whole → ¬ stray → denied → exec (.shead n) s = .next (s.to (u.endLand l 2))) ∧
       (whole → ¬ stray → ¬ denied → bad → exec (.shead n) s = .next (s.to ((u.malformed n).endLand l 3))) ∧
       (whole → ¬ stray → ¬ denied → ¬ bad → exec (.shead n) s = .next (s.to (u.landStep l.src l.mtag)))) ∧
     (hType f.hdr = 2 →
       (s.chip.landAt (hSrc f.hdr) (hMtag f.hdr) = none → exec (.sdata n) s = .next (s.to (t.malFrame n f.hdr))) ∧
       ∀ l, s.chip.landAt (hSrc f.hdr) (hMtag f.hdr) = some l →
         let r := l.raw ++ f.payload
         (l.status = none → l.next < l.len → l.zc = false →
           exec (.sdata n) s = .next (s.to (t.landBytes l (f.payload.take (l.len - l.next))))) ∧
         (l.status = none → l.next < l.len → l.zc = true →
           exec (.sdata n) s = .next (s.to (Chip.landChunks n l.src l.mtag f.hdr (r.length / 8 + 1) (t.updLand l (fun _ => { l with raw := r }))))) ∧
         (l.status = some 0 ∨ (l.status = none ∧ l.len ≤ l.next) → exec (.sdata n) s = .next (s.to (t.malFrame n f.hdr))) ∧
         (∀ st, l.status = some st → st ≠ 0 →
           exec (.sdata n) s = .next (s.to (if l.dres = true ∧ s.chip.delegOut l.dmtag = false then t.goneDrop n else t))))) ∧
  (∀ (s : State) (id : Nat) (l : Land) (b : Nat × Nat × Nat), s.chip.link.lands.find? (fun l => l.bursts.any (fun b => b.1 == id)) = some l → l.bursts.find? (fun b => b.1 == id) = some b →
       (∀ r ∈ s.chip.allRequests, r.id ≠ id) →
       let u := (s.chip.dropFill id).updLand l (fun x => { x with bursts := x.bursts.filter (fun b => b.1 != id) })
       let rsp := match s.chip.ports.fills.find? (fun x => x.r.id == id) with | some x => x.rsp | none => .ok
       (rsp = .ok → s.chip.ksPart l.kcnt = l.part →
         exec (.landingBurst id) s = .next (s.to ((u.signal l.kcnt b.2.2).landStep l.src l.mtag))) ∧
       (rsp = .ok → s.chip.ksPart l.kcnt ≠ l.part →
         exec (.landingBurst id) s = .next (s.to ((u.bump (Reg.lk l.port 0x20) 48 16 1).landStep l.src l.mtag))) ∧
       (rsp ≠ .ok → l.status = none → exec (.landingBurst id) s = .next (s.to ((u.endLand l 4).linkReport l.port Src.lwfault)))) ∧
  (∀ (s : State) (n : Nat) (i : InFrame), (s.chip.portAt n).ingress.find? (fun i => i.egress.isNone) = some i →
     let f := i.f
     let t := (s.chip.updPort n (fun p => { p with ingress := p.ingress.erase i })).freeIngress n i.vl
     let a := Frame.word f 0
     let b := Frame.word f 1
     let tag := hMtag f.hdr
     (hType f.hdr = 5 →
       (s.chip.msgOfTag tag = none → exec (.cmpl n) s = .next (s.to (t.noMsg n tag))) ∧
       ∀ m, s.chip.msgOfTag tag = some m → s.chip.msgAt m.id = some m →
         let whole := a &&& ~~~(maskBits 12 4 ||| maskBits 16 10) = 0 ∧ fldN b 48 16 = 0 ∧ fldN a 12 4 < 2
         let u := (t.updMsg m.id (fun x => { x with acked := max x.acked (fldN b 0 48), heard := s.chip.time })).progressed m.ctx
         let m' : Msg := { m with acked := max m.acked (fldN b 0 48), heard := s.chip.time }
         (¬ whole → exec (.cmpl n) s = .next (s.to (t.malformed n))) ∧
         (whole → fldN a 12 4 = 0 → exec (.cmpl n) s = .next (s.to (u.courseSignals m').pumpAll)) ∧
         (whole → fldN a 12 4 = 1 → exec (.cmpl n) s = .next (s.to (u.msgEnd m' (fldN a 16 8) (fldN a 24 2)).pumpAll))) ∧
     (hType f.hdr = 6 →
       (s.chip.link.msgs.find? (fun m => m.deleg && m.mtag == tag) = none → exec (.delegCredit n) s = .next (s.to (t.noMsg n tag))) ∧
       ∀ m, s.chip.link.msgs.find? (fun m => m.deleg && m.mtag == tag) = some m →
         (fldN a 0 32 ≠ tag → exec (.delegCredit n) s = .next (s.to (t.malformed n))) ∧
         (fldN a 0 32 = tag → exec (.delegCredit n) s = .next (s.to
           ((((t.updMsg m.id (fun x => { x with granted := x.granted + fldN a 32 32 })).progressed m.ctx).framesOut m.id).heard m.ctx))))) ∧
  (∀ (s : State) (n : Nat),
     (∀ id m, s.chip.msgAt id = some m →
       (m.heard + s.chip.rto ≤ s.chip.time → exec (.completionTimeout id) s = .next (s.to (s.chip.msgEnd m 1 2).pumpAll)) ∧
       (s.chip.time < m.heard + s.chip.rto → exec (.completionTimeout id) s = .next s)) ∧
     (exec (.mtagBarExpiry n) s = .next (s.to
       ({ s.chip with link := { s.chip.link with mbars := s.chip.link.mbars.filter (fun b => !(b.1 == n && decide (b.2 ≤ s.chip.time))) } } : Chip).pumpAll)))

/-- Delegation at the owner (R421, R426–R429): a request that the chip or the window refuses is answered at once; another waits
for its images, its operands and a guest of the window's partition; operands beyond its length or its grant are malformed; a
guest with room takes it; GONE aborts its guest or takes it back. -/
def Obligations.DelegationAtOwner : Prop :=
  (∀ (s : State) (n : Nat) (i : InFrame), (s.chip.portAt n).ingress.find? (fun i => i.egress.isNone) = some i →
    let f := i.f
    let t := (s.chip.updPort n (fun p => { p with ingress := p.ingress.erase i })).freeIngress n i.vl
    let w := fun k => Frame.word f k
    let src := hSrc f.hdr
    let tag := hMtag f.hdr
    let win := fldN (w 2) 0 8
    let d : Deleg := { src := src, mtag := tag, win := win, rlwin := fldN (w 2) 8 8, part := s.chip.lwPart win, tagp := hPart f.hdr,
                       cls := hClass f.hdr, rroute := fldN (w 1) 0 48, word := w 0, len := fldN (w 3) 0 48 }
    let whole := fldN (w 1) 48 16 = 0 ∧ fldN (w 2) 27 37 = 0 ∧ fldN (w 3) 48 16 = 0 ∧ (∀ k, k < 28 → w (4 + k) = 0) ∧ guestWordOk (w 0) = true
    let takes := bitB (s.chip.reg Reg.lkCfg) 13 = true
    let refused := fun (st : Nat) (u : Chip) => exec (.dhead n) s = .next (s.to ((u.overDeleg d).sendCmpl d.cls d.tagp src tag d.rroute 1 st 0 0))
    (hType f.hdr = 3 →
      (routeValid 16 d.rroute = false → exec (.dhead n) s = .next (s.to (t.malFrame n f.hdr))) ∧
      (routeValid 16 d.rroute = true → ¬ whole → refused 3 (t.malformed n)) ∧
      (routeValid 16 d.rroute = true → whole → ¬ takes → refused 5 t) ∧
      (routeValid 16 d.rroute = true → whole → takes → s.chip.lwRefuses win src true = true → refused 2 t) ∧
      (routeValid 16 d.rroute = true → whole → takes → s.chip.lwRefuses win src true = false → s.chip.hasGuest (s.chip.lwPart win) = false → refused 5 t) ∧
      (routeValid 16 d.rroute = true → whole → takes → s.chip.lwRefuses win src true = false → s.chip.hasGuest (s.chip.lwPart win) = true → ∃ u : Chip,
        exec (.dhead n) s = .next (s.to u) ∧
        u.link.delegs = s.chip.link.delegs.filter (fun x => !(x.src == src && x.mtag == tag)) ++ [d] ∧ u.mem = s.chip.mem ∧ u.ctx = s.chip.ctx ∧
        u.regs = s.chip.regs)) ∧
    (hType f.hdr = 4 →
      (s.chip.link.delegs.find? (fun d => d.src == src && d.mtag == tag) = none → exec (.ddata n) s = .next (s.to (t.malFrame n f.hdr))) ∧
      ∀ x, s.chip.link.delegs.find? (fun d => d.src == src && d.mtag == tag) = some x →
        let bs := f.payload.take (x.len - x.ops.length)
        let ops := x.ops ++ bs
        let more := ops.length / 16384 - x.taken
        let x' : Deleg := { x with ops := ops, taken := ops.length / 16384, granted := x.granted + 16384 * more }
        let u := Chip.grantMore x' more (t.updDeleg x')
        (x.ended = true → exec (.ddata n) s = .next (s.to t)) ∧
        (x.ended = false → x.images.length < 768 → exec (.ddata n) s = .next (s.to (t.updDeleg { x with images := x.images ++ f.payload }))) ∧
        (x.ended = false → 768 ≤ x.images.length → x.len ≤ x.ops.length ∨ x.granted < ops.length →
          exec (.ddata n) s = .next (s.to (t.malFrame n f.hdr))) ∧
        (x.ended = false → 768 ≤ x.images.length → x.ops.length < x.len → ops.length ≤ x.granted →
          (x.guest = none ∨ ops.length ≠ x.len → exec (.ddata n) s = .next (s.to u)) ∧
          (∀ c, x.guest = some c → ops.length = x.len → exec (.ddata n) s = .next (s.to (u.guestBegin c x'))))) ∧
    (hType f.hdr = 7 →
      (s.chip.link.delegs.find? (fun d => d.src == src && d.mtag == tag && !d.ended) = none →
        exec (.gone n) s = .next (s.to (t.bump (Reg.lk n 0x10) 48 16 1))) ∧
      ∀ x, s.chip.link.delegs.find? (fun d => d.src == src && d.mtag == tag && !d.ended) = some x →
        (x.guest = none → exec (.gone n) s = .next (s.to (t.dropDeleg x.src x.mtag))) ∧
        (∀ c, x.guest = some c → exec (.gone n) s = .next (s.to ((t.dropDeleg x.src x.mtag).abortGuest c))))) ∧
  (∀ (s : State) (p c : Nat) (x : Deleg),
    s.chip.link.delegs.find? (fun d => d.part == p && d.guest.isNone && !d.ended) = some x → s.chip.boundGuest p = some c →
    let m := s.chip.slotMover c
    let n := s.chip.creditNeed c x.word
    (x.images.length = 768 → s.chip.freeTags ≠ [] → n ≤ (s.chip.yieldStg c m n).freeCredits m →
      exec (.guestDispatch p) s = .next (s.to ((s.chip.yieldStg c m n).dispatchTo c x))) ∧
    (x.images.length ≠ 768 ∨ s.chip.freeTags = [] ∨ (s.chip.yieldStg c m n).freeCredits m < n → exec (.guestDispatch p) s = .next s))
end

