-- ==== Sys2Proof/Laws/Tab.lean ====
section
/-! SUPPORT. Laws of tables: a read after a write gives the value written, a write leaves every other entry alone,
and every write keeps the canonical form. -/

namespace Sys2Proof

variable {α : Type}

theorem Tab.get_erase_self (d : α) (t : Tab α) (k : Nat) : Tab.get d (Tab.erase t k) k = d := by
  induction t with
  | nil => rfl
  | cons e r ih => obtain ⟨j, v⟩ := e; simp only [Tab.erase]; split <;> simp_all [Tab.get]

theorem Tab.get_erase_ne (d : α) (t : Tab α) {k j : Nat} (h : j ≠ k) : Tab.get d (Tab.erase t k) j = Tab.get d t j := by
  induction t with
  | nil => rfl
  | cons e r ih => obtain ⟨i, v⟩ := e; simp only [Tab.erase]; split <;> simp_all [Tab.get]; omega

theorem Tab.get_insert (d : α) (t : Tab α) (k j : Nat) (v : α) (h : Tab.erase t k = t) :
    Tab.get d (Tab.insert t k v) j = if j = k then v else Tab.get d t j := by
  induction t with
  | nil => simp [Tab.insert, Tab.get, eq_comm]
  | cons e r ih =>
    obtain ⟨i, w⟩ := e
    have hi : i ≠ k := by
      intro e; simp only [Tab.erase, e, if_true] at h
      exact absurd (congrArg List.length h) (by
        have : (Tab.erase r k).length ≤ r.length := by
          clear h ih e
          induction r with
          | nil => simp [Tab.erase]
          | cons q r ih => obtain ⟨a, b⟩ := q; simp only [Tab.erase]; split <;> simp <;> omega
        simp; omega)
    simp only [Tab.erase, hi, if_false, List.cons.injEq, true_and] at h
    simp only [Tab.insert]
    split
    · by_cases e : k = j <;> simp [Tab.get, e, eq_comm]
    · simp only [Tab.get, ih h]
      by_cases e : i = j
      · subst e; simp [hi]
      · simp [e]

theorem Tab.erase_erase (t : Tab α) (k : Nat) : Tab.erase (Tab.erase t k) k = Tab.erase t k := by
  induction t with
  | nil => rfl
  | cons e r ih => obtain ⟨j, v⟩ := e; simp only [Tab.erase]; split <;> simp_all [Tab.erase]

theorem Tab.erase_insert (t : Tab α) (k : Nat) (v : α) : Tab.erase (Tab.insert t k v) k = Tab.erase t k := by
  induction t with
  | nil => simp [Tab.insert, Tab.erase]
  | cons e r ih =>
    obtain ⟨j, w⟩ := e
    simp only [Tab.insert]; split
    · simp [Tab.erase]
    · simp only [Tab.erase]; split <;> simp_all

variable [DecidableEq α]

/-- A read after a write. -/
theorem Tab.get_set (d : α) (t : Tab α) (k j : Nat) (v : α) :
    Tab.get d (Tab.set d k v t) j = if j = k then v else Tab.get d t j := by
  unfold Tab.set
  by_cases hv : v = d
  · subst hv; rw [if_pos rfl]
    by_cases hj : j = k
    · subst hj; simp [Tab.get_erase_self]
    · simp [hj, Tab.get_erase_ne _ _ hj]
  · rw [if_neg hv, Tab.get_insert _ _ _ _ _ (Tab.erase_erase t k)]
    by_cases hj : j = k
    · simp [hj]
    · simp [hj, Tab.get_erase_ne _ _ hj]

@[simp] theorem Tab.get_set_self (d : α) (t : Tab α) (k : Nat) (v : α) : Tab.get d (Tab.set d k v t) k = v := by
  simp [Tab.get_set]

theorem Tab.get_set_ne (d : α) (t : Tab α) {k j : Nat} (v : α) (h : j ≠ k) :
    Tab.get d (Tab.set d k v t) j = Tab.get d t j := by
  simp [Tab.get_set, h]

/-- A write leaves the other entries alone, whatever an unlisted one reads as. -/
theorem Tab.get_set_other (d e : α) (t : Tab α) {k j : Nat} (v : α) (h : j ≠ k) : Tab.get e (Tab.set d k v t) j = Tab.get e t j := by
  unfold Tab.set
  split
  · exact Tab.get_erase_ne _ _ h
  · rw [Tab.get_insert _ _ _ _ _ (Tab.erase_erase t k), if_neg h, Tab.get_erase_ne _ _ h]

/-- The second of two writes of one entry stands. -/
@[simp] theorem Tab.set_set (d : α) (t : Tab α) (k : Nat) (v w : α) : Tab.set d k w (Tab.set d k v t) = Tab.set d k w t := by
  unfold Tab.set
  have e : Tab.erase (if v = d then Tab.erase t k else Tab.insert (Tab.erase t k) k v) k = Tab.erase t k := by
    split
    · exact Tab.erase_erase t k
    · rw [Tab.erase_insert, Tab.erase_erase]
  rw [e]

theorem Tab.get_upd (d : α) (t : Tab α) (k j : Nat) (f : α → α) :
    Tab.get d (Tab.upd d k f t) j = if j = k then f (Tab.get d t k) else Tab.get d t j := Tab.get_set ..

/-- Two changes of one entry are one. -/
@[simp] theorem Tab.upd_upd (d : α) (t : Tab α) (k : Nat) (f g : α → α) :
    Tab.upd d k g (Tab.upd d k f t) = Tab.upd d k (fun x => g (f x)) t := by
  simp [Tab.upd]

/-! ### The canonical form -/

theorem Tab.wfFrom_mono (d : α) (t : Tab α) (a : Nat) (lo : Option Nat) (h : Tab.wfFrom d (some a) t = true)
    (hl : ∀ l, lo = some l → l ≤ a) : Tab.wfFrom d lo t = true := by
  cases t with
  | nil => rfl
  | cons e r =>
    obtain ⟨k, v⟩ := e
    cases lo with
    | none => simp_all [Tab.wfFrom]
    | some l =>
      have := hl l rfl
      simp only [Tab.wfFrom, Bool.and_eq_true, decide_eq_true_eq] at h ⊢
      exact ⟨⟨by omega, h.1.2⟩, h.2⟩

theorem Tab.wfFrom_erase (d : α) (t : Tab α) (k : Nat) (lo : Option Nat) (h : Tab.wfFrom d lo t = true) :
    Tab.wfFrom d lo (Tab.erase t k) = true := by
  induction t generalizing lo with
  | nil => rfl
  | cons e r ih =>
    obtain ⟨j, v⟩ := e
    have h' := h
    simp only [Tab.wfFrom, Bool.and_eq_true] at h'
    simp only [Tab.erase]
    split
    · refine ih lo (Tab.wfFrom_mono d r j lo h'.2 ?_)
      intro l hl; subst hl
      have := h'.1.1
      simp only [decide_eq_true_eq] at this; omega
    · simp only [Tab.wfFrom, Bool.and_eq_true]; exact ⟨h'.1, ih _ h'.2⟩

theorem Tab.wfFrom_insert (d : α) (t : Tab α) (k : Nat) (v : α) (lo : Option Nat) (hv : v ≠ d)
    (h : Tab.wfFrom d lo t = true) (hk : Tab.erase t k = t) (hl : ∀ l, lo = some l → l < k) :
    Tab.wfFrom d lo (Tab.insert t k v) = true := by
  induction t generalizing lo with
  | nil => cases lo <;> simp_all [Tab.insert, Tab.wfFrom]
  | cons e r ih =>
    obtain ⟨j, w⟩ := e
    have h' := h
    simp only [Tab.wfFrom, Bool.and_eq_true] at h'
    have hj : j ≠ k := by
      intro e; subst e
      have a := Tab.get_erase_self d ((j, w) :: r) j
      rw [hk] at a; simp only [Tab.get, if_true] at a
      have := h'.1.2; simp_all
    simp only [Tab.erase, hj, if_false, List.cons.injEq, true_and] at hk
    simp only [Tab.insert]
    split
    · rename_i hlt
      simp only [Tab.wfFrom, Bool.and_eq_true, decide_eq_true_eq]
      refine ⟨⟨?_, hv⟩, ⟨hlt, by simpa using h'.1.2⟩, h'.2⟩
      cases lo with
      | none => rfl
      | some l => simpa using hl l rfl
    · simp only [Tab.wfFrom, Bool.and_eq_true]
      exact ⟨h'.1, ih _ h'.2 hk (by intro l e; cases e; omega)⟩

/-- A write keeps the canonical form. -/
theorem Tab.wf_set (d : α) (t : Tab α) (k : Nat) (v : α) (h : Tab.wf d t = true) : Tab.wf d (Tab.set d k v t) = true := by
  unfold Tab.set
  split
  · exact Tab.wfFrom_erase d t k none h
  · rename_i hv
    exact Tab.wfFrom_insert d _ k v none hv (Tab.wfFrom_erase d t k none h) (Tab.erase_erase t k) (by simp)

theorem Tab.wf_upd (d : α) (t : Tab α) (k : Nat) (f : α → α) (h : Tab.wf d t = true) : Tab.wf d (Tab.upd d k f t) = true :=
  Tab.wf_set d t k _ h

end Sys2Proof
end

