-- ==== Sys2Proof/Laws/State.lean ====
section
/-! SUPPORT. What each update of the state does to each field, and what a read after it gives. -/

set_option Elab.async false

namespace Sys2Proof.Machine

variable {s : Chip}

/-! ### `Chip.setReg` -/

@[simp] theorem Chip.setReg_build (off : Nat) (v : Word) : (s.setReg off v).build = s.build := rfl
@[simp] theorem Chip.setReg_regs (off : Nat) (v : Word) : (s.setReg off v).regs = Tab.set (Reg.reset s.build off) off v s.regs := rfl
@[simp] theorem Chip.setReg_time (off : Nat) (v : Word) : (s.setReg off v).time = s.time := rfl
@[simp] theorem Chip.setReg_phase (off : Nat) (v : Word) : (s.setReg off v).phase = s.phase := rfl
@[simp] theorem Chip.setReg_pins (off : Nat) (v : Word) : (s.setReg off v).pins = s.pins := rfl
@[simp] theorem Chip.setReg_guard (off : Nat) (v : Word) : (s.setReg off v).guard = s.guard := rfl
@[simp] theorem Chip.setReg_rp (off : Nat) (v : Word) : (s.setReg off v).rp = s.rp := rfl
@[simp] theorem Chip.setReg_ctx (off : Nat) (v : Word) : (s.setReg off v).ctx = s.ctx := rfl
@[simp] theorem Chip.setReg_mov (off : Nat) (v : Word) : (s.setReg off v).mov = s.mov := rfl
@[simp] theorem Chip.setReg_ks (off : Nat) (v : Word) : (s.setReg off v).ks = s.ks := rfl
@[simp] theorem Chip.setReg_ksq (off : Nat) (v : Word) : (s.setReg off v).ksq = s.ksq := rfl
@[simp] theorem Chip.setReg_l2 (off : Nat) (v : Word) : (s.setReg off v).l2 = s.l2 := rfl
@[simp] theorem Chip.setReg_inv (off : Nat) (v : Word) : (s.setReg off v).inv = s.inv := rfl
@[simp] theorem Chip.setReg_epoch (off : Nat) (v : Word) : (s.setReg off v).epoch = s.epoch := rfl
@[simp] theorem Chip.setReg_walks (off : Nat) (v : Word) : (s.setReg off v).walks = s.walks := rfl
@[simp] theorem Chip.setReg_tier (off : Nat) (v : Word) : (s.setReg off v).tier = s.tier := rfl
@[simp] theorem Chip.setReg_mem (off : Nat) (v : Word) : (s.setReg off v).mem = s.mem := rfl
@[simp] theorem Chip.setReg_rc (off : Nat) (v : Word) : (s.setReg off v).rc = s.rc := rfl
@[simp] theorem Chip.setReg_rcFills (off : Nat) (v : Word) : (s.setReg off v).rcFills = s.rcFills := rfl
@[simp] theorem Chip.setReg_segs (off : Nat) (v : Word) : (s.setReg off v).segs = s.segs := rfl
@[simp] theorem Chip.setReg_groups (off : Nat) (v : Word) : (s.setReg off v).groups = s.groups := rfl
@[simp] theorem Chip.setReg_banked (off : Nat) (v : Word) : (s.setReg off v).banked = s.banked := rfl
@[simp] theorem Chip.setReg_ports (off : Nat) (v : Word) : (s.setReg off v).ports = s.ports := rfl
@[simp] theorem Chip.setReg_irq (off : Nat) (v : Word) : (s.setReg off v).irq = s.irq := rfl
@[simp] theorem Chip.setReg_fc (off : Nat) (v : Word) : (s.setReg off v).fc = s.fc := rfl
@[simp] theorem Chip.setReg_rsq (off : Nat) (v : Word) : (s.setReg off v).rsq = s.rsq := rfl
@[simp] theorem Chip.setReg_link (off : Nat) (v : Word) : (s.setReg off v).link = s.link := rfl
@[simp] theorem Chip.setReg_fuseIdx (off : Nat) (v : Word) : (s.setReg off v).fuseIdx = s.fuseIdx := rfl
@[simp] theorem Chip.setReg_fuseTmo (off : Nat) (v : Word) : (s.setReg off v).fuseTmo = s.fuseTmo := rfl
@[simp] theorem Chip.setReg_envOn (off : Nat) (v : Word) : (s.setReg off v).envOn = s.envOn := rfl
@[simp] theorem Chip.setReg_taps (off : Nat) (v : Word) : (s.setReg off v).taps = s.taps := rfl
@[simp] theorem Chip.setReg_snsAt (off : Nat) (v : Word) : (s.setReg off v).snsAt = s.snsAt := rfl
@[simp] theorem Chip.setReg_snsRef (off : Nat) (v : Word) : (s.setReg off v).snsRef = s.snsRef := rfl
@[simp] theorem Chip.setReg_clkBad (off : Nat) (v : Word) : (s.setReg off v).clkBad = s.clkBad := rfl
@[simp] theorem Chip.setReg_tap (off : Nat) (v : Word) : (s.setReg off v).tap = s.tap := rfl
@[simp] theorem Chip.setReg_uid (off : Nat) (v : Word) : (s.setReg off v).uid = s.uid := rfl
@[simp] theorem Chip.setReg_free (off : Nat) (v : Word) : (s.setReg off v).free = s.free := rfl

/-! ### `Chip.setF` -/

@[simp] theorem Chip.setF_build (off lo n v : Nat) : (s.setF off lo n v).build = s.build := rfl
@[simp] theorem Chip.setF_time (off lo n v : Nat) : (s.setF off lo n v).time = s.time := rfl
@[simp] theorem Chip.setF_phase (off lo n v : Nat) : (s.setF off lo n v).phase = s.phase := rfl
@[simp] theorem Chip.setF_pins (off lo n v : Nat) : (s.setF off lo n v).pins = s.pins := rfl
@[simp] theorem Chip.setF_guard (off lo n v : Nat) : (s.setF off lo n v).guard = s.guard := rfl
@[simp] theorem Chip.setF_rp (off lo n v : Nat) : (s.setF off lo n v).rp = s.rp := rfl
@[simp] theorem Chip.setF_ctx (off lo n v : Nat) : (s.setF off lo n v).ctx = s.ctx := rfl
@[simp] theorem Chip.setF_mov (off lo n v : Nat) : (s.setF off lo n v).mov = s.mov := rfl
@[simp] theorem Chip.setF_ks (off lo n v : Nat) : (s.setF off lo n v).ks = s.ks := rfl
@[simp] theorem Chip.setF_ksq (off lo n v : Nat) : (s.setF off lo n v).ksq = s.ksq := rfl
@[simp] theorem Chip.setF_l2 (off lo n v : Nat) : (s.setF off lo n v).l2 = s.l2 := rfl
@[simp] theorem Chip.setF_inv (off lo n v : Nat) : (s.setF off lo n v).inv = s.inv := rfl
@[simp] theorem Chip.setF_epoch (off lo n v : Nat) : (s.setF off lo n v).epoch = s.epoch := rfl
@[simp] theorem Chip.setF_walks (off lo n v : Nat) : (s.setF off lo n v).walks = s.walks := rfl
@[simp] theorem Chip.setF_tier (off lo n v : Nat) : (s.setF off lo n v).tier = s.tier := rfl
@[simp] theorem Chip.setF_mem (off lo n v : Nat) : (s.setF off lo n v).mem = s.mem := rfl
@[simp] theorem Chip.setF_rc (off lo n v : Nat) : (s.setF off lo n v).rc = s.rc := rfl
@[simp] theorem Chip.setF_rcFills (off lo n v : Nat) : (s.setF off lo n v).rcFills = s.rcFills := rfl
@[simp] theorem Chip.setF_segs (off lo n v : Nat) : (s.setF off lo n v).segs = s.segs := rfl
@[simp] theorem Chip.setF_groups (off lo n v : Nat) : (s.setF off lo n v).groups = s.groups := rfl
@[simp] theorem Chip.setF_banked (off lo n v : Nat) : (s.setF off lo n v).banked = s.banked := rfl
@[simp] theorem Chip.setF_ports (off lo n v : Nat) : (s.setF off lo n v).ports = s.ports := rfl
@[simp] theorem Chip.setF_irq (off lo n v : Nat) : (s.setF off lo n v).irq = s.irq := rfl
@[simp] theorem Chip.setF_fc (off lo n v : Nat) : (s.setF off lo n v).fc = s.fc := rfl
@[simp] theorem Chip.setF_rsq (off lo n v : Nat) : (s.setF off lo n v).rsq = s.rsq := rfl
@[simp] theorem Chip.setF_link (off lo n v : Nat) : (s.setF off lo n v).link = s.link := rfl
@[simp] theorem Chip.setF_fuseIdx (off lo n v : Nat) : (s.setF off lo n v).fuseIdx = s.fuseIdx := rfl
@[simp] theorem Chip.setF_fuseTmo (off lo n v : Nat) : (s.setF off lo n v).fuseTmo = s.fuseTmo := rfl
@[simp] theorem Chip.setF_envOn (off lo n v : Nat) : (s.setF off lo n v).envOn = s.envOn := rfl
@[simp] theorem Chip.setF_taps (off lo n v : Nat) : (s.setF off lo n v).taps = s.taps := rfl
@[simp] theorem Chip.setF_snsAt (off lo n v : Nat) : (s.setF off lo n v).snsAt = s.snsAt := rfl
@[simp] theorem Chip.setF_snsRef (off lo n v : Nat) : (s.setF off lo n v).snsRef = s.snsRef := rfl
@[simp] theorem Chip.setF_clkBad (off lo n v : Nat) : (s.setF off lo n v).clkBad = s.clkBad := rfl
@[simp] theorem Chip.setF_tap (off lo n v : Nat) : (s.setF off lo n v).tap = s.tap := rfl
@[simp] theorem Chip.setF_uid (off lo n v : Nat) : (s.setF off lo n v).uid = s.uid := rfl
@[simp] theorem Chip.setF_free (off lo n v : Nat) : (s.setF off lo n v).free = s.free := rfl

/-! ### `Chip.bump` -/

@[simp] theorem Chip.bump_build (off lo n k : Nat) : (s.bump off lo n k).build = s.build := rfl
@[simp] theorem Chip.bump_time (off lo n k : Nat) : (s.bump off lo n k).time = s.time := rfl
@[simp] theorem Chip.bump_phase (off lo n k : Nat) : (s.bump off lo n k).phase = s.phase := rfl
@[simp] theorem Chip.bump_pins (off lo n k : Nat) : (s.bump off lo n k).pins = s.pins := rfl
@[simp] theorem Chip.bump_guard (off lo n k : Nat) : (s.bump off lo n k).guard = s.guard := rfl
@[simp] theorem Chip.bump_rp (off lo n k : Nat) : (s.bump off lo n k).rp = s.rp := rfl
@[simp] theorem Chip.bump_ctx (off lo n k : Nat) : (s.bump off lo n k).ctx = s.ctx := rfl
@[simp] theorem Chip.bump_mov (off lo n k : Nat) : (s.bump off lo n k).mov = s.mov := rfl
@[simp] theorem Chip.bump_ks (off lo n k : Nat) : (s.bump off lo n k).ks = s.ks := rfl
@[simp] theorem Chip.bump_ksq (off lo n k : Nat) : (s.bump off lo n k).ksq = s.ksq := rfl
@[simp] theorem Chip.bump_l2 (off lo n k : Nat) : (s.bump off lo n k).l2 = s.l2 := rfl
@[simp] theorem Chip.bump_inv (off lo n k : Nat) : (s.bump off lo n k).inv = s.inv := rfl
@[simp] theorem Chip.bump_epoch (off lo n k : Nat) : (s.bump off lo n k).epoch = s.epoch := rfl
@[simp] theorem Chip.bump_walks (off lo n k : Nat) : (s.bump off lo n k).walks = s.walks := rfl
@[simp] theorem Chip.bump_tier (off lo n k : Nat) : (s.bump off lo n k).tier = s.tier := rfl
@[simp] theorem Chip.bump_mem (off lo n k : Nat) : (s.bump off lo n k).mem = s.mem := rfl
@[simp] theorem Chip.bump_rc (off lo n k : Nat) : (s.bump off lo n k).rc = s.rc := rfl
@[simp] theorem Chip.bump_rcFills (off lo n k : Nat) : (s.bump off lo n k).rcFills = s.rcFills := rfl
@[simp] theorem Chip.bump_segs (off lo n k : Nat) : (s.bump off lo n k).segs = s.segs := rfl
@[simp] theorem Chip.bump_groups (off lo n k : Nat) : (s.bump off lo n k).groups = s.groups := rfl
@[simp] theorem Chip.bump_banked (off lo n k : Nat) : (s.bump off lo n k).banked = s.banked := rfl
@[simp] theorem Chip.bump_ports (off lo n k : Nat) : (s.bump off lo n k).ports = s.ports := rfl
@[simp] theorem Chip.bump_irq (off lo n k : Nat) : (s.bump off lo n k).irq = s.irq := rfl
@[simp] theorem Chip.bump_fc (off lo n k : Nat) : (s.bump off lo n k).fc = s.fc := rfl
@[simp] theorem Chip.bump_rsq (off lo n k : Nat) : (s.bump off lo n k).rsq = s.rsq := rfl
@[simp] theorem Chip.bump_link (off lo n k : Nat) : (s.bump off lo n k).link = s.link := rfl
@[simp] theorem Chip.bump_fuseIdx (off lo n k : Nat) : (s.bump off lo n k).fuseIdx = s.fuseIdx := rfl
@[simp] theorem Chip.bump_fuseTmo (off lo n k : Nat) : (s.bump off lo n k).fuseTmo = s.fuseTmo := rfl
@[simp] theorem Chip.bump_envOn (off lo n k : Nat) : (s.bump off lo n k).envOn = s.envOn := rfl
@[simp] theorem Chip.bump_taps (off lo n k : Nat) : (s.bump off lo n k).taps = s.taps := rfl
@[simp] theorem Chip.bump_snsAt (off lo n k : Nat) : (s.bump off lo n k).snsAt = s.snsAt := rfl
@[simp] theorem Chip.bump_snsRef (off lo n k : Nat) : (s.bump off lo n k).snsRef = s.snsRef := rfl
@[simp] theorem Chip.bump_clkBad (off lo n k : Nat) : (s.bump off lo n k).clkBad = s.clkBad := rfl
@[simp] theorem Chip.bump_tap (off lo n k : Nat) : (s.bump off lo n k).tap = s.tap := rfl
@[simp] theorem Chip.bump_uid (off lo n k : Nat) : (s.bump off lo n k).uid = s.uid := rfl
@[simp] theorem Chip.bump_free (off lo n k : Nat) : (s.bump off lo n k).free = s.free := rfl

/-! ### `Chip.updCtx` -/

@[simp] theorem Chip.updCtx_build (c : Nat) (f : Ctx → Ctx) : (s.updCtx c f).build = s.build := rfl
@[simp] theorem Chip.updCtx_regs (c : Nat) (f : Ctx → Ctx) : (s.updCtx c f).regs = s.regs := rfl
@[simp] theorem Chip.updCtx_time (c : Nat) (f : Ctx → Ctx) : (s.updCtx c f).time = s.time := rfl
@[simp] theorem Chip.updCtx_phase (c : Nat) (f : Ctx → Ctx) : (s.updCtx c f).phase = s.phase := rfl
@[simp] theorem Chip.updCtx_pins (c : Nat) (f : Ctx → Ctx) : (s.updCtx c f).pins = s.pins := rfl
@[simp] theorem Chip.updCtx_guard (c : Nat) (f : Ctx → Ctx) : (s.updCtx c f).guard = s.guard := rfl
@[simp] theorem Chip.updCtx_rp (c : Nat) (f : Ctx → Ctx) : (s.updCtx c f).rp = s.rp := rfl
@[simp] theorem Chip.updCtx_ctx (c : Nat) (f : Ctx → Ctx) : (s.updCtx c f).ctx = Tab.upd {} c f s.ctx := rfl
@[simp] theorem Chip.updCtx_mov (c : Nat) (f : Ctx → Ctx) : (s.updCtx c f).mov = s.mov := rfl
@[simp] theorem Chip.updCtx_ks (c : Nat) (f : Ctx → Ctx) : (s.updCtx c f).ks = s.ks := rfl
@[simp] theorem Chip.updCtx_ksq (c : Nat) (f : Ctx → Ctx) : (s.updCtx c f).ksq = s.ksq := rfl
@[simp] theorem Chip.updCtx_l2 (c : Nat) (f : Ctx → Ctx) : (s.updCtx c f).l2 = s.l2 := rfl
@[simp] theorem Chip.updCtx_inv (c : Nat) (f : Ctx → Ctx) : (s.updCtx c f).inv = s.inv := rfl
@[simp] theorem Chip.updCtx_epoch (c : Nat) (f : Ctx → Ctx) : (s.updCtx c f).epoch = s.epoch := rfl
@[simp] theorem Chip.updCtx_walks (c : Nat) (f : Ctx → Ctx) : (s.updCtx c f).walks = s.walks := rfl
@[simp] theorem Chip.updCtx_tier (c : Nat) (f : Ctx → Ctx) : (s.updCtx c f).tier = s.tier := rfl
@[simp] theorem Chip.updCtx_mem (c : Nat) (f : Ctx → Ctx) : (s.updCtx c f).mem = s.mem := rfl
@[simp] theorem Chip.updCtx_rc (c : Nat) (f : Ctx → Ctx) : (s.updCtx c f).rc = s.rc := rfl
@[simp] theorem Chip.updCtx_rcFills (c : Nat) (f : Ctx → Ctx) : (s.updCtx c f).rcFills = s.rcFills := rfl
@[simp] theorem Chip.updCtx_segs (c : Nat) (f : Ctx → Ctx) : (s.updCtx c f).segs = s.segs := rfl
@[simp] theorem Chip.updCtx_groups (c : Nat) (f : Ctx → Ctx) : (s.updCtx c f).groups = s.groups := rfl
@[simp] theorem Chip.updCtx_banked (c : Nat) (f : Ctx → Ctx) : (s.updCtx c f).banked = s.banked := rfl
@[simp] theorem Chip.updCtx_ports (c : Nat) (f : Ctx → Ctx) : (s.updCtx c f).ports = s.ports := rfl
@[simp] theorem Chip.updCtx_irq (c : Nat) (f : Ctx → Ctx) : (s.updCtx c f).irq = s.irq := rfl
@[simp] theorem Chip.updCtx_fc (c : Nat) (f : Ctx → Ctx) : (s.updCtx c f).fc = s.fc := rfl
@[simp] theorem Chip.updCtx_rsq (c : Nat) (f : Ctx → Ctx) : (s.updCtx c f).rsq = s.rsq := rfl
@[simp] theorem Chip.updCtx_link (c : Nat) (f : Ctx → Ctx) : (s.updCtx c f).link = s.link := rfl
@[simp] theorem Chip.updCtx_fuseIdx (c : Nat) (f : Ctx → Ctx) : (s.updCtx c f).fuseIdx = s.fuseIdx := rfl
@[simp] theorem Chip.updCtx_fuseTmo (c : Nat) (f : Ctx → Ctx) : (s.updCtx c f).fuseTmo = s.fuseTmo := rfl
@[simp] theorem Chip.updCtx_envOn (c : Nat) (f : Ctx → Ctx) : (s.updCtx c f).envOn = s.envOn := rfl
@[simp] theorem Chip.updCtx_taps (c : Nat) (f : Ctx → Ctx) : (s.updCtx c f).taps = s.taps := rfl
@[simp] theorem Chip.updCtx_snsAt (c : Nat) (f : Ctx → Ctx) : (s.updCtx c f).snsAt = s.snsAt := rfl
@[simp] theorem Chip.updCtx_snsRef (c : Nat) (f : Ctx → Ctx) : (s.updCtx c f).snsRef = s.snsRef := rfl
@[simp] theorem Chip.updCtx_clkBad (c : Nat) (f : Ctx → Ctx) : (s.updCtx c f).clkBad = s.clkBad := rfl
@[simp] theorem Chip.updCtx_tap (c : Nat) (f : Ctx → Ctx) : (s.updCtx c f).tap = s.tap := rfl
@[simp] theorem Chip.updCtx_uid (c : Nat) (f : Ctx → Ctx) : (s.updCtx c f).uid = s.uid := rfl
@[simp] theorem Chip.updCtx_free (c : Nat) (f : Ctx → Ctx) : (s.updCtx c f).free = s.free := rfl

/-! ### `Chip.updMov` -/

@[simp] theorem Chip.updMov_build (m : Nat) (f : Mover → Mover) : (s.updMov m f).build = s.build := rfl
@[simp] theorem Chip.updMov_regs (m : Nat) (f : Mover → Mover) : (s.updMov m f).regs = s.regs := rfl
@[simp] theorem Chip.updMov_time (m : Nat) (f : Mover → Mover) : (s.updMov m f).time = s.time := rfl
@[simp] theorem Chip.updMov_phase (m : Nat) (f : Mover → Mover) : (s.updMov m f).phase = s.phase := rfl
@[simp] theorem Chip.updMov_pins (m : Nat) (f : Mover → Mover) : (s.updMov m f).pins = s.pins := rfl
@[simp] theorem Chip.updMov_guard (m : Nat) (f : Mover → Mover) : (s.updMov m f).guard = s.guard := rfl
@[simp] theorem Chip.updMov_rp (m : Nat) (f : Mover → Mover) : (s.updMov m f).rp = s.rp := rfl
@[simp] theorem Chip.updMov_ctx (m : Nat) (f : Mover → Mover) : (s.updMov m f).ctx = s.ctx := rfl
@[simp] theorem Chip.updMov_mov (m : Nat) (f : Mover → Mover) : (s.updMov m f).mov = Tab.upd {} m f s.mov := rfl
@[simp] theorem Chip.updMov_ks (m : Nat) (f : Mover → Mover) : (s.updMov m f).ks = s.ks := rfl
@[simp] theorem Chip.updMov_ksq (m : Nat) (f : Mover → Mover) : (s.updMov m f).ksq = s.ksq := rfl
@[simp] theorem Chip.updMov_l2 (m : Nat) (f : Mover → Mover) : (s.updMov m f).l2 = s.l2 := rfl
@[simp] theorem Chip.updMov_inv (m : Nat) (f : Mover → Mover) : (s.updMov m f).inv = s.inv := rfl
@[simp] theorem Chip.updMov_epoch (m : Nat) (f : Mover → Mover) : (s.updMov m f).epoch = s.epoch := rfl
@[simp] theorem Chip.updMov_walks (m : Nat) (f : Mover → Mover) : (s.updMov m f).walks = s.walks := rfl
@[simp] theorem Chip.updMov_tier (m : Nat) (f : Mover → Mover) : (s.updMov m f).tier = s.tier := rfl
@[simp] theorem Chip.updMov_mem (m : Nat) (f : Mover → Mover) : (s.updMov m f).mem = s.mem := rfl
@[simp] theorem Chip.updMov_rc (m : Nat) (f : Mover → Mover) : (s.updMov m f).rc = s.rc := rfl
@[simp] theorem Chip.updMov_rcFills (m : Nat) (f : Mover → Mover) : (s.updMov m f).rcFills = s.rcFills := rfl
@[simp] theorem Chip.updMov_segs (m : Nat) (f : Mover → Mover) : (s.updMov m f).segs = s.segs := rfl
@[simp] theorem Chip.updMov_groups (m : Nat) (f : Mover → Mover) : (s.updMov m f).groups = s.groups := rfl
@[simp] theorem Chip.updMov_banked (m : Nat) (f : Mover → Mover) : (s.updMov m f).banked = s.banked := rfl
@[simp] theorem Chip.updMov_ports (m : Nat) (f : Mover → Mover) : (s.updMov m f).ports = s.ports := rfl
@[simp] theorem Chip.updMov_irq (m : Nat) (f : Mover → Mover) : (s.updMov m f).irq = s.irq := rfl
@[simp] theorem Chip.updMov_fc (m : Nat) (f : Mover → Mover) : (s.updMov m f).fc = s.fc := rfl
@[simp] theorem Chip.updMov_rsq (m : Nat) (f : Mover → Mover) : (s.updMov m f).rsq = s.rsq := rfl
@[simp] theorem Chip.updMov_link (m : Nat) (f : Mover → Mover) : (s.updMov m f).link = s.link := rfl
@[simp] theorem Chip.updMov_fuseIdx (m : Nat) (f : Mover → Mover) : (s.updMov m f).fuseIdx = s.fuseIdx := rfl
@[simp] theorem Chip.updMov_fuseTmo (m : Nat) (f : Mover → Mover) : (s.updMov m f).fuseTmo = s.fuseTmo := rfl
@[simp] theorem Chip.updMov_envOn (m : Nat) (f : Mover → Mover) : (s.updMov m f).envOn = s.envOn := rfl
@[simp] theorem Chip.updMov_taps (m : Nat) (f : Mover → Mover) : (s.updMov m f).taps = s.taps := rfl
@[simp] theorem Chip.updMov_snsAt (m : Nat) (f : Mover → Mover) : (s.updMov m f).snsAt = s.snsAt := rfl
@[simp] theorem Chip.updMov_snsRef (m : Nat) (f : Mover → Mover) : (s.updMov m f).snsRef = s.snsRef := rfl
@[simp] theorem Chip.updMov_clkBad (m : Nat) (f : Mover → Mover) : (s.updMov m f).clkBad = s.clkBad := rfl
@[simp] theorem Chip.updMov_tap (m : Nat) (f : Mover → Mover) : (s.updMov m f).tap = s.tap := rfl
@[simp] theorem Chip.updMov_uid (m : Nat) (f : Mover → Mover) : (s.updMov m f).uid = s.uid := rfl
@[simp] theorem Chip.updMov_free (m : Nat) (f : Mover → Mover) : (s.updMov m f).free = s.free := rfl

/-! ### `Chip.updSrc` -/

@[simp] theorem Chip.updSrc_build (n : Nat) (f : IrqSrc → IrqSrc) : (s.updSrc n f).build = s.build := rfl
@[simp] theorem Chip.updSrc_regs (n : Nat) (f : IrqSrc → IrqSrc) : (s.updSrc n f).regs = s.regs := rfl
@[simp] theorem Chip.updSrc_time (n : Nat) (f : IrqSrc → IrqSrc) : (s.updSrc n f).time = s.time := rfl
@[simp] theorem Chip.updSrc_phase (n : Nat) (f : IrqSrc → IrqSrc) : (s.updSrc n f).phase = s.phase := rfl
@[simp] theorem Chip.updSrc_pins (n : Nat) (f : IrqSrc → IrqSrc) : (s.updSrc n f).pins = s.pins := rfl
@[simp] theorem Chip.updSrc_guard (n : Nat) (f : IrqSrc → IrqSrc) : (s.updSrc n f).guard = s.guard := rfl
@[simp] theorem Chip.updSrc_rp (n : Nat) (f : IrqSrc → IrqSrc) : (s.updSrc n f).rp = s.rp := rfl
@[simp] theorem Chip.updSrc_ctx (n : Nat) (f : IrqSrc → IrqSrc) : (s.updSrc n f).ctx = s.ctx := rfl
@[simp] theorem Chip.updSrc_mov (n : Nat) (f : IrqSrc → IrqSrc) : (s.updSrc n f).mov = s.mov := rfl
@[simp] theorem Chip.updSrc_ks (n : Nat) (f : IrqSrc → IrqSrc) : (s.updSrc n f).ks = s.ks := rfl
@[simp] theorem Chip.updSrc_ksq (n : Nat) (f : IrqSrc → IrqSrc) : (s.updSrc n f).ksq = s.ksq := rfl
@[simp] theorem Chip.updSrc_l2 (n : Nat) (f : IrqSrc → IrqSrc) : (s.updSrc n f).l2 = s.l2 := rfl
@[simp] theorem Chip.updSrc_inv (n : Nat) (f : IrqSrc → IrqSrc) : (s.updSrc n f).inv = s.inv := rfl
@[simp] theorem Chip.updSrc_epoch (n : Nat) (f : IrqSrc → IrqSrc) : (s.updSrc n f).epoch = s.epoch := rfl
@[simp] theorem Chip.updSrc_walks (n : Nat) (f : IrqSrc → IrqSrc) : (s.updSrc n f).walks = s.walks := rfl
@[simp] theorem Chip.updSrc_tier (n : Nat) (f : IrqSrc → IrqSrc) : (s.updSrc n f).tier = s.tier := rfl
@[simp] theorem Chip.updSrc_mem (n : Nat) (f : IrqSrc → IrqSrc) : (s.updSrc n f).mem = s.mem := rfl
@[simp] theorem Chip.updSrc_rc (n : Nat) (f : IrqSrc → IrqSrc) : (s.updSrc n f).rc = s.rc := rfl
@[simp] theorem Chip.updSrc_rcFills (n : Nat) (f : IrqSrc → IrqSrc) : (s.updSrc n f).rcFills = s.rcFills := rfl
@[simp] theorem Chip.updSrc_segs (n : Nat) (f : IrqSrc → IrqSrc) : (s.updSrc n f).segs = s.segs := rfl
@[simp] theorem Chip.updSrc_groups (n : Nat) (f : IrqSrc → IrqSrc) : (s.updSrc n f).groups = s.groups := rfl
@[simp] theorem Chip.updSrc_banked (n : Nat) (f : IrqSrc → IrqSrc) : (s.updSrc n f).banked = s.banked := rfl
@[simp] theorem Chip.updSrc_ports (n : Nat) (f : IrqSrc → IrqSrc) : (s.updSrc n f).ports = s.ports := rfl
@[simp] theorem Chip.updSrc_irq (n : Nat) (f : IrqSrc → IrqSrc) : (s.updSrc n f).irq = { s.irq with src := Tab.upd {} n f s.irq.src } := rfl
@[simp] theorem Chip.updSrc_fc (n : Nat) (f : IrqSrc → IrqSrc) : (s.updSrc n f).fc = s.fc := rfl
@[simp] theorem Chip.updSrc_rsq (n : Nat) (f : IrqSrc → IrqSrc) : (s.updSrc n f).rsq = s.rsq := rfl
@[simp] theorem Chip.updSrc_link (n : Nat) (f : IrqSrc → IrqSrc) : (s.updSrc n f).link = s.link := rfl
@[simp] theorem Chip.updSrc_fuseIdx (n : Nat) (f : IrqSrc → IrqSrc) : (s.updSrc n f).fuseIdx = s.fuseIdx := rfl
@[simp] theorem Chip.updSrc_fuseTmo (n : Nat) (f : IrqSrc → IrqSrc) : (s.updSrc n f).fuseTmo = s.fuseTmo := rfl
@[simp] theorem Chip.updSrc_envOn (n : Nat) (f : IrqSrc → IrqSrc) : (s.updSrc n f).envOn = s.envOn := rfl
@[simp] theorem Chip.updSrc_taps (n : Nat) (f : IrqSrc → IrqSrc) : (s.updSrc n f).taps = s.taps := rfl
@[simp] theorem Chip.updSrc_snsAt (n : Nat) (f : IrqSrc → IrqSrc) : (s.updSrc n f).snsAt = s.snsAt := rfl
@[simp] theorem Chip.updSrc_snsRef (n : Nat) (f : IrqSrc → IrqSrc) : (s.updSrc n f).snsRef = s.snsRef := rfl
@[simp] theorem Chip.updSrc_clkBad (n : Nat) (f : IrqSrc → IrqSrc) : (s.updSrc n f).clkBad = s.clkBad := rfl
@[simp] theorem Chip.updSrc_tap (n : Nat) (f : IrqSrc → IrqSrc) : (s.updSrc n f).tap = s.tap := rfl
@[simp] theorem Chip.updSrc_uid (n : Nat) (f : IrqSrc → IrqSrc) : (s.updSrc n f).uid = s.uid := rfl
@[simp] theorem Chip.updSrc_free (n : Nat) (f : IrqSrc → IrqSrc) : (s.updSrc n f).free = s.free := rfl

/-! ### `Chip.updTgt` -/

@[simp] theorem Chip.updTgt_build (t : Nat) (f : IrqTgt → IrqTgt) : (s.updTgt t f).build = s.build := rfl
@[simp] theorem Chip.updTgt_regs (t : Nat) (f : IrqTgt → IrqTgt) : (s.updTgt t f).regs = s.regs := rfl
@[simp] theorem Chip.updTgt_time (t : Nat) (f : IrqTgt → IrqTgt) : (s.updTgt t f).time = s.time := rfl
@[simp] theorem Chip.updTgt_phase (t : Nat) (f : IrqTgt → IrqTgt) : (s.updTgt t f).phase = s.phase := rfl
@[simp] theorem Chip.updTgt_pins (t : Nat) (f : IrqTgt → IrqTgt) : (s.updTgt t f).pins = s.pins := rfl
@[simp] theorem Chip.updTgt_guard (t : Nat) (f : IrqTgt → IrqTgt) : (s.updTgt t f).guard = s.guard := rfl
@[simp] theorem Chip.updTgt_rp (t : Nat) (f : IrqTgt → IrqTgt) : (s.updTgt t f).rp = s.rp := rfl
@[simp] theorem Chip.updTgt_ctx (t : Nat) (f : IrqTgt → IrqTgt) : (s.updTgt t f).ctx = s.ctx := rfl
@[simp] theorem Chip.updTgt_mov (t : Nat) (f : IrqTgt → IrqTgt) : (s.updTgt t f).mov = s.mov := rfl
@[simp] theorem Chip.updTgt_ks (t : Nat) (f : IrqTgt → IrqTgt) : (s.updTgt t f).ks = s.ks := rfl
@[simp] theorem Chip.updTgt_ksq (t : Nat) (f : IrqTgt → IrqTgt) : (s.updTgt t f).ksq = s.ksq := rfl
@[simp] theorem Chip.updTgt_l2 (t : Nat) (f : IrqTgt → IrqTgt) : (s.updTgt t f).l2 = s.l2 := rfl
@[simp] theorem Chip.updTgt_inv (t : Nat) (f : IrqTgt → IrqTgt) : (s.updTgt t f).inv = s.inv := rfl
@[simp] theorem Chip.updTgt_epoch (t : Nat) (f : IrqTgt → IrqTgt) : (s.updTgt t f).epoch = s.epoch := rfl
@[simp] theorem Chip.updTgt_walks (t : Nat) (f : IrqTgt → IrqTgt) : (s.updTgt t f).walks = s.walks := rfl
@[simp] theorem Chip.updTgt_tier (t : Nat) (f : IrqTgt → IrqTgt) : (s.updTgt t f).tier = s.tier := rfl
@[simp] theorem Chip.updTgt_mem (t : Nat) (f : IrqTgt → IrqTgt) : (s.updTgt t f).mem = s.mem := rfl
@[simp] theorem Chip.updTgt_rc (t : Nat) (f : IrqTgt → IrqTgt) : (s.updTgt t f).rc = s.rc := rfl
@[simp] theorem Chip.updTgt_rcFills (t : Nat) (f : IrqTgt → IrqTgt) : (s.updTgt t f).rcFills = s.rcFills := rfl
@[simp] theorem Chip.updTgt_segs (t : Nat) (f : IrqTgt → IrqTgt) : (s.updTgt t f).segs = s.segs := rfl
@[simp] theorem Chip.updTgt_groups (t : Nat) (f : IrqTgt → IrqTgt) : (s.updTgt t f).groups = s.groups := rfl
@[simp] theorem Chip.updTgt_banked (t : Nat) (f : IrqTgt → IrqTgt) : (s.updTgt t f).banked = s.banked := rfl
@[simp] theorem Chip.updTgt_ports (t : Nat) (f : IrqTgt → IrqTgt) : (s.updTgt t f).ports = s.ports := rfl
@[simp] theorem Chip.updTgt_irq (t : Nat) (f : IrqTgt → IrqTgt) : (s.updTgt t f).irq = { s.irq with tgt := Tab.upd {} t f s.irq.tgt } := rfl
@[simp] theorem Chip.updTgt_fc (t : Nat) (f : IrqTgt → IrqTgt) : (s.updTgt t f).fc = s.fc := rfl
@[simp] theorem Chip.updTgt_rsq (t : Nat) (f : IrqTgt → IrqTgt) : (s.updTgt t f).rsq = s.rsq := rfl
@[simp] theorem Chip.updTgt_link (t : Nat) (f : IrqTgt → IrqTgt) : (s.updTgt t f).link = s.link := rfl
@[simp] theorem Chip.updTgt_fuseIdx (t : Nat) (f : IrqTgt → IrqTgt) : (s.updTgt t f).fuseIdx = s.fuseIdx := rfl
@[simp] theorem Chip.updTgt_fuseTmo (t : Nat) (f : IrqTgt → IrqTgt) : (s.updTgt t f).fuseTmo = s.fuseTmo := rfl
@[simp] theorem Chip.updTgt_envOn (t : Nat) (f : IrqTgt → IrqTgt) : (s.updTgt t f).envOn = s.envOn := rfl
@[simp] theorem Chip.updTgt_taps (t : Nat) (f : IrqTgt → IrqTgt) : (s.updTgt t f).taps = s.taps := rfl
@[simp] theorem Chip.updTgt_snsAt (t : Nat) (f : IrqTgt → IrqTgt) : (s.updTgt t f).snsAt = s.snsAt := rfl
@[simp] theorem Chip.updTgt_snsRef (t : Nat) (f : IrqTgt → IrqTgt) : (s.updTgt t f).snsRef = s.snsRef := rfl
@[simp] theorem Chip.updTgt_clkBad (t : Nat) (f : IrqTgt → IrqTgt) : (s.updTgt t f).clkBad = s.clkBad := rfl
@[simp] theorem Chip.updTgt_tap (t : Nat) (f : IrqTgt → IrqTgt) : (s.updTgt t f).tap = s.tap := rfl
@[simp] theorem Chip.updTgt_uid (t : Nat) (f : IrqTgt → IrqTgt) : (s.updTgt t f).uid = s.uid := rfl
@[simp] theorem Chip.updTgt_free (t : Nat) (f : IrqTgt → IrqTgt) : (s.updTgt t f).free = s.free := rfl

/-! ### `Chip.raise` -/

@[simp] theorem Chip.raise_build (n : Nat) (nmi : Bool) : (s.raise n nmi).build = s.build := rfl
@[simp] theorem Chip.raise_regs (n : Nat) (nmi : Bool) : (s.raise n nmi).regs = s.regs := rfl
@[simp] theorem Chip.raise_time (n : Nat) (nmi : Bool) : (s.raise n nmi).time = s.time := rfl
@[simp] theorem Chip.raise_phase (n : Nat) (nmi : Bool) : (s.raise n nmi).phase = s.phase := rfl
@[simp] theorem Chip.raise_pins (n : Nat) (nmi : Bool) : (s.raise n nmi).pins = s.pins := rfl
@[simp] theorem Chip.raise_guard (n : Nat) (nmi : Bool) : (s.raise n nmi).guard = s.guard := rfl
@[simp] theorem Chip.raise_rp (n : Nat) (nmi : Bool) : (s.raise n nmi).rp = s.rp := rfl
@[simp] theorem Chip.raise_ctx (n : Nat) (nmi : Bool) : (s.raise n nmi).ctx = s.ctx := rfl
@[simp] theorem Chip.raise_mov (n : Nat) (nmi : Bool) : (s.raise n nmi).mov = s.mov := rfl
@[simp] theorem Chip.raise_ks (n : Nat) (nmi : Bool) : (s.raise n nmi).ks = s.ks := rfl
@[simp] theorem Chip.raise_ksq (n : Nat) (nmi : Bool) : (s.raise n nmi).ksq = s.ksq := rfl
@[simp] theorem Chip.raise_l2 (n : Nat) (nmi : Bool) : (s.raise n nmi).l2 = s.l2 := rfl
@[simp] theorem Chip.raise_inv (n : Nat) (nmi : Bool) : (s.raise n nmi).inv = s.inv := rfl
@[simp] theorem Chip.raise_epoch (n : Nat) (nmi : Bool) : (s.raise n nmi).epoch = s.epoch := rfl
@[simp] theorem Chip.raise_walks (n : Nat) (nmi : Bool) : (s.raise n nmi).walks = s.walks := rfl
@[simp] theorem Chip.raise_tier (n : Nat) (nmi : Bool) : (s.raise n nmi).tier = s.tier := rfl
@[simp] theorem Chip.raise_mem (n : Nat) (nmi : Bool) : (s.raise n nmi).mem = s.mem := rfl
@[simp] theorem Chip.raise_rc (n : Nat) (nmi : Bool) : (s.raise n nmi).rc = s.rc := rfl
@[simp] theorem Chip.raise_rcFills (n : Nat) (nmi : Bool) : (s.raise n nmi).rcFills = s.rcFills := rfl
@[simp] theorem Chip.raise_segs (n : Nat) (nmi : Bool) : (s.raise n nmi).segs = s.segs := rfl
@[simp] theorem Chip.raise_groups (n : Nat) (nmi : Bool) : (s.raise n nmi).groups = s.groups := rfl
@[simp] theorem Chip.raise_banked (n : Nat) (nmi : Bool) : (s.raise n nmi).banked = s.banked := rfl
@[simp] theorem Chip.raise_ports (n : Nat) (nmi : Bool) : (s.raise n nmi).ports = s.ports := rfl
@[simp] theorem Chip.raise_irq (n : Nat) (nmi : Bool) : (s.raise n nmi).irq = { s.irq with src := Tab.upd {} n (IrqSrc.event s.time nmi) s.irq.src } := rfl
@[simp] theorem Chip.raise_fc (n : Nat) (nmi : Bool) : (s.raise n nmi).fc = s.fc := rfl
@[simp] theorem Chip.raise_rsq (n : Nat) (nmi : Bool) : (s.raise n nmi).rsq = s.rsq := rfl
@[simp] theorem Chip.raise_link (n : Nat) (nmi : Bool) : (s.raise n nmi).link = s.link := rfl
@[simp] theorem Chip.raise_fuseIdx (n : Nat) (nmi : Bool) : (s.raise n nmi).fuseIdx = s.fuseIdx := rfl
@[simp] theorem Chip.raise_fuseTmo (n : Nat) (nmi : Bool) : (s.raise n nmi).fuseTmo = s.fuseTmo := rfl
@[simp] theorem Chip.raise_envOn (n : Nat) (nmi : Bool) : (s.raise n nmi).envOn = s.envOn := rfl
@[simp] theorem Chip.raise_taps (n : Nat) (nmi : Bool) : (s.raise n nmi).taps = s.taps := rfl
@[simp] theorem Chip.raise_snsAt (n : Nat) (nmi : Bool) : (s.raise n nmi).snsAt = s.snsAt := rfl
@[simp] theorem Chip.raise_snsRef (n : Nat) (nmi : Bool) : (s.raise n nmi).snsRef = s.snsRef := rfl
@[simp] theorem Chip.raise_clkBad (n : Nat) (nmi : Bool) : (s.raise n nmi).clkBad = s.clkBad := rfl
@[simp] theorem Chip.raise_tap (n : Nat) (nmi : Bool) : (s.raise n nmi).tap = s.tap := rfl
@[simp] theorem Chip.raise_uid (n : Nat) (nmi : Bool) : (s.raise n nmi).uid = s.uid := rfl
@[simp] theorem Chip.raise_free (n : Nat) (nmi : Bool) : (s.raise n nmi).free = s.free := rfl

/-! ### `Chip.memWrite` -/

@[simp] theorem Chip.memWrite_build (l : List (Nat × Byte)) : (s.memWrite l).build = s.build := rfl
@[simp] theorem Chip.memWrite_regs (l : List (Nat × Byte)) : (s.memWrite l).regs = s.regs := rfl
@[simp] theorem Chip.memWrite_time (l : List (Nat × Byte)) : (s.memWrite l).time = s.time := rfl
@[simp] theorem Chip.memWrite_phase (l : List (Nat × Byte)) : (s.memWrite l).phase = s.phase := rfl
@[simp] theorem Chip.memWrite_pins (l : List (Nat × Byte)) : (s.memWrite l).pins = s.pins := rfl
@[simp] theorem Chip.memWrite_guard (l : List (Nat × Byte)) : (s.memWrite l).guard = s.guard := rfl
@[simp] theorem Chip.memWrite_rp (l : List (Nat × Byte)) : (s.memWrite l).rp = s.rp := rfl
@[simp] theorem Chip.memWrite_ctx (l : List (Nat × Byte)) : (s.memWrite l).ctx = s.ctx := rfl
@[simp] theorem Chip.memWrite_mov (l : List (Nat × Byte)) : (s.memWrite l).mov = s.mov := rfl
@[simp] theorem Chip.memWrite_ks (l : List (Nat × Byte)) : (s.memWrite l).ks = s.ks := rfl
@[simp] theorem Chip.memWrite_ksq (l : List (Nat × Byte)) : (s.memWrite l).ksq = s.ksq := rfl
@[simp] theorem Chip.memWrite_l2 (l : List (Nat × Byte)) : (s.memWrite l).l2 = s.l2 := rfl
@[simp] theorem Chip.memWrite_inv (l : List (Nat × Byte)) : (s.memWrite l).inv = s.inv := rfl
@[simp] theorem Chip.memWrite_epoch (l : List (Nat × Byte)) : (s.memWrite l).epoch = s.epoch := rfl
@[simp] theorem Chip.memWrite_walks (l : List (Nat × Byte)) : (s.memWrite l).walks = s.walks := rfl
@[simp] theorem Chip.memWrite_tier (l : List (Nat × Byte)) : (s.memWrite l).tier = s.tier := rfl
@[simp] theorem Chip.memWrite_mem (l : List (Nat × Byte)) : (s.memWrite l).mem = memPut l s.mem := rfl
@[simp] theorem Chip.memWrite_rc (l : List (Nat × Byte)) : (s.memWrite l).rc = s.rc := rfl
@[simp] theorem Chip.memWrite_rcFills (l : List (Nat × Byte)) : (s.memWrite l).rcFills = s.rcFills := rfl
@[simp] theorem Chip.memWrite_segs (l : List (Nat × Byte)) : (s.memWrite l).segs = s.segs := rfl
@[simp] theorem Chip.memWrite_groups (l : List (Nat × Byte)) : (s.memWrite l).groups = s.groups := rfl
@[simp] theorem Chip.memWrite_banked (l : List (Nat × Byte)) : (s.memWrite l).banked = s.banked := rfl
@[simp] theorem Chip.memWrite_ports (l : List (Nat × Byte)) : (s.memWrite l).ports = s.ports := rfl
@[simp] theorem Chip.memWrite_irq (l : List (Nat × Byte)) : (s.memWrite l).irq = s.irq := rfl
@[simp] theorem Chip.memWrite_fc (l : List (Nat × Byte)) : (s.memWrite l).fc = s.fc := rfl
@[simp] theorem Chip.memWrite_rsq (l : List (Nat × Byte)) : (s.memWrite l).rsq = s.rsq := rfl
@[simp] theorem Chip.memWrite_link (l : List (Nat × Byte)) : (s.memWrite l).link = s.link := rfl
@[simp] theorem Chip.memWrite_fuseIdx (l : List (Nat × Byte)) : (s.memWrite l).fuseIdx = s.fuseIdx := rfl
@[simp] theorem Chip.memWrite_fuseTmo (l : List (Nat × Byte)) : (s.memWrite l).fuseTmo = s.fuseTmo := rfl
@[simp] theorem Chip.memWrite_envOn (l : List (Nat × Byte)) : (s.memWrite l).envOn = s.envOn := rfl
@[simp] theorem Chip.memWrite_taps (l : List (Nat × Byte)) : (s.memWrite l).taps = s.taps := rfl
@[simp] theorem Chip.memWrite_snsAt (l : List (Nat × Byte)) : (s.memWrite l).snsAt = s.snsAt := rfl
@[simp] theorem Chip.memWrite_snsRef (l : List (Nat × Byte)) : (s.memWrite l).snsRef = s.snsRef := rfl
@[simp] theorem Chip.memWrite_clkBad (l : List (Nat × Byte)) : (s.memWrite l).clkBad = s.clkBad := rfl
@[simp] theorem Chip.memWrite_tap (l : List (Nat × Byte)) : (s.memWrite l).tap = s.tap := rfl
@[simp] theorem Chip.memWrite_uid (l : List (Nat × Byte)) : (s.memWrite l).uid = s.uid := rfl
@[simp] theorem Chip.memWrite_free (l : List (Nat × Byte)) : (s.memWrite l).free = s.free := rfl

/-! ### `Chip.updLine` -/

@[simp] theorem Chip.updLine_build (g : Nat) (f : Line → Line) : (s.updLine g f).build = s.build := rfl
@[simp] theorem Chip.updLine_regs (g : Nat) (f : Line → Line) : (s.updLine g f).regs = s.regs := rfl
@[simp] theorem Chip.updLine_time (g : Nat) (f : Line → Line) : (s.updLine g f).time = s.time := rfl
@[simp] theorem Chip.updLine_phase (g : Nat) (f : Line → Line) : (s.updLine g f).phase = s.phase := rfl
@[simp] theorem Chip.updLine_pins (g : Nat) (f : Line → Line) : (s.updLine g f).pins = s.pins := rfl
@[simp] theorem Chip.updLine_guard (g : Nat) (f : Line → Line) : (s.updLine g f).guard = s.guard := rfl
@[simp] theorem Chip.updLine_rp (g : Nat) (f : Line → Line) : (s.updLine g f).rp = s.rp := rfl
@[simp] theorem Chip.updLine_ctx (g : Nat) (f : Line → Line) : (s.updLine g f).ctx = s.ctx := rfl
@[simp] theorem Chip.updLine_mov (g : Nat) (f : Line → Line) : (s.updLine g f).mov = s.mov := rfl
@[simp] theorem Chip.updLine_ks (g : Nat) (f : Line → Line) : (s.updLine g f).ks = s.ks := rfl
@[simp] theorem Chip.updLine_ksq (g : Nat) (f : Line → Line) : (s.updLine g f).ksq = s.ksq := rfl
@[simp] theorem Chip.updLine_l2 (g : Nat) (f : Line → Line) : (s.updLine g f).l2 = s.l2 := rfl
@[simp] theorem Chip.updLine_inv (g : Nat) (f : Line → Line) : (s.updLine g f).inv = s.inv := rfl
@[simp] theorem Chip.updLine_epoch (g : Nat) (f : Line → Line) : (s.updLine g f).epoch = s.epoch := rfl
@[simp] theorem Chip.updLine_walks (g : Nat) (f : Line → Line) : (s.updLine g f).walks = s.walks := rfl
@[simp] theorem Chip.updLine_tier (g : Nat) (f : Line → Line) : (s.updLine g f).tier = s.tier := rfl
@[simp] theorem Chip.updLine_mem (g : Nat) (f : Line → Line) : (s.updLine g f).mem = s.mem := rfl
@[simp] theorem Chip.updLine_rc (g : Nat) (f : Line → Line) : (s.updLine g f).rc = Tab.upd {} g f s.rc := rfl
@[simp] theorem Chip.updLine_rcFills (g : Nat) (f : Line → Line) : (s.updLine g f).rcFills = s.rcFills := rfl
@[simp] theorem Chip.updLine_segs (g : Nat) (f : Line → Line) : (s.updLine g f).segs = s.segs := rfl
@[simp] theorem Chip.updLine_groups (g : Nat) (f : Line → Line) : (s.updLine g f).groups = s.groups := rfl
@[simp] theorem Chip.updLine_banked (g : Nat) (f : Line → Line) : (s.updLine g f).banked = s.banked := rfl
@[simp] theorem Chip.updLine_ports (g : Nat) (f : Line → Line) : (s.updLine g f).ports = s.ports := rfl
@[simp] theorem Chip.updLine_irq (g : Nat) (f : Line → Line) : (s.updLine g f).irq = s.irq := rfl
@[simp] theorem Chip.updLine_fc (g : Nat) (f : Line → Line) : (s.updLine g f).fc = s.fc := rfl
@[simp] theorem Chip.updLine_rsq (g : Nat) (f : Line → Line) : (s.updLine g f).rsq = s.rsq := rfl
@[simp] theorem Chip.updLine_link (g : Nat) (f : Line → Line) : (s.updLine g f).link = s.link := rfl
@[simp] theorem Chip.updLine_fuseIdx (g : Nat) (f : Line → Line) : (s.updLine g f).fuseIdx = s.fuseIdx := rfl
@[simp] theorem Chip.updLine_fuseTmo (g : Nat) (f : Line → Line) : (s.updLine g f).fuseTmo = s.fuseTmo := rfl
@[simp] theorem Chip.updLine_envOn (g : Nat) (f : Line → Line) : (s.updLine g f).envOn = s.envOn := rfl
@[simp] theorem Chip.updLine_taps (g : Nat) (f : Line → Line) : (s.updLine g f).taps = s.taps := rfl
@[simp] theorem Chip.updLine_snsAt (g : Nat) (f : Line → Line) : (s.updLine g f).snsAt = s.snsAt := rfl
@[simp] theorem Chip.updLine_snsRef (g : Nat) (f : Line → Line) : (s.updLine g f).snsRef = s.snsRef := rfl
@[simp] theorem Chip.updLine_clkBad (g : Nat) (f : Line → Line) : (s.updLine g f).clkBad = s.clkBad := rfl
@[simp] theorem Chip.updLine_tap (g : Nat) (f : Line → Line) : (s.updLine g f).tap = s.tap := rfl
@[simp] theorem Chip.updLine_uid (g : Nat) (f : Line → Line) : (s.updLine g f).uid = s.uid := rfl
@[simp] theorem Chip.updLine_free (g : Nat) (f : Line → Line) : (s.updLine g f).free = s.free := rfl

/-! ### `Chip.updLane` -/

@[simp] theorem Chip.updLane_build (l : Lane) (f : LaneSt → LaneSt) : (s.updLane l f).build = s.build := rfl
@[simp] theorem Chip.updLane_regs (l : Lane) (f : LaneSt → LaneSt) : (s.updLane l f).regs = s.regs := rfl
@[simp] theorem Chip.updLane_time (l : Lane) (f : LaneSt → LaneSt) : (s.updLane l f).time = s.time := rfl
@[simp] theorem Chip.updLane_phase (l : Lane) (f : LaneSt → LaneSt) : (s.updLane l f).phase = s.phase := rfl
@[simp] theorem Chip.updLane_pins (l : Lane) (f : LaneSt → LaneSt) : (s.updLane l f).pins = s.pins := rfl
@[simp] theorem Chip.updLane_guard (l : Lane) (f : LaneSt → LaneSt) : (s.updLane l f).guard = s.guard := rfl
@[simp] theorem Chip.updLane_rp (l : Lane) (f : LaneSt → LaneSt) : (s.updLane l f).rp = s.rp := rfl
@[simp] theorem Chip.updLane_ctx (l : Lane) (f : LaneSt → LaneSt) : (s.updLane l f).ctx = s.ctx := rfl
@[simp] theorem Chip.updLane_mov (l : Lane) (f : LaneSt → LaneSt) : (s.updLane l f).mov = s.mov := rfl
@[simp] theorem Chip.updLane_ks (l : Lane) (f : LaneSt → LaneSt) : (s.updLane l f).ks = s.ks := rfl
@[simp] theorem Chip.updLane_ksq (l : Lane) (f : LaneSt → LaneSt) : (s.updLane l f).ksq = s.ksq := rfl
@[simp] theorem Chip.updLane_l2 (l : Lane) (f : LaneSt → LaneSt) : (s.updLane l f).l2 = s.l2 := rfl
@[simp] theorem Chip.updLane_inv (l : Lane) (f : LaneSt → LaneSt) : (s.updLane l f).inv = s.inv := rfl
@[simp] theorem Chip.updLane_epoch (l : Lane) (f : LaneSt → LaneSt) : (s.updLane l f).epoch = s.epoch := rfl
@[simp] theorem Chip.updLane_walks (l : Lane) (f : LaneSt → LaneSt) : (s.updLane l f).walks = s.walks := rfl
@[simp] theorem Chip.updLane_tier (l : Lane) (f : LaneSt → LaneSt) : (s.updLane l f).tier = s.tier := rfl
@[simp] theorem Chip.updLane_mem (l : Lane) (f : LaneSt → LaneSt) : (s.updLane l f).mem = s.mem := rfl
@[simp] theorem Chip.updLane_rc (l : Lane) (f : LaneSt → LaneSt) : (s.updLane l f).rc = s.rc := rfl
@[simp] theorem Chip.updLane_rcFills (l : Lane) (f : LaneSt → LaneSt) : (s.updLane l f).rcFills = s.rcFills := rfl
@[simp] theorem Chip.updLane_segs (l : Lane) (f : LaneSt → LaneSt) : (s.updLane l f).segs = s.segs := rfl
@[simp] theorem Chip.updLane_groups (l : Lane) (f : LaneSt → LaneSt) : (s.updLane l f).groups = s.groups := rfl
@[simp] theorem Chip.updLane_banked (l : Lane) (f : LaneSt → LaneSt) : (s.updLane l f).banked = s.banked := rfl
@[simp] theorem Chip.updLane_ports (l : Lane) (f : LaneSt → LaneSt) : (s.updLane l f).ports = { s.ports with lanes := Tab.upd {} (laneCode l) f s.ports.lanes } := rfl
@[simp] theorem Chip.updLane_irq (l : Lane) (f : LaneSt → LaneSt) : (s.updLane l f).irq = s.irq := rfl
@[simp] theorem Chip.updLane_fc (l : Lane) (f : LaneSt → LaneSt) : (s.updLane l f).fc = s.fc := rfl
@[simp] theorem Chip.updLane_rsq (l : Lane) (f : LaneSt → LaneSt) : (s.updLane l f).rsq = s.rsq := rfl
@[simp] theorem Chip.updLane_link (l : Lane) (f : LaneSt → LaneSt) : (s.updLane l f).link = s.link := rfl
@[simp] theorem Chip.updLane_fuseIdx (l : Lane) (f : LaneSt → LaneSt) : (s.updLane l f).fuseIdx = s.fuseIdx := rfl
@[simp] theorem Chip.updLane_fuseTmo (l : Lane) (f : LaneSt → LaneSt) : (s.updLane l f).fuseTmo = s.fuseTmo := rfl
@[simp] theorem Chip.updLane_envOn (l : Lane) (f : LaneSt → LaneSt) : (s.updLane l f).envOn = s.envOn := rfl
@[simp] theorem Chip.updLane_taps (l : Lane) (f : LaneSt → LaneSt) : (s.updLane l f).taps = s.taps := rfl
@[simp] theorem Chip.updLane_snsAt (l : Lane) (f : LaneSt → LaneSt) : (s.updLane l f).snsAt = s.snsAt := rfl
@[simp] theorem Chip.updLane_snsRef (l : Lane) (f : LaneSt → LaneSt) : (s.updLane l f).snsRef = s.snsRef := rfl
@[simp] theorem Chip.updLane_clkBad (l : Lane) (f : LaneSt → LaneSt) : (s.updLane l f).clkBad = s.clkBad := rfl
@[simp] theorem Chip.updLane_tap (l : Lane) (f : LaneSt → LaneSt) : (s.updLane l f).tap = s.tap := rfl
@[simp] theorem Chip.updLane_uid (l : Lane) (f : LaneSt → LaneSt) : (s.updLane l f).uid = s.uid := rfl
@[simp] theorem Chip.updLane_free (l : Lane) (f : LaneSt → LaneSt) : (s.updLane l f).free = s.free := rfl

/-! ### `Chip.answer` -/

@[simp] theorem Chip.answer_build (r : RpStatus) : (s.answer r).build = s.build := rfl
@[simp] theorem Chip.answer_regs (r : RpStatus) : (s.answer r).regs = s.regs := rfl
@[simp] theorem Chip.answer_time (r : RpStatus) : (s.answer r).time = s.time := rfl
@[simp] theorem Chip.answer_phase (r : RpStatus) : (s.answer r).phase = s.phase := rfl
@[simp] theorem Chip.answer_pins (r : RpStatus) : (s.answer r).pins = s.pins := rfl
@[simp] theorem Chip.answer_guard (r : RpStatus) : (s.answer r).guard = s.guard := rfl
@[simp] theorem Chip.answer_rp (r : RpStatus) : (s.answer r).rp = r := rfl
@[simp] theorem Chip.answer_ctx (r : RpStatus) : (s.answer r).ctx = s.ctx := rfl
@[simp] theorem Chip.answer_mov (r : RpStatus) : (s.answer r).mov = s.mov := rfl
@[simp] theorem Chip.answer_ks (r : RpStatus) : (s.answer r).ks = s.ks := rfl
@[simp] theorem Chip.answer_ksq (r : RpStatus) : (s.answer r).ksq = s.ksq := rfl
@[simp] theorem Chip.answer_l2 (r : RpStatus) : (s.answer r).l2 = s.l2 := rfl
@[simp] theorem Chip.answer_inv (r : RpStatus) : (s.answer r).inv = s.inv := rfl
@[simp] theorem Chip.answer_epoch (r : RpStatus) : (s.answer r).epoch = s.epoch := rfl
@[simp] theorem Chip.answer_walks (r : RpStatus) : (s.answer r).walks = s.walks := rfl
@[simp] theorem Chip.answer_tier (r : RpStatus) : (s.answer r).tier = s.tier := rfl
@[simp] theorem Chip.answer_mem (r : RpStatus) : (s.answer r).mem = s.mem := rfl
@[simp] theorem Chip.answer_rc (r : RpStatus) : (s.answer r).rc = s.rc := rfl
@[simp] theorem Chip.answer_rcFills (r : RpStatus) : (s.answer r).rcFills = s.rcFills := rfl
@[simp] theorem Chip.answer_segs (r : RpStatus) : (s.answer r).segs = s.segs := rfl
@[simp] theorem Chip.answer_groups (r : RpStatus) : (s.answer r).groups = s.groups := rfl
@[simp] theorem Chip.answer_banked (r : RpStatus) : (s.answer r).banked = s.banked := rfl
@[simp] theorem Chip.answer_ports (r : RpStatus) : (s.answer r).ports = s.ports := rfl
@[simp] theorem Chip.answer_irq (r : RpStatus) : (s.answer r).irq = s.irq := rfl
@[simp] theorem Chip.answer_fc (r : RpStatus) : (s.answer r).fc = s.fc := rfl
@[simp] theorem Chip.answer_rsq (r : RpStatus) : (s.answer r).rsq = s.rsq := rfl
@[simp] theorem Chip.answer_link (r : RpStatus) : (s.answer r).link = s.link := rfl
@[simp] theorem Chip.answer_fuseIdx (r : RpStatus) : (s.answer r).fuseIdx = s.fuseIdx := rfl
@[simp] theorem Chip.answer_fuseTmo (r : RpStatus) : (s.answer r).fuseTmo = s.fuseTmo := rfl
@[simp] theorem Chip.answer_envOn (r : RpStatus) : (s.answer r).envOn = s.envOn := rfl
@[simp] theorem Chip.answer_taps (r : RpStatus) : (s.answer r).taps = s.taps := rfl
@[simp] theorem Chip.answer_snsAt (r : RpStatus) : (s.answer r).snsAt = s.snsAt := rfl
@[simp] theorem Chip.answer_snsRef (r : RpStatus) : (s.answer r).snsRef = s.snsRef := rfl
@[simp] theorem Chip.answer_clkBad (r : RpStatus) : (s.answer r).clkBad = s.clkBad := rfl
@[simp] theorem Chip.answer_tap (r : RpStatus) : (s.answer r).tap = s.tap := rfl
@[simp] theorem Chip.answer_uid (r : RpStatus) : (s.answer r).uid = s.uid := rfl
@[simp] theorem Chip.answer_free (r : RpStatus) : (s.answer r).free = s.free := rfl

/-! ### `Chip.ksUpdate` -/

@[simp] theorem Chip.ksUpdate_build (k : Nat) (set : Bool) (v : BitVec 48) : (s.ksUpdate k set v).build = s.build := rfl
@[simp] theorem Chip.ksUpdate_regs (k : Nat) (set : Bool) (v : BitVec 48) : (s.ksUpdate k set v).regs = s.regs := rfl
@[simp] theorem Chip.ksUpdate_time (k : Nat) (set : Bool) (v : BitVec 48) : (s.ksUpdate k set v).time = s.time := rfl
@[simp] theorem Chip.ksUpdate_phase (k : Nat) (set : Bool) (v : BitVec 48) : (s.ksUpdate k set v).phase = s.phase := rfl
@[simp] theorem Chip.ksUpdate_pins (k : Nat) (set : Bool) (v : BitVec 48) : (s.ksUpdate k set v).pins = s.pins := rfl
@[simp] theorem Chip.ksUpdate_guard (k : Nat) (set : Bool) (v : BitVec 48) : (s.ksUpdate k set v).guard = s.guard := rfl
@[simp] theorem Chip.ksUpdate_rp (k : Nat) (set : Bool) (v : BitVec 48) : (s.ksUpdate k set v).rp = s.rp := rfl
@[simp] theorem Chip.ksUpdate_ctx (k : Nat) (set : Bool) (v : BitVec 48) : (s.ksUpdate k set v).ctx = s.ctx := rfl
@[simp] theorem Chip.ksUpdate_mov (k : Nat) (set : Bool) (v : BitVec 48) : (s.ksUpdate k set v).mov = s.mov := rfl
@[simp] theorem Chip.ksUpdate_ks (k : Nat) (set : Bool) (v : BitVec 48) : (s.ksUpdate k set v).ks = s.ks := rfl
@[simp] theorem Chip.ksUpdate_ksq (k : Nat) (set : Bool) (v : BitVec 48) : (s.ksUpdate k set v).ksq = s.ksq ++ [{ k := k % 4096, set := set, v := v }] := rfl
@[simp] theorem Chip.ksUpdate_l2 (k : Nat) (set : Bool) (v : BitVec 48) : (s.ksUpdate k set v).l2 = s.l2 := rfl
@[simp] theorem Chip.ksUpdate_inv (k : Nat) (set : Bool) (v : BitVec 48) : (s.ksUpdate k set v).inv = s.inv := rfl
@[simp] theorem Chip.ksUpdate_epoch (k : Nat) (set : Bool) (v : BitVec 48) : (s.ksUpdate k set v).epoch = s.epoch := rfl
@[simp] theorem Chip.ksUpdate_walks (k : Nat) (set : Bool) (v : BitVec 48) : (s.ksUpdate k set v).walks = s.walks := rfl
@[simp] theorem Chip.ksUpdate_tier (k : Nat) (set : Bool) (v : BitVec 48) : (s.ksUpdate k set v).tier = s.tier := rfl
@[simp] theorem Chip.ksUpdate_mem (k : Nat) (set : Bool) (v : BitVec 48) : (s.ksUpdate k set v).mem = s.mem := rfl
@[simp] theorem Chip.ksUpdate_rc (k : Nat) (set : Bool) (v : BitVec 48) : (s.ksUpdate k set v).rc = s.rc := rfl
@[simp] theorem Chip.ksUpdate_rcFills (k : Nat) (set : Bool) (v : BitVec 48) : (s.ksUpdate k set v).rcFills = s.rcFills := rfl
@[simp] theorem Chip.ksUpdate_segs (k : Nat) (set : Bool) (v : BitVec 48) : (s.ksUpdate k set v).segs = s.segs := rfl
@[simp] theorem Chip.ksUpdate_groups (k : Nat) (set : Bool) (v : BitVec 48) : (s.ksUpdate k set v).groups = s.groups := rfl
@[simp] theorem Chip.ksUpdate_banked (k : Nat) (set : Bool) (v : BitVec 48) : (s.ksUpdate k set v).banked = s.banked := rfl
@[simp] theorem Chip.ksUpdate_ports (k : Nat) (set : Bool) (v : BitVec 48) : (s.ksUpdate k set v).ports = s.ports := rfl
@[simp] theorem Chip.ksUpdate_irq (k : Nat) (set : Bool) (v : BitVec 48) : (s.ksUpdate k set v).irq = s.irq := rfl
@[simp] theorem Chip.ksUpdate_fc (k : Nat) (set : Bool) (v : BitVec 48) : (s.ksUpdate k set v).fc = s.fc := rfl
@[simp] theorem Chip.ksUpdate_rsq (k : Nat) (set : Bool) (v : BitVec 48) : (s.ksUpdate k set v).rsq = s.rsq := rfl
@[simp] theorem Chip.ksUpdate_link (k : Nat) (set : Bool) (v : BitVec 48) : (s.ksUpdate k set v).link = s.link := rfl
@[simp] theorem Chip.ksUpdate_fuseIdx (k : Nat) (set : Bool) (v : BitVec 48) : (s.ksUpdate k set v).fuseIdx = s.fuseIdx := rfl
@[simp] theorem Chip.ksUpdate_fuseTmo (k : Nat) (set : Bool) (v : BitVec 48) : (s.ksUpdate k set v).fuseTmo = s.fuseTmo := rfl
@[simp] theorem Chip.ksUpdate_envOn (k : Nat) (set : Bool) (v : BitVec 48) : (s.ksUpdate k set v).envOn = s.envOn := rfl
@[simp] theorem Chip.ksUpdate_taps (k : Nat) (set : Bool) (v : BitVec 48) : (s.ksUpdate k set v).taps = s.taps := rfl
@[simp] theorem Chip.ksUpdate_snsAt (k : Nat) (set : Bool) (v : BitVec 48) : (s.ksUpdate k set v).snsAt = s.snsAt := rfl
@[simp] theorem Chip.ksUpdate_snsRef (k : Nat) (set : Bool) (v : BitVec 48) : (s.ksUpdate k set v).snsRef = s.snsRef := rfl
@[simp] theorem Chip.ksUpdate_clkBad (k : Nat) (set : Bool) (v : BitVec 48) : (s.ksUpdate k set v).clkBad = s.clkBad := rfl
@[simp] theorem Chip.ksUpdate_tap (k : Nat) (set : Bool) (v : BitVec 48) : (s.ksUpdate k set v).tap = s.tap := rfl
@[simp] theorem Chip.ksUpdate_uid (k : Nat) (set : Bool) (v : BitVec 48) : (s.ksUpdate k set v).uid = s.uid := rfl
@[simp] theorem Chip.ksUpdate_free (k : Nat) (set : Bool) (v : BitVec 48) : (s.ksUpdate k set v).free = s.free := rfl

/-! ### `Chip.updWalk` -/

@[simp] theorem Chip.updWalk_build (id : Nat) (f : PWalk → PWalk) : (s.updWalk id f).build = s.build := rfl
@[simp] theorem Chip.updWalk_regs (id : Nat) (f : PWalk → PWalk) : (s.updWalk id f).regs = s.regs := rfl
@[simp] theorem Chip.updWalk_time (id : Nat) (f : PWalk → PWalk) : (s.updWalk id f).time = s.time := rfl
@[simp] theorem Chip.updWalk_phase (id : Nat) (f : PWalk → PWalk) : (s.updWalk id f).phase = s.phase := rfl
@[simp] theorem Chip.updWalk_pins (id : Nat) (f : PWalk → PWalk) : (s.updWalk id f).pins = s.pins := rfl
@[simp] theorem Chip.updWalk_guard (id : Nat) (f : PWalk → PWalk) : (s.updWalk id f).guard = s.guard := rfl
@[simp] theorem Chip.updWalk_rp (id : Nat) (f : PWalk → PWalk) : (s.updWalk id f).rp = s.rp := rfl
@[simp] theorem Chip.updWalk_ctx (id : Nat) (f : PWalk → PWalk) : (s.updWalk id f).ctx = s.ctx := rfl
@[simp] theorem Chip.updWalk_mov (id : Nat) (f : PWalk → PWalk) : (s.updWalk id f).mov = s.mov := rfl
@[simp] theorem Chip.updWalk_ks (id : Nat) (f : PWalk → PWalk) : (s.updWalk id f).ks = s.ks := rfl
@[simp] theorem Chip.updWalk_ksq (id : Nat) (f : PWalk → PWalk) : (s.updWalk id f).ksq = s.ksq := rfl
@[simp] theorem Chip.updWalk_l2 (id : Nat) (f : PWalk → PWalk) : (s.updWalk id f).l2 = s.l2 := rfl
@[simp] theorem Chip.updWalk_inv (id : Nat) (f : PWalk → PWalk) : (s.updWalk id f).inv = s.inv := rfl
@[simp] theorem Chip.updWalk_epoch (id : Nat) (f : PWalk → PWalk) : (s.updWalk id f).epoch = s.epoch := rfl
@[simp] theorem Chip.updWalk_walks (id : Nat) (f : PWalk → PWalk) : (s.updWalk id f).walks = s.walks.map (fun w => if w.id == id then f w else w) := rfl
@[simp] theorem Chip.updWalk_tier (id : Nat) (f : PWalk → PWalk) : (s.updWalk id f).tier = s.tier := rfl
@[simp] theorem Chip.updWalk_mem (id : Nat) (f : PWalk → PWalk) : (s.updWalk id f).mem = s.mem := rfl
@[simp] theorem Chip.updWalk_rc (id : Nat) (f : PWalk → PWalk) : (s.updWalk id f).rc = s.rc := rfl
@[simp] theorem Chip.updWalk_rcFills (id : Nat) (f : PWalk → PWalk) : (s.updWalk id f).rcFills = s.rcFills := rfl
@[simp] theorem Chip.updWalk_segs (id : Nat) (f : PWalk → PWalk) : (s.updWalk id f).segs = s.segs := rfl
@[simp] theorem Chip.updWalk_groups (id : Nat) (f : PWalk → PWalk) : (s.updWalk id f).groups = s.groups := rfl
@[simp] theorem Chip.updWalk_banked (id : Nat) (f : PWalk → PWalk) : (s.updWalk id f).banked = s.banked := rfl
@[simp] theorem Chip.updWalk_ports (id : Nat) (f : PWalk → PWalk) : (s.updWalk id f).ports = s.ports := rfl
@[simp] theorem Chip.updWalk_irq (id : Nat) (f : PWalk → PWalk) : (s.updWalk id f).irq = s.irq := rfl
@[simp] theorem Chip.updWalk_fc (id : Nat) (f : PWalk → PWalk) : (s.updWalk id f).fc = s.fc := rfl
@[simp] theorem Chip.updWalk_rsq (id : Nat) (f : PWalk → PWalk) : (s.updWalk id f).rsq = s.rsq := rfl
@[simp] theorem Chip.updWalk_link (id : Nat) (f : PWalk → PWalk) : (s.updWalk id f).link = s.link := rfl
@[simp] theorem Chip.updWalk_fuseIdx (id : Nat) (f : PWalk → PWalk) : (s.updWalk id f).fuseIdx = s.fuseIdx := rfl
@[simp] theorem Chip.updWalk_fuseTmo (id : Nat) (f : PWalk → PWalk) : (s.updWalk id f).fuseTmo = s.fuseTmo := rfl
@[simp] theorem Chip.updWalk_envOn (id : Nat) (f : PWalk → PWalk) : (s.updWalk id f).envOn = s.envOn := rfl
@[simp] theorem Chip.updWalk_taps (id : Nat) (f : PWalk → PWalk) : (s.updWalk id f).taps = s.taps := rfl
@[simp] theorem Chip.updWalk_snsAt (id : Nat) (f : PWalk → PWalk) : (s.updWalk id f).snsAt = s.snsAt := rfl
@[simp] theorem Chip.updWalk_snsRef (id : Nat) (f : PWalk → PWalk) : (s.updWalk id f).snsRef = s.snsRef := rfl
@[simp] theorem Chip.updWalk_clkBad (id : Nat) (f : PWalk → PWalk) : (s.updWalk id f).clkBad = s.clkBad := rfl
@[simp] theorem Chip.updWalk_tap (id : Nat) (f : PWalk → PWalk) : (s.updWalk id f).tap = s.tap := rfl
@[simp] theorem Chip.updWalk_uid (id : Nat) (f : PWalk → PWalk) : (s.updWalk id f).uid = s.uid := rfl
@[simp] theorem Chip.updWalk_free (id : Nat) (f : PWalk → PWalk) : (s.updWalk id f).free = s.free := rfl

/-! ### `Chip.updTap` -/

@[simp] theorem Chip.updTap_build (f : TapSt → TapSt) : (s.updTap f).build = s.build := rfl
@[simp] theorem Chip.updTap_regs (f : TapSt → TapSt) : (s.updTap f).regs = s.regs := rfl
@[simp] theorem Chip.updTap_time (f : TapSt → TapSt) : (s.updTap f).time = s.time := rfl
@[simp] theorem Chip.updTap_phase (f : TapSt → TapSt) : (s.updTap f).phase = s.phase := rfl
@[simp] theorem Chip.updTap_pins (f : TapSt → TapSt) : (s.updTap f).pins = s.pins := rfl
@[simp] theorem Chip.updTap_guard (f : TapSt → TapSt) : (s.updTap f).guard = s.guard := rfl
@[simp] theorem Chip.updTap_rp (f : TapSt → TapSt) : (s.updTap f).rp = s.rp := rfl
@[simp] theorem Chip.updTap_ctx (f : TapSt → TapSt) : (s.updTap f).ctx = s.ctx := rfl
@[simp] theorem Chip.updTap_mov (f : TapSt → TapSt) : (s.updTap f).mov = s.mov := rfl
@[simp] theorem Chip.updTap_ks (f : TapSt → TapSt) : (s.updTap f).ks = s.ks := rfl
@[simp] theorem Chip.updTap_ksq (f : TapSt → TapSt) : (s.updTap f).ksq = s.ksq := rfl
@[simp] theorem Chip.updTap_l2 (f : TapSt → TapSt) : (s.updTap f).l2 = s.l2 := rfl
@[simp] theorem Chip.updTap_inv (f : TapSt → TapSt) : (s.updTap f).inv = s.inv := rfl
@[simp] theorem Chip.updTap_epoch (f : TapSt → TapSt) : (s.updTap f).epoch = s.epoch := rfl
@[simp] theorem Chip.updTap_walks (f : TapSt → TapSt) : (s.updTap f).walks = s.walks := rfl
@[simp] theorem Chip.updTap_tier (f : TapSt → TapSt) : (s.updTap f).tier = s.tier := rfl
@[simp] theorem Chip.updTap_mem (f : TapSt → TapSt) : (s.updTap f).mem = s.mem := rfl
@[simp] theorem Chip.updTap_rc (f : TapSt → TapSt) : (s.updTap f).rc = s.rc := rfl
@[simp] theorem Chip.updTap_rcFills (f : TapSt → TapSt) : (s.updTap f).rcFills = s.rcFills := rfl
@[simp] theorem Chip.updTap_segs (f : TapSt → TapSt) : (s.updTap f).segs = s.segs := rfl
@[simp] theorem Chip.updTap_groups (f : TapSt → TapSt) : (s.updTap f).groups = s.groups := rfl
@[simp] theorem Chip.updTap_banked (f : TapSt → TapSt) : (s.updTap f).banked = s.banked := rfl
@[simp] theorem Chip.updTap_ports (f : TapSt → TapSt) : (s.updTap f).ports = s.ports := rfl
@[simp] theorem Chip.updTap_irq (f : TapSt → TapSt) : (s.updTap f).irq = s.irq := rfl
@[simp] theorem Chip.updTap_fc (f : TapSt → TapSt) : (s.updTap f).fc = s.fc := rfl
@[simp] theorem Chip.updTap_rsq (f : TapSt → TapSt) : (s.updTap f).rsq = s.rsq := rfl
@[simp] theorem Chip.updTap_link (f : TapSt → TapSt) : (s.updTap f).link = s.link := rfl
@[simp] theorem Chip.updTap_fuseIdx (f : TapSt → TapSt) : (s.updTap f).fuseIdx = s.fuseIdx := rfl
@[simp] theorem Chip.updTap_fuseTmo (f : TapSt → TapSt) : (s.updTap f).fuseTmo = s.fuseTmo := rfl
@[simp] theorem Chip.updTap_envOn (f : TapSt → TapSt) : (s.updTap f).envOn = s.envOn := rfl
@[simp] theorem Chip.updTap_taps (f : TapSt → TapSt) : (s.updTap f).taps = s.taps := rfl
@[simp] theorem Chip.updTap_snsAt (f : TapSt → TapSt) : (s.updTap f).snsAt = s.snsAt := rfl
@[simp] theorem Chip.updTap_snsRef (f : TapSt → TapSt) : (s.updTap f).snsRef = s.snsRef := rfl
@[simp] theorem Chip.updTap_clkBad (f : TapSt → TapSt) : (s.updTap f).clkBad = s.clkBad := rfl
@[simp] theorem Chip.updTap_tap (f : TapSt → TapSt) : (s.updTap f).tap = f s.tap := rfl
@[simp] theorem Chip.updTap_uid (f : TapSt → TapSt) : (s.updTap f).uid = s.uid := rfl
@[simp] theorem Chip.updTap_free (f : TapSt → TapSt) : (s.updTap f).free = s.free := rfl

/-! ### A report reaches the fault collector alone -/

@[simp] theorem Chip.report_build (r : Report) : (s.report r).build = s.build := by unfold Chip.report; split <;> rfl
@[simp] theorem Chip.report_regs (r : Report) : (s.report r).regs = s.regs := by unfold Chip.report; split <;> rfl
@[simp] theorem Chip.report_time (r : Report) : (s.report r).time = s.time := by unfold Chip.report; split <;> rfl
@[simp] theorem Chip.report_phase (r : Report) : (s.report r).phase = s.phase := by unfold Chip.report; split <;> rfl
@[simp] theorem Chip.report_pins (r : Report) : (s.report r).pins = s.pins := by unfold Chip.report; split <;> rfl
@[simp] theorem Chip.report_guard (r : Report) : (s.report r).guard = s.guard := by unfold Chip.report; split <;> rfl
@[simp] theorem Chip.report_rp (r : Report) : (s.report r).rp = s.rp := by unfold Chip.report; split <;> rfl
@[simp] theorem Chip.report_ctx (r : Report) : (s.report r).ctx = s.ctx := by unfold Chip.report; split <;> rfl
@[simp] theorem Chip.report_mov (r : Report) : (s.report r).mov = s.mov := by unfold Chip.report; split <;> rfl
@[simp] theorem Chip.report_ks (r : Report) : (s.report r).ks = s.ks := by unfold Chip.report; split <;> rfl
@[simp] theorem Chip.report_ksq (r : Report) : (s.report r).ksq = s.ksq := by unfold Chip.report; split <;> rfl
@[simp] theorem Chip.report_l2 (r : Report) : (s.report r).l2 = s.l2 := by unfold Chip.report; split <;> rfl
@[simp] theorem Chip.report_inv (r : Report) : (s.report r).inv = s.inv := by unfold Chip.report; split <;> rfl
@[simp] theorem Chip.report_epoch (r : Report) : (s.report r).epoch = s.epoch := by unfold Chip.report; split <;> rfl
@[simp] theorem Chip.report_walks (r : Report) : (s.report r).walks = s.walks := by unfold Chip.report; split <;> rfl
@[simp] theorem Chip.report_tier (r : Report) : (s.report r).tier = s.tier := by unfold Chip.report; split <;> rfl
@[simp] theorem Chip.report_mem (r : Report) : (s.report r).mem = s.mem := by unfold Chip.report; split <;> rfl
@[simp] theorem Chip.report_rc (r : Report) : (s.report r).rc = s.rc := by unfold Chip.report; split <;> rfl
@[simp] theorem Chip.report_rcFills (r : Report) : (s.report r).rcFills = s.rcFills := by unfold Chip.report; split <;> rfl
@[simp] theorem Chip.report_segs (r : Report) : (s.report r).segs = s.segs := by unfold Chip.report; split <;> rfl
@[simp] theorem Chip.report_groups (r : Report) : (s.report r).groups = s.groups := by unfold Chip.report; split <;> rfl
@[simp] theorem Chip.report_banked (r : Report) : (s.report r).banked = s.banked := by unfold Chip.report; split <;> rfl
@[simp] theorem Chip.report_ports (r : Report) : (s.report r).ports = s.ports := by unfold Chip.report; split <;> rfl
@[simp] theorem Chip.report_irq (r : Report) : (s.report r).irq = s.irq := by unfold Chip.report; split <;> rfl
@[simp] theorem Chip.report_rsq (r : Report) : (s.report r).rsq = s.rsq := by unfold Chip.report; split <;> rfl
@[simp] theorem Chip.report_link (r : Report) : (s.report r).link = s.link := by unfold Chip.report; split <;> rfl
@[simp] theorem Chip.report_fuseIdx (r : Report) : (s.report r).fuseIdx = s.fuseIdx := by unfold Chip.report; split <;> rfl
@[simp] theorem Chip.report_fuseTmo (r : Report) : (s.report r).fuseTmo = s.fuseTmo := by unfold Chip.report; split <;> rfl
@[simp] theorem Chip.report_envOn (r : Report) : (s.report r).envOn = s.envOn := by unfold Chip.report; split <;> rfl
@[simp] theorem Chip.report_taps (r : Report) : (s.report r).taps = s.taps := by unfold Chip.report; split <;> rfl
@[simp] theorem Chip.report_snsAt (r : Report) : (s.report r).snsAt = s.snsAt := by unfold Chip.report; split <;> rfl
@[simp] theorem Chip.report_snsRef (r : Report) : (s.report r).snsRef = s.snsRef := by unfold Chip.report; split <;> rfl
@[simp] theorem Chip.report_clkBad (r : Report) : (s.report r).clkBad = s.clkBad := by unfold Chip.report; split <;> rfl
@[simp] theorem Chip.report_tap (r : Report) : (s.report r).tap = s.tap := by unfold Chip.report; split <;> rfl
@[simp] theorem Chip.report_uid (r : Report) : (s.report r).uid = s.uid := by unfold Chip.report; split <;> rfl
@[simp] theorem Chip.report_free (r : Report) : (s.report r).free = s.free := by unfold Chip.report; split <;> rfl

/-! ### Reads after writes -/

theorem Chip.reg_setReg (off o : Nat) (v : Word) : (s.setReg off v).reg o = if o = off then v else s.reg o := by
  unfold Chip.reg Chip.setReg
  by_cases h : o = off
  · subst h; simp
  · rw [if_neg h]; exact Tab.get_set_other _ _ _ _ h

@[simp] theorem Chip.reg_setReg_self (off : Nat) (v : Word) : (s.setReg off v).reg off = v := by simp [Chip.reg_setReg]

theorem Chip.ctxAt_updCtx (c d : Nat) (f : Ctx → Ctx) : (s.updCtx c f).ctxAt d = if d = c then f (s.ctxAt c) else s.ctxAt d :=
  Tab.get_upd ..

@[simp] theorem Chip.ctxAt_updCtx_self (c : Nat) (f : Ctx → Ctx) : (s.updCtx c f).ctxAt c = f (s.ctxAt c) := by
  simp [Chip.ctxAt_updCtx]

theorem Chip.movAt_updMov (m k : Nat) (f : Mover → Mover) : (s.updMov m f).movAt k = if k = m then f (s.movAt m) else s.movAt k :=
  Tab.get_upd ..

@[simp] theorem Chip.movAt_updMov_self (m : Nat) (f : Mover → Mover) : (s.updMov m f).movAt m = f (s.movAt m) := by
  simp [Chip.movAt_updMov]

@[simp] theorem Chip.ctxAt_updMov (m c : Nat) (f : Mover → Mover) : (s.updMov m f).ctxAt c = s.ctxAt c := rfl

@[simp] theorem Chip.movAt_updCtx (c m : Nat) (f : Ctx → Ctx) : (s.updCtx c f).movAt m = s.movAt m := rfl

@[simp] theorem Chip.reg_updCtx (c o : Nat) (f : Ctx → Ctx) : (s.updCtx c f).reg o = s.reg o := rfl

@[simp] theorem Chip.reg_updMov (m o : Nat) (f : Mover → Mover) : (s.updMov m f).reg o = s.reg o := rfl

@[simp] theorem Chip.ctxAt_setReg (o c : Nat) (v : Word) : (s.setReg o v).ctxAt c = s.ctxAt c := rfl

@[simp] theorem Chip.ctxAt_report (r : Report) (c : Nat) : (s.report r).ctxAt c = s.ctxAt c := by simp [Chip.ctxAt]

@[simp] theorem Chip.movAt_report (r : Report) (m : Nat) : (s.report r).movAt m = s.movAt m := by simp [Chip.movAt]

@[simp] theorem Chip.reg_report (r : Report) (o : Nat) : (s.report r).reg o = s.reg o := by simp [Chip.reg]

theorem Chip.srcAt_updSrc (n k : Nat) (f : IrqSrc → IrqSrc) : (s.updSrc n f).srcAt k = if k = n then f (s.srcAt n) else s.srcAt k :=
  Tab.get_upd ..

theorem Chip.tgtAt_updTgt (n k : Nat) (f : IrqTgt → IrqTgt) : (s.updTgt n f).tgtAt k = if k = n then f (s.tgtAt n) else s.tgtAt k :=
  Tab.get_upd ..

/-- Raising a source is one event of that source and of no other (R502, R503). -/
theorem Chip.srcAt_raise (n k : Nat) (nmi : Bool) :
    (s.raise n nmi).srcAt k = if k = n then IrqSrc.event s.time nmi (s.srcAt n) else s.srcAt k :=
  Chip.srcAt_updSrc n k _

/-- Only what a change makes of the context matters. -/
theorem Chip.updCtx_congr {c : Nat} {f g : Ctx → Ctx} (h : f (s.ctxAt c) = g (s.ctxAt c)) : s.updCtx c f = s.updCtx c g := by
  unfold Chip.updCtx Tab.upd
  rw [show f (Tab.get {} s.ctx c) = g (Tab.get {} s.ctx c) from h]

/-- Two changes of one context are one. -/
@[simp] theorem Chip.updCtx_updCtx (c : Nat) (f g : Ctx → Ctx) : (s.updCtx c f).updCtx c g = s.updCtx c (fun x => g (f x)) := by
  simp [Chip.updCtx]

@[simp] theorem Chip.updMov_updMov (m : Nat) (f g : Mover → Mover) : (s.updMov m f).updMov m g = s.updMov m (fun x => g (f x)) := by
  simp [Chip.updMov]

/-- Writing what a location reads as, or any other byte, is read back; every other byte stays. -/
theorem Chip.memByte_memWrite_one (a : Nat) (v : Byte) (loc : Nat) :
    (s.memWrite [(a, v)]).memByte loc = if loc = a then v else s.memByte loc := Tab.get_set ..

theorem memPut_get_of_notMem (l : List (Nat × Byte)) (m : List Host.Cell) (loc : Nat) (h : ∀ p ∈ l, p.1 ≠ loc) :
    Tab.get 0 (memPut l m) loc = Tab.get 0 m loc := by
  induction l generalizing m with
  | nil => rfl
  | cons p r ih =>
    obtain ⟨a, v⟩ := p
    have ha : loc ≠ a := fun e => h (a, v) (by simp) e.symm
    rw [memPut, ih _ (fun p hp => h p (by simp [hp])), Tab.get_set_ne _ _ _ ha]

/-- A write of bytes leaves every other byte of memory as it was. -/
theorem Chip.memByte_memWrite_of_notMem (l : List (Nat × Byte)) (loc : Nat) (h : ∀ p ∈ l, p.1 ≠ loc) :
    (s.memWrite l).memByte loc = s.memByte loc := memPut_get_of_notMem l s.mem loc h

/-- Memory keeps its canonical form under every write. -/
theorem Chip.memWrite_wf (l : List (Nat × Byte)) (h : Tab.wf 0 s.mem = true) : Tab.wf 0 (s.memWrite l).mem = true := by
  show Tab.wf 0 (memPut l s.mem) = true
  generalize s.mem = m at h
  induction l generalizing m with
  | nil => exact h
  | cons p r ih => obtain ⟨a, v⟩ := p; exact ih _ (Tab.wf_set _ _ _ _ h)

end Sys2Proof.Machine
end

