-- ==== Sys2Proof/Laws/Issue.lean ====
section
/-! SUPPORT. What issue does: the checks of R133, once, for every instruction. -/

set_option Elab.async false

namespace Sys2Proof.Machine

/-! ### Fetching -/

/-- All that fetching can change: what movers and the translation unit hold, page walks, queued requests, two statistics. -/
def Chip.Fetched (s t : Chip) : Prop :=
  t = { s with mov := t.mov, l2 := t.l2, walks := t.walks, uid := t.uid, regs := t.regs, ports := { s.ports with queue := t.ports.queue } } ∧
    (∀ o, o ≠ Reg.trWalks → o ≠ Reg.trL2hit → t.reg o = s.reg o) ∧
    ∃ l, t.ports.queue = s.ports.queue ++ l ∧ ∀ r ∈ l, r.kind = .ifetch ∨ ∃ id, r.kind = .walk id

variable {s u : Chip}

theorem Chip.Fetched.refl (s : Chip) : s.Fetched s := ⟨rfl, fun _ _ _ => rfl, [], by simp, by simp⟩

theorem Chip.Fetched.trans {t : Chip} (h : s.Fetched u) (k : u.Fetched t) : s.Fetched t :=
  ⟨by rw [k.1, h.1], fun o a b => (k.2.1 o a b).trans (h.2.1 o a b), by
    obtain ⟨l, hl, pl⟩ := h.2.2
    obtain ⟨l', hl', pl'⟩ := k.2.2
    exact ⟨l ++ l', by rw [hl', hl, List.append_assoc], fun r hr => (List.mem_append.mp hr).elim (pl r) (pl' r)⟩⟩

theorem Chip.updMov_fetched (m : Nat) (f : Mover → Mover) (h : s.Fetched u) : s.Fetched (u.updMov m f) :=
  h.trans ⟨rfl, fun _ _ _ => rfl, [], by simp, by simp⟩

theorem Chip.updWalk_fetched (id : Nat) (f : PWalk → PWalk) (h : s.Fetched u) : s.Fetched (u.updWalk id f) :=
  h.trans ⟨rfl, fun _ _ _ => rfl, [], by simp, by simp⟩

theorem Chip.l2_fetched (x : List TlbEnt) (h : s.Fetched u) : s.Fetched { u with l2 := x } := h.trans ⟨rfl, fun _ _ _ => rfl, [], by simp, by simp⟩

theorem Chip.bump_fetched {o : Nat} (lo n k : Nat) (ho : o = Reg.trWalks ∨ o = Reg.trL2hit) (h : s.Fetched u) :
    s.Fetched (u.bump o lo n k) := by
  refine h.trans ⟨rfl, fun p a b => ?_, [], by simp [Chip.bump, Chip.setF, Chip.setReg], by simp⟩
  simp only [Chip.bump, Chip.setF, Chip.reg_setReg]
  rw [if_neg (by rcases ho with rfl | rfl <;> assumption)]

theorem Chip.enq_fetched (r : PortReq) (hk : r.kind = .ifetch ∨ ∃ id, r.kind = .walk id) (hr : r.workOf = none) (h : s.Fetched u) : s.Fetched (u.enq r) := by
  refine h.trans ?_
  unfold Chip.enq Chip.progressOf
  rw [hr]
  exact ⟨rfl, fun _ _ _ => rfl, _, rfl, by simpa using hk⟩

theorem Chip.walkOut_fetched (id n : Nat) (h : s.Fetched u) : s.Fetched (u.walkOut id n) := by
  induction n generalizing u with
  | zero => exact h
  | succ n ih =>
    unfold Chip.walkOut
    dsimp only
    repeat' split
    all_goals first
      | exact h
      | exact ih (updWalk_fetched _ _ h)
      | exact updWalk_fetched _ _ h
      | exact enq_fetched _ (.inr ⟨_, rfl⟩) rfl h

theorem Chip.nextWalk_fetched (h : s.Fetched u) : s.Fetched u.nextWalk := by
  unfold Chip.nextWalk
  repeat' split
  all_goals first
    | exact h
    | exact walkOut_fetched _ _ (bump_fetched _ _ _ (.inl rfl) (updWalk_fetched _ _ h))

theorem Chip.needWalk_fetched (f : WalkFor) (mov : Option Nat) (part : Nat) (asid : BitVec 16) (root va cls : Nat) (h : s.Fetched u) :
    s.Fetched (u.needWalk f mov part asid root va cls) := by
  unfold Chip.needWalk
  dsimp only
  split
  · exact updWalk_fetched _ _ h
  · exact nextWalk_fetched (h.trans ⟨rfl, fun _ _ _ => rfl, [], by simp, by simp⟩)

theorem Chip.tlbTouch_fetched (m part : Nat) (asid : BitVec 16) (va : Nat) (h : s.Fetched u) : s.Fetched (u.tlbTouch m part asid va) := by
  unfold Chip.tlbTouch
  dsimp only
  split
  · exact updMov_fetched _ _ h
  · split
    · exact bump_fetched _ _ _ (.inr rfl) (updMov_fetched _ _ (l2_fetched _ h))
    · exact h

theorem Chip.askLine_fetched (m : Nat) (f : ICFill) (pa : Nat) (p : Place) (l : Leaf) (h : s.Fetched u) :
    s.Fetched (u.askLine m f pa p l) :=
  enq_fetched _ (.inl rfl) rfl (updMov_fetched _ _ (updMov_fetched _ _ h))

theorem Chip.lineGo_fetched (m : Nat) (own : Option Leaf) (f : ICFill) (h : s.Fetched u) : s.Fetched (u.lineGo m own f) := by
  have ht : s.Fetched (if own.isSome then u else u.tlbTouch m (u.ctxPart f.ctx) (u.ctxAsid f.ctx) (256 * f.line)) := by
    split <;> [exact h; exact tlbTouch_fetched _ _ _ _ h]
  unfold Chip.lineGo
  dsimp only
  generalize (if own.isSome = true then u else Chip.tlbTouch _ _ _ _ u) = t at ht ⊢
  split
  · exact updMov_fetched _ _ h
  · split
    · exact h
    · split
      · exact needWalk_fetched _ _ _ _ _ _ _ h
      · split
        · split <;> [exact h; exact askLine_fetched _ _ _ _ _ ht]
        · exact updMov_fetched _ _ ht

/-- Reading the word of a cached line, and asking for the next line. -/
theorem Chip.icTouch_fetched (s : Chip) (c : Nat) : s.Fetched (s.icTouch c) := by
  unfold Chip.icTouch Chip.nextLine
  dsimp only
  split
  · rename_i l _
    have h := updMov_fetched (s.slotMover c) (fun x => { x with ic := l :: x.ic.erase l }) (.refl s)
    split <;> [exact h; exact lineGo_fetched _ _ _ (updMov_fetched _ _ h)]
  · exact .refl s

/-- Taking an instruction is fetching, and the context's `iword`. -/
theorem Chip.taken_eq (s : Chip) (c : Nat) (w : Word) :
    ∃ t, s.Fetched t ∧ s.taken c w = { t with ctx := Tab.upd {} c (fun x => { x with iword := some w }) s.ctx } := by
  have h := s.icTouch_fetched c
  refine ⟨_, h, ?_⟩
  have hc : (s.icTouch c).ctx = s.ctx := by rw [h.1]
  simp only [Chip.taken, Chip.updCtx, hc]

@[simp] theorem Chip.taken_ctxAt (s : Chip) (c : Nat) (w : Word) : (s.taken c w).ctxAt c = { s.ctxAt c with iword := some w } := by
  obtain ⟨t, _, h⟩ := s.taken_eq c w
  rw [h]
  simp [Chip.ctxAt, Tab.get_upd]

theorem Chip.taken_reg (s : Chip) (c o : Nat) (w : Word) (h1 : o ≠ Reg.trWalks) (h2 : o ≠ Reg.trL2hit) :
    (s.taken c w).reg o = s.reg o := by
  obtain ⟨t, k, h⟩ := s.taken_eq c w
  rw [h]
  exact k.2.1 o h1 h2

@[simp] theorem Chip.taken_build (s : Chip) (c : Nat) (w : Word) : (s.taken c w).build = s.build := by
  obtain ⟨t, k, h⟩ := s.taken_eq c w
  rw [h, k.1]

@[simp] theorem Chip.taken_time (s : Chip) (c : Nat) (w : Word) : (s.taken c w).time = s.time := by
  obtain ⟨t, k, h⟩ := s.taken_eq c w
  rw [h, k.1]

@[simp] theorem Chip.taken_phase (s : Chip) (c : Nat) (w : Word) : (s.taken c w).phase = s.phase := by
  obtain ⟨t, k, h⟩ := s.taken_eq c w
  rw [h, k.1]

@[simp] theorem Chip.taken_pins (s : Chip) (c : Nat) (w : Word) : (s.taken c w).pins = s.pins := by
  obtain ⟨t, k, h⟩ := s.taken_eq c w
  rw [h, k.1]

@[simp] theorem Chip.taken_guard (s : Chip) (c : Nat) (w : Word) : (s.taken c w).guard = s.guard := by
  obtain ⟨t, k, h⟩ := s.taken_eq c w
  rw [h, k.1]

@[simp] theorem Chip.taken_rp (s : Chip) (c : Nat) (w : Word) : (s.taken c w).rp = s.rp := by
  obtain ⟨t, k, h⟩ := s.taken_eq c w
  rw [h, k.1]

@[simp] theorem Chip.taken_ks (s : Chip) (c : Nat) (w : Word) : (s.taken c w).ks = s.ks := by
  obtain ⟨t, k, h⟩ := s.taken_eq c w
  rw [h, k.1]

@[simp] theorem Chip.taken_ksq (s : Chip) (c : Nat) (w : Word) : (s.taken c w).ksq = s.ksq := by
  obtain ⟨t, k, h⟩ := s.taken_eq c w
  rw [h, k.1]

@[simp] theorem Chip.taken_inv (s : Chip) (c : Nat) (w : Word) : (s.taken c w).inv = s.inv := by
  obtain ⟨t, k, h⟩ := s.taken_eq c w
  rw [h, k.1]

@[simp] theorem Chip.taken_epoch (s : Chip) (c : Nat) (w : Word) : (s.taken c w).epoch = s.epoch := by
  obtain ⟨t, k, h⟩ := s.taken_eq c w
  rw [h, k.1]

@[simp] theorem Chip.taken_tier (s : Chip) (c : Nat) (w : Word) : (s.taken c w).tier = s.tier := by
  obtain ⟨t, k, h⟩ := s.taken_eq c w
  rw [h, k.1]

@[simp] theorem Chip.taken_mem (s : Chip) (c : Nat) (w : Word) : (s.taken c w).mem = s.mem := by
  obtain ⟨t, k, h⟩ := s.taken_eq c w
  rw [h, k.1]

@[simp] theorem Chip.taken_rc (s : Chip) (c : Nat) (w : Word) : (s.taken c w).rc = s.rc := by
  obtain ⟨t, k, h⟩ := s.taken_eq c w
  rw [h, k.1]

@[simp] theorem Chip.taken_rcFills (s : Chip) (c : Nat) (w : Word) : (s.taken c w).rcFills = s.rcFills := by
  obtain ⟨t, k, h⟩ := s.taken_eq c w
  rw [h, k.1]

@[simp] theorem Chip.taken_segs (s : Chip) (c : Nat) (w : Word) : (s.taken c w).segs = s.segs := by
  obtain ⟨t, k, h⟩ := s.taken_eq c w
  rw [h, k.1]

@[simp] theorem Chip.taken_groups (s : Chip) (c : Nat) (w : Word) : (s.taken c w).groups = s.groups := by
  obtain ⟨t, k, h⟩ := s.taken_eq c w
  rw [h, k.1]

@[simp] theorem Chip.taken_banked (s : Chip) (c : Nat) (w : Word) : (s.taken c w).banked = s.banked := by
  obtain ⟨t, k, h⟩ := s.taken_eq c w
  rw [h, k.1]

@[simp] theorem Chip.taken_irq (s : Chip) (c : Nat) (w : Word) : (s.taken c w).irq = s.irq := by
  obtain ⟨t, k, h⟩ := s.taken_eq c w
  rw [h, k.1]

@[simp] theorem Chip.taken_fc (s : Chip) (c : Nat) (w : Word) : (s.taken c w).fc = s.fc := by
  obtain ⟨t, k, h⟩ := s.taken_eq c w
  rw [h, k.1]

@[simp] theorem Chip.taken_rsq (s : Chip) (c : Nat) (w : Word) : (s.taken c w).rsq = s.rsq := by
  obtain ⟨t, k, h⟩ := s.taken_eq c w
  rw [h, k.1]

@[simp] theorem Chip.taken_link (s : Chip) (c : Nat) (w : Word) : (s.taken c w).link = s.link := by
  obtain ⟨t, k, h⟩ := s.taken_eq c w
  rw [h, k.1]

@[simp] theorem Chip.taken_fuseIdx (s : Chip) (c : Nat) (w : Word) : (s.taken c w).fuseIdx = s.fuseIdx := by
  obtain ⟨t, k, h⟩ := s.taken_eq c w
  rw [h, k.1]

@[simp] theorem Chip.taken_fuseTmo (s : Chip) (c : Nat) (w : Word) : (s.taken c w).fuseTmo = s.fuseTmo := by
  obtain ⟨t, k, h⟩ := s.taken_eq c w
  rw [h, k.1]

@[simp] theorem Chip.taken_envOn (s : Chip) (c : Nat) (w : Word) : (s.taken c w).envOn = s.envOn := by
  obtain ⟨t, k, h⟩ := s.taken_eq c w
  rw [h, k.1]

@[simp] theorem Chip.taken_taps (s : Chip) (c : Nat) (w : Word) : (s.taken c w).taps = s.taps := by
  obtain ⟨t, k, h⟩ := s.taken_eq c w
  rw [h, k.1]

@[simp] theorem Chip.taken_snsAt (s : Chip) (c : Nat) (w : Word) : (s.taken c w).snsAt = s.snsAt := by
  obtain ⟨t, k, h⟩ := s.taken_eq c w
  rw [h, k.1]

@[simp] theorem Chip.taken_snsRef (s : Chip) (c : Nat) (w : Word) : (s.taken c w).snsRef = s.snsRef := by
  obtain ⟨t, k, h⟩ := s.taken_eq c w
  rw [h, k.1]

@[simp] theorem Chip.taken_clkBad (s : Chip) (c : Nat) (w : Word) : (s.taken c w).clkBad = s.clkBad := by
  obtain ⟨t, k, h⟩ := s.taken_eq c w
  rw [h, k.1]

@[simp] theorem Chip.taken_tap (s : Chip) (c : Nat) (w : Word) : (s.taken c w).tap = s.tap := by
  obtain ⟨t, k, h⟩ := s.taken_eq c w
  rw [h, k.1]

@[simp] theorem Chip.taken_free (s : Chip) (c : Nat) (w : Word) : (s.taken c w).free = s.free := by
  obtain ⟨t, k, h⟩ := s.taken_eq c w
  rw [h, k.1]

@[simp] theorem Chip.taken_ksAt (s : Chip) (c k : Nat) (w : Word) : (s.taken c w).ksAt k = s.ksAt k := by
  simp [Chip.ksAt]

/-- The checks of R133 are passed: what is left is the instruction's own effect. -/
theorem Chip.issue_body {c : Nat} {sel enc : Word → Bool} {ctr : Word → Option Nat} {body : Word → Chip → Chip} {s : Chip} {w : Word}
    (hi : s.issues c w) (ha : opcAssigned (wOpc w) = true) (h1 : sel w = true) (h2 : enc w = true)
    (h3 : ∀ k, ctr w = some k → s.ksPart k = s.ctxPart c) :
    Chip.issue c sel enc ctr body s = body w (s.taken c w) := by
  obtain ⟨a, b, g⟩ := hi
  unfold Chip.issue Chip.taken
  simp only [a, b, ha, h1, h2, g, Bool.not_true, Bool.false_eq_true, if_false]
  cases h : ctr w with
  | none => rfl
  | some k => simp [h3 k h]

/-- The guard is false: the instruction only retires. -/
theorem Chip.issue_skip {c : Nat} {sel enc : Word → Bool} {ctr : Word → Option Nat} {body : Word → Chip → Chip} {s : Chip} {w : Word}
    (hc : s.canIssue c = true) (hf : s.fetched c = some w) (hg : (s.ctxAt c).guardTrue w = false)
    (ha : opcAssigned (wOpc w) = true) (h1 : sel w = true) (h2 : enc w = true) :
    Chip.issue c sel enc ctr body s = s.retires c w id (nextIp (s.ctxAt c).ip) := by
  unfold Chip.issue
  simp only [hc, hf, ha, h1, h2, hg, Bool.not_true, Bool.false_eq_true, if_false, if_true, Bool.not_false]
  show Chip.retireTo c _ (s.taken c w) = _
  simp [Chip.retires, Chip.retireTo, Ctx.retiredTo]

theorem Chip.retireTo_taken (s : Chip) (c ip : Nat) (w : Word) : (s.taken c w).retireTo c ip = s.retires c w id ip := by
  simp [Chip.retires, Chip.retireTo, Ctx.retiredTo]

theorem Chip.retireNext_taken (s : Chip) (c : Nat) (w : Word) :
    (s.taken c w).retireNext c = s.retires c w id (nextIp (s.ctxAt c).ip) := by
  simp [Chip.retireNext, Chip.retireTo_taken]

theorem Chip.updCtx_retireTo_taken (s : Chip) (c ip : Nat) (w : Word) (f : Ctx → Ctx) :
    ((s.taken c w).updCtx c f).retireTo c ip = s.retires c w f ip := by
  simp [Chip.retires, Chip.retireTo, Ctx.retiredTo]

theorem Chip.retireWith_taken (s : Chip) (c : Nat) (w : Word) (f : Ctx → Ctx)
    (h : (f { s.ctxAt c with iword := some w }).ip = (s.ctxAt c).ip) :
    (s.taken c w).retireWith c f = s.retires c w f (nextIp (s.ctxAt c).ip) := by
  simp [Chip.retireWith, Chip.retireNext, Chip.retires, Chip.retireTo, Ctx.retiredTo, h]

/-- Every command that executes an instruction is an issue of its row. -/
theorem issue_row_cases (i : Instr) (r : IssueRow) (h : issueRow i = some r) :
    ∃ body, ∀ s, exec i s = .next (s.to (Chip.issue r.ctx r.sel r.enc r.ctr body s.chip)) := by
  cases i <;> first
    | (cases h; exact ⟨_, fun s => by simp only [
        exec, execNop, execHalt, execYield, execJmp, execBr, execCall, execRet, execLoop, execEndl, execSli,
        execSlih, execSadd, execSsub, execSmul, execSand, execSor, execSxor, execSshl, execSshr, execScmp, execSsel,
        execSld, execSst, execLdtd, execSttd, execTdset, execTdget, execKsig, execKwait, execKdrain, execFence,
        execIntr, execKread, execMove, execMoveLdrt, execMset, execFill, execWindow, execGather, execPool,
        execScatter, execExpand, execPack, execDigest, execPrefetch, execSend, execDeleg, execCinv, State.run, nop,
        halt, yield, jmp, br, call, ret, loop, endl, sli, slih, sshr, scmp, ssel, sld, sst, ldtd, sttd, tdset, tdget,
        ksig, kwait, kdrain, fence, intr, kread, move, moveLdrt, mset, fill, window, gather, pool, scatter, expand,
        pack, digest, prefetch, send, deleg, cinv, scalarOp, Chip.issueS, transfer]; rfl⟩)
    | cases h

/-- The words of a row have an assigned opcode (R132). -/
theorem issue_row_assigned (i : Instr) (r : IssueRow) (h : issueRow i = some r) (w : Word) (hw : r.sel w = true) :
    opcAssigned (wOpc w) = true := by
  cases i <;> first
    | (cases h; simp [isOp] at hw; simp [opcAssigned, hw])
    | cases h

/-- A command whose instruction issues is the instruction's own effect on the block that has taken it. -/
theorem exec_of_issuesAs {s : State} {i : Instr} {c : Nat} {w : Word} (h : s.chip.issuesAs i c w) :
    ∃ r body, issueRow i = some r ∧ r.ctx = c ∧ (∀ s : State, exec i s = .next (s.to (Chip.issue r.ctx r.sel r.enc r.ctr body s.chip))) ∧
      exec i s = .next (s.to (body w (s.chip.taken c w))) := by
  unfold Chip.issuesAs at h
  cases hr : issueRow i with
  | none => simp [hr] at h
  | some r =>
    simp only [hr] at h
    obtain ⟨rfl, hi, h1, h2, h3⟩ := h
    obtain ⟨body, hb⟩ := issue_row_cases i r hr
    exact ⟨r, body, rfl, rfl, hb, by rw [hb, Chip.issue_body hi (issue_row_assigned i r hr w h1) h1 h2 h3]⟩

/-- What issuing says of the word: its opcode, its fields, its counter. -/
theorem Chip.issuesAs_row {s : Chip} {i : Instr} {c : Nat} {w : Word} {r : IssueRow} (h : s.issuesAs i c w) (hr : issueRow i = some r) :
    r.ctx = c ∧ r.issues w s := by
  simpa [Chip.issuesAs, hr] using h

/-- The issue of a row whose instruction issues is its body. -/
theorem Chip.issue_as {s : Chip} {i : Instr} {c : Nat} {w : Word} {sel enc : Word → Bool} {ctr : Word → Option Nat}
    {body : Word → Chip → Chip} (h : s.issuesAs i c w) (hr : issueRow i = some ⟨c, sel, enc, ctr⟩) :
    Chip.issue c sel enc ctr body s = body w (s.taken c w) := by
  obtain ⟨_, hi, h1, h2, h3⟩ := Chip.issuesAs_row h hr
  exact Chip.issue_body hi (issue_row_assigned i _ hr w h1) h1 h2 h3

end Sys2Proof.Machine
end

