-- ==== Sys2Proof/Laws/KeepBase.lean ====
section
/-! SUPPORT. Every operation keeps the tables of the block canonical and its build as it is: registers, memory, reports, interrupts, faults, the row cache, counters, translation.

`f_ok` says of the operation `f`: from a block with `Chip.Ok b` it gives one with `Chip.Ok b`. -/

set_option Elab.async false
set_option linter.unusedTactic false
set_option linter.unreachableTactic false

namespace Sys2Proof.Machine

variable {b : Build}

theorem foldl_ok {α : Type} {f : Chip → α → Chip} {l : List α} {s : Chip} (hf : ∀ t x, t.Ok b → Chip.Ok b (f t x)) (h : s.Ok b) :
    Chip.Ok b (l.foldl f s) := by
  induction l generalizing s with
  | nil => exact h
  | cons x r ih => exact ih (hf s x h)

theorem bind_foldl_ok {α : Type} {f : Chip → α → Option Chip} {l : List α} {o : Option Chip}
    (hf : ∀ s t x, s.Ok b → f s x = some t → Chip.Ok b t) (h : ∀ t, o = some t → t.Ok b) :
    ∀ t, l.foldl (fun o x => o.bind (fun s => f s x)) o = some t → Chip.Ok b t := by
  induction l generalizing o with
  | nil => exact h
  | cons x r ih =>
    refine ih (fun t e => ?_)
    obtain ⟨s, hs, e⟩ := Option.bind_eq_some_iff.mp e
    exact hf s t x (h s hs) e

theorem memPut_wf (l : List (Nat × Byte)) (m : List Host.Cell) (h : Tab.wf 0 m = true) : Tab.wf 0 (memPut l m) = true := by
  induction l generalizing m with
  | nil => exact h
  | cons x r ih => obtain ⟨a, v⟩ := x; exact ih _ (Tab.wf_set _ _ _ _ h)

/-- Other fields do not matter. -/
theorem ok_lit {s : Chip}
    {x1 : _} {x2 : _} {x3 : _} {x4 : _} {x5 : _} {x6 : _} {x10 : _} {x11 : _} {x12 : _} {x13 : _} {x14 : _} {x15 : _} {x17 : _} {x18 : _}
    {x19 : _} {x20 : _} {x21 : _} {x22 : _} {x23 : _} {x24 : _} {x25 : _} {x26 : _} {x27 : _} {x28 : _} {x29 : _} {x30 : _} {x31 : _}
    {x32 : _} {x33 : _} {x34 : _} {x35 : _} {x36 : _}
    (h : s.Ok b) :
    Chip.Ok b ⟨s.build, x1, x2, x3, x4, x5, x6, s.ctx, s.mov, s.ks, x10, x11, x12, x13, x14, x15, s.mem, x17, x18, x19, x20, x21, x22, x23, x24, x25,
      x26, x27, x28, x29, x30, x31, x32, x33, x34, x35, x36⟩ := h

/-- A register write, if any, keeps the tables. -/
def OkWrite (b : Build) (o : Option (Chip → Chip)) : Prop := ∀ f, o = some f → ∀ t : Chip, t.Ok b → Chip.Ok b (f t)

theorem okWrite_none : OkWrite b none := fun _ h => nomatch h
theorem okWrite_some {f : Chip → Chip} (h : ∀ {t : Chip}, t.Ok b → Chip.Ok b (f t)) : OkWrite b (some f) := by
  intro g e t ht; cases e; exact h ht
theorem okWrite_ite {p : Prop} [Decidable p] {x y : Option (Chip → Chip)} (hx : OkWrite b x) (hy : OkWrite b y) :
    OkWrite b (if p then x else y) := by
  split <;> assumption

/-! ### `Machine/Ops.lean` -/

theorem Chip.setReg_ok (off : ℕ) (v : Word) {s : Chip} (h : s.Ok b) : Chip.Ok b (Chip.setReg off v s) := h

theorem Chip.setF_ok (off : ℕ) (lo : ℕ) (n : ℕ) (v : ℕ) {s : Chip} (h : s.Ok b) : Chip.Ok b (Chip.setF off lo n v s) := by
  unfold Chip.setF
  grind [Chip.setReg_ok, Chip.Ok, foldl_ok]

theorem Chip.bump_ok (off : ℕ) (lo : ℕ) (n : ℕ) (k : ℕ) {s : Chip} (h : s.Ok b) : Chip.Ok b (Chip.bump off lo n k s) := by
  unfold Chip.bump
  grind [Chip.setF_ok, Chip.Ok, foldl_ok]

theorem Chip.updCtx_ok (c : ℕ) (f : Ctx → Ctx) {s : Chip} (h : s.Ok b) : Chip.Ok b (Chip.updCtx c f s) := ⟨h.1, h.2.1, Tab.wf_upd _ _ _ _ h.2.2.1, h.2.2.2⟩

theorem Chip.updMov_ok (m : ℕ) (f : Mover → Mover) {s : Chip} (h : s.Ok b) : Chip.Ok b (Chip.updMov m f s) := ⟨h.1, h.2.1, h.2.2.1, Tab.wf_upd _ _ _ _ h.2.2.2.1, h.2.2.2.2⟩

theorem Chip.tickFree_ok {s : Chip} (h : s.Ok b) : Chip.Ok b (Chip.tickFree s) := h


theorem Chip.memWrite_ok (l : List (ℕ × Byte)) {s : Chip} (h : s.Ok b) : Chip.Ok b (Chip.memWrite l s) := ⟨h.1, memPut_wf _ _ h.2.1, h.2.2⟩

theorem Chip.commitWrite_ok (g : ℕ) (m : BitVec 256) (d : Granule) {s : Chip} (h : s.Ok b) : Chip.Ok b (Chip.commitWrite g m d s) := by
  unfold Chip.commitWrite
  dsimp only
  repeat' (first | with_reducible assumption | intro _ | with_reducible apply Chip.memWrite_ok | with_reducible apply foldl_ok | split)
  all_goals grind [Chip.memWrite_ok, Chip.Ok, foldl_ok]

theorem Chip.updLine_ok (g : ℕ) (f : Line → Line) {s : Chip} (h : s.Ok b) : Chip.Ok b (Chip.updLine g f s) := h

theorem Chip.lineThrough_ok (g : ℕ) (m : BitVec 256) (d : Granule) {s : Chip} (h : s.Ok b) : Chip.Ok b (Chip.lineThrough g m d s) := by
  unfold Chip.lineThrough
  dsimp only
  repeat' (first | with_reducible assumption | intro _ | with_reducible apply Chip.updLine_ok | with_reducible apply foldl_ok | split)
  all_goals grind [Chip.updLine_ok, Chip.Ok, foldl_ok]

theorem Chip.bypassWrite_ok (pa : ℕ) (bs : List Byte) {s : Chip} (h : s.Ok b) : Chip.Ok b (Chip.bypassWrite pa bs s) := by
  unfold Chip.bypassWrite
  refine foldl_ok (fun t x ht => ?_) (foldl_ok (fun t x ht => ?_) h)
  · split <;> [exact Chip.lineThrough_ok _ _ _ (Chip.memWrite_ok _ ht); exact ht]
  · exact Chip.updLine_ok _ _ (Chip.memWrite_ok _ ht)

/-! ### `Machine/Report.lean` -/

theorem Chip.updSrc_ok (n : ℕ) (f : IrqSrc → IrqSrc) {s : Chip} (h : s.Ok b) : Chip.Ok b (Chip.updSrc n f s) := h

theorem Chip.updTgt_ok (t : ℕ) (f : IrqTgt → IrqTgt) {s : Chip} (h : s.Ok b) : Chip.Ok b (Chip.updTgt t f s) := h

theorem Chip.raise_ok (n : ℕ) (nmi : Bool) {s : Chip} (h : s.Ok b) : Chip.Ok b (Chip.raise n nmi s) := by
  unfold Chip.raise
  grind [Chip.updSrc_ok, Chip.Ok, foldl_ok]

theorem Chip.report_ok (r : Report) {s : Chip} (h : s.Ok b) : Chip.Ok b (Chip.report r s) := by
  unfold Chip.report
  dsimp only
  repeat' (first | with_reducible assumption | intro _ | with_reducible apply foldl_ok | split)
  all_goals grind [Chip.Ok, foldl_ok]

theorem Chip.logCtl_ok (code : ℕ) (unit : ℕ) {s : Chip} (h : s.Ok b) : Chip.Ok b (Chip.logCtl code unit s) := by
  unfold Chip.logCtl
  grind [Chip.report_ok, Chip.Ok, foldl_ok]

theorem Chip.updLane_ok (l : Lane) (f : LaneSt → LaneSt) {s : Chip} (h : s.Ok b) : Chip.Ok b (Chip.updLane l f s) := h

theorem Chip.progressed_ok (c : ℕ) {s : Chip} (h : s.Ok b) : Chip.Ok b (Chip.progressed c s) := by
  unfold Chip.progressed
  grind [Chip.updCtx_ok, Chip.Ok, foldl_ok]

theorem Chip.progressOf_ok (r : PortReq) {s : Chip} (h : s.Ok b) : Chip.Ok b (Chip.progressOf r s) := by
  unfold Chip.progressOf
  grind [Chip.progressed_ok, Chip.Ok, foldl_ok]

theorem Chip.enq_ok (r : PortReq) {s : Chip} (h : s.Ok b) : Chip.Ok b (Chip.enq r s) := by
  unfold Chip.enq
  dsimp only
  repeat' (first | with_reducible assumption | intro _ | with_reducible apply Chip.progressOf_ok | with_reducible apply foldl_ok | split)
  all_goals grind [Chip.progressOf_ok, Chip.Ok, foldl_ok]

theorem Chip.maintWrite_ok (kind : ReqKind) (pa : ℕ) (bs : List Byte) (ctx : Option ℕ) (part : Option ℕ) (cls : ℕ) {s : Chip} (h : s.Ok b) :
    ∀ z, Chip.maintWrite kind pa bs ctx part cls s = some z → z.Ok b := by
  intro t ht
  simp only [Chip.maintWrite, Option.map_eq_some_iff] at ht
  obtain ⟨p, _, rfl⟩ := ht
  exact Chip.enq_ok _ h

theorem Chip.ringDrop_ok (ctl : ℕ) {s : Chip} (h : s.Ok b) : Chip.Ok b (Chip.ringDrop ctl s) := by
  unfold Chip.ringDrop
  grind [Chip.bump_ok, Chip.setF_ok, Chip.Ok, foldl_ok]

theorem Chip.ringPut_ok (b1 : ℕ) (ctl : ℕ) (kind : ReqKind) (entry : List Byte) (ctx : Option ℕ) (part : Option ℕ) {s : Chip} (h : s.Ok b) :
    Chip.Ok b (Chip.ringPut b1 ctl kind entry ctx part s) := by
  unfold Chip.ringPut
  dsimp only
  split
  · exact Chip.ringDrop_ok _ h
  · split
    · rename_i hu; exact Chip.maintWrite_ok _ _ _ _ _ _ h _ hu
    · exact Chip.report_ok _ (Chip.ringDrop_ok _ h)

theorem Chip.trace_ok (c : ℕ) (ev : ℕ) (val : ℕ) (ia : ℕ) (x : Word) {s : Chip} (h : s.Ok b) : Chip.Ok b (Chip.trace c ev val ia x s) := by
  unfold Chip.trace
  dsimp only
  repeat' first
      | with_reducible assumption | intro _ | with_reducible apply Chip.ringDrop_ok | with_reducible apply Chip.ringPut_ok
      | with_reducible apply foldl_ok | split

theorem Chip.setSt_ok (c : ℕ) (st : CState) (w : Option WaitCause) {s : Chip} (h : s.Ok b) : Chip.Ok b (Chip.setSt c st w s) := by
  unfold Chip.setSt
  dsimp only
  repeat' first
      | with_reducible assumption | intro _ | with_reducible apply Chip.updCtx_ok | with_reducible apply Chip.trace_ok
      | with_reducible apply foldl_ok | split

theorem Chip.yieldMover_ok (c : ℕ) {s : Chip} (h : s.Ok b) : Chip.Ok b (Chip.yieldMover c s) := by
  unfold Chip.yieldMover
  grind [Chip.updMov_ok, Chip.Ok, foldl_ok]

theorem Chip.waitFor_ok (c : ℕ) (w : WaitCause) {s : Chip} (h : s.Ok b) : Chip.Ok b (Chip.waitFor c w s) := by
  unfold Chip.waitFor
  grind [Chip.setSt_ok, Chip.yieldMover_ok, Chip.Ok, foldl_ok]

theorem Chip.wake_ok (c : ℕ) {s : Chip} (h : s.Ok b) : Chip.Ok b (Chip.wake c s) := by
  unfold Chip.wake
  grind [Chip.setSt_ok, Chip.Ok, foldl_ok]

theorem Chip.retireTo_ok (c : ℕ) (ip : ℕ) {s : Chip} (h : s.Ok b) : Chip.Ok b (Chip.retireTo c ip s) := by
  unfold Chip.retireTo
  grind [Chip.updCtx_ok, Chip.Ok, foldl_ok]

theorem Chip.ownFault_ok (c : ℕ) (src : ℕ) {s : Chip} (h : s.Ok b) : Chip.Ok b (Chip.ownFault c src s) := by
  unfold Chip.ownFault
  grind [Chip.report_ok, Chip.updCtx_ok, Chip.Ok, foldl_ok]

theorem Chip.answer_ok (r : RpStatus) {s : Chip} (h : s.Ok b) : Chip.Ok b (Chip.answer r s) := h

theorem Chip.acceptAny_ok (body : Chip → Chip) {s : Chip} (hbody : ∀ t, t.Ok b → Chip.Ok b (body t)) (h : s.Ok b) :
    Chip.Ok b (Chip.acceptAny body s) := by
  unfold Chip.acceptAny
  grind [Chip.Ok, foldl_ok]

theorem Chip.accept_ok (body : Chip → Chip) {a1 : Chip} (hbody : ∀ t, t.Ok b → Chip.Ok b (body t)) (h : a1.Ok b) :
    Chip.Ok b (Chip.accept body a1) := by
  unfold Chip.accept
  grind [Chip.acceptAny_ok, Chip.answer_ok, Chip.Ok, foldl_ok]

theorem Chip.guarded_ok (body : Chip → Chip) {s : Chip} (hbody : ∀ t, t.Ok b → Chip.Ok b (body t)) (h : s.Ok b) :
    Chip.Ok b (Chip.guarded body s) := by
  unfold Chip.guarded
  grind [Chip.answer_ok, Chip.logCtl_ok, Chip.Ok, foldl_ok]

/-! ### `Machine/Irq.lean` -/

theorem icPset_ok (k : ℕ) (v : Word) {a2 : Chip} (h : a2.Ok b) : Chip.Ok b (icPset k v a2) := by
  unfold icPset
  grind [Chip.accept_ok, Chip.answer_ok, Chip.raise_ok, Chip.Ok, foldl_ok]

theorem Chip.clearPend_ok {s : Chip} (n : ℕ) (h : s.Ok b) : Chip.Ok b (Chip.clearPend s n) := by
  unfold Chip.clearPend
  dsimp only
  repeat' (first | with_reducible assumption | intro _ | with_reducible apply Chip.updSrc_ok | with_reducible apply foldl_ok | split)

theorem icPclr_ok (k : ℕ) (v : Word) {a2 : Chip} (h : a2.Ok b) : Chip.Ok b (icPclr k v a2) := by
  unfold icPclr
  grind [Chip.accept_ok, Chip.answer_ok, Chip.clearPend_ok, Chip.Ok, foldl_ok]

theorem icMset_ok (k : ℕ) (v : Word) {a2 : Chip} (h : a2.Ok b) : Chip.Ok b (icMset k v a2) := by
  unfold icMset
  dsimp only
  repeat' first
      | with_reducible assumption | intro _ | with_reducible apply Chip.accept_ok | with_reducible apply Chip.updSrc_ok
      | with_reducible apply Chip.answer_ok | with_reducible apply foldl_ok | split | with_reducible apply ok_lit

theorem icMclr_ok (k : ℕ) (v : Word) {a2 : Chip} (h : a2.Ok b) : Chip.Ok b (icMclr k v a2) := by
  unfold icMclr
  dsimp only
  repeat' first
      | with_reducible assumption | intro _ | with_reducible apply Chip.accept_ok | with_reducible apply Chip.updSrc_ok
      | with_reducible apply Chip.answer_ok | with_reducible apply foldl_ok | split | with_reducible apply ok_lit

theorem icEvtcfg_ok (v : Word) {a1 : Chip} (h : a1.Ok b) : Chip.Ok b (icEvtcfg v a1) := by
  unfold icEvtcfg
  dsimp only
  repeat' first
      | with_reducible assumption | intro _ | with_reducible apply Chip.accept_ok | with_reducible apply Chip.setReg_ok
      | with_reducible apply Chip.updSrc_ok | with_reducible apply Chip.answer_ok | with_reducible apply foldl_ok | split
      | with_reducible apply ok_lit

theorem icSrc_ok (n : ℕ) (v : Word) {a2 : Chip} (h : a2.Ok b) : Chip.Ok b (icSrc n v a2) := by
  unfold icSrc
  dsimp only
  repeat' first
      | with_reducible assumption | intro _ | with_reducible apply Chip.accept_ok | with_reducible apply Chip.answer_ok
      | with_reducible apply Chip.updSrc_ok | with_reducible apply foldl_ok | split

theorem icSst_ok (n : ℕ) (v : Word) {a2 : Chip} (h : a2.Ok b) : Chip.Ok b (icSst n v a2) := by
  unfold icSst
  grind [Chip.accept_ok, Chip.answer_ok, Chip.updSrc_ok, Chip.Ok, foldl_ok]

theorem icEoi_ok (t : ℕ) (v : Word) {a2 : Chip} (h : a2.Ok b) : Chip.Ok b (icEoi t v a2) := by
  unfold icEoi
  dsimp only
  repeat' first
      | with_reducible assumption | intro _ | with_reducible apply Chip.accept_ok | with_reducible apply Chip.answer_ok
      | with_reducible apply Chip.updSrc_ok | with_reducible apply Chip.updTgt_ok | with_reducible apply foldl_ok | split

theorem vectorPresent_ok (t : ℕ) (early : Option ℕ) {s : Chip} (h : s.Ok b) : Chip.Ok b (vectorPresent t early s) := by
  unfold vectorPresent
  dsimp only
  repeat' (first | with_reducible assumption | intro _ | with_reducible apply Chip.updTgt_ok | with_reducible apply foldl_ok | split)

theorem vectorClaim_ok (t : ℕ) {s : Chip} (h : s.Ok b) : Chip.Ok b (vectorClaim t s) := by
  unfold vectorClaim
  dsimp only
  repeat' first
      | with_reducible assumption | intro _ | with_reducible apply Chip.updTgt_ok | with_reducible apply Chip.updSrc_ok
      | with_reducible apply foldl_ok | split

theorem vpackTimeout_ok (t : ℕ) {s : Chip} (h : s.Ok b) : Chip.Ok b (vpackTimeout t s) := by
  unfold vpackTimeout
  grind [Chip.report_ok, Chip.updTgt_ok, Chip.Ok, foldl_ok]

theorem evtEdge_ok (i : ℕ) (merged : Bool) {s : Chip} (h : s.Ok b) : Chip.Ok b (evtEdge i merged s) := by
  unfold evtEdge
  grind [Chip.updSrc_ok, Chip.raise_ok, Chip.Ok, foldl_ok]

theorem evtLevelRise_ok (i : ℕ) {s : Chip} (h : s.Ok b) : Chip.Ok b (evtLevelRise i s) := by
  unfold evtLevelRise
  dsimp only
  repeat' (first | with_reducible assumption | intro _ | with_reducible apply Chip.updSrc_ok | with_reducible apply foldl_ok | split)
  all_goals grind [Chip.updSrc_ok, Chip.Ok, foldl_ok]

theorem evtLevelFall_ok (i : ℕ) {s : Chip} (h : s.Ok b) : Chip.Ok b (evtLevelFall i s) := by
  unfold evtLevelFall
  dsimp only
  repeat' (first | with_reducible assumption | intro _ | with_reducible apply Chip.updSrc_ok | with_reducible apply foldl_ok | split)
  all_goals grind [Chip.updSrc_ok, Chip.Ok, foldl_ok]

theorem stormWindow_ok (n : ℕ) {s : Chip} (h : s.Ok b) : Chip.Ok b (stormWindow n s) := by
  unfold stormWindow
  dsimp only
  repeat' first
      | with_reducible assumption | intro _ | with_reducible apply Chip.report_ok | with_reducible apply Chip.updSrc_ok
      | with_reducible apply foldl_ok | split

theorem icTcfg_ok (t : ℕ) (v : Word) {a2 : Chip} (h : a2.Ok b) : Chip.Ok b (icTcfg t v a2) := by
  unfold icTcfg
  dsimp only
  repeat' first
      | with_reducible assumption | intro _ | with_reducible apply Chip.accept_ok | with_reducible apply Chip.answer_ok
      | with_reducible apply Chip.updTgt_ok | with_reducible apply foldl_ok | split

theorem icVbase_ok (t : ℕ) (v : Word) {s : Chip} (h : s.Ok b) : Chip.Ok b (icVbase t v s) := by
  unfold icVbase
  grind [Chip.answer_ok, Chip.updTgt_ok, Chip.Ok, foldl_ok]

theorem icTstat_ok (t : ℕ) (v : Word) {s : Chip} (h : s.Ok b) : Chip.Ok b (icTstat t v s) := by
  unfold icTstat
  grind [Chip.answer_ok, Chip.updTgt_ok, Chip.Ok, foldl_ok]

/-! ### `Machine/Faults.lean` -/

theorem Chip.setRec_ok (r : ℕ) (x : FRec) {s : Chip} (h : s.Ok b) : Chip.Ok b (Chip.setRec r x s) := h

theorem Chip.writeRec_ok (p : PendRep) (sev : ℕ) (esc : Bool) {s : Chip} (h : s.Ok b) : Chip.Ok b (Chip.writeRec p sev esc s).1 := by
  unfold Chip.writeRec
  intros
  dsimp only at *
  repeat' first
      | with_reducible assumption | intro _ | with_reducible apply Chip.setRec_ok | with_reducible apply Chip.bump_ok
      | with_reducible apply foldl_ok | split | with_reducible apply ok_lit

theorem Chip.updUnit_ok (k : UnitKind) (u : ℕ) (f : UnitStat → UnitStat) {s : Chip} (h : s.Ok b) : Chip.Ok b (Chip.updUnit k u f s) := h

theorem Chip.countReport_ok (r : Report) {s : Chip} (h : s.Ok b) : Chip.Ok b (Chip.countReport r s) := by
  unfold Chip.countReport
  grind [Chip.updUnit_ok, Chip.Ok, foldl_ok]

theorem Chip.request_ok (r : Rung) {s : Chip} (h : s.Ok b) : Chip.Ok b (Chip.request r s) := by
  unfold Chip.request
  dsimp only
  repeat' (first | with_reducible assumption | intro _ | with_reducible apply foldl_ok | split)
  all_goals grind [Chip.Ok, foldl_ok]

theorem Chip.pinStop_ok {s : Chip} (h : s.Ok b) : Chip.Ok b (Chip.pinStop s) := h

theorem Chip.react_ok (r : Report) (sev : ℕ) (slot : ℕ) {s : Chip} (h : s.Ok b) : Chip.Ok b (Chip.react r sev slot s) := by
  unfold Chip.react
  dsimp only
  repeat' first
      | with_reducible assumption | intro _ | with_reducible apply Chip.raise_ok | with_reducible apply Chip.pinStop_ok
      | with_reducible apply Chip.request_ok | with_reducible apply foldl_ok | split

theorem Chip.acceptReport_ok (p : PendRep) {s : Chip} (h : s.Ok b) : Chip.Ok b (Chip.acceptReport p s) := by
  unfold Chip.acceptReport
  dsimp only
  repeat' first
      | with_reducible assumption | intro _ | with_reducible apply Chip.writeRec_ok | with_reducible apply Chip.countReport_ok
      | with_reducible apply Chip.trace_ok | with_reducible apply Chip.react_ok | with_reducible apply foldl_ok | split

theorem Chip.countEcc_ok (r : Report) {s : Chip} (h : s.Ok b) : Chip.Ok b (Chip.countEcc r s) := by
  unfold Chip.countEcc
  grind [Chip.bump_ok, Chip.Ok, foldl_ok]

theorem Chip.raiseReports_ok (l : List Report) {s : Chip} (h : s.Ok b) : Chip.Ok b (Chip.raiseReports l s) := by
  unfold Chip.raiseReports
  grind [Chip.report_ok, Chip.countEcc_ok, Chip.Ok, foldl_ok]

theorem reportAccept_ok (raised : List Report) {s : Chip} (h : s.Ok b) : Chip.Ok b (reportAccept raised s) := by
  unfold reportAccept
  dsimp only
  repeat' first
      | with_reducible assumption | intro _ | with_reducible apply Chip.raiseReports_ok | with_reducible apply Chip.acceptReport_ok
      | with_reducible apply foldl_ok | split | with_reducible apply ok_lit

theorem Chip.wireBroken_ok (k : UnitKind) (u : ℕ) (pair : ℕ) (sub : ℕ) {s : Chip} (h : s.Ok b) : Chip.Ok b (Chip.wireBroken k u pair sub s) := by
  unfold Chip.wireBroken
  dsimp only
  repeat' first
      | with_reducible assumption | intro _ | with_reducible apply Chip.updUnit_ok | with_reducible apply foldl_ok | split
      | with_reducible apply ok_lit

theorem brokenWire_ok (k : UnitKind) (u : ℕ) (pair : ℕ) (sub : ℕ) (samples : List (BitVec 2)) {s : Chip} (h : s.Ok b) :
    Chip.Ok b (brokenWire k u pair sub samples s) := by
  unfold brokenWire
  grind [Chip.report_ok, Chip.wireBroken_ok, Chip.Ok, foldl_ok]

theorem Chip.scrubReport_ok (r : Report) {s : Chip} (h : s.Ok b) : Chip.Ok b (Chip.scrubReport r s) := by
  unfold Chip.scrubReport
  dsimp only
  repeat' first
      | with_reducible assumption | intro _ | with_reducible apply Chip.report_ok | with_reducible apply Chip.countEcc_ok
      | with_reducible apply foldl_ok | split

theorem Chip.scrubLine_ok (loc : ℕ) (flip : List Byte) {s : Chip} (h : s.Ok b) : Chip.Ok b (Chip.scrubLine loc flip s) := by
  unfold Chip.scrubLine
  dsimp only
  repeat' first
      | with_reducible assumption | intro _ | with_reducible apply Chip.scrubReport_ok | with_reducible apply Chip.updLine_ok
      | with_reducible apply foldl_ok | split

theorem scrubRead_ok (a : ℕ) (k : UnitKind) (u : ℕ) (loc : ℕ) (flip : BitVec 288) {s : Chip} (h : s.Ok b) :
    Chip.Ok b (scrubRead a k u loc flip s) := by
  unfold scrubRead
  grind [Chip.scrubLine_ok, Chip.scrubReport_ok, Chip.Ok, foldl_ok]

theorem fcAck_ok (v : Word) {a1 : Chip} (h : a1.Ok b) : Chip.Ok b (fcAck v a1) := by
  unfold fcAck
  grind [Chip.acceptAny_ok, Chip.answer_ok, Chip.setRec_ok, Chip.Ok, foldl_ok]

theorem fcSwrep_ok (v : Word) {a1 : Chip} (h : a1.Ok b) : Chip.Ok b (fcSwrep v a1) := by
  unfold fcSwrep
  grind [Chip.accept_ok, Chip.answer_ok, Chip.report_ok, Chip.Ok, foldl_ok]

theorem fcInjStore_ok (v : Word) {s : Chip} (h : s.Ok b) : Chip.Ok b (fcInjStore v s) := by
  unfold fcInjStore
  dsimp only
  repeat' first
      | with_reducible assumption | intro _ | with_reducible apply Chip.answer_ok | with_reducible apply Chip.setReg_ok
      | with_reducible apply foldl_ok | split

theorem fcInjArm_ok (v : Word) {a1 : Chip} (h : a1.Ok b) : Chip.Ok b (fcInjArm v a1) := by
  unfold fcInjArm
  grind [Chip.accept_ok, Chip.guarded_ok, Chip.answer_ok, Chip.logCtl_ok, fcInjStore_ok, Chip.Ok, foldl_ok]

theorem Chip.injectWord_ok (src : ℕ) (syms : ℕ) (k : UnitKind) (u : ℕ) (done : Chip → Chip) {s : Chip}
    (hdone : ∀ t, t.Ok b → Chip.Ok b (done t)) (h : s.Ok b) :
    Chip.Ok b (Chip.injectWord src syms k u done s) := by
  unfold Chip.injectWord
  dsimp only
  repeat' first
      | with_reducible assumption | intro _ | with_reducible apply Chip.report_ok | with_reducible apply Chip.countEcc_ok
      | with_reducible apply hdone | with_reducible apply foldl_ok | split
  all_goals grind [Chip.report_ok, Chip.countEcc_ok, Chip.Ok, foldl_ok]

theorem injectionFire_ok {s : Chip} (h : s.Ok b) : Chip.Ok b (injectionFire s) := by
  unfold injectionFire
  dsimp only
  repeat' first
      | with_reducible assumption | intro _ | with_reducible apply Chip.setReg_ok | with_reducible apply brokenWire_ok
      | with_reducible apply Chip.injectWord_ok | with_reducible apply foldl_ok | split

theorem Chip.loadLfsr_ok (m : ℕ) {s : Chip} (h : s.Ok b) : Chip.Ok b (Chip.loadLfsr m s) := by
  unfold Chip.loadLfsr
  grind [Chip.updMov_ok, Chip.Ok, foldl_ok]

theorem Chip.loadLfsrs_ok {s : Chip} (h : s.Ok b) : Chip.Ok b (Chip.loadLfsrs s) := by
  unfold Chip.loadLfsrs
  grind [Chip.loadLfsr_ok, Chip.Ok, foldl_ok]

theorem shdConfigWrite_ok (off : ℕ) (v : Word) {a2 : Chip} (h : a2.Ok b) : Chip.Ok b (shdConfigWrite off v a2) := by
  unfold shdConfigWrite
  grind [Chip.accept_ok, Chip.answer_ok, Chip.loadLfsrs_ok, Chip.setReg_ok, Chip.Ok, foldl_ok]

/-! ### `Machine/RowCache.lean` -/

theorem Chip.startWb_ok (kind : ReqKind) (g : ℕ) (cls : ℕ) (grp : ℕ) (c : Option ℕ) {s : Chip} (h : s.Ok b) :
    Chip.Ok b (Chip.startWb kind g cls grp c s) := by
  unfold Chip.startWb
  grind [Chip.enq_ok, Chip.Ok, foldl_ok]

theorem Chip.staleWb_ok (g : ℕ) (m : BitVec 256) {s : Chip} (h : s.Ok b) : Chip.Ok b (Chip.staleWb g m s) := h

theorem Chip.evictLine_ok (g : ℕ) (cls : ℕ) {s : Chip} (h : s.Ok b) : Chip.Ok b (Chip.evictLine g cls s) := by
  unfold Chip.evictLine
  grind [Chip.updLine_ok, Chip.startWb_ok, Chip.Ok, foldl_ok]

theorem Chip.endWb_ok (r : PortReq) (ok : Bool) {s : Chip} (h : s.Ok b) : Chip.Ok b (Chip.endWb r ok s) := by
  unfold Chip.endWb
  dsimp only
  repeat' (first | with_reducible assumption | intro _ | with_reducible apply Chip.updLine_ok | with_reducible apply foldl_ok | split)

theorem Chip.rcRoom_ok (g : ℕ) (cls : ℕ) {s : Chip} (h : s.Ok b) : ∀ z, Chip.rcRoom g cls s = some z → z.Ok b := by
  intro t ht
  unfold Chip.rcRoom at ht
  split at ht
  · cases ht; exact h
  · split at ht
    · cases ht; exact h
    · dsimp only at ht
      split at ht
      · cases ht; exact h
      · simp only [Option.map_eq_some_iff] at ht
        obtain ⟨p, _, rfl⟩ := ht
        exact Chip.evictLine_ok _ _ h

theorem Chip.lineUse_ok (g : ℕ) (cls : ℕ) (hit : Bool) {s : Chip} (h : s.Ok b) : Chip.Ok b (Chip.lineUse g cls hit s) := by
  unfold Chip.lineUse
  dsimp only
  repeat' (first | with_reducible assumption | intro _ | with_reducible apply Chip.updLine_ok | with_reducible apply foldl_ok | split)
  all_goals grind [Chip.updLine_ok, Chip.Ok, foldl_ok]

theorem Chip.countFill_ok (g : ℕ) {s : Chip} (h : s.Ok b) : Chip.Ok b (Chip.countFill g s) := by
  unfold Chip.countFill
  dsimp only
  repeat' (first | with_reducible assumption | intro _ | with_reducible apply foldl_ok | split)
  all_goals grind [Chip.Ok, foldl_ok]

theorem Chip.rcInstall_ok (g : ℕ) (ok : BitVec 4) (d : Granule) (cls : ℕ) {s : Chip} (h : s.Ok b) :
    ∀ z, Chip.rcInstall g ok d cls s = some z → z.Ok b := by
  intro t ht
  simp only [Chip.rcInstall, Option.map_eq_some_iff] at ht
  obtain ⟨u, hu, rfl⟩ := ht
  exact Chip.countFill_ok _ (Chip.updLine_ok _ _ (Chip.lineUse_ok _ _ _ (Chip.rcRoom_ok _ _ h _ hu)))

theorem Chip.rcWrite_ok (g : ℕ) (m : BitVec 256) (d : Granule) (part : ℕ) (cls : ℕ) (hit : Bool) {s : Chip} (h : s.Ok b) :
    ∀ z, Chip.rcWrite g m d part cls hit s = some z → z.Ok b := by
  intro t ht
  simp only [Chip.rcWrite, Option.map_eq_some_iff] at ht
  obtain ⟨u, hu, rfl⟩ := ht
  exact Chip.updLine_ok _ _ (Chip.staleWb_ok _ _ (Chip.lineUse_ok _ _ _ (Chip.rcRoom_ok _ _ h _ hu)))

theorem Chip.countRowSectors_ok (off : ℕ) (v : BitVec 4) {s : Chip} (h : s.Ok b) : Chip.Ok b (Chip.countRowSectors off v s) := by
  unfold Chip.countRowSectors
  grind [Chip.bump_ok, Chip.Ok, foldl_ok]

theorem Chip.discardDirty_ok (part : ℕ) {s : Chip} (h : s.Ok b) : Chip.Ok b (Chip.discardDirty part s) := by
  unfold Chip.discardDirty
  grind [Chip.updLine_ok, Chip.Ok, foldl_ok]

/-! ### `Machine/Sync.lean` -/

theorem Chip.ksUpdate_ok (k : ℕ) (set : Bool) (v : BitVec 48) {s : Chip} (h : s.Ok b) : Chip.Ok b (Chip.ksUpdate k set v s) := h

theorem Chip.ksHost_ok (k : ℕ) (set : Bool) (v : BitVec 48) {s : Chip} (h : s.Ok b) : Chip.Ok b (Chip.ksHost k set v s) := h

theorem Chip.signal_ok (k : ℕ) (n : ℕ) {s : Chip} (h : s.Ok b) : Chip.Ok b (Chip.signal k n s) := by
  unfold Chip.signal
  grind [Chip.ksUpdate_ok, Chip.Ok, foldl_ok]

theorem Chip.kwaitEnd_ok (c : ℕ) (ok : Bool) {s : Chip} (h : s.Ok b) : Chip.Ok b (Chip.kwaitEnd c ok s) := by
  unfold Chip.kwaitEnd
  dsimp only
  repeat' first
      | with_reducible assumption | intro _ | with_reducible apply Chip.updCtx_ok | with_reducible apply Chip.wake_ok
      | with_reducible apply Chip.retireTo_ok | with_reducible apply foldl_ok | split

theorem Chip.evalKwait_ok (c : ℕ) (inTime : KWaitSt → Bool) {s : Chip} (h : s.Ok b) : Chip.Ok b (Chip.evalKwait c inTime s) := by
  unfold Chip.evalKwait
  grind [Chip.ownFault_ok, Chip.kwaitEnd_ok, Chip.Ok, foldl_ok]

theorem Chip.evalWatch_ok (w : ℕ) {s : Chip} (h : s.Ok b) : Chip.Ok b (Chip.evalWatch w s) := by
  unfold Chip.evalWatch
  dsimp only
  repeat' first
      | with_reducible assumption | intro _ | with_reducible apply Chip.raise_ok | with_reducible apply Chip.setReg_ok
      | with_reducible apply foldl_ok | split

theorem Chip.evaluate_ok (on : ℕ → Bool) (inTime : KWaitSt → Bool) {s : Chip} (h : s.Ok b) : Chip.Ok b (Chip.evaluate on inTime s) := by
  unfold Chip.evaluate
  dsimp only
  repeat' first
      | with_reducible assumption | intro _ | with_reducible apply Chip.evalKwait_ok | with_reducible apply Chip.evalWatch_ok
      | with_reducible apply foldl_ok | split

theorem keystoneUpdate_ok (b1 : ℕ) {s : Chip} (h : s.Ok b) : Chip.Ok b (keystoneUpdate b1 s) := by
  unfold keystoneUpdate
  split
  · exact h
  · exact Chip.evaluate_ok _ _ ⟨h.1, h.2.1, h.2.2.1, h.2.2.2.1, Tab.wf_set _ _ _ _ h.2.2.2.2⟩

theorem keystoneTick_ok (n : ℕ) {s : Chip} (h : s.Ok b) : Chip.Ok b (keystoneTick n s) := by
  unfold keystoneTick
  dsimp only
  repeat' (first | with_reducible assumption | intro _ | with_reducible apply Chip.evaluate_ok | with_reducible apply foldl_ok | split)
  all_goals grind [Chip.evaluate_ok, Chip.Ok, foldl_ok]

theorem kwaitTimeout_ok (c : ℕ) {s : Chip} (h : s.Ok b) : Chip.Ok b (kwaitTimeout c s) := by
  unfold kwaitTimeout
  grind [Chip.kwaitEnd_ok, Chip.ownFault_ok, Chip.Ok, foldl_ok]

theorem ksVal_ok (n : ℕ) (v : Word) {a2 : Chip} (h : a2.Ok b) : Chip.Ok b (ksVal n v a2) := by
  unfold ksVal
  grind [Chip.accept_ok, Chip.answer_ok, Chip.ksHost_ok, Chip.Ok, foldl_ok]

theorem ksAdd_ok (n : ℕ) (v : Word) {a2 : Chip} (h : a2.Ok b) : Chip.Ok b (ksAdd n v a2) := by
  unfold ksAdd
  grind [Chip.accept_ok, Chip.answer_ok, Chip.ksHost_ok, Chip.Ok, foldl_ok]

theorem kwatchCfg_ok (w : ℕ) (v : Word) {a2 : Chip} (h : a2.Ok b) : Chip.Ok b (kwatchCfg w v a2) := by
  unfold kwatchCfg
  dsimp only
  repeat' first
      | with_reducible assumption | intro _ | with_reducible apply Chip.accept_ok | with_reducible apply Chip.answer_ok
      | with_reducible apply Chip.evalWatch_ok | with_reducible apply Chip.setReg_ok | with_reducible apply foldl_ok | split

/-! ### `Machine/Translate.lean` -/

theorem Chip.tlbTouch_ok (m : ℕ) (part : ℕ) (asid : BitVec 16) (va : ℕ) {s : Chip} (h : s.Ok b) : Chip.Ok b (Chip.tlbTouch m part asid va s) := by
  unfold Chip.tlbTouch
  dsimp only
  repeat' first
      | with_reducible assumption | intro _ | with_reducible apply Chip.updMov_ok | with_reducible apply Chip.bump_ok
      | with_reducible apply foldl_ok | split
  all_goals grind [Chip.updMov_ok, Chip.bump_ok, Chip.Ok, foldl_ok]

theorem Chip.lookTouch_ok (c : ℕ) (va : ℕ) {s : Chip} (h : s.Ok b) : Chip.Ok b (Chip.lookTouch c va s) := by
  unfold Chip.lookTouch
  grind [Chip.updCtx_ok, Chip.tlbTouch_ok, Chip.Ok, foldl_ok]

theorem Chip.l2Fill_ok (e : TlbEnt) {s : Chip} (h : s.Ok b) : Chip.Ok b (Chip.l2Fill e s) := by
  unfold Chip.l2Fill
  dsimp only
  repeat' (first | with_reducible assumption | intro _ | with_reducible apply foldl_ok | split)
  all_goals grind [Chip.Ok, foldl_ok]

theorem Chip.install_ok (m : Option ℕ) (va : ℕ) (epoch : ℕ) (e : TlbEnt) {s : Chip} (h : s.Ok b) : Chip.Ok b (Chip.install m va epoch e s) := by
  unfold Chip.install
  grind [Chip.l2Fill_ok, Chip.updMov_ok, Chip.Ok, foldl_ok]

theorem Chip.setHalt_ok (c : ℕ) (h1 : Halt) {s : Chip} (h : s.Ok b) : Chip.Ok b (Chip.setHalt c h1 s) := by
  unfold Chip.setHalt
  grind [Chip.updCtx_ok, Chip.Ok, foldl_ok]

theorem Chip.trFault_ok (c : ℕ) (req : WalkReq) (code : ℕ) (level : ℕ) {s : Chip} (h : s.Ok b) : Chip.Ok b (Chip.trFault c req code level s) := by
  unfold Chip.trFault
  dsimp only
  repeat' first
      | with_reducible assumption | intro _ | with_reducible apply Chip.ownFault_ok | with_reducible apply Chip.report_ok
      | with_reducible apply Chip.updCtx_ok | with_reducible apply Chip.setHalt_ok | with_reducible apply foldl_ok | split

theorem Chip.updWalk_ok (id : ℕ) (f : PWalk → PWalk) {s : Chip} (h : s.Ok b) : Chip.Ok b (Chip.updWalk id f s) := h

theorem Chip.walkOut_ok (id : ℕ) (a1 : ℕ) {a2 : Chip} (h : a2.Ok b) : Chip.Ok b (Chip.walkOut id a1 a2) := by
  induction a1 generalizing a2 with
  | zero => exact h
  | succ n ih =>
    unfold Chip.walkOut
    dsimp only
    repeat' first
      | with_reducible assumption | with_reducible apply ih | with_reducible apply Chip.updWalk_ok | with_reducible apply Chip.enq_ok | split

theorem Chip.nextWalk_ok {s : Chip} (h : s.Ok b) : Chip.Ok b (Chip.nextWalk s) := by
  unfold Chip.nextWalk
  grind [Chip.walkOut_ok, Chip.bump_ok, Chip.updWalk_ok, Chip.Ok, foldl_ok]

theorem Chip.nextWalks_ok (a0 : ℕ) {a1 : Chip} (h : a1.Ok b) : Chip.Ok b (Chip.nextWalks a0 a1) := by
  induction a0 generalizing a1 with
  | zero => exact h
  | succ n ih => exact ih (Chip.nextWalk_ok h)

theorem Chip.dropWalk_ok (id : ℕ) {s : Chip} (h : s.Ok b) : Chip.Ok b (Chip.dropWalk id s) := by
  unfold Chip.dropWalk
  grind [Chip.nextWalk_ok, Chip.Ok, foldl_ok]

theorem Chip.walkRead_ok (id : ℕ) (d : Granule) (rep : Option Report) {s : Chip} (h : s.Ok b) : Chip.Ok b (Chip.walkRead id d rep s) := by
  unfold Chip.walkRead
  grind [Chip.dropWalk_ok, Chip.updWalk_ok, Chip.walkOut_ok, Chip.Ok, foldl_ok]

theorem Chip.needWalk_ok (f : WalkFor) (mov : Option ℕ) (part : ℕ) (asid : BitVec 16) (root : ℕ) (va : ℕ) (cls : ℕ) {s : Chip} (h : s.Ok b) :
    Chip.Ok b (Chip.needWalk f mov part asid root va cls s) := by
  unfold Chip.needWalk
  dsimp only
  repeat' first
      | with_reducible assumption | intro _ | with_reducible apply Chip.updWalk_ok | with_reducible apply Chip.nextWalk_ok
      | with_reducible apply foldl_ok | split
  all_goals grind [Chip.updWalk_ok, Chip.nextWalk_ok, Chip.Ok, foldl_ok]

theorem Chip.startWalk_ok (c : ℕ) (req : WalkReq) {s : Chip} (h : s.Ok b) : Chip.Ok b (Chip.startWalk c req s) := by
  unfold Chip.startWalk
  grind [Chip.waitFor_ok, Chip.needWalk_ok, Chip.updCtx_ok, Chip.Ok, foldl_ok]

theorem Chip.leaveWalk_ok (f : WalkFor) {s : Chip} (h : s.Ok b) : Chip.Ok b (Chip.leaveWalk f s) := h

theorem Chip.portFails_ok (c : ℕ) (rep : Report) {s : Chip} (h : s.Ok b) : Chip.Ok b (Chip.portFails c rep s) := by
  unfold Chip.portFails
  grind [Chip.report_ok, Chip.updCtx_ok, Chip.Ok, foldl_ok]

theorem Chip.dropFill_ok (id : ℕ) {s : Chip} (h : s.Ok b) : Chip.Ok b (Chip.dropFill id s) := h

theorem Chip.endWalk_ok (w : PWalk) {s : Chip} (h : s.Ok b) : Chip.Ok b (Chip.endWalk w s) := by
  unfold Chip.endWalk
  dsimp only
  repeat' first
      | with_reducible assumption | intro _ | with_reducible apply Chip.dropWalk_ok | with_reducible apply Chip.install_ok
      | with_reducible apply foldl_ok | split

theorem Chip.invalidate_ok (scope : ℕ) (part : ℕ) (asid : BitVec 16) {s : Chip} (h : s.Ok b) : Chip.Ok b (Chip.invalidate scope part asid s) := by
  unfold Chip.invalidate
  dsimp only
  repeat' first
      | with_reducible assumption | intro _ | with_reducible apply Chip.updMov_ok | with_reducible apply Chip.updCtx_ok
      | with_reducible apply foldl_ok | split | with_reducible apply ok_lit

theorem trInv_ok (scope : ℕ) (part : ℕ) (asid : BitVec 16) {a3 : Chip} (h : a3.Ok b) : Chip.Ok b (trInv scope part asid a3) := by
  unfold trInv
  grind [Chip.accept_ok, Chip.answer_ok, Chip.invalidate_ok, Chip.Ok, foldl_ok]

theorem invalidationComplete_ok {s : Chip} (h : s.Ok b) : Chip.Ok b (invalidationComplete s) := by
  unfold invalidationComplete
  grind [Chip.Ok, foldl_ok]

theorem Chip.staleRing_ok (kind : ReqKind) {s : Chip} (h : s.Ok b) : Chip.Ok b (Chip.staleRing kind s) := h

theorem Chip.ringWrite_ok (b1 : ℕ) (r : ℕ) (kind : ReqKind) (v : Word) {s : Chip} (h : s.Ok b) : Chip.Ok b (Chip.ringWrite b1 r kind v s) := by
  unfold Chip.ringWrite
  dsimp only
  repeat' first
      | with_reducible assumption | intro _ | with_reducible apply Chip.answer_ok | with_reducible apply Chip.setReg_ok
      | with_reducible apply Chip.staleRing_ok | with_reducible apply foldl_ok | split

theorem trqEnable_ok (q : ℕ) (r : ℕ) (v : Word) {a3 : Chip} (h : a3.Ok b) : Chip.Ok b (trqEnable q r v a3) := by
  unfold trqEnable
  grind [Chip.accept_ok, Chip.ringWrite_ok, Chip.answer_ok, Chip.Ok, foldl_ok]

end Sys2Proof.Machine
end

