-- ==== Sys2Proof/Laws/KeepContext.lean ====
section
/-! SUPPORT. Every operation keeps the tables of the block canonical and its build as it is: issue, control instructions, context commands.

`f_ok` says of the operation `f`: from a block with `Chip.Ok b` it gives one with `Chip.Ok b`. -/

set_option Elab.async false
set_option linter.unusedTactic false
set_option linter.unreachableTactic false

namespace Sys2Proof.Machine

variable {b : Build}

/-! ### `Machine/Issue.lean` -/

theorem Chip.setCur_ok (m : ℕ) (k : ℕ) {s : Chip} (h : s.Ok b) : Chip.Ok b (Chip.setCur m k s) := by
  unfold Chip.setCur
  dsimp only
  repeat' first
      | with_reducible assumption | intro _ | with_reducible apply Chip.updMov_ok | with_reducible apply Chip.updCtx_ok
      | with_reducible apply foldl_ok | split

theorem moverSwitch_ok (m : ℕ) {s : Chip} (h : s.Ok b) : Chip.Ok b (moverSwitch m s) := by
  unfold moverSwitch
  grind [Chip.setCur_ok, Chip.Ok, foldl_ok]

theorem Chip.passOn_ok (m : ℕ) {s : Chip} (h : s.Ok b) : Chip.Ok b (Chip.passOn m s) := by
  unfold Chip.passOn
  grind [Chip.setCur_ok, Chip.Ok, foldl_ok]

theorem timesliceExpiry_ok (m : ℕ) {s : Chip} (h : s.Ok b) : Chip.Ok b (timesliceExpiry m s) := by
  unfold timesliceExpiry
  grind [Chip.passOn_ok, Chip.Ok, foldl_ok]

theorem starvationPromote_ok (c : ℕ) {s : Chip} (h : s.Ok b) : Chip.Ok b (starvationPromote c s) := by
  unfold starvationPromote
  grind [Chip.updCtx_ok, Chip.Ok, foldl_ok]

theorem Chip.useRd_ok (m : ℕ) {s : Chip} (h : s.Ok b) : Chip.Ok b (Chip.useRd m s) := by
  unfold Chip.useRd
  grind [Chip.updMov_ok, Chip.Ok, foldl_ok]

theorem Chip.useWr_ok (m : ℕ) {s : Chip} (h : s.Ok b) : Chip.Ok b (Chip.useWr m s) := by
  unfold Chip.useWr
  grind [Chip.updMov_ok, Chip.Ok, foldl_ok]

theorem Chip.useRm_ok (m : ℕ) {s : Chip} (h : s.Ok b) : Chip.Ok b (Chip.useRm m s) := by
  unfold Chip.useRm
  grind [Chip.updMov_ok, Chip.Ok, foldl_ok]

theorem Chip.askLine_ok (m : ℕ) (f : ICFill) (pa : ℕ) (p : Place) (l : Leaf) {s : Chip} (h : s.Ok b) : Chip.Ok b (Chip.askLine m f pa p l s) := by
  unfold Chip.askLine
  dsimp only
  repeat' first
      | with_reducible assumption | intro _ | with_reducible apply Chip.enq_ok | with_reducible apply Chip.updMov_ok
      | with_reducible apply Chip.useRd_ok | with_reducible apply foldl_ok | split

theorem Chip.dropLine_ok (m : ℕ) (f : ICFill) {s : Chip} (h : s.Ok b) : Chip.Ok b (Chip.dropLine m f s) := by
  unfold Chip.dropLine
  grind [Chip.updMov_ok, Chip.Ok, foldl_ok]

theorem Chip.lineGo_ok (m : ℕ) (own : Option Leaf) (f : ICFill) {s : Chip} (h : s.Ok b) : Chip.Ok b (Chip.lineGo m own f s) := by
  unfold Chip.lineGo
  dsimp only
  repeat' first
      | with_reducible assumption | intro _ | with_reducible apply Chip.dropLine_ok | with_reducible apply Chip.tlbTouch_ok
      | with_reducible apply Chip.needWalk_ok | with_reducible apply Chip.askLine_ok | with_reducible apply foldl_ok | split

theorem Chip.linesGo_ok (m : ℕ) {s : Chip} (h : s.Ok b) : Chip.Ok b (Chip.linesGo m s) := by
  unfold Chip.linesGo
  grind [Chip.lineGo_ok, Chip.Ok, foldl_ok]

theorem Chip.nextLine_ok (c : ℕ) {s : Chip} (h : s.Ok b) : Chip.Ok b (Chip.nextLine c s) := by
  unfold Chip.nextLine
  dsimp only
  repeat' first
      | with_reducible assumption | intro _ | with_reducible apply Chip.lineGo_ok | with_reducible apply Chip.updMov_ok
      | with_reducible apply foldl_ok | split

theorem Chip.icTouch_ok (c : ℕ) {s : Chip} (h : s.Ok b) : Chip.Ok b (Chip.icTouch c s) := by
  unfold Chip.icTouch
  grind [Chip.nextLine_ok, Chip.updMov_ok, Chip.Ok, foldl_ok]

theorem Chip.fetchMiss_ok (c : ℕ) {s : Chip} (h : s.Ok b) : Chip.Ok b (Chip.fetchMiss c s) := by
  unfold Chip.fetchMiss
  dsimp only
  repeat' first
      | with_reducible assumption | intro _ | with_reducible apply Chip.waitFor_ok | with_reducible apply Chip.askLine_ok
      | with_reducible apply Chip.lookTouch_ok | with_reducible apply Chip.startWalk_ok | with_reducible apply Chip.trFault_ok
      | with_reducible apply foldl_ok | split

theorem Chip.issue_ok (c : ℕ) (sel : Word → Bool) (enc : Word → Bool) (ctr : Word → Option ℕ) (body : Word → Chip → Chip) {s : Chip}
    (hbody : ∀ y0 t, t.Ok b → Chip.Ok b (body y0 t)) (h : s.Ok b) :
    Chip.Ok b (Chip.issue c sel enc ctr body s) := by
  unfold Chip.issue
  dsimp only
  repeat' first
      | with_reducible assumption | intro _ | with_reducible apply Chip.fetchMiss_ok | with_reducible apply Chip.updCtx_ok
      | with_reducible apply Chip.icTouch_ok | with_reducible apply Chip.ownFault_ok | with_reducible apply Chip.retireTo_ok
      | with_reducible apply hbody | with_reducible apply foldl_ok | split

theorem Chip.landLine_ok (m : ℕ) (f : ICFill) (d : Granule) {s : Chip} (h : s.Ok b) : Chip.Ok b (Chip.landLine m f d s) := by
  unfold Chip.landLine
  dsimp only
  repeat' first
      | with_reducible assumption | intro _ | with_reducible apply Chip.updMov_ok | with_reducible apply Chip.dropLine_ok
      | with_reducible apply Chip.wake_ok | with_reducible apply foldl_ok | split

theorem Chip.leaveLines_ok (c : ℕ) {s : Chip} (h : s.Ok b) : Chip.Ok b (Chip.leaveLines c s) := by
  unfold Chip.leaveLines
  dsimp only
  repeat' first
      | with_reducible assumption | intro _ | with_reducible apply Chip.updMov_ok | with_reducible apply Chip.dropLine_ok
      | with_reducible apply Chip.leaveWalk_ok | with_reducible apply foldl_ok | split
  all_goals grind [Chip.updMov_ok, Chip.dropLine_ok, Chip.leaveWalk_ok, Chip.Ok, foldl_ok]

theorem Chip.lineFails_ok (m : ℕ) (f : ICFill) (x : FillDone) {s : Chip} (h : s.Ok b) : Chip.Ok b (Chip.lineFails m f x s) := by
  unfold Chip.lineFails
  dsimp only
  repeat' first
      | with_reducible assumption | intro _ | with_reducible apply Chip.portFails_ok | with_reducible apply Chip.dropLine_ok
      | with_reducible apply foldl_ok | split

theorem ifetchFill_ok (c m line : ℕ) {s : Chip} (h : s.Ok b) : Chip.Ok b (ifetchFill c m line s) := by
  unfold ifetchFill
  dsimp only
  repeat' first
      | with_reducible assumption | intro _ | with_reducible apply Chip.dropFill_ok | with_reducible apply Chip.enq_ok
      | with_reducible apply Chip.updMov_ok | with_reducible apply Chip.useRd_ok | with_reducible apply Chip.landLine_ok
      | with_reducible apply Chip.lineFails_ok | with_reducible apply foldl_ok | split

theorem Chip.icInvalidate_ok (m : ℕ) (which : BitVec 16 → Bool) {s : Chip} (h : s.Ok b) : Chip.Ok b (Chip.icInvalidate m which s) := by
  unfold Chip.icInvalidate
  grind [Chip.updMov_ok, Chip.Ok, foldl_ok]

theorem invall_ok (m : ℕ) {a1 : Chip} (h : a1.Ok b) : Chip.Ok b (invall m a1) := by
  unfold invall
  grind [Chip.accept_ok, Chip.answer_ok, Chip.icInvalidate_ok, Chip.Ok, foldl_ok]

theorem invasid_ok (m : ℕ) (asid : BitVec 16) {a2 : Chip} (h : a2.Ok b) : Chip.Ok b (invasid m asid a2) := by
  unfold invasid
  grind [Chip.accept_ok, Chip.answer_ok, Chip.icInvalidate_ok, Chip.Ok, foldl_ok]

/-! ### `Machine/Control.lean` -/

theorem Chip.retireNext_ok (c : ℕ) {s : Chip} (h : s.Ok b) : Chip.Ok b (Chip.retireNext c s) := by
  unfold Chip.retireNext
  grind [Chip.retireTo_ok, Chip.Ok, foldl_ok]

theorem Chip.retireWith_ok (c : ℕ) (f : Ctx → Ctx) {s : Chip} (h : s.Ok b) : Chip.Ok b (Chip.retireWith c f s) := by
  unfold Chip.retireWith
  grind [Chip.retireNext_ok, Chip.updCtx_ok, Chip.Ok, foldl_ok]

theorem Chip.issueS_ok (c : ℕ) (o : ℕ) (enc : Word → Bool) (body : Word → Chip → Chip) {s : Chip}
    (hbody : ∀ y0 t, t.Ok b → Chip.Ok b (body y0 t)) (h : s.Ok b) :
    Chip.Ok b (Chip.issueS c o enc body s) := by
  unfold Chip.issueS
  grind [Chip.issue_ok, Chip.Ok, foldl_ok]

theorem Chip.releaseStg_ok (c : ℕ) {s : Chip} (h : s.Ok b) : Chip.Ok b (Chip.releaseStg c s) := by
  unfold Chip.releaseStg
  dsimp only
  repeat' first
      | with_reducible assumption | intro _ | with_reducible apply Chip.updCtx_ok | with_reducible apply Chip.bump_ok
      | with_reducible apply foldl_ok | split

theorem Chip.toBound_ok (c : ℕ) (exit : ℕ) {s : Chip} (h : s.Ok b) : Chip.Ok b (Chip.toBound c exit s) := by
  unfold Chip.toBound
  dsimp only
  repeat' first
      | with_reducible assumption | intro _ | with_reducible apply Chip.updCtx_ok | with_reducible apply Chip.releaseStg_ok
      | with_reducible apply Chip.yieldMover_ok | with_reducible apply Chip.raise_ok | with_reducible apply Chip.setSt_ok
      | with_reducible apply foldl_ok | split

theorem nop_ok (c : ℕ) {a1 : Chip} (h : a1.Ok b) : Chip.Ok b (nop c a1) := by
  unfold nop
  grind [Chip.issueS_ok, Chip.retireNext_ok, Chip.Ok, foldl_ok]

theorem Chip.haltRetire_ok (c : ℕ) {s : Chip} (h : s.Ok b) : Chip.Ok b (Chip.haltRetire c s) := by
  unfold Chip.haltRetire
  grind [Chip.toBound_ok, Chip.retireNext_ok, Chip.updCtx_ok, Chip.Ok, foldl_ok]

theorem halt_ok (c : ℕ) {a1 : Chip} (h : a1.Ok b) : Chip.Ok b (halt c a1) := by
  unfold halt
  grind [Chip.issueS_ok, Chip.haltRetire_ok, Chip.waitFor_ok, Chip.updCtx_ok, Chip.Ok, foldl_ok]

theorem haltDrainDone_ok (c : ℕ) {s : Chip} (h : s.Ok b) : Chip.Ok b (haltDrainDone c s) := by
  unfold haltDrainDone
  dsimp only
  repeat' (first | with_reducible assumption | intro _ | with_reducible apply Chip.haltRetire_ok | with_reducible apply foldl_ok | split)

theorem yield_ok (c : ℕ) {a1 : Chip} (h : a1.Ok b) : Chip.Ok b (yield c a1) := by
  unfold yield
  grind [Chip.issueS_ok, Chip.passOn_ok, Chip.retireNext_ok, Chip.Ok, foldl_ok]

theorem jmp_ok (c : ℕ) {a1 : Chip} (h : a1.Ok b) : Chip.Ok b (jmp c a1) := by
  unfold jmp
  grind [Chip.issueS_ok, Chip.retireTo_ok, Chip.Ok, foldl_ok]

theorem br_ok (c : ℕ) {a1 : Chip} (h : a1.Ok b) : Chip.Ok b (br c a1) := by
  unfold br
  grind [Chip.issueS_ok, Chip.retireTo_ok, Chip.Ok, foldl_ok]

theorem call_ok (c : ℕ) {a1 : Chip} (h : a1.Ok b) : Chip.Ok b (call c a1) := by
  unfold call
  dsimp only
  repeat' first
      | with_reducible assumption | intro _ | with_reducible apply Chip.issueS_ok | with_reducible apply Chip.retireTo_ok
      | with_reducible apply Chip.updCtx_ok | with_reducible apply foldl_ok | split

theorem ret_ok (c : ℕ) {a1 : Chip} (h : a1.Ok b) : Chip.Ok b (ret c a1) := by
  unfold ret
  grind [Chip.issueS_ok, Chip.retireTo_ok, Chip.Ok, foldl_ok]

theorem loop_ok (c : ℕ) {a1 : Chip} (h : a1.Ok b) : Chip.Ok b (loop c a1) := by
  unfold loop
  dsimp only
  repeat' first
      | with_reducible assumption | intro _ | with_reducible apply Chip.issueS_ok | with_reducible apply Chip.retireTo_ok
      | with_reducible apply Chip.ownFault_ok | with_reducible apply Chip.retireWith_ok | with_reducible apply foldl_ok | split

theorem endl_ok (c : ℕ) {a1 : Chip} (h : a1.Ok b) : Chip.Ok b (endl c a1) := by
  unfold endl
  dsimp only
  repeat' first
      | with_reducible assumption | intro _ | with_reducible apply Chip.issueS_ok | with_reducible apply Chip.ownFault_ok
      | with_reducible apply Chip.retireWith_ok | with_reducible apply Chip.retireTo_ok | with_reducible apply Chip.updCtx_ok
      | with_reducible apply foldl_ok | split

theorem sli_ok (c : ℕ) {a1 : Chip} (h : a1.Ok b) : Chip.Ok b (sli c a1) := by
  unfold sli
  grind [Chip.issueS_ok, Chip.retireWith_ok, Chip.Ok, foldl_ok]

theorem slih_ok (c : ℕ) {a1 : Chip} (h : a1.Ok b) : Chip.Ok b (slih c a1) := by
  unfold slih
  grind [Chip.issueS_ok, Chip.retireWith_ok, Chip.Ok, foldl_ok]

theorem scalarOp_ok (c : ℕ) (o : ℕ) (f : Word → Word → Word) {a3 : Chip} (h : a3.Ok b) : Chip.Ok b (scalarOp c o f a3) := by
  unfold scalarOp
  grind [Chip.issueS_ok, Chip.retireWith_ok, Chip.Ok, foldl_ok]

theorem sshr_ok (c : ℕ) {a1 : Chip} (h : a1.Ok b) : Chip.Ok b (sshr c a1) := by
  unfold sshr
  dsimp only
  repeat' first
      | with_reducible assumption | intro _ | with_reducible apply Chip.issueS_ok | with_reducible apply Chip.retireWith_ok
      | with_reducible apply foldl_ok | split

theorem scmp_ok (c : ℕ) {a1 : Chip} (h : a1.Ok b) : Chip.Ok b (scmp c a1) := by
  unfold scmp
  grind [Chip.issueS_ok, Chip.retireWith_ok, Chip.Ok, foldl_ok]

theorem ssel_ok (c : ℕ) {a1 : Chip} (h : a1.Ok b) : Chip.Ok b (ssel c a1) := by
  unfold ssel
  grind [Chip.issueS_ok, Chip.retireWith_ok, Chip.Ok, foldl_ok]

theorem Chip.useShare_ok (c : ℕ) (write : Bool) {s : Chip} (h : s.Ok b) : Chip.Ok b (Chip.useShare c write s) := by
  unfold Chip.useShare
  grind [Chip.useWr_ok, Chip.useRd_ok, Chip.Ok, foldl_ok]

theorem Chip.scalarGo_ok (c : ℕ) (a : ScalarAcc) {s : Chip} (h : s.Ok b) : Chip.Ok b (Chip.scalarGo c a s) := by
  unfold Chip.scalarGo
  dsimp only
  repeat' first
      | with_reducible assumption | intro _ | with_reducible apply Chip.waitFor_ok | with_reducible apply Chip.updCtx_ok
      | with_reducible apply Chip.useShare_ok | with_reducible apply Chip.lookTouch_ok | with_reducible apply Chip.enq_ok
      | with_reducible apply Chip.startWalk_ok | with_reducible apply Chip.trFault_ok | with_reducible apply foldl_ok | split
      | with_reducible apply ok_lit

theorem Chip.scalarMem_ok (c : ℕ) (op : ScalarOp) (size : ℕ) (reg : ℕ) (sext : Bool) (w : Word) {s : Chip} (h : s.Ok b) :
    Chip.Ok b (Chip.scalarMem c op size reg sext w s) := by
  unfold Chip.scalarMem
  dsimp only
  repeat' first
      | with_reducible assumption | intro _ | with_reducible apply Chip.ownFault_ok | with_reducible apply Chip.scalarGo_ok
      | with_reducible apply foldl_ok | split

theorem sld_ok (c : ℕ) {a1 : Chip} (h : a1.Ok b) : Chip.Ok b (sld c a1) := by
  unfold sld
  grind [Chip.issueS_ok, Chip.scalarMem_ok, Chip.Ok, foldl_ok]

theorem sst_ok (c : ℕ) {a1 : Chip} (h : a1.Ok b) : Chip.Ok b (sst c a1) := by
  unfold sst
  grind [Chip.issueS_ok, Chip.scalarMem_ok, Chip.Ok, foldl_ok]

theorem ldtd_ok (c : ℕ) {a1 : Chip} (h : a1.Ok b) : Chip.Ok b (ldtd c a1) := by
  unfold ldtd
  grind [Chip.issueS_ok, Chip.scalarMem_ok, Chip.Ok, foldl_ok]

theorem sttd_ok (c : ℕ) {a1 : Chip} (h : a1.Ok b) : Chip.Ok b (sttd c a1) := by
  unfold sttd
  grind [Chip.issueS_ok, Chip.scalarMem_ok, Chip.Ok, foldl_ok]

theorem Chip.lostFault_ok (c : ℕ) {s : Chip} (h : s.Ok b) : Chip.Ok b (Chip.lostFault c s) := by
  unfold Chip.lostFault
  grind [Chip.ownFault_ok, Chip.Ok, foldl_ok]

theorem scalarmemComplete_ok (c va size : ℕ) {s : Chip} (h : s.Ok b) : Chip.Ok b (scalarmemComplete c va size s) := by
  unfold scalarmemComplete
  dsimp only
  repeat' first
      | with_reducible assumption | intro _ | with_reducible apply Chip.updCtx_ok | with_reducible apply Chip.dropFill_ok
      | with_reducible apply Chip.portFails_ok | with_reducible apply Chip.wake_ok | with_reducible apply Chip.retireNext_ok
      | with_reducible apply Chip.lostFault_ok | with_reducible apply foldl_ok | split

theorem tdset_ok (c : ℕ) {a1 : Chip} (h : a1.Ok b) : Chip.Ok b (tdset c a1) := by
  unfold tdset
  dsimp only
  repeat' first
      | with_reducible assumption | intro _ | with_reducible apply Chip.issueS_ok | with_reducible apply Chip.retireWith_ok
      | with_reducible apply foldl_ok | split

theorem tdget_ok (c : ℕ) {a1 : Chip} (h : a1.Ok b) : Chip.Ok b (tdget c a1) := by
  unfold tdget
  dsimp only
  repeat' first
      | with_reducible assumption | intro _ | with_reducible apply Chip.issueS_ok | with_reducible apply Chip.retireWith_ok
      | with_reducible apply foldl_ok | split

theorem ksig_ok (c : ℕ) {a1 : Chip} (h : a1.Ok b) : Chip.Ok b (ksig c a1) := by
  unfold ksig
  grind [Chip.issue_ok, Chip.retireNext_ok, Chip.ksUpdate_ok, Chip.Ok, foldl_ok]

theorem kwait_ok (c : ℕ) {a1 : Chip} (h : a1.Ok b) : Chip.Ok b (kwait c a1) := by
  unfold kwait
  dsimp only
  repeat' first
      | with_reducible assumption | intro _ | with_reducible apply Chip.issue_ok | with_reducible apply Chip.retireWith_ok
      | with_reducible apply Chip.waitFor_ok | with_reducible apply Chip.updCtx_ok | with_reducible apply foldl_ok | split

theorem Chip.applyDrainSig_ok (d : Option (ℕ × BitVec 48)) {s : Chip} (h : s.Ok b) : Chip.Ok b (Chip.applyDrainSig d s) := by
  unfold Chip.applyDrainSig
  grind [Chip.ksUpdate_ok, Chip.Ok, foldl_ok]

theorem kdrain_ok (c : ℕ) {a1 : Chip} (h : a1.Ok b) : Chip.Ok b (kdrain c a1) := by
  unfold kdrain
  dsimp only
  repeat' first
      | with_reducible assumption | intro _ | with_reducible apply Chip.issue_ok | with_reducible apply Chip.retireNext_ok
      | with_reducible apply Chip.applyDrainSig_ok | with_reducible apply Chip.waitFor_ok | with_reducible apply Chip.updCtx_ok
      | with_reducible apply foldl_ok | split

theorem kdrainDone_ok (c : ℕ) {s : Chip} (h : s.Ok b) : Chip.Ok b (kdrainDone c s) := by
  unfold kdrainDone
  dsimp only
  repeat' first
      | with_reducible assumption | intro _ | with_reducible apply Chip.wake_ok | with_reducible apply Chip.retireNext_ok
      | with_reducible apply Chip.updCtx_ok | with_reducible apply Chip.applyDrainSig_ok | with_reducible apply foldl_ok | split

theorem intr_ok (c : ℕ) {a1 : Chip} (h : a1.Ok b) : Chip.Ok b (intr c a1) := by
  unfold intr
  grind [Chip.issue_ok, Chip.raise_ok, Chip.retireNext_ok, Chip.Ok, foldl_ok]

theorem kread_ok (c : ℕ) {a1 : Chip} (h : a1.Ok b) : Chip.Ok b (kread c a1) := by
  unfold kread
  grind [Chip.issue_ok, Chip.retireWith_ok, Chip.Ok, foldl_ok]

/-! ### `Machine/Context.lean` -/

theorem Chip.refuse_ok (code : ℕ) {s : Chip} (h : s.Ok b) : Chip.Ok b (Chip.refuse code s) := by
  unfold Chip.refuse
  grind [Chip.answer_ok, Chip.report_ok, Chip.Ok, foldl_ok]

theorem Chip.ctxOk_ok (c : ℕ) {s : Chip} (h : s.Ok b) : Chip.Ok b (Chip.ctxOk c s) := by
  unfold Chip.ctxOk
  grind [Chip.answer_ok, Chip.updCtx_ok, Chip.Ok, foldl_ok]

theorem Chip.command_ok (c : ℕ) (ok : Ctx → Bool) (body : Chip → Chip) {a3 : Chip} (hbody : ∀ t, t.Ok b → Chip.Ok b (body t)) (h : a3.Ok b) :
    Chip.Ok b (Chip.command c ok body a3) := by
  unfold Chip.command
  dsimp only
  repeat' first
      | with_reducible assumption | intro _ | with_reducible apply Chip.accept_ok | with_reducible apply Chip.answer_ok
      | with_reducible apply Chip.refuse_ok | with_reducible apply hbody | with_reducible apply foldl_ok | split

theorem Chip.takeSlot_ok (c : ℕ) (m : ℕ) (w : ℕ) {s : Chip} (h : s.Ok b) : Chip.Ok b (Chip.takeSlot c m w s) := by
  unfold Chip.takeSlot
  dsimp only
  repeat' first
      | with_reducible assumption | intro _ | with_reducible apply Chip.updMov_ok | with_reducible apply Chip.updCtx_ok
      | with_reducible apply foldl_ok | split | with_reducible apply ok_lit

theorem bind_ok (c : ℕ) {a1 : Chip} (h : a1.Ok b) : Chip.Ok b (bind c a1) := by
  unfold bind
  grind [Chip.command_ok, Chip.refuse_ok, Chip.ctxOk_ok, Chip.updCtx_ok, Chip.takeSlot_ok, Chip.Ok, foldl_ok]

theorem Chip.muteWork_ok (c : ℕ) {s : Chip} (h : s.Ok b) : Chip.Ok b (Chip.muteWork c s) := by
  unfold Chip.muteWork
  dsimp only
  repeat' (first | with_reducible assumption | intro _ | with_reducible apply Chip.updCtx_ok | with_reducible apply foldl_ok | split)
  all_goals grind [Chip.updCtx_ok, Chip.Ok, foldl_ok]

theorem Chip.startAbort_ok (c : ℕ) (cause : AbortCause) {s : Chip} (h : s.Ok b) : Chip.Ok b (Chip.startAbort c cause s) := by
  unfold Chip.startAbort
  dsimp only
  repeat' first
      | with_reducible assumption | intro _ | with_reducible apply Chip.updCtx_ok | with_reducible apply Chip.muteWork_ok
      | with_reducible apply Chip.leaveLines_ok | with_reducible apply Chip.yieldMover_ok | with_reducible apply Chip.setSt_ok
      | with_reducible apply foldl_ok | split | with_reducible apply ok_lit

theorem Chip.hostAbort_ok (c : ℕ) {s : Chip} (h : s.Ok b) : Chip.Ok b (Chip.hostAbort c s) := by
  unfold Chip.hostAbort
  grind [Chip.request_ok, Chip.startAbort_ok, Chip.Ok, foldl_ok]

theorem Chip.busyEnd_ok (c : ℕ) {s : Chip} (h : s.Ok b) : Chip.Ok b (Chip.busyEnd c s) := by
  unfold Chip.busyEnd
  dsimp only
  repeat' first
      | with_reducible assumption | intro _ | with_reducible apply Chip.updCtx_ok | with_reducible apply Chip.hostAbort_ok
      | with_reducible apply foldl_ok | split

theorem bindComplete_ok (c : ℕ) {s : Chip} (h : s.Ok b) : Chip.Ok b (bindComplete c s) := by
  unfold bindComplete
  dsimp only
  repeat' first
      | with_reducible assumption | intro _ | with_reducible apply Chip.busyEnd_ok | with_reducible apply Chip.setSt_ok
      | with_reducible apply foldl_ok | split

theorem unbind_ok (c : ℕ) {a1 : Chip} (h : a1.Ok b) : Chip.Ok b (unbind c a1) := by
  unfold unbind
  grind [Chip.command_ok, Chip.ctxOk_ok, Chip.updCtx_ok, Chip.Ok, foldl_ok]

theorem Chip.freeSlotOf_ok (c : ℕ) {s : Chip} (h : s.Ok b) : Chip.Ok b (Chip.freeSlotOf c s) := by
  unfold Chip.freeSlotOf
  dsimp only
  repeat' first
      | with_reducible assumption | intro _ | with_reducible apply Chip.yieldMover_ok | with_reducible apply Chip.updCtx_ok
      | with_reducible apply Chip.updMov_ok | with_reducible apply foldl_ok | split

theorem unbindComplete_ok (c : ℕ) {s : Chip} (h : s.Ok b) : Chip.Ok b (unbindComplete c s) := by
  unfold unbindComplete
  dsimp only
  repeat' first
      | with_reducible assumption | intro _ | with_reducible apply Chip.freeSlotOf_ok | with_reducible apply Chip.releaseStg_ok
      | with_reducible apply Chip.busyEnd_ok | with_reducible apply Chip.setSt_ok | with_reducible apply foldl_ok | split

theorem start_ok (c : ℕ) {a1 : Chip} (h : a1.Ok b) : Chip.Ok b (start c a1) := by
  unfold start
  grind [Chip.command_ok, Chip.ctxOk_ok, Chip.setSt_ok, Chip.updCtx_ok, Chip.Ok, foldl_ok]

theorem Chip.stopNow_ok (c : ℕ) {s : Chip} (h : s.Ok b) : Chip.Ok b (Chip.stopNow c s) := by
  unfold Chip.stopNow
  grind [Chip.toBound_ok, Chip.updCtx_ok, Chip.Ok, foldl_ok]

theorem Chip.disown_ok (c : ℕ) {s : Chip} (h : s.Ok b) : Chip.Ok b (Chip.disown c s) := h

theorem stop_ok (c : ℕ) {a1 : Chip} (h : a1.Ok b) : Chip.Ok b (stop c a1) := by
  unfold stop
  dsimp only
  repeat' first
      | with_reducible assumption | intro _ | with_reducible apply Chip.command_ok | with_reducible apply Chip.ctxOk_ok
      | with_reducible apply Chip.stopNow_ok | with_reducible apply Chip.disown_ok | with_reducible apply Chip.updCtx_ok
      | with_reducible apply foldl_ok | split

theorem stopEffect_ok (c : ℕ) {s : Chip} (h : s.Ok b) : Chip.Ok b (stopEffect c s) := by
  unfold stopEffect
  dsimp only
  repeat' (first | with_reducible assumption | intro _ | with_reducible apply Chip.stopNow_ok | with_reducible apply foldl_ok | split)

theorem abort_ok (c : ℕ) {a1 : Chip} (h : a1.Ok b) : Chip.Ok b (abort c a1) := by
  unfold abort
  dsimp only
  repeat' first
      | with_reducible assumption | intro _ | with_reducible apply Chip.accept_ok | with_reducible apply Chip.answer_ok
      | with_reducible apply Chip.refuse_ok | with_reducible apply Chip.ctxOk_ok | with_reducible apply Chip.updCtx_ok
      | with_reducible apply Chip.hostAbort_ok | with_reducible apply foldl_ok | split

theorem clear_ok (c : ℕ) {a1 : Chip} (h : a1.Ok b) : Chip.Ok b (clear c a1) := by
  unfold clear
  grind [Chip.command_ok, Chip.ctxOk_ok, Chip.setSt_ok, Chip.Ok, foldl_ok]

theorem Chip.burstWrite_ok (pa : ℕ) (bs : List Byte) (ok : ℕ → Bool) {s : Chip} (h : s.Ok b) : Chip.Ok b (Chip.burstWrite pa bs ok s) := by
  unfold Chip.burstWrite
  grind [Chip.bypassWrite_ok, Chip.Ok, foldl_ok]

theorem Chip.cmdFailed_ok (c : ℕ) {s : Chip} (h : s.Ok b) : Chip.Ok b (Chip.cmdFailed c s) := by
  unfold Chip.cmdFailed
  grind [Chip.busyEnd_ok, Chip.updCtx_ok, Chip.Ok, foldl_ok]

theorem Chip.imageReqs_ok (c : ℕ) (write : Bool) (bs : List Byte) {s : Chip} (h : s.Ok b) : ∀ z, Chip.imageReqs c write bs s = some z → z.Ok b := by
  unfold Chip.imageReqs
  refine bind_foldl_ok (fun u v k hu e => ?_) ?_
  · simp only [Option.map_eq_some_iff] at e
    obtain ⟨p, _, rfl⟩ := e
    exact Chip.enq_ok _ hu
  · intro t e; cases e; exact h

theorem Chip.moveImage_ok (c : ℕ) (write : Bool) (bs : List Byte) {s : Chip} (h : s.Ok b) : Chip.Ok b (Chip.moveImage c write bs s) := by
  unfold Chip.moveImage
  grind [Chip.imageReqs_ok, Chip.report_ok, Chip.cmdFailed_ok, Chip.Ok, foldl_ok]

theorem Chip.imageGo_ok (c : ℕ) {s : Chip} (h : s.Ok b) : Chip.Ok b (Chip.imageGo c s) := by
  unfold Chip.imageGo
  grind [Chip.moveImage_ok, Chip.Ok, foldl_ok]

theorem loadregs_ok (c : ℕ) {a1 : Chip} (h : a1.Ok b) : Chip.Ok b (loadregs c a1) := by
  unfold loadregs
  grind [Chip.command_ok, Chip.moveImage_ok, Chip.updCtx_ok, Chip.ctxOk_ok, Chip.Ok, foldl_ok]

theorem saveregs_ok (c : ℕ) {a1 : Chip} (h : a1.Ok b) : Chip.Ok b (saveregs c a1) := by
  unfold saveregs
  dsimp only
  repeat' first
      | with_reducible assumption | intro _ | with_reducible apply Chip.command_ok | with_reducible apply Chip.moveImage_ok
      | with_reducible apply Chip.updCtx_ok | with_reducible apply Chip.ctxOk_ok | with_reducible apply foldl_ok | split
      | with_reducible apply ok_lit

theorem regimageComplete_ok (c p : ℕ) (save : Bool) {s : Chip} (h : s.Ok b) : Chip.Ok b (regimageComplete c p save s) := by
  unfold regimageComplete
  dsimp only
  repeat' first
      | with_reducible assumption | intro _ | with_reducible apply Chip.busyEnd_ok | with_reducible apply Chip.updCtx_ok
      | with_reducible apply Chip.cmdFailed_ok | with_reducible apply foldl_ok | split
  all_goals grind [Chip.busyEnd_ok, Chip.updCtx_ok, Chip.cmdFailed_ok, Chip.Ok, foldl_ok]

theorem ctxWrite_ok (c : ℕ) (r : ℕ) (v : Word) {s : Chip} (h : s.Ok b) : Chip.Ok b (ctxWrite c r v s) := by
  unfold ctxWrite
  dsimp only
  repeat' first
      | with_reducible assumption | intro _ | with_reducible apply Chip.answer_ok | with_reducible apply Chip.setReg_ok
      | with_reducible apply Chip.guarded_ok | with_reducible apply Chip.updCtx_ok | with_reducible apply foldl_ok | split

theorem gangForm_ok (v : Word) {a1 : Chip} (h : a1.Ok b) : Chip.Ok b (gangForm v a1) := by
  unfold gangForm
  dsimp only
  repeat' first
      | with_reducible assumption | intro _ | with_reducible apply Chip.accept_ok | with_reducible apply Chip.answer_ok
      | with_reducible apply Chip.logCtl_ok | with_reducible apply Chip.setReg_ok | with_reducible apply foldl_ok | split

theorem Chip.whenMapped_ok (body : Chip → Chip) {s : Chip} (hbody : ∀ t, t.Ok b → Chip.Ok b (body t)) (h : s.Ok b) :
    Chip.Ok b (Chip.whenMapped body s) := by
  unfold Chip.whenMapped
  grind [Chip.guarded_ok, Chip.Ok, foldl_ok]

theorem partMov_ok (k : ℕ) (v : Word) {a2 : Chip} (h : a2.Ok b) : Chip.Ok b (partMov k v a2) := by
  unfold partMov
  dsimp only
  repeat' first
      | with_reducible assumption | intro _ | with_reducible apply Chip.accept_ok | with_reducible apply Chip.answer_ok
      | with_reducible apply Chip.whenMapped_ok | with_reducible apply Chip.setReg_ok | with_reducible apply foldl_ok | split

theorem ksPart_ok (k : ℕ) (v : Word) {a2 : Chip} (h : a2.Ok b) : Chip.Ok b (ksPart k v a2) := by
  unfold ksPart
  grind [Chip.accept_ok, Chip.answer_ok, Chip.whenMapped_ok, Chip.setReg_ok, Chip.Ok, foldl_ok]

end Sys2Proof.Machine
end

