-- ==== Sys2Proof/Laws/KeepTransfer.lean ====
section
/-! SUPPORT. Every operation keeps the tables of the block canonical and its build as it is: frames, messages, the walk, landing writes, save areas, transfers, combines and row updates.

`f_ok` says of the operation `f`: from a block with `Chip.Ok b` it gives one with `Chip.Ok b`. -/

set_option Elab.async false
set_option linter.unusedTactic false
set_option linter.unreachableTactic false

namespace Sys2Proof.Machine

variable {b : Build}

/-! ### `Machine/Frames.lean` -/

theorem Chip.updPort_ok (n : ℕ) (f : LinkPort → LinkPort) {s : Chip} (h : s.Ok b) : Chip.Ok b (Chip.updPort n f s) := h

theorem Chip.linkReport_ok (n : ℕ) (src : ℕ) {s : Chip} (h : s.Ok b) : Chip.Ok b (Chip.linkReport n src s) := by
  unfold Chip.linkReport
  grind [Chip.report_ok, Chip.Ok, foldl_ok]

theorem Chip.malformed_ok (n : ℕ) {s : Chip} (h : s.Ok b) : Chip.Ok b (Chip.malformed n s) := by
  unfold Chip.malformed
  grind [Chip.linkReport_ok, Chip.bump_ok, Chip.Ok, foldl_ok]

theorem Chip.sendCtl_ok (n : ℕ) (epoch : ℕ) (h1 : BitVec 128) {s : Chip} (h : s.Ok b) : Chip.Ok b (Chip.sendCtl n epoch h1 s) := by
  unfold Chip.sendCtl
  dsimp only
  repeat' (first | with_reducible assumption | intro _ | with_reducible apply Chip.updPort_ok | with_reducible apply foldl_ok | split)

theorem Chip.sendCredit_ok (n : ℕ) {s : Chip} (h : s.Ok b) : Chip.Ok b (Chip.sendCredit n s) := by
  unfold Chip.sendCredit
  dsimp only
  repeat' first
      | with_reducible assumption | intro _ | with_reducible apply Chip.updPort_ok | with_reducible apply Chip.sendCtl_ok
      | with_reducible apply foldl_ok | split

theorem Chip.sendNack_ok (n : ℕ) {s : Chip} (h : s.Ok b) : Chip.Ok b (Chip.sendNack n s) := by
  unfold Chip.sendNack
  dsimp only
  repeat' first
      | with_reducible assumption | intro _ | with_reducible apply Chip.updPort_ok | with_reducible apply Chip.sendCtl_ok
      | with_reducible apply foldl_ok | split

theorem Chip.heardFrom_ok (id : Option ℕ) {s : Chip} (h : s.Ok b) : Chip.Ok b (Chip.heardFrom id s) := h

theorem Chip.sendOne_ok (n : ℕ) (e : EgFrame) {s : Chip} (h : s.Ok b) : Chip.Ok b (Chip.sendOne n e s) := by
  unfold Chip.sendOne
  dsimp only
  repeat' first
      | with_reducible assumption | intro _ | with_reducible apply Chip.heardFrom_ok | with_reducible apply Chip.bump_ok
      | with_reducible apply Chip.updPort_ok | with_reducible apply foldl_ok | split

theorem Chip.linkSend_ok (n : ℕ) (a1 : ℕ) {a2 : Chip} (h : a2.Ok b) : Chip.Ok b (Chip.linkSend n a1 a2) := by
  induction a1 generalizing a2 with
  | zero => exact h
  | succ k ih =>
    unfold Chip.linkSend
    split
    · exact h
    · split <;> [exact ih (Chip.sendOne_ok _ _ h); exact h]

theorem Chip.linkFlush_ok (n : ℕ) {s : Chip} (h : s.Ok b) : Chip.Ok b (Chip.linkFlush n s) := by
  unfold Chip.linkFlush
  grind [Chip.linkSend_ok, Chip.Ok, foldl_ok]

theorem Chip.queueFrame_ok (n : ℕ) (e : EgFrame) {s : Chip} (h : s.Ok b) : Chip.Ok b (Chip.queueFrame n e s) := by
  unfold Chip.queueFrame
  grind [Chip.linkFlush_ok, Chip.updPort_ok, Chip.Ok, foldl_ok]

theorem Chip.engineFrame_ok (ty : ℕ) (cls : ℕ) (part : ℕ) (dst : ℕ) (mtag : ℕ) (route : ℕ) (words : List ℕ) {s : Chip} (h : s.Ok b) :
    Chip.Ok b (Chip.engineFrame ty cls part dst mtag route words s) := by
  unfold Chip.engineFrame
  dsimp only
  repeat' (first | with_reducible assumption | intro _ | with_reducible apply Chip.queueFrame_ok | with_reducible apply foldl_ok | split)

theorem Chip.sendCmpl_ok (cls : ℕ) (part : ℕ) (dst : ℕ) (mtag : ℕ) (route : ℕ) (kind : ℕ) (status : ℕ) (detail : ℕ) (bytes : ℕ) {s : Chip}
    (h : s.Ok b) :
    Chip.Ok b (Chip.sendCmpl cls part dst mtag route kind status detail bytes s) := by
  unfold Chip.sendCmpl
  grind [Chip.engineFrame_ok, Chip.Ok, foldl_ok]

theorem Chip.undetach_ok (c : ℕ) (id : ℕ) {s : Chip} (h : s.Ok b) : Chip.Ok b (Chip.undetach c id s) := by
  unfold Chip.undetach
  grind [Chip.updCtx_ok, Chip.Ok, foldl_ok]

theorem Chip.courseSignals_ok (m : Msg) {s : Chip} (h : s.Ok b) : Chip.Ok b (Chip.courseSignals m s) := by
  unfold Chip.courseSignals
  dsimp only
  repeat' (first | with_reducible assumption | intro _ | with_reducible apply Chip.signal_ok | with_reducible apply foldl_ok | split)
  all_goals grind [Chip.signal_ok, Chip.Ok, foldl_ok]

theorem Chip.finalSignal_ok (m : Msg) (ok : Bool) {s : Chip} (h : s.Ok b) : Chip.Ok b (Chip.finalSignal m ok s) := by
  unfold Chip.finalSignal
  dsimp only
  repeat' first
      | with_reducible assumption | intro _ | with_reducible apply Chip.courseSignals_ok | with_reducible apply Chip.signal_ok
      | with_reducible apply foldl_ok | split

theorem Chip.complRecord_ok (m : Msg) (status : ℕ) (detail : ℕ) {s : Chip} (h : s.Ok b) : Chip.Ok b (Chip.complRecord m status detail s) := by
  unfold Chip.complRecord
  dsimp only
  repeat' (first | with_reducible assumption | intro _ | with_reducible apply Chip.ringPut_ok | with_reducible apply foldl_ok | split)

theorem Chip.delegDone_ok (src : ℕ) (mtag : ℕ) (status : ℕ) (bytes : ℕ) {s : Chip} (h : s.Ok b) :
    Chip.Ok b (Chip.delegDone src mtag status bytes s) := by
  unfold Chip.delegDone
  dsimp only
  repeat' (first | with_reducible assumption | intro _ | with_reducible apply Chip.sendCmpl_ok | with_reducible apply foldl_ok | split)
  all_goals grind [Chip.sendCmpl_ok, Chip.Ok, foldl_ok]

theorem Chip.guestFree_ok (c : ℕ) {s : Chip} (h : s.Ok b) : Chip.Ok b (Chip.guestFree c s) := by
  unfold Chip.guestFree
  grind [Chip.setSt_ok, Chip.updCtx_ok, Chip.yieldMover_ok, Chip.Ok, foldl_ok]

theorem Chip.endLand_ok (l : Land) (status : ℕ) {s : Chip} (h : s.Ok b) : Chip.Ok b (Chip.endLand l status s) := by
  unfold Chip.endLand
  dsimp only
  repeat' (first | with_reducible assumption | intro _ | with_reducible apply Chip.sendCmpl_ok | with_reducible apply foldl_ok | split)
  all_goals grind [Chip.sendCmpl_ok, Chip.Ok, foldl_ok]

theorem Chip.msgEnd_ok (m : Msg) (status : ℕ) (detail : ℕ) {s : Chip} (h : s.Ok b) : Chip.Ok b (Chip.msgEnd m status detail s) := by
  unfold Chip.msgEnd
  dsimp only
  repeat' first
      | with_reducible assumption | intro _ | with_reducible apply Chip.finalSignal_ok | with_reducible apply Chip.complRecord_ok
      | with_reducible apply Chip.bump_ok | with_reducible apply Chip.undetach_ok | with_reducible apply Chip.delegDone_ok
      | with_reducible apply Chip.guestFree_ok | with_reducible apply Chip.endLand_ok | with_reducible apply Chip.engineFrame_ok
      | with_reducible apply foldl_ok | split | with_reducible apply ok_lit

theorem Chip.loseMsgs_ok (ids : List ℕ) (detail : ℕ) {s : Chip} (h : s.Ok b) : Chip.Ok b (Chip.loseMsgs ids detail s) := by
  unfold Chip.loseMsgs
  grind [Chip.msgEnd_ok, Chip.Ok, foldl_ok]

theorem Chip.loseLand_ok (src tag : ℕ) {s : Chip} (h : s.Ok b) : Chip.Ok b (Chip.loseLand src tag s) := by
  unfold Chip.loseLand
  exact ok_lit h

theorem Chip.discarded_ok (locals : List ℕ) (hs : List (BitVec 128)) {s : Chip} (h : s.Ok b) : Chip.Ok b (Chip.discarded locals hs s) := by
  unfold Chip.discarded
  dsimp only
  repeat' first
      | with_reducible assumption | intro _ | with_reducible apply Chip.loseMsgs_ok | with_reducible apply Chip.sendCmpl_ok
      | with_reducible apply Chip.loseLand_ok | with_reducible apply foldl_ok | split
  all_goals grind [Chip.loseMsgs_ok, Chip.sendCmpl_ok, Chip.loseLand_ok, Chip.Ok, foldl_ok]

theorem Chip.countDown_ok (n : ℕ) {s : Chip} (h : s.Ok b) : Chip.Ok b (Chip.countDown n s) := by
  unfold Chip.countDown
  dsimp only
  repeat' first
      | with_reducible assumption | intro _ | with_reducible apply Chip.linkReport_ok | with_reducible apply Chip.raise_ok
      | with_reducible apply Chip.setF_ok | with_reducible apply Chip.updPort_ok | with_reducible apply foldl_ok | split

theorem Chip.portDown_ok (n : ℕ) {s : Chip} (h : s.Ok b) : Chip.Ok b (Chip.portDown n s) := by
  unfold Chip.portDown
  dsimp only
  repeat' first
      | with_reducible assumption | intro _ | with_reducible apply Chip.updPort_ok | with_reducible apply Chip.discarded_ok
      | with_reducible apply Chip.countDown_ok | with_reducible apply Chip.linkReport_ok | with_reducible apply Chip.raise_ok
      | with_reducible apply foldl_ok | split

/-! ### `Machine/Send.lean` -/

theorem Chip.updMsg_ok (id : ℕ) (f : Msg → Msg) {s : Chip} (h : s.Ok b) : Chip.Ok b (Chip.updMsg id f s) := h

theorem Chip.sendFrame_ok (m : Msg) (ty : ℕ) (payload : List Byte) {s : Chip} (h : s.Ok b) : Chip.Ok b (Chip.sendFrame m ty payload s) := by
  unfold Chip.sendFrame
  dsimp only
  repeat' first
      | with_reducible assumption | intro _ | with_reducible apply Chip.queueFrame_ok | with_reducible apply Chip.loseMsgs_ok
      | with_reducible apply foldl_ok | split

theorem Chip.openMsg_ok (m : Msg) {s : Chip} (h : s.Ok b) : Chip.Ok b (Chip.openMsg m s) := h

theorem Chip.frameOut_ok (id : ℕ) (a1 : ℕ) {a2 : Chip} (h : a2.Ok b) : Chip.Ok b (Chip.frameOut id a1 a2) := by
  induction a1 generalizing a2 with
  | zero => exact h
  | succ k ih =>
    unfold Chip.frameOut
    dsimp only
    repeat' first
      | with_reducible assumption | with_reducible apply ih | with_reducible apply Chip.sendFrame_ok | with_reducible apply Chip.useRm_ok
      | with_reducible apply Chip.updMsg_ok | split

theorem Chip.framesOut_ok (id : ℕ) {s : Chip} (h : s.Ok b) : Chip.Ok b (Chip.framesOut id s) := by
  unfold Chip.framesOut
  grind [Chip.frameOut_ok, Chip.Ok, foldl_ok]

theorem Chip.countChunks_ok (old : Option Msg) (id : ℕ) {s : Chip} (h : s.Ok b) : Chip.Ok b (Chip.countChunks old id s) := by
  unfold Chip.countChunks
  dsimp only
  repeat' (first | with_reducible assumption | intro _ | with_reducible apply Chip.bump_ok | with_reducible apply foldl_ok | split)

theorem Chip.feedMsg_ok (id : ℕ) (bs : List Byte) (whole : Bool) {s : Chip} (h : s.Ok b) : Chip.Ok b (Chip.feedMsg id bs whole s) := by
  unfold Chip.feedMsg
  dsimp only
  repeat' first
      | with_reducible assumption | intro _ | with_reducible apply Chip.updMsg_ok | with_reducible apply Chip.framesOut_ok
      | with_reducible apply Chip.countChunks_ok | with_reducible apply foldl_ok | split

theorem Chip.openSend_ok (c : ℕ) (w : Word) (tb : Desc) {s : Chip} (h : s.Ok b) : Chip.Ok b (Chip.openSend c w tb s).1 := by
  unfold Chip.openSend
  intros
  dsimp only at *
  repeat' first
      | with_reducible assumption | intro _ | with_reducible apply Chip.framesOut_ok | with_reducible apply Chip.openMsg_ok
      | with_reducible apply foldl_ok | split

theorem Chip.openDeleg_ok (c : ℕ) (o : XOp) (ops : List Byte) {s : Chip} (h : s.Ok b) : Chip.Ok b (Chip.openDeleg c o ops s).1 := by
  unfold Chip.openDeleg
  intros
  dsimp only at *
  repeat' first
      | with_reducible assumption | intro _ | with_reducible apply Chip.framesOut_ok | with_reducible apply Chip.openMsg_ok
      | with_reducible apply foldl_ok | split

/-! ### `Machine/Walk.lean` -/

theorem Chip.updXfer_ok (c : ℕ) (f : Xfer → Xfer) {s : Chip} (h : s.Ok b) : Chip.Ok b (Chip.updXfer c f s) := by
  unfold Chip.updXfer
  grind [Chip.updCtx_ok, Chip.Ok, foldl_ok]

theorem Chip.count_ok (c : ℕ) (r : ℕ) (lo : ℕ) (n : ℕ) (k : ℕ) {s : Chip} (h : s.Ok b) : Chip.Ok b (Chip.count c r lo n k s) := by
  unfold Chip.count
  grind [Chip.bump_ok, Chip.Ok, foldl_ok]

theorem Chip.holdFault_ok (c : ℕ) (r : Report) {s : Chip} (h : s.Ok b) : Chip.Ok b (Chip.holdFault c r s) := by
  unfold Chip.holdFault
  grind [Chip.updXfer_ok, Chip.Ok, foldl_ok]

theorem Chip.lastFrames_ok (t : Xfer) {s : Chip} (h : s.Ok b) : Chip.Ok b (Chip.lastFrames t s) := by
  unfold Chip.lastFrames
  grind [Chip.framesOut_ok, Chip.feedMsg_ok, Chip.Ok, foldl_ok]

theorem Chip.faultStep_ok (c : ℕ) {s : Chip} (h : s.Ok b) : Chip.Ok b (Chip.faultStep c s) := by
  unfold Chip.faultStep
  dsimp only
  repeat' first
      | with_reducible assumption | intro _ | with_reducible apply Chip.lastFrames_ok | with_reducible apply Chip.report_ok
      | with_reducible apply Chip.updCtx_ok | with_reducible apply Chip.updXfer_ok | with_reducible apply foldl_ok | split

theorem Chip.walkFault_ok (c : ℕ) (code : ℕ) {s : Chip} (h : s.Ok b) : Chip.Ok b (Chip.walkFault c code s) := by
  unfold Chip.walkFault
  grind [Chip.ownFault_ok, Chip.holdFault_ok, Chip.Ok, foldl_ok]

theorem Chip.walkTrFault_ok (c : ℕ) (req : WalkReq) (code : ℕ) (level : ℕ) {s : Chip} (h : s.Ok b) :
    Chip.Ok b (Chip.walkTrFault c req code level s) := by
  unfold Chip.walkTrFault
  dsimp only
  repeat' first
      | with_reducible assumption | intro _ | with_reducible apply Chip.trFault_ok | with_reducible apply Chip.holdFault_ok
      | with_reducible apply foldl_ok | split

theorem Chip.deliver_ok (d : Dest) (g : Granule) {s : Chip} (h : s.Ok b) : Chip.Ok b (Chip.deliver d g s) := by
  unfold Chip.deliver
  dsimp only
  repeat' (first | with_reducible assumption | intro _ | with_reducible apply Chip.updCtx_ok | with_reducible apply foldl_ok | split)

theorem Chip.unask_ok (d : Dest) {s : Chip} (h : s.Ok b) : Chip.Ok b (Chip.unask d s) := by
  unfold Chip.unask
  dsimp only
  repeat' (first | with_reducible assumption | intro _ | with_reducible apply Chip.updXfer_ok | with_reducible apply foldl_ok | split)

theorem Chip.updReq_ok (id : ℕ) (f : PortReq → PortReq) {s : Chip} (h : s.Ok b) : Chip.Ok b (Chip.updReq id f s) := h

theorem Chip.fillGranule_ok (g : ℕ) (need : BitVec 4) (r : PortReq) (d : List Dest) {s : Chip} (h : s.Ok b) :
    Chip.Ok b (Chip.fillGranule g need r d s) := by
  unfold Chip.fillGranule
  dsimp only
  repeat' first
      | with_reducible assumption | intro _ | with_reducible apply Chip.enq_ok | with_reducible apply Chip.updReq_ok
      | with_reducible apply foldl_ok | split

theorem Chip.fetchGranule_ok (c : ℕ) (cls : ℕ) (va : ℕ) (d : Dest) (p : Place) (tr : Option Leaf) (cached : Bool) {s : Chip} (h : s.Ok b) :
    Chip.Ok b (Chip.fetchGranule c cls va d p tr cached s) := by
  unfold Chip.fetchGranule
  dsimp only
  repeat' first
      | with_reducible assumption | intro _ | with_reducible apply Chip.fillGranule_ok | with_reducible apply Chip.enq_ok
      | with_reducible apply foldl_ok | split

theorem Chip.serve_ok (c : ℕ) (cls : ℕ) (va : ℕ) (row : Bool) (d : Dest) (p : Place) (tr : Option Leaf) {s : Chip} (h : s.Ok b) :
    Chip.Ok b (Chip.serve c cls va row d p tr s) := by
  unfold Chip.serve
  dsimp only
  repeat' first
      | with_reducible assumption | intro _ | with_reducible apply Chip.countRowSectors_ok | with_reducible apply Chip.lostFault_ok
      | with_reducible apply Chip.deliver_ok | with_reducible apply Chip.lineUse_ok | with_reducible apply Chip.fetchGranule_ok
      | with_reducible apply foldl_ok | split

theorem Chip.noteRead_ok (c : ℕ) (g : ℕ) (m : BitVec 256) {s : Chip} (h : s.Ok b) : Chip.Ok b (Chip.noteRead c g m s) := by
  unfold Chip.noteRead
  grind [Chip.updXfer_ok, Chip.Ok, foldl_ok]

theorem Chip.noteDst_ok (c : ℕ) (g : ℕ) (m : BitVec 256) {s : Chip} (h : s.Ok b) : Chip.Ok b (Chip.noteDst c g m s) := by
  unfold Chip.noteDst
  grind [Chip.updXfer_ok, Chip.Ok, foldl_ok]

theorem Chip.askStage_ok (c : ℕ) (t : Xfer) (l : SLine) {s : Chip} (h : s.Ok b) : Chip.Ok b (Chip.askStage c t l s).1 := by
  unfold Chip.askStage
  intros
  dsimp only at *
  repeat' first
      | with_reducible assumption | intro _ | with_reducible apply Chip.startWalk_ok | with_reducible apply Chip.updXfer_ok
      | with_reducible apply Chip.useRd_ok | with_reducible apply Chip.lookTouch_ok | with_reducible apply Chip.noteRead_ok
      | with_reducible apply Chip.serve_ok | with_reducible apply Chip.walkTrFault_ok | with_reducible apply foldl_ok | split

theorem Chip.takeCredits_ok (c : ℕ) (shared : Bool) {s : Chip} (h : s.Ok b) : Chip.Ok b (Chip.takeCredits c shared s) := by
  unfold Chip.takeCredits
  dsimp only
  repeat' (first | with_reducible assumption | intro _ | with_reducible apply Chip.updXfer_ok | with_reducible apply foldl_ok | split)

theorem Chip.countTried_ok (c : ℕ) (r : Tried) {s : Chip} (h : s.Ok b) : Chip.Ok b (Chip.countTried c r s) := by
  unfold Chip.countTried
  grind [Chip.count_ok, Chip.Ok, foldl_ok]

theorem Chip.readStep_ok (c : ℕ) (t : Xfer) (v : View) (xi : XI) (l : List Need) {s : Chip} (h : s.Ok b) :
    Chip.Ok b (Chip.readStep c t v xi l s).1 := by
  unfold Chip.readStep
  intros
  dsimp only at *
  repeat' first
      | with_reducible assumption | intro _ | with_reducible apply Chip.countTried_ok | with_reducible apply Chip.updXfer_ok
      | with_reducible apply Chip.askStage_ok | with_reducible apply Chip.takeCredits_ok | with_reducible apply foldl_ok | split

theorem Chip.joinWrite_ok (c : ℕ) (g : ℕ) (crs : ℕ) (m : BitVec 256) (d : Granule) (keep : Granule) {s : Chip} (h : s.Ok b) :
    ∀ z, Chip.joinWrite c g crs m d keep s = some z → z.Ok b := by
  unfold Chip.joinWrite
  grind [Chip.updReq_ok, Chip.Ok, foldl_ok]

theorem Chip.putGranule_ok (c : ℕ) (cls : ℕ) (grp : ℕ) (join : Bool) (o : OutWr) (p : Place) (tr : Option Leaf) {s : Chip} (h : s.Ok b) :
    ∀ z, Chip.putGranule c cls grp join o p tr s = some z → z.Ok b := by
  unfold Chip.putGranule
  grind [Chip.rcWrite_ok, Chip.joinWrite_ok, Chip.enq_ok, Chip.Ok, foldl_ok]

theorem Chip.pagesFor_ok (c : ℕ) (a1 : List ℕ) {a2 : Chip} (h : a2.Ok b) : Chip.Ok b (Chip.pagesFor c a1 a2).1 := by
  induction a1 generalizing a2 with
  | nil => exact h
  | cons va r ih =>
    unfold Chip.pagesFor
    dsimp only
    repeat' first
      | with_reducible assumption | with_reducible apply ih | with_reducible apply Chip.updXfer_ok | with_reducible apply Chip.lookTouch_ok
      | with_reducible apply Chip.startWalk_ok | with_reducible apply Chip.walkTrFault_ok | split

theorem Chip.useWrs_ok (m : ℕ) (n : ℕ) {s : Chip} (h : s.Ok b) : Chip.Ok b (Chip.useWrs m n s) := by
  unfold Chip.useWrs
  grind [Chip.updMov_ok, Chip.Ok, foldl_ok]

theorem Chip.putOut_ok (c : ℕ) (grp : ℕ) (t : Xfer) (o : OutWr) {s : Chip} (h : s.Ok b) : ∀ z, Chip.putOut c grp t o s = some z → z.Ok b := by
  intro z hz
  unfold Chip.putOut at hz
  split at hz
  · cases hz; exact h
  · split at hz
    · cases hz
    · simp only [Option.map_eq_some_iff] at hz
      obtain ⟨u, hu, rfl⟩ := hz
      exact Chip.updXfer_ok _ _ (Chip.noteDst_ok _ _ _ (Chip.putGranule_ok _ _ _ _ _ _ _ h _ hu))

theorem Chip.outStep_ok (c : ℕ) (t : Xfer) (o : OutWr) {s : Chip} (h : s.Ok b) : Chip.Ok b (Chip.outStep c t o s).1 := by
  unfold Chip.outStep
  dsimp only
  split
  · exact h
  · split
    · exact h
    · rename_i u hu
      have hu := Chip.putOut_ok _ _ _ _ h _ hu
      dsimp only
      exact Chip.updXfer_ok _ _ (by split <;> [exact Chip.useWr_ok _ hu; exact hu])

theorem Chip.advance_ok (c : ℕ) (xi : XI) (o : UOut) {s : Chip} (h : s.Ok b) : Chip.Ok b (Chip.advance c xi o s) := by
  unfold Chip.advance
  dsimp only
  repeat' first
      | with_reducible assumption | intro _ | with_reducible apply Chip.count_ok | with_reducible apply Chip.takeCredits_ok
      | with_reducible apply Chip.updXfer_ok | with_reducible apply foldl_ok | split

theorem Chip.loadRoute_ok (c : ℕ) (n : ℕ) (img : List Byte) {s : Chip} (h : s.Ok b) : Chip.Ok b (Chip.loadRoute c n img s) := by
  unfold Chip.loadRoute
  grind [Chip.updMov_ok, Chip.Ok, foldl_ok]

theorem Chip.qsumFails_ok (c : ℕ) (t : Xfer) {s : Chip} (h : s.Ok b) : Chip.Ok b (Chip.qsumFails c t s) := by
  unfold Chip.qsumFails
  dsimp only
  repeat' first
      | with_reducible assumption | intro _ | with_reducible apply Chip.report_ok | with_reducible apply Chip.bump_ok
      | with_reducible apply foldl_ok | split

theorem Chip.putStream_ok (c : ℕ) (o : UOut) (xi : XI) (pop : Xfer → Xfer) {s : Chip} (h : s.Ok b) : Chip.Ok b (Chip.putStream c o xi pop s).1 := by
  unfold Chip.putStream
  intros
  dsimp only at *
  repeat' first
      | with_reducible assumption | intro _ | with_reducible apply Chip.advance_ok | with_reducible apply Chip.updXfer_ok
      | with_reducible apply Chip.framesOut_ok | with_reducible apply Chip.feedMsg_ok | with_reducible apply foldl_ok | split

theorem Chip.putWrites_ok (c : ℕ) (t : Xfer) (xi : XI) (o : UOut) {s : Chip} (h : s.Ok b) : Chip.Ok b (Chip.putWrites c t xi o s).1 := by
  unfold Chip.putWrites
  intros
  dsimp only at *
  repeat' first
      | with_reducible assumption | intro _ | with_reducible apply Chip.pagesFor_ok | with_reducible apply Chip.loadRoute_ok
      | with_reducible apply Chip.qsumFails_ok | with_reducible apply Chip.advance_ok | with_reducible apply Chip.updXfer_ok
      | with_reducible apply foldl_ok | split

theorem Chip.putBag_ok (c : ℕ) (t : Xfer) (xi : XI) (o : UOut) {s : Chip} (h : s.Ok b) : Chip.Ok b (Chip.putBag c t xi o s).1 := by
  unfold Chip.putBag
  dsimp only
  have h1 := Chip.pagesFor_ok c ((byCourse 0 t.halves o.writes).map (·.va)) h
  generalize Chip.pagesFor _ _ _ = r at h1 ⊢
  obtain ⟨s1, ok⟩ := r
  dsimp only at h1 ⊢
  split
  · exact h1
  · split
    · exact h1
    · split
      · exact h1
      · split
        · exact h1
        · rename_i u hu
          refine Chip.advance_ok _ _ _ (Chip.updXfer_ok _ _ (Chip.useWrs_ok _ _ (bind_foldl_ok (fun s t x hs e => ?_) ?_ _ hu)))
          · exact Chip.putOut_ok _ _ _ _ hs _ e
          · intro t e; cases e; exact Chip.updXfer_ok _ _ h1

theorem Chip.acceptRow_ok (c : ℕ) (pos : ℕ) (mem : ℕ) (o : XOp) (cls : ℕ) (crs : ℕ) (l : List (ℕ × ℕ × List SegOp × Leaf)) {s : Chip}
    (h : s.Ok b) :
    Chip.Ok b (Chip.acceptRow c pos mem o cls crs l s) := by
  unfold Chip.acceptRow
  dsimp only
  repeat' (first | with_reducible assumption | intro _ | with_reducible apply Chip.noteDst_ok | with_reducible apply foldl_ok | split)
  all_goals grind [Chip.noteDst_ok, Chip.Ok, foldl_ok]

theorem Chip.acceptGroup_ok (c : ℕ) (pos : ℕ) (mem : ℕ) (cls : ℕ) (crs : ℕ) (pages : List (ℕ × ℕ × Leaf)) (h1 : ℕ) (ws : List Wr) {s : Chip}
    (h : s.Ok b) :
    Chip.Ok b (Chip.acceptGroup c pos mem cls crs pages h1 ws s) := by
  unfold Chip.acceptGroup
  dsimp only
  repeat' first
      | with_reducible assumption | intro _ | with_reducible apply Chip.bump_ok | with_reducible apply Chip.noteDst_ok
      | with_reducible apply foldl_ok | split | with_reducible apply ok_lit

theorem Chip.putRow_ok (c : ℕ) (t : Xfer) (xi : XI) (o : UOut) {s : Chip} (h : s.Ok b) : Chip.Ok b (Chip.putRow c t xi o s).1 := by
  unfold Chip.putRow
  intros
  dsimp only at *
  repeat' first
      | with_reducible assumption | intro _ | with_reducible apply Chip.pagesFor_ok | with_reducible apply Chip.acceptGroup_ok
      | with_reducible apply Chip.acceptRow_ok | with_reducible apply Chip.advance_ok | with_reducible apply Chip.updXfer_ok
      | with_reducible apply Chip.useWrs_ok | with_reducible apply foldl_ok | split

theorem Chip.cinvGranule_ok (c : ℕ) (cls : ℕ) (loc : ℕ) {s : Chip} (h : s.Ok b) : Chip.Ok b (Chip.cinvGranule c cls loc s) := by
  unfold Chip.cinvGranule
  dsimp only
  repeat' first
      | with_reducible assumption | intro _ | with_reducible apply Chip.updLine_ok | with_reducible apply Chip.startWb_ok
      | with_reducible apply foldl_ok | split

theorem Chip.putCinv_ok (c : ℕ) (t : Xfer) (xi : XI) (o : UOut) {s : Chip} (h : s.Ok b) : Chip.Ok b (Chip.putCinv c t xi o s).1 := by
  unfold Chip.putCinv
  intros
  dsimp only at *
  repeat' first
      | with_reducible assumption | intro _ | with_reducible apply Chip.advance_ok | with_reducible apply Chip.lookTouch_ok
      | with_reducible apply Chip.cinvGranule_ok | with_reducible apply Chip.startWalk_ok | with_reducible apply Chip.walkTrFault_ok
      | with_reducible apply foldl_ok | split

theorem Chip.walkEnds_ok (c : ℕ) {s : Chip} (h : s.Ok b) : Chip.Ok b (Chip.walkEnds c s) := by
  unfold Chip.walkEnds
  dsimp only
  repeat' first
      | with_reducible assumption | intro _ | with_reducible apply Chip.feedMsg_ok | with_reducible apply Chip.updXfer_ok
      | with_reducible apply foldl_ok | split

theorem Chip.commitUnit_ok (c : ℕ) (t : Xfer) (xi : XI) (o : UOut) {s : Chip} (h : s.Ok b) : Chip.Ok b (Chip.commitUnit c t xi o s).1 := by
  unfold Chip.commitUnit
  grind [Chip.putCinv_ok, Chip.putStream_ok, Chip.putRow_ok, Chip.putWrites_ok, Chip.Ok, foldl_ok]

theorem Chip.unitStep_ok (c : ℕ) (t : Xfer) (v : View) (xi : XI) {s : Chip} (h : s.Ok b) : Chip.Ok b (Chip.unitStep c t v xi s).1 := by
  unfold Chip.unitStep
  grind [Chip.walkEnds_ok, Chip.walkFault_ok, Chip.readStep_ok, Chip.commitUnit_ok, Chip.Ok, foldl_ok]

theorem Chip.poolStep_ok (c : ℕ) (t : Xfer) (xi : XI) {s : Chip} (h : s.Ok b) : Chip.Ok b (Chip.poolStep c t xi s).1 := by
  unfold Chip.poolStep
  intros
  dsimp only at *
  repeat' first
      | with_reducible assumption | intro _ | with_reducible apply Chip.walkFault_ok | with_reducible apply Chip.unitStep_ok
      | with_reducible apply Chip.takeCredits_ok | with_reducible apply Chip.updXfer_ok | with_reducible apply Chip.readStep_ok
      | with_reducible apply Chip.putStream_ok | with_reducible apply Chip.putBag_ok | with_reducible apply foldl_ok | split

theorem Chip.stageStep_ok (c : ℕ) (t : Xfer) (xi : XI) {s : Chip} (h : s.Ok b) : Chip.Ok b (Chip.stageStep c t xi s).1 := by
  unfold Chip.stageStep
  grind [Chip.askStage_ok, Chip.updXfer_ok, Chip.Ok, foldl_ok]

theorem Chip.listStep_ok (c : ℕ) (t : Xfer) (xi : XI) (l : List Need) {s : Chip} (h : s.Ok b) : Chip.Ok b (Chip.listStep c t xi l s).1 := by
  unfold Chip.listStep
  intros
  dsimp only at *
  repeat' first
      | with_reducible assumption | intro _ | with_reducible apply Chip.updXfer_ok | with_reducible apply Chip.askStage_ok
      | with_reducible apply foldl_ok | split

theorem Chip.sampleIf_ok (c : ℕ) (cand : Bool) {s : Chip} (h : s.Ok b) : Chip.Ok b (Chip.sampleIf c cand s) := by
  unfold Chip.sampleIf
  dsimp only
  repeat' first
      | with_reducible assumption | intro _ | with_reducible apply Chip.updMov_ok | with_reducible apply Chip.count_ok
      | with_reducible apply Chip.updXfer_ok | with_reducible apply foldl_ok | split | with_reducible apply ok_lit

theorem Chip.msetPrep_ok (c : ℕ) (t : Xfer) (xi : XI) {s : Chip} (h : s.Ok b) : Chip.Ok b (Chip.msetPrep c t xi s).1 := by
  unfold Chip.msetPrep
  intros
  dsimp only at *
  repeat' first
      | with_reducible assumption | intro _ | with_reducible apply Chip.listStep_ok | with_reducible apply Chip.walkFault_ok
      | with_reducible apply Chip.sampleIf_ok | with_reducible apply Chip.updXfer_ok | with_reducible apply foldl_ok | split

theorem Chip.msetStep_ok (c : ℕ) (t : Xfer) (xi : XI) {s : Chip} (h : s.Ok b) : Chip.Ok b (Chip.msetStep c t xi s).1 := by
  unfold Chip.msetStep
  grind [Chip.msetPrep_ok, Chip.unitStep_ok, Chip.Ok, foldl_ok]

theorem Chip.delegStep_ok (c : ℕ) (t : Xfer) (xi : XI) {s : Chip} (h : s.Ok b) : Chip.Ok b (Chip.delegStep c t xi s).1 := by
  unfold Chip.delegStep
  intros
  dsimp only at *
  repeat' first
      | with_reducible assumption | intro _ | with_reducible apply Chip.framesOut_ok | with_reducible apply Chip.updXfer_ok
      | with_reducible apply Chip.walkFault_ok | with_reducible apply Chip.listStep_ok | with_reducible apply Chip.openDeleg_ok
      | with_reducible apply foldl_ok | split

theorem Chip.sendStep_ok (c : ℕ) (t : Xfer) (xi : XI) {s : Chip} (h : s.Ok b) : Chip.Ok b (Chip.sendStep c t xi s).1 := by
  unfold Chip.sendStep
  intros
  dsimp only at *
  repeat' first
      | with_reducible assumption | intro _ | with_reducible apply Chip.unitStep_ok | with_reducible apply Chip.openSend_ok
      | with_reducible apply Chip.updXfer_ok | with_reducible apply foldl_ok | split

theorem Chip.prefetchEnds_ok (c : ℕ) {s : Chip} (h : s.Ok b) : Chip.Ok b (Chip.prefetchEnds c s) := by
  unfold Chip.prefetchEnds
  grind [Chip.updXfer_ok, Chip.Ok, foldl_ok]

theorem Chip.prefetchIssue_ok (c : ℕ) (t : Xfer) (va : ℕ) (p : Place) (tr : Leaf) {s : Chip} (h : s.Ok b) :
    Chip.Ok b (Chip.prefetchIssue c t va p tr s) := by
  unfold Chip.prefetchIssue
  dsimp only
  repeat' first
      | with_reducible assumption | intro _ | with_reducible apply Chip.updCtx_ok | with_reducible apply Chip.updXfer_ok
      | with_reducible apply Chip.useRd_ok | with_reducible apply Chip.count_ok | with_reducible apply Chip.deliver_ok
      | with_reducible apply Chip.lineUse_ok | with_reducible apply Chip.fillGranule_ok | with_reducible apply Chip.enq_ok
      | with_reducible apply foldl_ok | split

theorem Chip.prefetchStep_ok (c : ℕ) (t : Xfer) (xi : XI) {s : Chip} (h : s.Ok b) : Chip.Ok b (Chip.prefetchStep c t xi s).1 := by
  unfold Chip.prefetchStep
  intros
  dsimp only at *
  repeat' first
      | with_reducible assumption | intro _ | with_reducible apply Chip.updXfer_ok | with_reducible apply Chip.lookTouch_ok
      | with_reducible apply Chip.listStep_ok | with_reducible apply Chip.walkFault_ok | with_reducible apply Chip.advance_ok
      | with_reducible apply Chip.count_ok | with_reducible apply Chip.prefetchEnds_ok | with_reducible apply Chip.prefetchIssue_ok
      | with_reducible apply Chip.startWalk_ok | with_reducible apply foldl_ok | split

theorem Chip.pushMsg_ok (t : Xfer) {s : Chip} (h : s.Ok b) : Chip.Ok b (Chip.pushMsg t s).1 := by
  unfold Chip.pushMsg
  intros
  dsimp only at *
  repeat' (first | with_reducible assumption | intro _ | with_reducible apply Chip.framesOut_ok | with_reducible apply foldl_ok | split)

theorem Chip.walkStep_ok (c : ℕ) {s : Chip} (h : s.Ok b) : Chip.Ok b (Chip.walkStep c s).1 := by
  unfold Chip.walkStep
  intros
  dsimp only at *
  repeat' first
      | with_reducible assumption | intro _ | with_reducible apply Chip.outStep_ok | with_reducible apply Chip.pushMsg_ok
      | with_reducible apply Chip.msetStep_ok | with_reducible apply Chip.poolStep_ok | with_reducible apply Chip.prefetchStep_ok
      | with_reducible apply Chip.sendStep_ok | with_reducible apply Chip.delegStep_ok | with_reducible apply Chip.stageStep_ok
      | with_reducible apply Chip.unitStep_ok | with_reducible apply foldl_ok | split

theorem Chip.pumpN_ok (c : ℕ) (a1 : ℕ) {a2 : Chip} (h : a2.Ok b) : Chip.Ok b (Chip.pumpN c a1 a2).1 := by
  induction a1 generalizing a2 with
  | zero => exact h
  | succ n ih =>
    unfold Chip.pumpN
    have h1 := Chip.walkStep_ok c h
    split
    · rename_i e; rw [e] at h1; exact ih h1
    · exact h1

/-! ### `Machine/LandWrite.lean` -/

theorem Chip.updLand_ok (l : Land) (f : Land → Land) {s : Chip} (h : s.Ok b) : Chip.Ok b (Chip.updLand l f s) := h

theorem Chip.landFault_ok (l : Land) {s : Chip} (h : s.Ok b) : Chip.Ok b (Chip.landFault l s) := by
  unfold Chip.landFault
  grind [Chip.linkReport_ok, Chip.endLand_ok, Chip.Ok, foldl_ok]

theorem Chip.landProgress_ok (l : Land) (a1 : ℕ) {a2 : Chip} (h : a2.Ok b) : Chip.Ok b (Chip.landProgress l a1 a2) := by
  induction a1 generalizing a2 with
  | zero => exact h
  | succ k ih => unfold Chip.landProgress; exact ih (Chip.sendCmpl_ok _ _ _ _ _ _ _ _ _ h)

theorem Chip.landStep_ok (src : ℕ) (mtag : ℕ) {s : Chip} (h : s.Ok b) : Chip.Ok b (Chip.landStep src mtag s) := by
  unfold Chip.landStep
  dsimp only
  repeat' first
      | with_reducible assumption | intro _ | with_reducible apply Chip.landProgress_ok | with_reducible apply Chip.updLand_ok
      | with_reducible apply Chip.endLand_ok | with_reducible apply foldl_ok | split

theorem Chip.landTouch_ok (l : Land) (va : ℕ) {s : Chip} (h : s.Ok b) : Chip.Ok b (Chip.landTouch l va s) := by
  unfold Chip.landTouch
  grind [Chip.updLand_ok, Chip.bump_ok, Chip.Ok, foldl_ok]

theorem Chip.putBurst_ok (l : Land) (w : BurstWr) (p : Place) (f : Leaf) {s : Chip} (h : s.Ok b) :
    ∀ z, Chip.putBurst l w p f s = some z → z.Ok b := by
  intro z hz
  have h1 := Chip.updLand_ok l (fun x => { x with bursts := x.bursts ++ [(s.uid, w.first, w.n)], todo := x.todo.erase w })
    (Chip.landTouch_ok l w.va h)
  unfold Chip.putBurst at hz
  dsimp only at hz
  split at hz
  · cases hz
  · split at hz
    · exact Chip.rcWrite_ok _ _ _ _ _ _ (ok_lit h1) _ hz
    · cases hz; exact Chip.enq_ok _ h1

theorem Chip.landPump_ok (src : ℕ) (mtag : ℕ) (a2 : ℕ) {a3 : Chip} (h : a3.Ok b) : Chip.Ok b (Chip.landPump src mtag a2 a3) := by
  induction a2 generalizing a3 with
  | zero => exact h
  | succ n ih =>
    unfold Chip.landPump
    repeat' first
      | with_reducible assumption | with_reducible apply Chip.needWalk_ok | with_reducible apply Chip.updLand_ok
      | with_reducible apply Chip.landFault_ok | with_reducible apply Chip.landTouch_ok | split
    rename_i hu
    exact ih (Chip.putBurst_ok _ _ _ _ h _ hu)

theorem Chip.landGo_ok (src : ℕ) (mtag : ℕ) {s : Chip} (h : s.Ok b) : Chip.Ok b (Chip.landGo src mtag s) := by
  unfold Chip.landGo
  grind [Chip.landPump_ok, Chip.Ok, foldl_ok]

theorem Chip.landsGo_ok {s : Chip} (h : s.Ok b) : Chip.Ok b (Chip.landsGo s) := by
  unfold Chip.landsGo
  grind [Chip.landGo_ok, Chip.Ok, foldl_ok]

theorem Chip.landBytes_ok (l : Land) (bs : List Byte) {s : Chip} (h : s.Ok b) : Chip.Ok b (Chip.landBytes l bs s) := by
  unfold Chip.landBytes
  grind [Chip.landGo_ok, Chip.updLand_ok, Chip.Ok, foldl_ok]

theorem Chip.landWalked_ok (src : ℕ) (mtag : ℕ) (w : PWalk) {s : Chip} (h : s.Ok b) : Chip.Ok b (Chip.landWalked src mtag w s) := by
  unfold Chip.landWalked
  dsimp only
  repeat' first
      | with_reducible assumption | intro _ | with_reducible apply Chip.updLand_ok | with_reducible apply Chip.landGo_ok
      | with_reducible apply Chip.landFault_ok | with_reducible apply foldl_ok | split

/-! ### `Machine/Save.lean` -/

theorem Chip.areaReqs_ok (c : ℕ) (kind : ReqKind) (write : Bool) (gs : List (ℕ × List Byte)) {s : Chip} (h : s.Ok b) :
    ∀ z, Chip.areaReqs c kind write gs s = some z → z.Ok b := by
  unfold Chip.areaReqs
  refine bind_foldl_ok (fun u v k hu e => ?_) ?_
  · simp only [Option.map_eq_some_iff] at e
    obtain ⟨p, _, rfl⟩ := e
    exact Chip.enq_ok _ hu
  · intro t e; cases e; exact h

theorem Chip.saveWalk_ok (c : ℕ) (t : Xfer) (h1 : Halt) {s : Chip} (h : s.Ok b) : Chip.Ok b (Chip.saveWalk c t h1 s) := by
  have h0 : Chip.Ok b { s with free := s.free + 288 } := h
  unfold Chip.saveWalk
  dsimp only
  split
  · rename_i hu
    exact Chip.updXfer_ok _ _ (Chip.areaReqs_ok _ _ _ _ h0 _ hu)
  · exact Chip.ownFault_ok _ _ h

theorem Chip.haltStep_ok (c : ℕ) {s : Chip} (h : s.Ok b) : Chip.Ok b (Chip.haltStep c s) := by
  unfold Chip.haltStep
  dsimp only
  repeat' (first | with_reducible assumption | intro _ | with_reducible apply Chip.saveWalk_ok | with_reducible apply foldl_ok | split)

theorem Chip.askArea_ok (c : ℕ) (t : Xfer) {s : Chip} (h : s.Ok b) : Chip.Ok b (Chip.askArea c t s) := by
  unfold Chip.askArea
  grind [Chip.areaReqs_ok, Chip.updXfer_ok, Chip.ownFault_ok, Chip.Ok, foldl_ok]

theorem Chip.areaRead_ok (c : ℕ) {s : Chip} (h : s.Ok b) : Chip.Ok b (Chip.areaRead c s) := by
  unfold Chip.areaRead
  dsimp only
  repeat' first
      | with_reducible assumption | intro _ | with_reducible apply Chip.portFails_ok | with_reducible apply Chip.updXfer_ok
      | with_reducible apply foldl_ok | split
  all_goals grind [Chip.portFails_ok, Chip.updXfer_ok, Chip.Ok, foldl_ok]

/-! ### `Machine/Transfer.lean` -/

theorem Chip.pump_ok (c : ℕ) {s : Chip} (h : s.Ok b) : Chip.Ok b (Chip.pump c s) := by
  unfold Chip.pump
  dsimp only
  repeat' first
      | with_reducible assumption | intro _ | with_reducible apply Chip.pumpN_ok | with_reducible apply Chip.waitFor_ok
      | with_reducible apply Chip.haltStep_ok | with_reducible apply Chip.faultStep_ok | with_reducible apply foldl_ok | split
  all_goals grind [Chip.pumpN_ok, Chip.waitFor_ok, Chip.haltStep_ok, Chip.faultStep_ok, Chip.Ok, foldl_ok]

theorem Chip.nudge_ok (c : ℕ) {s : Chip} (h : s.Ok b) : Chip.Ok b (Chip.nudge c s) := by
  unfold Chip.nudge
  dsimp only
  repeat' first
      | with_reducible assumption | intro _ | with_reducible apply Chip.walkStep_ok | with_reducible apply Chip.wake_ok
      | with_reducible apply Chip.haltStep_ok | with_reducible apply Chip.faultStep_ok | with_reducible apply foldl_ok | split

theorem Chip.heard_ok (c : ℕ) {s : Chip} (h : s.Ok b) : Chip.Ok b (Chip.heard c s) := by
  unfold Chip.heard
  grind [Chip.pump_ok, Chip.nudge_ok, Chip.Ok, foldl_ok]

theorem Chip.pumpList_ok (cs : List ℕ) {s : Chip} (h : s.Ok b) : Chip.Ok b (Chip.pumpList cs s) := by
  unfold Chip.pumpList
  grind [Chip.heard_ok, Chip.Ok, foldl_ok]

theorem Chip.pumpCur_ok (m : ℕ) {s : Chip} (h : s.Ok b) : Chip.Ok b (Chip.pumpCur m s) := by
  unfold Chip.pumpCur
  grind [Chip.pump_ok, Chip.Ok, foldl_ok]

theorem Chip.pumpAll_ok {s : Chip} (h : s.Ok b) : Chip.Ok b (Chip.pumpAll s) := by
  unfold Chip.pumpAll
  dsimp only
  repeat' first
      | with_reducible assumption | intro _ | with_reducible apply Chip.nudge_ok | with_reducible apply Chip.pumpCur_ok
      | with_reducible apply Chip.landsGo_ok | with_reducible apply foldl_ok | split

theorem switchTo_ok (m : ℕ) {s : Chip} (h : s.Ok b) : Chip.Ok b (switchTo m s) := by
  unfold switchTo
  grind [Chip.pumpCur_ok, moverSwitch_ok, Chip.Ok, foldl_ok]

theorem sliceEnds_ok (m : ℕ) {s : Chip} (h : s.Ok b) : Chip.Ok b (sliceEnds m s) := by
  unfold sliceEnds
  grind [Chip.pumpCur_ok, timesliceExpiry_ok, Chip.Ok, foldl_ok]

theorem Chip.yieldStg_ok (c : ℕ) (m : ℕ) (n : ℕ) {s : Chip} (h : s.Ok b) : Chip.Ok b (Chip.yieldStg c m n s) := by
  unfold Chip.yieldStg
  grind [Chip.releaseStg_ok, Chip.Ok, foldl_ok]

theorem Chip.countLap_ok (c : ℕ) (w : Word) {s : Chip} (h : s.Ok b) : Chip.Ok b (Chip.countLap c w s) := by
  unfold Chip.countLap
  grind [Chip.count_ok, Chip.Ok, foldl_ok]

theorem Chip.takeStg_ok (c : ℕ) (w : Word) {s : Chip} (h : s.Ok b) : Chip.Ok b (Chip.takeStg c w s) := by
  unfold Chip.takeStg
  dsimp only
  repeat' first
      | with_reducible assumption | intro _ | with_reducible apply Chip.releaseStg_ok | with_reducible apply Chip.updXfer_ok
      | with_reducible apply Chip.updCtx_ok | with_reducible apply foldl_ok | split

theorem Chip.startTransfer_ok (c : ℕ) (w : Word) {s : Chip} (h : s.Ok b) : Chip.Ok b (Chip.startTransfer c w s) := by
  unfold Chip.startTransfer
  dsimp only
  repeat' first
      | with_reducible assumption | intro _ | with_reducible apply Chip.countLap_ok | with_reducible apply Chip.trace_ok
      | with_reducible apply Chip.updCtx_ok | with_reducible apply Chip.takeStg_ok | with_reducible apply Chip.sampleIf_ok
      | with_reducible apply foldl_ok | split | with_reducible apply ok_lit

theorem Chip.enterTransfer_ok (c : ℕ) (w : Word) {s : Chip} (h : s.Ok b) : Chip.Ok b (Chip.enterTransfer c w s) := by
  unfold Chip.enterTransfer
  dsimp only
  repeat' first
      | with_reducible assumption | intro _ | with_reducible apply Chip.yieldStg_ok | with_reducible apply Chip.pump_ok
      | with_reducible apply Chip.startTransfer_ok | with_reducible apply Chip.waitFor_ok | with_reducible apply Chip.updCtx_ok
      | with_reducible apply foldl_ok | split

theorem Chip.transferBody_ok (c : ℕ) (w : Word) {s : Chip} (h : s.Ok b) : Chip.Ok b (Chip.transferBody c w s) := by
  unfold Chip.transferBody
  grind [Chip.ownFault_ok, Chip.enterTransfer_ok, Chip.Ok, foldl_ok]

theorem transfer_ok (c : ℕ) (sel : Word → Bool) (enc : Word → Bool) {a3 : Chip} (h : a3.Ok b) : Chip.Ok b (transfer c sel enc a3) := by
  unfold transfer
  grind [Chip.issue_ok, Chip.transferBody_ok, Chip.Ok, foldl_ok]

theorem move_ok (c : ℕ) {a1 : Chip} (h : a1.Ok b) : Chip.Ok b (move c a1) := by
  unfold move
  grind [transfer_ok, Chip.Ok, foldl_ok]

theorem moveLdrt_ok (c : ℕ) {a1 : Chip} (h : a1.Ok b) : Chip.Ok b (moveLdrt c a1) := by
  unfold moveLdrt
  grind [transfer_ok, Chip.Ok, foldl_ok]

theorem mset_ok (c : ℕ) {a1 : Chip} (h : a1.Ok b) : Chip.Ok b (mset c a1) := by
  unfold mset
  grind [transfer_ok, Chip.Ok, foldl_ok]

theorem fill_ok (c : ℕ) {a1 : Chip} (h : a1.Ok b) : Chip.Ok b (fill c a1) := by
  unfold fill
  grind [transfer_ok, Chip.Ok, foldl_ok]

theorem window_ok (c : ℕ) {a1 : Chip} (h : a1.Ok b) : Chip.Ok b (window c a1) := by
  unfold window
  grind [transfer_ok, Chip.Ok, foldl_ok]

theorem gather_ok (c : ℕ) {a1 : Chip} (h : a1.Ok b) : Chip.Ok b (gather c a1) := by
  unfold gather
  grind [transfer_ok, Chip.Ok, foldl_ok]

theorem pool_ok (c : ℕ) {a1 : Chip} (h : a1.Ok b) : Chip.Ok b (pool c a1) := by
  unfold pool
  grind [transfer_ok, Chip.Ok, foldl_ok]

theorem scatter_ok (c : ℕ) {a1 : Chip} (h : a1.Ok b) : Chip.Ok b (scatter c a1) := by
  unfold scatter
  grind [transfer_ok, Chip.Ok, foldl_ok]

theorem expand_ok (c : ℕ) {a1 : Chip} (h : a1.Ok b) : Chip.Ok b (expand c a1) := by
  unfold expand
  grind [transfer_ok, Chip.Ok, foldl_ok]

theorem pack_ok (c : ℕ) {a1 : Chip} (h : a1.Ok b) : Chip.Ok b (pack c a1) := by
  unfold pack
  grind [transfer_ok, Chip.Ok, foldl_ok]

theorem digest_ok (c : ℕ) {a1 : Chip} (h : a1.Ok b) : Chip.Ok b (digest c a1) := by
  unfold digest
  grind [transfer_ok, Chip.Ok, foldl_ok]

theorem prefetch_ok (c : ℕ) {a1 : Chip} (h : a1.Ok b) : Chip.Ok b (prefetch c a1) := by
  unfold prefetch
  grind [transfer_ok, Chip.Ok, foldl_ok]

theorem send_ok (c : ℕ) {a1 : Chip} (h : a1.Ok b) : Chip.Ok b (send c a1) := by
  unfold send
  grind [transfer_ok, Chip.Ok, foldl_ok]

theorem deleg_ok (c : ℕ) {a1 : Chip} (h : a1.Ok b) : Chip.Ok b (deleg c a1) := by
  unfold deleg
  grind [transfer_ok, Chip.Ok, foldl_ok]

theorem cinv_ok (c : ℕ) {a1 : Chip} (h : a1.Ok b) : Chip.Ok b (cinv c a1) := by
  unfold cinv
  grind [transfer_ok, Chip.Ok, foldl_ok]

theorem Chip.resumeTransfer_ok (c : ℕ) {s : Chip} (h : s.Ok b) : Chip.Ok b (Chip.resumeTransfer c s) := by
  unfold Chip.resumeTransfer
  dsimp only
  repeat' first
      | with_reducible assumption | intro _ | with_reducible apply Chip.yieldStg_ok | with_reducible apply Chip.wake_ok
      | with_reducible apply Chip.askArea_ok | with_reducible apply Chip.updCtx_ok | with_reducible apply Chip.updXfer_ok
      | with_reducible apply Chip.waitFor_ok | with_reducible apply foldl_ok | split

theorem creditAcquired_ok (c : ℕ) {s : Chip} (h : s.Ok b) : Chip.Ok b (creditAcquired c s) := by
  unfold creditAcquired
  dsimp only
  repeat' first
      | with_reducible assumption | intro _ | with_reducible apply Chip.resumeTransfer_ok | with_reducible apply Chip.yieldStg_ok
      | with_reducible apply Chip.wake_ok | with_reducible apply Chip.startTransfer_ok | with_reducible apply foldl_ok | split

theorem stageAllWritePass_ok (c : ℕ) {s : Chip} (h : s.Ok b) : Chip.Ok b (stageAllWritePass c s) := by
  unfold stageAllWritePass
  grind [Chip.heard_ok, Chip.updXfer_ok, Chip.Ok, foldl_ok]

theorem msetDataPass_ok (c : ℕ) {s : Chip} (h : s.Ok b) : Chip.Ok b (msetDataPass c s) := by
  unfold msetDataPass
  grind [Chip.heard_ok, Chip.updXfer_ok, Chip.Ok, foldl_ok]

theorem Chip.courseSignal_ok (c : ℕ) (t : Xfer) {s : Chip} (h : s.Ok b) : Chip.Ok b (Chip.courseSignal c t s) := by
  unfold Chip.courseSignal
  grind [Chip.signal_ok, Chip.updCtx_ok, Chip.Ok, foldl_ok]

theorem courseComplete_ok (c : ℕ) {s : Chip} (h : s.Ok b) : Chip.Ok b (courseComplete c s) := by
  unfold courseComplete
  grind [Chip.progressed_ok, Chip.updXfer_ok, Chip.courseSignal_ok, Chip.Ok, foldl_ok]

theorem Chip.lastSignals_ok (c : ℕ) (t : Xfer) {s : Chip} (h : s.Ok b) : Chip.Ok b (Chip.lastSignals c t s) := by
  unfold Chip.lastSignals
  dsimp only
  repeat' first
      | with_reducible assumption | intro _ | with_reducible apply Chip.courseSignal_ok | with_reducible apply Chip.signal_ok
      | with_reducible apply foldl_ok | split

theorem Chip.sampleDone_ok (c : ℕ) (t : Xfer) {s : Chip} (h : s.Ok b) : Chip.Ok b (Chip.sampleDone c t s) := by
  unfold Chip.sampleDone
  dsimp only
  repeat' (first | with_reducible assumption | intro _ | with_reducible apply Chip.updMov_ok | with_reducible apply foldl_ok | split)

theorem Chip.skipSamples_ok (c : ℕ) {s : Chip} (h : s.Ok b) : Chip.Ok b (Chip.skipSamples c s) := by
  unfold Chip.skipSamples
  dsimp only
  repeat' first
      | with_reducible assumption | intro _ | with_reducible apply Chip.leaveWalk_ok | with_reducible apply Chip.count_ok
      | with_reducible apply Chip.updMov_ok | with_reducible apply foldl_ok | split

theorem Chip.groupEnd_ok (grp : ℕ) {s : Chip} (h : s.Ok b) : Chip.Ok b (Chip.groupEnd grp s) := by
  unfold Chip.groupEnd
  dsimp only
  repeat' first
      | with_reducible assumption | intro _ | with_reducible apply Chip.undetach_ok | with_reducible apply Chip.signal_ok
      | with_reducible apply foldl_ok | split

theorem Chip.stgAfter_ok (c : ℕ) (t : Xfer) {s : Chip} (h : s.Ok b) : Chip.Ok b (Chip.stgAfter c t s) := by
  unfold Chip.stgAfter
  grind [Chip.updCtx_ok, Chip.Ok, foldl_ok]

theorem Chip.openByte_ok (loc : ℕ) (n : ℕ) {s : Chip} (h : s.Ok b) : Chip.Ok b (Chip.openByte loc n s) := by
  unfold Chip.openByte
  dsimp only
  repeat' first
      | with_reducible assumption | intro _ | with_reducible apply Chip.lineThrough_ok | with_reducible apply Chip.commitWrite_ok
      | with_reducible apply foldl_ok | split | with_reducible apply ok_lit

theorem Chip.openShared_ok (c : ℕ) (t : Xfer) {s : Chip} (h : s.Ok b) : Chip.Ok b (Chip.openShared c t s) := by
  unfold Chip.openShared
  grind [Chip.tickFree_ok, Chip.openByte_ok, Chip.Ok, foldl_ok]

theorem Chip.retireEffects_ok (c : ℕ) (t : Xfer) {s : Chip} (h : s.Ok b) : Chip.Ok b (Chip.retireEffects c t s) := by
  unfold Chip.retireEffects
  dsimp only
  repeat' first
      | with_reducible assumption | intro _ | with_reducible apply Chip.openShared_ok | with_reducible apply Chip.groupEnd_ok
      | with_reducible apply Chip.updCtx_ok | with_reducible apply Chip.lastSignals_ok | with_reducible apply Chip.stgAfter_ok
      | with_reducible apply Chip.trace_ok | with_reducible apply Chip.sampleDone_ok | with_reducible apply foldl_ok | split

theorem Chip.retireXfer_ok (c : ℕ) (t : Xfer) {s : Chip} (h : s.Ok b) : Chip.Ok b (Chip.retireXfer c t s) := by
  unfold Chip.retireXfer
  grind [Chip.wake_ok, Chip.retireNext_ok, Chip.updCtx_ok, Chip.retireEffects_ok, Chip.Ok, foldl_ok]

theorem transferRetire_ok (c : ℕ) {s : Chip} (h : s.Ok b) : Chip.Ok b (transferRetire c s) := by
  unfold transferRetire
  dsimp only
  repeat' first
      | with_reducible assumption | intro _ | with_reducible apply Chip.report_ok | with_reducible apply Chip.updCtx_ok
      | with_reducible apply Chip.guestFree_ok | with_reducible apply Chip.stgAfter_ok | with_reducible apply Chip.delegDone_ok
      | with_reducible apply Chip.retireXfer_ok | with_reducible apply foldl_ok | split

theorem Chip.faulted_ok (c : ℕ) (h1 : Halt) {s : Chip} (h : s.Ok b) : Chip.Ok b (Chip.faulted c h1 s) := by
  unfold Chip.faulted
  dsimp only
  repeat' first
      | with_reducible assumption | intro _ | with_reducible apply Chip.updCtx_ok | with_reducible apply Chip.skipSamples_ok
      | with_reducible apply Chip.ringPut_ok | with_reducible apply Chip.setSt_ok | with_reducible apply foldl_ok | split

theorem translationHalt_ok (c : ℕ) {s : Chip} (h : s.Ok b) : Chip.Ok b (translationHalt c s) := by
  unfold translationHalt
  dsimp only
  repeat' first
      | with_reducible assumption | intro _ | with_reducible apply Chip.haltStep_ok | with_reducible apply Chip.faulted_ok
      | with_reducible apply foldl_ok | split

theorem resume_ok (c : ℕ) {a1 : Chip} (h : a1.Ok b) : Chip.Ok b (resume c a1) := by
  unfold resume
  dsimp only
  repeat' first
      | with_reducible assumption | intro _ | with_reducible apply Chip.command_ok | with_reducible apply Chip.refuse_ok
      | with_reducible apply Chip.updCtx_ok | with_reducible apply Chip.ctxOk_ok | with_reducible apply Chip.resumeTransfer_ok
      | with_reducible apply Chip.setSt_ok | with_reducible apply foldl_ok | split

theorem Chip.afterWalk_ok (c : ℕ) {s : Chip} (h : s.Ok b) : Chip.Ok b (Chip.afterWalk c s) := by
  unfold Chip.afterWalk
  dsimp only
  repeat' first
      | with_reducible assumption | intro _ | with_reducible apply Chip.scalarGo_ok | with_reducible apply Chip.wake_ok
      | with_reducible apply Chip.fetchMiss_ok | with_reducible apply foldl_ok | split

theorem Chip.prefetchStops_ok (c : ℕ) (req : WalkReq) {s : Chip} (h : s.Ok b) : Chip.Ok b (Chip.prefetchStops c req s) := by
  unfold Chip.prefetchStops
  grind [Chip.wake_ok, Chip.updXfer_ok, Chip.Ok, foldl_ok]

theorem Chip.walkFor_ok (c : ℕ) (w : PWalk) {s : Chip} (h : s.Ok b) : Chip.Ok b (Chip.walkFor c w s) := by
  unfold Chip.walkFor
  dsimp only
  repeat' first
      | with_reducible assumption | intro _ | with_reducible apply Chip.updCtx_ok | with_reducible apply Chip.afterWalk_ok
      | with_reducible apply Chip.prefetchStops_ok | with_reducible apply Chip.report_ok | with_reducible apply Chip.haltStep_ok
      | with_reducible apply Chip.faultStep_ok | with_reducible apply Chip.walkTrFault_ok | with_reducible apply Chip.trFault_ok
      | with_reducible apply Chip.holdFault_ok | with_reducible apply Chip.portFails_ok | with_reducible apply foldl_ok | split

theorem Chip.landDests_ok (r : PortReq) {s : Chip} (h : s.Ok b) : Chip.Ok b (Chip.landDests r s) := by
  unfold Chip.landDests
  dsimp only
  repeat' first
      | with_reducible assumption | intro _ | with_reducible apply Chip.deliver_ok | with_reducible apply Chip.unask_ok
      | with_reducible apply foldl_ok | split

theorem Chip.installFill_ok (x : FillDone) {s : Chip} (h : s.Ok b) : ∀ z, Chip.installFill x s = some z → z.Ok b := by
  unfold Chip.installFill
  grind [Chip.rcInstall_ok, Chip.Ok, foldl_ok]

theorem Chip.failCtx_ok (r : PortReq) (rep : Report) {s : Chip} (h : s.Ok b) : Chip.Ok b (Chip.failCtx r rep s) := by
  unfold Chip.failCtx
  dsimp only
  repeat' first
      | with_reducible assumption | intro _ | with_reducible apply Chip.updCtx_ok | with_reducible apply Chip.report_ok
      | with_reducible apply foldl_ok | split

theorem Chip.loseRows_ok (hit : Seg → Bool) (x : FillDone) {s : Chip} (h : s.Ok b) : Chip.Ok b (Chip.loseRows hit x s) := by
  unfold Chip.loseRows
  dsimp only
  repeat' (first | with_reducible assumption | intro _ | with_reducible apply Chip.failCtx_ok | with_reducible apply foldl_ok | split)
  all_goals grind [Chip.failCtx_ok, Chip.Ok, foldl_ok]

theorem Chip.failRows_ok (x : FillDone) {s : Chip} (h : s.Ok b) : Chip.Ok b (Chip.failRows x s) := by
  unfold Chip.failRows
  dsimp only
  repeat' (first | with_reducible assumption | intro _ | with_reducible apply Chip.loseRows_ok | with_reducible apply foldl_ok | split)
  all_goals grind [Chip.loseRows_ok, Chip.Ok, foldl_ok]

theorem Chip.pinFor_ok (line : ℕ) {s : Chip} (h : s.Ok b) : Chip.Ok b (Chip.pinFor line s) := by
  unfold Chip.pinFor
  dsimp only
  repeat' (first | with_reducible assumption | intro _ | with_reducible apply Chip.updLine_ok | with_reducible apply foldl_ok | split)
  all_goals grind [Chip.updLine_ok, Chip.Ok, foldl_ok]

theorem rowCacheFill_ok (id : ℕ) {s : Chip} (h : s.Ok b) : Chip.Ok b (rowCacheFill id s) := by
  unfold rowCacheFill
  split
  · exact h
  · split
    · exact h
    · rename_i hu
      have h0 := Chip.installFill_ok _ h _ hu
      dsimp only
      repeat' first
          | with_reducible assumption | with_reducible apply Chip.pumpList_ok | with_reducible apply Chip.failRows_ok
          | with_reducible apply Chip.failCtx_ok | with_reducible apply Chip.pinFor_ok | with_reducible apply Chip.landDests_ok
          | with_reducible apply Chip.dropFill_ok | with_reducible apply foldl_ok | intro _ | split

theorem Chip.dropStg_ok (c : ℕ) (r : PortReq) {s : Chip} (h : s.Ok b) : Chip.Ok b (Chip.dropStg c r s) := by
  unfold Chip.dropStg
  dsimp only
  repeat' (first | with_reducible assumption | intro _ | with_reducible apply Chip.updCtx_ok | with_reducible apply foldl_ok | split)

theorem prefetchFillLand_ok (c : ℕ) (id : ℕ) {s : Chip} (h : s.Ok b) : Chip.Ok b (prefetchFillLand c id s) := by
  unfold prefetchFillLand
  split
  · exact h
  · rename_i x _
    dsimp only
    split
    · exact h
    · rename_i u hu
      have h0 : u.Ok b := by
        split at hu
        · cases hu
          repeat' first
              | with_reducible assumption | with_reducible apply Chip.deliver_ok | with_reducible apply Chip.dropStg_ok
              | with_reducible apply foldl_ok | intro _ | split
        · rw [Option.map_eq_some_iff] at hu
          obtain ⟨v, hv, rfl⟩ := hu
          refine Chip.pinFor_ok _ (Chip.landDests_ok _ (Chip.installFill_ok _ ?_ _ hv))
          split <;> [exact Chip.dropStg_ok _ _ h; exact h]
      repeat' first
          | with_reducible assumption | with_reducible apply Chip.pumpList_ok | with_reducible apply Chip.groupEnd_ok
          | with_reducible apply Chip.report_ok | with_reducible apply Chip.dropFill_ok | with_reducible apply foldl_ok | intro _ | split

theorem tornRowRetry_ok (c : ℕ) {s : Chip} (h : s.Ok b) : Chip.Ok b (tornRowRetry c s) := by
  unfold tornRowRetry
  grind [Chip.heard_ok, Chip.updXfer_ok, Chip.Ok, foldl_ok]

/-! ### `Machine/Embed.lean` -/

theorem Chip.notePos_ok (run : ℕ) (key : ℕ) (pos : ℕ) {s : Chip} (h : s.Ok b) : Chip.Ok b (Chip.notePos run key pos s) := h

theorem Chip.askSectors_ok (need : BitVec 4) (r : PortReq) {s : Chip} (h : s.Ok b) : Chip.Ok b (Chip.askSectors need r s) := by
  unfold Chip.askSectors
  grind [Chip.enq_ok, Chip.Ok, foldl_ok]

theorem Chip.updSeg_ok (id : ℕ) (f : Seg → Seg) {s : Chip} (h : s.Ok b) : Chip.Ok b (Chip.updSeg id f s) := h

theorem Chip.countCasts_ok (lead : ℕ) (sat : ℕ) (nan : ℕ) {s : Chip} (h : s.Ok b) : Chip.Ok b (Chip.countCasts lead sat nan s) := by
  unfold Chip.countCasts
  grind [Chip.bump_ok, Chip.Ok, foldl_ok]

theorem Chip.dropSeg_ok (id : ℕ) {s : Chip} (h : s.Ok b) : Chip.Ok b (Chip.dropSeg id s) := h

theorem Chip.applySeg_ok (g : Seg) {s : Chip} (h : s.Ok b) : ∀ z, Chip.applySeg g s = some z → z.Ok b := by
  intro z hz
  unfold Chip.applySeg at hz
  dsimp only at hz
  rw [Option.map_eq_some_iff] at hz
  obtain ⟨u, hu, rfl⟩ := hz
  exact Chip.notePos_ok _ _ _ (Chip.countCasts_ok _ _ _ (Chip.rcWrite_ok _ _ _ _ _ _ (Chip.dropSeg_ok _ h) _ hu))

theorem Chip.combineThrough_ok (g : Seg) {s : Chip} (h : s.Ok b) : Chip.Ok b (Chip.combineThrough g s) := by
  unfold Chip.combineThrough
  dsimp only
  repeat' first
      | with_reducible assumption | intro _ | with_reducible apply Chip.updSeg_ok | with_reducible apply Chip.enq_ok
      | with_reducible apply Chip.dropFill_ok | with_reducible apply Chip.notePos_ok | with_reducible apply Chip.countCasts_ok
      | with_reducible apply foldl_ok | split

theorem combineSegment_ok (id : ℕ) {s : Chip} (h : s.Ok b) : Chip.Ok b (combineSegment id s) := by
  unfold combineSegment
  split
  · exact h
  · rename_i g _
    have h0 : Chip.Ok b (if (!g.missed && g.needs true != 0 && g.grp.isNone) = true then s.countRowSectors Reg.rcEmbhit 1 else s) := by
      split <;> [exact Chip.countRowSectors_ok _ _ h; exact h]
    dsimp only
    generalize (if (!g.missed && g.needs true != 0 && g.grp.isNone) = true then s.countRowSectors Reg.rcEmbhit 1 else s) = u at h0 ⊢
    repeat' first
        | with_reducible assumption | with_reducible apply Chip.pumpAll_ok | with_reducible apply Chip.dropSeg_ok
        | with_reducible apply Chip.combineThrough_ok | with_reducible apply Chip.askSectors_ok | with_reducible apply Chip.updSeg_ok
        | with_reducible apply Chip.countRowSectors_ok | with_reducible apply foldl_ok | intro _ | split
    all_goals
      rename_i hu
      exact Chip.applySeg_ok _ h0 _ hu

theorem Chip.combineDone_ok (id : ℕ) {s : Chip} (h : s.Ok b) : Chip.Ok b (Chip.combineDone id s) := by
  unfold Chip.combineDone
  grind [Chip.pumpAll_ok, Chip.dropSeg_ok, Chip.Ok, foldl_ok]

theorem Chip.updGroup_ok (id : ℕ) (f : RowGroup → RowGroup) {s : Chip} (h : s.Ok b) : Chip.Ok b (Chip.updGroup id f s) := h

theorem Chip.putBytesAt_ok (line : ℕ) (part : ℕ) (cls : ℕ) (bs : List (ℕ × Byte × Byte)) {s : Chip} (h : s.Ok b) :
    ∀ z, Chip.putBytesAt line part cls bs s = some z → z.Ok b := by
  unfold Chip.putBytesAt
  intros
  dsimp only at *
  repeat' (first | with_reducible assumption | intro _ | with_reducible apply Chip.rcWrite_ok | with_reducible apply foldl_ok | split)

theorem Chip.addBody_ok (g : RowGroup) {s : Chip} (h : s.Ok b) : Chip.Ok b (Chip.addBody g s) := by
  unfold Chip.addBody
  dsimp only
  repeat' (first | with_reducible assumption | intro _ | with_reducible apply foldl_ok | split)
  all_goals grind [Chip.Ok, foldl_ok]

theorem Chip.repin_ok (lines : List ℕ) {s : Chip} (h : s.Ok b) : Chip.Ok b (Chip.repin lines s) := by
  unfold Chip.repin
  grind [Chip.updLine_ok, Chip.Ok, foldl_ok]

theorem Chip.dropGroup_ok (g : RowGroup) {s : Chip} (h : s.Ok b) : Chip.Ok b (Chip.dropGroup g s) := by
  unfold Chip.dropGroup
  grind [Chip.pumpAll_ok, Chip.repin_ok, Chip.Ok, foldl_ok]

theorem Chip.headerWrite_ok (g : RowGroup) (exit : ℕ) (bs : List (ℕ × Byte × Byte)) {s : Chip} (h : s.Ok b) :
    Chip.Ok b (Chip.headerWrite g exit bs s) := by
  unfold Chip.headerWrite
  dsimp only
  repeat' (first | with_reducible assumption | intro _ | with_reducible apply Chip.enq_ok | with_reducible apply foldl_ok | split)

theorem Chip.entered_ok (g : RowGroup) (v : ℕ) {s : Chip} (h : s.Ok b) : Chip.Ok b (Chip.entered g v s) := by
  unfold Chip.entered
  grind [Chip.notePos_ok, Chip.addBody_ok, Chip.updGroup_ok, Chip.Ok, foldl_ok]

theorem Chip.enterThrough_ok (g : RowGroup) {s : Chip} (h : s.Ok b) : Chip.Ok b (Chip.enterThrough g s) := by
  unfold Chip.enterThrough
  dsimp only
  repeat' first
      | with_reducible assumption | intro _ | with_reducible apply Chip.entered_ok | with_reducible apply Chip.headerWrite_ok
      | with_reducible apply Chip.dropFill_ok | with_reducible apply Chip.enq_ok | with_reducible apply foldl_ok | split

theorem rowUpdateEnter_ok (id : ℕ) {s : Chip} (h : s.Ok b) : Chip.Ok b (rowUpdateEnter id s) := by
  unfold rowUpdateEnter
  split
  · exact h
  · rename_i g _
    have h0 : Chip.Ok b ((g.lines.filter s.cachedLoc).foldl (fun s l => s.pinFor l) s) := foldl_ok (fun t x ht => Chip.pinFor_ok _ ht) h
    dsimp only
    split
    · exact h
    · split
      · exact Chip.dropGroup_ok _ h
      · generalize List.foldl _ s _ = u at h0 ⊢
        repeat' first
            | with_reducible assumption | with_reducible apply Chip.askSectors_ok | with_reducible apply Chip.enterThrough_ok
            | with_reducible apply foldl_ok | intro _ | split
        rename_i hu
        exact Chip.entered_ok _ _ (Chip.putBytesAt_ok _ _ _ _ h0 _ hu)

theorem rowUpdateExit_ok (id : ℕ) {s : Chip} (h : s.Ok b) : Chip.Ok b (rowUpdateExit id s) := by
  unfold rowUpdateExit
  grind [Chip.headerWrite_ok, Chip.putBytesAt_ok, Chip.dropGroup_ok, Chip.Ok, foldl_ok]

theorem rowUpdateAbandon_ok (id : ℕ) {s : Chip} (h : s.Ok b) : Chip.Ok b (rowUpdateAbandon id s) := by
  unfold rowUpdateAbandon
  dsimp only
  repeat' first
      | with_reducible assumption | intro _ | with_reducible apply Chip.dropGroup_ok | with_reducible apply Chip.report_ok
      | with_reducible apply Chip.updCtx_ok | with_reducible apply foldl_ok | split

theorem Chip.headerFails_ok (id : ℕ) (x : FillDone) {s : Chip} (h : s.Ok b) : Chip.Ok b (Chip.headerFails id x s) := by
  unfold Chip.headerFails
  grind [Chip.updGroup_ok, Chip.Ok, foldl_ok]

theorem Chip.headerDone_ok (r : PortReq) (id : ℕ) {s : Chip} (h : s.Ok b) : Chip.Ok b (Chip.headerDone r id s) := by
  unfold Chip.headerDone
  grind [Chip.dropGroup_ok, Chip.Ok, foldl_ok]

end Sys2Proof.Machine
end

