-- ==== Sys2Proof/Laws/KeepPorts.lean ====
section
/-! SUPPORT. Every operation keeps the tables of the block canonical and its build as it is: block reset, the data ports, the Dweath link, landings, the shadow checker.

`f_ok` says of the operation `f`: from a block with `Chip.Ok b` it gives one with `Chip.Ok b`. -/

set_option Elab.async false
set_option linter.unusedTactic false
set_option linter.unreachableTactic false

namespace Sys2Proof.Machine

variable {b : Build}

/-! ### `Machine/Reset.lean` -/

theorem Chip.forceSeg_ok (g : Seg) {s : Chip} (h : s.Ok b) : Chip.Ok b (Chip.forceSeg g s) := by
  unfold Chip.forceSeg
  dsimp only
  repeat' first
      | with_reducible assumption | intro _ | with_reducible apply Chip.notePos_ok | with_reducible apply Chip.memWrite_ok
      | with_reducible apply foldl_ok | split

theorem Chip.forceGroup_ok (g : RowGroup) {s : Chip} (h : s.Ok b) : Chip.Ok b (Chip.forceGroup g s) := by
  unfold Chip.forceGroup
  dsimp only
  repeat' first
      | with_reducible assumption | intro _ | with_reducible apply Chip.notePos_ok | with_reducible apply Chip.memWrite_ok
      | with_reducible apply foldl_ok | split

theorem Chip.completeRows_ok {s : Chip} (h : s.Ok b) : Chip.Ok b (Chip.completeRows s) := by
  unfold Chip.completeRows
  grind [Chip.forceGroup_ok, Chip.forceSeg_ok, Chip.Ok, foldl_ok]

theorem Chip.resetState_ok (host : Bool) {s : Chip} (h : s.Ok b) : Chip.Ok b (Chip.resetState host s) := by
  unfold Chip.resetState
  exact Chip.loadLfsrs_ok ⟨h.1, h.2.1, rfl, rfl, rfl⟩

theorem Chip.blockStepThree_ok (host : Bool) {s : Chip} (h : s.Ok b) : Chip.Ok b (Chip.blockStepThree host s) := by
  unfold Chip.blockStepThree
  grind [Chip.resetState_ok, Chip.completeRows_ok, Chip.Ok, foldl_ok]

/-! ### `Machine/Shadow.lean` -/

theorem Chip.updSampleAt_ok (m : ℕ) (id : ℕ) (f : Sample → Sample) {s : Chip} (h : s.Ok b) : Chip.Ok b (Chip.updSampleAt m id f s) := by
  unfold Chip.updSampleAt
  grind [Chip.updMov_ok, Chip.Ok, foldl_ok]

theorem Chip.updShadow_ok (m : ℕ) (id : ℕ) (f : Xfer → Xfer) {s : Chip} (h : s.Ok b) : Chip.Ok b (Chip.updShadow m id f s) := by
  unfold Chip.updShadow
  grind [Chip.updSampleAt_ok, Chip.Ok, foldl_ok]

theorem Chip.shadowStuck_ok (m : ℕ) (id : ℕ) {s : Chip} (h : s.Ok b) : Chip.Ok b (Chip.shadowStuck m id s) := by
  unfold Chip.shadowStuck
  grind [Chip.updSampleAt_ok, Chip.Ok, foldl_ok]

theorem Chip.shadowDeliver_ok (m : ℕ) (d : Dest) (g : Granule) {s : Chip} (h : s.Ok b) : Chip.Ok b (Chip.shadowDeliver m d g s) := by
  unfold Chip.shadowDeliver
  grind [Chip.updShadow_ok, Chip.Ok, foldl_ok]

theorem Chip.shadowFails_ok (m : ℕ) (ids : List ℕ) {s : Chip} (h : s.Ok b) : Chip.Ok b (Chip.shadowFails m ids s) := by
  unfold Chip.shadowFails
  grind [Chip.shadowStuck_ok, Chip.Ok, foldl_ok]

theorem Chip.shadowCount_ok (k : ℕ) (r : ℕ) (lo : ℕ) (n : ℕ) (v : ℕ) {s : Chip} (h : s.Ok b) : Chip.Ok b (Chip.shadowCount k r lo n v s) := by
  unfold Chip.shadowCount
  grind [Chip.bump_ok, Chip.Ok, foldl_ok]

theorem Chip.shadowTouch_ok (m : ℕ) (k : ℕ) (p : Sample) (va : ℕ) {s : Chip} (h : s.Ok b) : Chip.Ok b (Chip.shadowTouch m k p va s) := by
  unfold Chip.shadowTouch
  grind [Chip.updSampleAt_ok, Chip.tlbTouch_ok, Chip.Ok, foldl_ok]

theorem Chip.shadowAsk_ok (m : ℕ) (k : ℕ) (p : Sample) (l : SLine) {s : Chip} (h : s.Ok b) : Chip.Ok b (Chip.shadowAsk m k p l s).1 := by
  unfold Chip.shadowAsk
  intros
  dsimp only at *
  repeat' first
      | with_reducible assumption | intro _ | with_reducible apply Chip.needWalk_ok | with_reducible apply Chip.updShadow_ok
      | with_reducible apply Chip.useRd_ok | with_reducible apply Chip.shadowTouch_ok | with_reducible apply Chip.shadowStuck_ok
      | with_reducible apply Chip.shadowDeliver_ok | with_reducible apply Chip.enq_ok | with_reducible apply foldl_ok | split

theorem Chip.shadowRead_ok (m : ℕ) (k : ℕ) (p : Sample) (t : Xfer) (v : View) (xi : XI) (l : List Need) {s : Chip} (h : s.Ok b) :
    Chip.Ok b (Chip.shadowRead m k p t v xi l s).1 := by
  unfold Chip.shadowRead
  intros
  dsimp only at *
  repeat' first
      | with_reducible assumption | intro _ | with_reducible apply Chip.updShadow_ok | with_reducible apply Chip.shadowCount_ok
      | with_reducible apply Chip.shadowAsk_ok | with_reducible apply foldl_ok | split

theorem Chip.shadowUnit_ok (m : ℕ) (k : ℕ) (p : Sample) (xi : XI) (o : UOut) (pop : Xfer → Xfer) {s : Chip} (h : s.Ok b) :
    Chip.Ok b (Chip.shadowUnit m k p xi o pop s).1 := by
  unfold Chip.shadowUnit
  intros
  dsimp only at *
  repeat' first
      | with_reducible assumption | intro _ | with_reducible apply Chip.shadowCount_ok | with_reducible apply Chip.updShadow_ok
      | with_reducible apply foldl_ok | split

theorem Chip.shadowEnds_ok (m : ℕ) (p : Sample) (t : Xfer) {s : Chip} (h : s.Ok b) : Chip.Ok b (Chip.shadowEnds m p t s) := by
  unfold Chip.shadowEnds
  grind [Chip.updSampleAt_ok, Chip.Ok, foldl_ok]

theorem Chip.shadowNext_ok (m : ℕ) (k : ℕ) (p : Sample) (t : Xfer) (v : View) (xi : XI) {s : Chip} (h : s.Ok b) :
    Chip.Ok b (Chip.shadowNext m k p t v xi s).1 := by
  unfold Chip.shadowNext
  grind [Chip.shadowEnds_ok, Chip.shadowStuck_ok, Chip.shadowRead_ok, Chip.shadowUnit_ok, Chip.Ok, foldl_ok]

theorem Chip.shadowPool_ok (m : ℕ) (k : ℕ) (p : Sample) (t : Xfer) (xi : XI) {s : Chip} (h : s.Ok b) :
    Chip.Ok b (Chip.shadowPool m k p t xi s).1 := by
  unfold Chip.shadowPool
  intros
  dsimp only at *
  repeat' first
      | with_reducible assumption | intro _ | with_reducible apply Chip.shadowNext_ok | with_reducible apply Chip.shadowStuck_ok
      | with_reducible apply Chip.updShadow_ok | with_reducible apply Chip.shadowRead_ok | with_reducible apply Chip.shadowUnit_ok
      | with_reducible apply foldl_ok | split

theorem Chip.shadowList_ok (m : ℕ) (k : ℕ) (p : Sample) (t : Xfer) (xi : XI) (l : List Need) {s : Chip} (h : s.Ok b) :
    Chip.Ok b (Chip.shadowList m k p t xi l s).1 := by
  unfold Chip.shadowList
  intros
  dsimp only at *
  repeat' first
      | with_reducible assumption | intro _ | with_reducible apply Chip.updShadow_ok | with_reducible apply Chip.shadowAsk_ok
      | with_reducible apply foldl_ok | split

theorem Chip.shadowMset_ok (m : ℕ) (k : ℕ) (p : Sample) (t : Xfer) (xi : XI) {s : Chip} (h : s.Ok b) :
    Chip.Ok b (Chip.shadowMset m k p t xi s).1 := by
  unfold Chip.shadowMset
  grind [Chip.shadowList_ok, Chip.shadowStuck_ok, Chip.updShadow_ok, Chip.shadowNext_ok, Chip.Ok, foldl_ok]

theorem Chip.shadowStep_ok (m : ℕ) (k : ℕ) (id : ℕ) {s : Chip} (h : s.Ok b) : Chip.Ok b (Chip.shadowStep m k id s).1 := by
  unfold Chip.shadowStep
  intros
  dsimp only at *
  repeat' first
      | with_reducible assumption | intro _ | with_reducible apply Chip.updShadow_ok | with_reducible apply Chip.shadowMset_ok
      | with_reducible apply Chip.shadowPool_ok | with_reducible apply Chip.shadowNext_ok | with_reducible apply foldl_ok | split

theorem Chip.shadowN_ok (m : ℕ) (k : ℕ) (id : ℕ) (a3 : ℕ) {a4 : Chip} (h : a4.Ok b) : Chip.Ok b (Chip.shadowN m k id a3 a4) := by
  induction a3 generalizing a4 with
  | zero => exact h
  | succ n ih =>
    unfold Chip.shadowN
    have h1 := Chip.shadowStep_ok m k id h
    split
    · rename_i e; rw [e] at h1; exact ih h1
    · rename_i e; rw [e] at h1; exact h1

theorem shadowReexec_ok (m : ℕ) {s : Chip} (h : s.Ok b) : Chip.Ok b (shadowReexec m s) := by
  unfold shadowReexec
  grind [Chip.shadowN_ok, Chip.updSampleAt_ok, Chip.Ok, foldl_ok]

theorem Chip.shadowWalked_ok (m : ℕ) (w : PWalk) {s : Chip} (h : s.Ok b) : Chip.Ok b (Chip.shadowWalked m w s) := by
  unfold Chip.shadowWalked
  grind [Chip.updSampleAt_ok, Chip.report_ok, Chip.shadowStuck_ok, Chip.Ok, foldl_ok]

theorem Chip.dropSample_ok (m : ℕ) (p : Sample) {s : Chip} (h : s.Ok b) : Chip.Ok b (Chip.dropSample m p s) := by
  unfold Chip.dropSample
  grind [Chip.updMov_ok, Chip.leaveWalk_ok, Chip.Ok, foldl_ok]

theorem Chip.skipSample_ok (m : ℕ) (p : Sample) {s : Chip} (h : s.Ok b) : Chip.Ok b (Chip.skipSample m p s) := by
  unfold Chip.skipSample
  grind [Chip.bump_ok, Chip.dropSample_ok, Chip.Ok, foldl_ok]

theorem Chip.injectDigest_ok (m : ℕ) {s : Chip} (h : s.Ok b) : Chip.Ok b (Chip.injectDigest m s).1 := by
  unfold Chip.injectDigest
  intros
  dsimp only at *
  repeat' (first | with_reducible assumption | intro _ | with_reducible apply Chip.setReg_ok | with_reducible apply foldl_ok | split)

theorem Chip.writeEvidence_ok (m : ℕ) (partner : ℕ) (p : Sample) (d : Word) (d2 : Word) {s : Chip} (h : s.Ok b) :
    Chip.Ok b (Chip.writeEvidence m partner p d d2 s) := by
  unfold Chip.writeEvidence
  grind [Chip.maintWrite_ok, Chip.report_ok, Chip.setF_ok, Chip.Ok, foldl_ok]

theorem Chip.reportSdc_ok (m : ℕ) (partner : ℕ) (p : Sample) (d : Word) (d2 : Word) {s : Chip} (h : s.Ok b) :
    Chip.Ok b (Chip.reportSdc m partner p d d2 s) := by
  unfold Chip.reportSdc
  dsimp only
  repeat' first
      | with_reducible assumption | intro _ | with_reducible apply Chip.writeEvidence_ok | with_reducible apply Chip.report_ok
      | with_reducible apply foldl_ok | split
  all_goals grind [Chip.writeEvidence_ok, Chip.report_ok, Chip.Ok, foldl_ok]

theorem shadowCompare_ok (m : ℕ) (err : Word) {s : Chip} (h : s.Ok b) : Chip.Ok b (shadowCompare m err s) := by
  unfold shadowCompare
  dsimp only
  repeat' first
      | with_reducible assumption | intro _ | with_reducible apply Chip.skipSample_ok | with_reducible apply Chip.injectDigest_ok
      | with_reducible apply Chip.dropSample_ok | with_reducible apply Chip.reportSdc_ok | with_reducible apply foldl_ok | split

theorem shadowTimeout_ok (m : ℕ) {s : Chip} (h : s.Ok b) : Chip.Ok b (shadowTimeout m s) := by
  unfold shadowTimeout
  grind [Chip.skipSample_ok, Chip.Ok, foldl_ok]

/-! ### `Machine/Ports.lean` -/

theorem Chip.flushSectors_ok (g : ℕ) (v : BitVec 4) {s : Chip} (h : s.Ok b) : Chip.Ok b (Chip.flushSectors g v s) := by
  unfold Chip.flushSectors
  dsimp only
  repeat' first
      | with_reducible assumption | intro _ | with_reducible apply Chip.updLine_ok | with_reducible apply Chip.staleWb_ok
      | with_reducible apply Chip.commitWrite_ok | with_reducible apply foldl_ok | split

theorem Chip.countGrant_ok (l : Lane) (st : ℕ) (r : PortReq) {s : Chip} (h : s.Ok b) : Chip.Ok b (Chip.countGrant l st r s) := by
  unfold Chip.countGrant
  dsimp only
  repeat' (first | with_reducible assumption | intro _ | with_reducible apply Chip.updLane_ok | with_reducible apply foldl_ok | split)
  all_goals grind [Chip.updLane_ok, Chip.Ok, foldl_ok]

theorem Chip.writeGranted_ok (r : PortReq) {s : Chip} (h : s.Ok b) : Chip.Ok b (Chip.writeGranted r s) := by
  unfold Chip.writeGranted
  dsimp only
  repeat' first
      | with_reducible assumption | intro _ | with_reducible apply Chip.flushSectors_ok | with_reducible apply Chip.commitWrite_ok
      | with_reducible apply Chip.lineThrough_ok | with_reducible apply foldl_ok | split

theorem portGrant_ok (l : Lane) {s : Chip} (h : s.Ok b) : Chip.Ok b (portGrant l s) := by
  unfold portGrant
  dsimp only
  repeat' first
      | with_reducible assumption | intro _ | with_reducible apply Chip.countGrant_ok | with_reducible apply Chip.writeGranted_ok
      | with_reducible apply Chip.progressOf_ok | with_reducible apply foldl_ok | split | with_reducible apply ok_lit

theorem quotaWindow_ok {s : Chip} (h : s.Ok b) : Chip.Ok b (quotaWindow s) := h

theorem issueWindow_ok {s : Chip} (h : s.Ok b) : Chip.Ok b (issueWindow s) := by
  unfold issueWindow
  dsimp only
  repeat' first
      | with_reducible assumption | intro _ | with_reducible apply Chip.updMov_ok | with_reducible apply Chip.pumpAll_ok
      | with_reducible apply Chip.linesGo_ok | with_reducible apply foldl_ok | split

theorem Chip.violate_ok (l : Lane) (k : ℕ) (tag : ℕ) {s : Chip} (h : s.Ok b) : Chip.Ok b (Chip.violate l k tag s) := by
  unfold Chip.violate
  grind [Chip.report_ok, Chip.bump_ok, Chip.Ok, foldl_ok]

theorem Chip.revertWrite_ok (o : Outst) (keep : ℕ → Bool) {s : Chip} (h : s.Ok b) : Chip.Ok b (Chip.revertWrite o keep s) := by
  unfold Chip.revertWrite
  dsimp only
  repeat' (first | with_reducible assumption | intro _ | with_reducible apply Chip.commitWrite_ok | with_reducible apply foldl_ok | split)

theorem Chip.ringAck_ok (k : ReqKind) {s : Chip} (h : s.Ok b) : Chip.Ok b (Chip.ringAck k s) := by
  unfold Chip.ringAck
  dsimp only
  repeat' first
      | with_reducible assumption | intro _ | with_reducible apply Chip.setF_ok | with_reducible apply Chip.raise_ok
      | with_reducible apply foldl_ok | split

theorem Chip.updDump_ok (part : Option ℕ) (f : Dump → Option Dump) {s : Chip} (h : s.Ok b) : Chip.Ok b (Chip.updDump part f s) := h

theorem Chip.dumpSkipped_ok (why : ℕ) (part : Option ℕ) {s : Chip} (h : s.Ok b) : Chip.Ok b (Chip.dumpSkipped why part s) := by
  unfold Chip.dumpSkipped
  grind [Chip.report_ok, Chip.bump_ok, Chip.updDump_ok, Chip.Ok, foldl_ok]

theorem Chip.dumpStops_ok (why : ℕ) (part : Option ℕ) {s : Chip} (h : s.Ok b) : Chip.Ok b (Chip.dumpStops why part s) := by
  unfold Chip.dumpStops
  dsimp only
  repeat' first
      | with_reducible assumption | intro _ | with_reducible apply Chip.dumpSkipped_ok | with_reducible apply Chip.blockStepThree_ok
      | with_reducible apply foldl_ok | split

theorem Chip.keepAnswer_ok (x : FillDone) {s : Chip} (h : s.Ok b) : Chip.Ok b (Chip.keepAnswer x s) := h

theorem Chip.writeDone_ok (o : Outst) (rsp : Rsp) {s : Chip} (h : s.Ok b) : Chip.Ok b (Chip.writeDone o rsp s) := by
  unfold Chip.writeDone
  dsimp only
  repeat' first
      | with_reducible assumption | intro _ | with_reducible apply Chip.revertWrite_ok | with_reducible apply Chip.endWb_ok
      | with_reducible apply Chip.report_ok | with_reducible apply Chip.updCtx_ok | with_reducible apply Chip.heard_ok
      | with_reducible apply Chip.updXfer_ok | with_reducible apply Chip.ringAck_ok | with_reducible apply Chip.ringDrop_ok
      | with_reducible apply Chip.updDump_ok | with_reducible apply Chip.dumpStops_ok | with_reducible apply Chip.keepAnswer_ok
      | with_reducible apply Chip.combineDone_ok | with_reducible apply Chip.failCtx_ok | with_reducible apply Chip.headerDone_ok
      | with_reducible apply Chip.pumpList_ok | with_reducible apply foldl_ok | split | with_reducible apply ok_lit

theorem Chip.xreadDone_ok (o : Outst) (d : Granule) (ok : BitVec 4) (rsp : Rsp) {s : Chip} (h : s.Ok b) :
    Chip.Ok b (Chip.xreadDone o d ok rsp s) := by
  unfold Chip.xreadDone
  dsimp only
  repeat' first
      | with_reducible assumption | intro _ | with_reducible apply Chip.deliver_ok | with_reducible apply Chip.failCtx_ok
      | with_reducible apply Chip.pumpList_ok | with_reducible apply foldl_ok | split

theorem Chip.readDone_ok (o : Outst) (d : Granule) (ok : BitVec 4) (rsp : Rsp) {s : Chip} (h : s.Ok b) : Chip.Ok b (Chip.readDone o d ok rsp s) := by
  unfold Chip.readDone
  dsimp only
  repeat' first
      | with_reducible assumption | intro _ | with_reducible apply Chip.xreadDone_ok | with_reducible apply Chip.walkRead_ok
      | with_reducible apply Chip.keepAnswer_ok | with_reducible apply Chip.report_ok | with_reducible apply Chip.shadowFails_ok
      | with_reducible apply Chip.shadowDeliver_ok | with_reducible apply Chip.heard_ok | with_reducible apply Chip.areaRead_ok
      | with_reducible apply Chip.pumpAll_ok | with_reducible apply Chip.loseRows_ok | with_reducible apply Chip.failCtx_ok
      | with_reducible apply Chip.headerFails_ok | with_reducible apply foldl_ok | split

theorem Chip.finish_ok (o : Outst) (d : Granule) (ok : BitVec 4) (rsp : Rsp) {s : Chip} (h : s.Ok b) : Chip.Ok b (Chip.finish o d ok rsp s) := by
  unfold Chip.finish
  dsimp only
  repeat' first
      | with_reducible assumption | intro _ | with_reducible apply Chip.dropWalk_ok | with_reducible apply Chip.combineDone_ok
      | with_reducible apply Chip.headerDone_ok | with_reducible apply Chip.progressOf_ok | with_reducible apply Chip.writeDone_ok
      | with_reducible apply Chip.readDone_ok | with_reducible apply foldl_ok | split
  all_goals grind [Chip.dropWalk_ok, Chip.combineDone_ok, Chip.headerDone_ok, Chip.progressOf_ok, Chip.writeDone_ok, Chip.readDone_ok, Chip.Ok,
    foldl_ok]

theorem Chip.updOut_ok (o : Outst) (f : Outst → Outst) {s : Chip} (h : s.Ok b) : Chip.Ok b (Chip.updOut o f s) := h

theorem Chip.failOut_ok (o : Outst) {s : Chip} (h : s.Ok b) : Chip.Ok b (Chip.failOut o s) := by
  unfold Chip.failOut
  grind [Chip.finish_ok, Chip.Ok, foldl_ok]

theorem Chip.learn_ok (o : Outst) (m : BitVec 256) (d : Granule) {s : Chip} (h : s.Ok b) : Chip.Ok b (Chip.learn o m d s) := by
  unfold Chip.learn
  dsimp only
  repeat' (first | with_reducible assumption | intro _ | with_reducible apply Chip.memWrite_ok | with_reducible apply foldl_ok | split)

theorem Chip.readEnds_ok (o : Outst) {s : Chip} (h : s.Ok b) : Chip.Ok b (Chip.readEnds o s) := by
  unfold Chip.readEnds
  dsimp only
  repeat' (first | with_reducible assumption | intro _ | with_reducible apply Chip.finish_ok | with_reducible apply foldl_ok | split)

theorem Chip.takeBeat_ok (o : Outst) (v : BitVec 4) (k : ℕ) (b1 : RspBeat) {s : Chip} (h : s.Ok b) : Chip.Ok b (Chip.takeBeat o v k b1 s) := by
  unfold Chip.takeBeat
  dsimp only
  repeat' first
      | with_reducible assumption | intro _ | with_reducible apply Chip.learn_ok | with_reducible apply Chip.bump_ok
      | with_reducible apply Chip.progressOf_ok | with_reducible apply Chip.updOut_ok | with_reducible apply Chip.readEnds_ok
      | with_reducible apply Chip.violate_ok | with_reducible apply foldl_ok | split

theorem Chip.readBeat_ok (l : Lane) (o : Outst) (b1 : RspBeat) {s : Chip} (h : s.Ok b) : Chip.Ok b (Chip.readBeat l o b1 s) := by
  unfold Chip.readBeat
  dsimp only
  repeat' first
      | with_reducible assumption | intro _ | with_reducible apply Chip.violate_ok | with_reducible apply Chip.readEnds_ok
      | with_reducible apply Chip.takeBeat_ok | with_reducible apply foldl_ok | split

theorem Chip.respond_ok (l : Lane) (b1 : RspBeat) {s : Chip} (h : s.Ok b) : Chip.Ok b (Chip.respond l b1 s) := by
  unfold Chip.respond
  dsimp only
  repeat' first
      | with_reducible assumption | intro _ | with_reducible apply Chip.bump_ok | with_reducible apply Chip.violate_ok
      | with_reducible apply Chip.failOut_ok | with_reducible apply Chip.finish_ok | with_reducible apply Chip.readBeat_ok
      | with_reducible apply foldl_ok | split

theorem portReadData_ok (l : Lane) (b1 : RspBeat) {s : Chip} (h : s.Ok b) : Chip.Ok b (portReadData l b1 s) := by
  unfold portReadData
  grind [Chip.respond_ok, Chip.Ok, foldl_ok]

theorem portWriteAck_ok (l : Lane) (b1 : RspBeat) {s : Chip} (h : s.Ok b) : Chip.Ok b (portWriteAck l b1 s) := by
  unfold portWriteAck
  grind [Chip.respond_ok, Chip.Ok, foldl_ok]

theorem portCreditReturn_ok (l : Lane) (wdat : Bool) {s : Chip} (h : s.Ok b) : Chip.Ok b (portCreditReturn l wdat s) := by
  unfold portCreditReturn
  dsimp only
  repeat' first
      | with_reducible assumption | intro _ | with_reducible apply Chip.violate_ok | with_reducible apply Chip.updLane_ok
      | with_reducible apply foldl_ok | split

theorem Chip.barTag_ok (o : Outst) (ticks : ℕ) {s : Chip} (h : s.Ok b) : Chip.Ok b (Chip.barTag o ticks s) := h

theorem txnTimeout_ok (l : Lane) (tag : ℕ) {s : Chip} (h : s.Ok b) : Chip.Ok b (txnTimeout l tag s) := by
  unfold txnTimeout
  grind [Chip.finish_ok, Chip.barTag_ok, Chip.bump_ok, Chip.Ok, foldl_ok]

theorem tagBarExpiry_ok (l : Lane) (tag : ℕ) {s : Chip} (h : s.Ok b) : Chip.Ok b (tagBarExpiry l tag s) := h

theorem portHoldWatchdog_ok (n : ℕ) {s : Chip} (h : s.Ok b) : Chip.Ok b (portHoldWatchdog n s) := by
  unfold portHoldWatchdog
  dsimp only
  repeat' first
      | with_reducible assumption | intro _ | with_reducible apply Chip.setReg_ok | with_reducible apply Chip.revertWrite_ok
      | with_reducible apply Chip.updLane_ok | with_reducible apply Chip.endWb_ok | with_reducible apply Chip.report_ok
      | with_reducible apply foldl_ok | split | with_reducible apply ok_lit

theorem fence_ok (c : ℕ) {a1 : Chip} (h : a1.Ok b) : Chip.Ok b (fence c a1) := by
  unfold fence
  dsimp only
  repeat' first
      | with_reducible assumption | intro _ | with_reducible apply Chip.issue_ok | with_reducible apply Chip.retireNext_ok
      | with_reducible apply Chip.waitFor_ok | with_reducible apply Chip.startWb_ok | with_reducible apply Chip.updCtx_ok
      | with_reducible apply foldl_ok | split

theorem fenceDone_ok (c : ℕ) {s : Chip} (h : s.Ok b) : Chip.Ok b (fenceDone c s) := by
  unfold fenceDone
  dsimp only
  repeat' first
      | with_reducible assumption | intro _ | with_reducible apply Chip.wake_ok | with_reducible apply Chip.retireNext_ok
      | with_reducible apply Chip.report_ok | with_reducible apply Chip.updCtx_ok | with_reducible apply foldl_ok | split

theorem progressWatchdog_ok (c : ℕ) {s : Chip} (h : s.Ok b) : Chip.Ok b (progressWatchdog c s) := by
  unfold progressWatchdog
  dsimp only
  repeat' first
      | with_reducible assumption | intro _ | with_reducible apply Chip.report_ok | with_reducible apply Chip.progressed_ok
      | with_reducible apply foldl_ok | split

/-! ### `Machine/Link.lean` -/

theorem Chip.dropDeleg_ok (src : ℕ) (mtag : ℕ) {s : Chip} (h : s.Ok b) : Chip.Ok b (Chip.dropDeleg src mtag s) := h

theorem Chip.abortGuest_ok (c : ℕ) {s : Chip} (h : s.Ok b) : Chip.Ok b (Chip.abortGuest c s) := by
  unfold Chip.abortGuest
  grind [Chip.request_ok, Chip.startAbort_ok, Chip.Ok, foldl_ok]

theorem Chip.overDeleg_ok (d : Deleg) {s : Chip} (h : s.Ok b) : Chip.Ok b (Chip.overDeleg d s) := by
  unfold Chip.overDeleg
  dsimp only
  repeat' first
      | with_reducible assumption | intro _ | with_reducible apply Chip.dropDeleg_ok | with_reducible apply foldl_ok | split
      | with_reducible apply ok_lit

theorem Chip.endDeleg_ok (d : Deleg) (status : ℕ) {s : Chip} (h : s.Ok b) : Chip.Ok b (Chip.endDeleg d status s) := by
  unfold Chip.endDeleg
  dsimp only
  repeat' first
      | with_reducible assumption | intro _ | with_reducible apply Chip.sendCmpl_ok | with_reducible apply Chip.overDeleg_ok
      | with_reducible apply Chip.abortGuest_ok | with_reducible apply foldl_ok | split

theorem Chip.malFrame_ok (n : ℕ) (h1 : BitVec 128) {s : Chip} (h : s.Ok b) : Chip.Ok b (Chip.malFrame n h1 s) := by
  unfold Chip.malFrame
  dsimp only
  repeat' first
      | with_reducible assumption | intro _ | with_reducible apply Chip.malformed_ok | with_reducible apply Chip.endLand_ok
      | with_reducible apply Chip.endDeleg_ok | with_reducible apply foldl_ok | split

theorem Chip.beginTraining_ok (n : ℕ) {s : Chip} (h : s.Ok b) : Chip.Ok b (Chip.beginTraining n s) := by
  unfold Chip.beginTraining
  grind [Chip.updPort_ok, Chip.Ok, foldl_ok]

theorem pcsLock_ok (n : ℕ) (lanes : BitVec 8) {s : Chip} (h : s.Ok b) : Chip.Ok b (pcsLock n lanes s) := by
  unfold pcsLock
  dsimp only
  repeat' first
      | with_reducible assumption | intro _ | with_reducible apply Chip.updPort_ok | with_reducible apply Chip.beginTraining_ok
      | with_reducible apply foldl_ok | split

theorem Chip.sendTrain_ok (n : ℕ) (step : ℕ) (e : ℕ) {s : Chip} (h : s.Ok b) : Chip.Ok b (Chip.sendTrain n step e s) := by
  unfold Chip.sendTrain
  dsimp only
  repeat' (first | with_reducible assumption | intro _ | with_reducible apply Chip.sendCtl_ok | with_reducible apply foldl_ok | split)

theorem trainProposeTimer_ok (n : ℕ) {s : Chip} (h : s.Ok b) : Chip.Ok b (trainProposeTimer n s) := by
  unfold trainProposeTimer
  grind [Chip.sendTrain_ok, Chip.Ok, foldl_ok]

theorem Chip.trainFails_ok (n : ℕ) {s : Chip} (h : s.Ok b) : Chip.Ok b (Chip.trainFails n s) := by
  unfold Chip.trainFails
  grind [Chip.linkReport_ok, Chip.updPort_ok, Chip.Ok, foldl_ok]

theorem trainTimeout_ok (n : ℕ) {s : Chip} (h : s.Ok b) : Chip.Ok b (trainTimeout n s) := by
  unfold trainTimeout
  grind [Chip.trainFails_ok, Chip.Ok, foldl_ok]

theorem trainRetry_ok (n : ℕ) {s : Chip} (h : s.Ok b) : Chip.Ok b (trainRetry n s) := by
  unfold trainRetry
  grind [Chip.beginTraining_ok, Chip.Ok, foldl_ok]

theorem Chip.goUp_ok (n : ℕ) {s : Chip} (h : s.Ok b) : Chip.Ok b (Chip.goUp n s) := by
  unfold Chip.goUp
  dsimp only
  repeat' first
      | with_reducible assumption | intro _ | with_reducible apply Chip.raise_ok | with_reducible apply Chip.updPort_ok
      | with_reducible apply foldl_ok | split

theorem Chip.trainFrame_ok (n : ℕ) (h1 : BitVec 128) {s : Chip} (h : s.Ok b) : Chip.Ok b (Chip.trainFrame n h1 s) := by
  unfold Chip.trainFrame
  dsimp only
  repeat' first
      | with_reducible assumption | intro _ | with_reducible apply Chip.trainFails_ok | with_reducible apply Chip.updPort_ok
      | with_reducible apply Chip.goUp_ok | with_reducible apply Chip.sendTrain_ok | with_reducible apply foldl_ok | split

theorem train_ok (n : ℕ) (f : Frame) {s : Chip} (h : s.Ok b) : Chip.Ok b (train n f s) := by
  unfold train
  grind [Chip.updPort_ok, Chip.malformed_ok, Chip.trainFrame_ok, Chip.Ok, foldl_ok]

theorem Chip.freeIngress_ok (n : ℕ) (vl : ℕ) {s : Chip} (h : s.Ok b) : Chip.Ok b (Chip.freeIngress n vl s) := by
  unfold Chip.freeIngress
  grind [Chip.updPort_ok, Chip.Ok, foldl_ok]

theorem Chip.dropWaiting_ok (n : ℕ) {s : Chip} (h : s.Ok b) : Chip.Ok b (Chip.dropWaiting n s) := by
  unfold Chip.dropWaiting
  dsimp only
  repeat' first
      | with_reducible assumption | intro _ | with_reducible apply Chip.updPort_ok | with_reducible apply Chip.freeIngress_ok
      | with_reducible apply Chip.discarded_ok | with_reducible apply foldl_ok | split

theorem Chip.linkDown_ok (n : ℕ) {s : Chip} (h : s.Ok b) : Chip.Ok b (Chip.linkDown n s) := by
  unfold Chip.linkDown
  grind [Chip.pumpAll_ok, Chip.dropWaiting_ok, Chip.portDown_ok, Chip.Ok, foldl_ok]

theorem linkSilence_ok (n : ℕ) {s : Chip} (h : s.Ok b) : Chip.Ok b (linkSilence n s) := by
  unfold linkSilence
  grind [Chip.linkDown_ok, Chip.Ok, foldl_ok]

theorem laneLockLoss_ok (n : ℕ) (lanes : BitVec 8) {s : Chip} (h : s.Ok b) : Chip.Ok b (laneLockLoss n lanes s) := by
  unfold laneLockLoss
  dsimp only
  repeat' first
      | with_reducible assumption | intro _ | with_reducible apply Chip.updPort_ok | with_reducible apply Chip.linkReport_ok
      | with_reducible apply Chip.linkDown_ok | with_reducible apply foldl_ok | split

theorem Chip.pcsDown_ok (n : ℕ) (src : ℕ) {s : Chip} (h : s.Ok b) : Chip.Ok b (Chip.pcsDown n src s) := by
  unfold Chip.pcsDown
  grind [Chip.linkReport_ok, Chip.linkDown_ok, Chip.updPort_ok, Chip.Ok, foldl_ok]

theorem pcsError_ok (n : ℕ) {s : Chip} (h : s.Ok b) : Chip.Ok b (pcsError n s) := by
  unfold pcsError
  grind [Chip.pcsDown_ok, Chip.Ok, foldl_ok]

theorem rxFifoOverflow_ok (n : ℕ) {s : Chip} (h : s.Ok b) : Chip.Ok b (rxFifoOverflow n s) := by
  unfold rxFifoOverflow
  grind [Chip.pcsDown_ok, Chip.Ok, foldl_ok]

theorem Chip.resend_ok (n : ℕ) (from_ : ℕ) {s : Chip} (h : s.Ok b) : Chip.Ok b (Chip.resend n from_ s) := by
  unfold Chip.resend
  dsimp only
  repeat' first
      | with_reducible assumption | intro _ | with_reducible apply Chip.linkDown_ok | with_reducible apply Chip.bump_ok
      | with_reducible apply Chip.updPort_ok | with_reducible apply foldl_ok | split

theorem replayTimer_ok (n : ℕ) {s : Chip} (h : s.Ok b) : Chip.Ok b (replayTimer n s) := by
  unfold replayTimer
  grind [Chip.resend_ok, Chip.Ok, foldl_ok]

theorem Chip.moveOne_ok (a : ℕ) (n : ℕ) {s : Chip} (h : s.Ok b) : Chip.Ok b (Chip.moveOne a n s) := by
  unfold Chip.moveOne
  grind [Chip.queueFrame_ok, Chip.freeIngress_ok, Chip.updPort_ok, Chip.Ok, foldl_ok]

theorem Chip.moveWaiting_ok (n : ℕ) (a1 : ℕ) {a2 : Chip} (h : a2.Ok b) : Chip.Ok b (Chip.moveWaiting n a1 a2) := by
  induction a1 generalizing a2 with
  | zero => exact h
  | succ k ih => unfold Chip.moveWaiting; exact ih (foldl_ok (fun t x ht => Chip.moveOne_ok _ _ ht) h)

theorem Chip.egressFreed_ok (n : ℕ) {s : Chip} (h : s.Ok b) : Chip.Ok b (Chip.egressFreed n s) := by
  unfold Chip.egressFreed
  grind [Chip.pumpAll_ok, Chip.linkFlush_ok, Chip.moveWaiting_ok, Chip.Ok, foldl_ok]

theorem Chip.crcFail_ok (n : ℕ) {s : Chip} (h : s.Ok b) : Chip.Ok b (Chip.crcFail n s) := by
  unfold Chip.crcFail
  dsimp only
  repeat' first
      | with_reducible assumption | intro _ | with_reducible apply Chip.bump_ok | with_reducible apply Chip.sendNack_ok
      | with_reducible apply foldl_ok | split

theorem Chip.frameCheck_ok (n : ℕ) (f : Frame) {s : Chip} (h : s.Ok b) : Chip.Ok b (Chip.frameCheck n f s).1 := by
  unfold Chip.frameCheck
  intros
  dsimp only at *
  repeat' first
      | with_reducible assumption | intro _ | with_reducible apply Chip.updPort_ok | with_reducible apply Chip.bump_ok
      | with_reducible apply Chip.crcFail_ok | with_reducible apply foldl_ok | split

theorem Chip.noEgress_ok (n : ℕ) (vl : ℕ) (h1 : BitVec 128) {s : Chip} (h : s.Ok b) : Chip.Ok b (Chip.noEgress n vl h1 s) := by
  unfold Chip.noEgress
  grind [Chip.pumpAll_ok, Chip.discarded_ok, Chip.freeIngress_ok, Chip.Ok, foldl_ok]

theorem Chip.routeFrame_ok (n : ℕ) (f : Frame) {s : Chip} (h : s.Ok b) : Chip.Ok b (Chip.routeFrame n f s) := by
  unfold Chip.routeFrame
  dsimp only
  repeat' first
      | with_reducible assumption | intro _ | with_reducible apply Chip.malFrame_ok | with_reducible apply Chip.freeIngress_ok
      | with_reducible apply Chip.updPort_ok | with_reducible apply Chip.noEgress_ok | with_reducible apply Chip.queueFrame_ok
      | with_reducible apply foldl_ok | split

theorem Chip.takeFrame_ok (n : ℕ) (f : Frame) {s : Chip} (h : s.Ok b) : Chip.Ok b (Chip.takeFrame n f s) := by
  unfold Chip.takeFrame
  dsimp only
  repeat' first
      | with_reducible assumption | intro _ | with_reducible apply Chip.sendCredit_ok | with_reducible apply Chip.crcFail_ok
      | with_reducible apply Chip.bump_ok | with_reducible apply Chip.updPort_ok | with_reducible apply Chip.routeFrame_ok
      | with_reducible apply foldl_ok | split

theorem frameForward_ok (n : ℕ) (f : Frame) {s : Chip} (h : s.Ok b) : Chip.Ok b (frameForward n f s) := by
  unfold frameForward
  grind [Chip.crcFail_ok, Chip.frameCheck_ok, Chip.takeFrame_ok, Chip.Ok, foldl_ok]

theorem Chip.ctlFrame_ok (n : ℕ) (op : ℕ) (mask : ℕ) (f : Frame) (body : Chip → Chip) {s : Chip} (hbody : ∀ t, t.Ok b → Chip.Ok b (body t))
    (h : s.Ok b) :
    Chip.Ok b (Chip.ctlFrame n op mask f body s) := by
  unfold Chip.ctlFrame
  grind [Chip.frameCheck_ok, Chip.malformed_ok, Chip.Ok, foldl_ok]

theorem linkctlCredit_ok (n : ℕ) (f : Frame) {a2 : Chip} (h : a2.Ok b) : Chip.Ok b (linkctlCredit n f a2) := by
  unfold linkctlCredit
  dsimp only
  repeat' first
      | with_reducible assumption | intro _ | with_reducible apply Chip.ctlFrame_ok | with_reducible apply Chip.linkReport_ok
      | with_reducible apply Chip.egressFreed_ok | with_reducible apply Chip.updPort_ok | with_reducible apply foldl_ok | split

theorem nack_ok (n : ℕ) (f : Frame) {a2 : Chip} (h : a2.Ok b) : Chip.Ok b (nack n f a2) := by
  unfold nack
  dsimp only
  repeat' first
      | with_reducible assumption | intro _ | with_reducible apply Chip.ctlFrame_ok | with_reducible apply Chip.resend_ok
      | with_reducible apply foldl_ok | split

theorem creditTimer_ok (n : ℕ) {s : Chip} (h : s.Ok b) : Chip.Ok b (creditTimer n s) := by
  unfold creditTimer
  grind [Chip.sendCredit_ok, Chip.Ok, foldl_ok]

theorem keepaliveTimer_ok (n : ℕ) {s : Chip} (h : s.Ok b) : Chip.Ok b (keepaliveTimer n s) := by
  unfold keepaliveTimer
  grind [Chip.sendCredit_ok, Chip.Ok, foldl_ok]

theorem forwardWatchdog_ok (n : ℕ) (vl : ℕ) {s : Chip} (h : s.Ok b) : Chip.Ok b (forwardWatchdog n vl s) := by
  unfold forwardWatchdog
  dsimp only
  repeat' first
      | with_reducible assumption | intro _ | with_reducible apply Chip.updPort_ok | with_reducible apply Chip.egressFreed_ok
      | with_reducible apply Chip.linkReport_ok | with_reducible apply Chip.discarded_ok | with_reducible apply foldl_ok | split

theorem lkCfg_ok (v : Word) {a1 : Chip} (h : a1.Ok b) : Chip.Ok b (lkCfg v a1) := by
  unfold lkCfg
  dsimp only
  repeat' first
      | with_reducible assumption | intro _ | with_reducible apply Chip.accept_ok | with_reducible apply Chip.answer_ok
      | with_reducible apply Chip.setReg_ok | with_reducible apply foldl_ok | split

theorem lkPctl_ok (n : ℕ) (v : Word) {a2 : Chip} (h : a2.Ok b) : Chip.Ok b (lkPctl n v a2) := by
  unfold lkPctl
  dsimp only
  repeat' first
      | with_reducible assumption | intro _ | with_reducible apply Chip.accept_ok | with_reducible apply Chip.answer_ok
      | with_reducible apply Chip.setReg_ok | with_reducible apply Chip.updPort_ok | with_reducible apply Chip.linkDown_ok
      | with_reducible apply foldl_ok | split

theorem rtEntryWrite_ok (p : ℕ) (e : ℕ) (r : ℕ) (v : Word) {a4 : Chip} (h : a4.Ok b) : Chip.Ok b (rtEntryWrite p e r v a4) := by
  unfold rtEntryWrite
  dsimp only
  repeat' first
      | with_reducible assumption | intro _ | with_reducible apply Chip.accept_ok | with_reducible apply Chip.answer_ok
      | with_reducible apply Chip.setReg_ok | with_reducible apply Chip.logCtl_ok | with_reducible apply foldl_ok | split

theorem lwWrite_ok (w : ℕ) (r : ℕ) (v : Word) {a3 : Chip} (h : a3.Ok b) : Chip.Ok b (lwWrite w r v a3) := by
  unfold lwWrite
  dsimp only
  repeat' first
      | with_reducible assumption | intro _ | with_reducible apply Chip.accept_ok | with_reducible apply Chip.answer_ok
      | with_reducible apply Chip.setReg_ok | with_reducible apply foldl_ok | split

/-! ### `Machine/Landing.lean` -/

theorem Chip.takeDelivered_ok (n : ℕ) (ty : ℕ) {s : Chip} (h : s.Ok b) : ∀ z, Chip.takeDelivered n ty s = some z → z.2.Ok b := by
  unfold Chip.takeDelivered
  grind [Chip.freeIngress_ok, Chip.updPort_ok, Chip.Ok, foldl_ok]

theorem Chip.onFrame_ok (n : ℕ) (ty : ℕ) (body : Frame → Chip → Chip) {s : Chip} (hbody : ∀ y0 t, t.Ok b → Chip.Ok b (body y0 t))
    (h : s.Ok b) :
    Chip.Ok b (Chip.onFrame n ty body s) := by
  unfold Chip.onFrame
  split
  · rename_i hu; exact hbody _ _ (Chip.takeDelivered_ok _ _ h _ hu)
  · exact h

theorem Chip.goneDrop_ok (n : ℕ) {s : Chip} (h : s.Ok b) : Chip.Ok b (Chip.goneDrop n s) := by
  unfold Chip.goneDrop
  grind [Chip.bump_ok, Chip.Ok, foldl_ok]

theorem landingBurst_ok (id : ℕ) {s : Chip} (h : s.Ok b) : Chip.Ok b (landingBurst id s) := by
  unfold landingBurst
  dsimp only
  repeat' first
      | with_reducible assumption | intro _ | with_reducible apply Chip.updLand_ok | with_reducible apply Chip.dropFill_ok
      | with_reducible apply Chip.signal_ok | with_reducible apply Chip.bump_ok | with_reducible apply Chip.landStep_ok
      | with_reducible apply Chip.landFault_ok | with_reducible apply foldl_ok | split
  all_goals grind [Chip.updLand_ok, Chip.dropFill_ok, Chip.signal_ok, Chip.bump_ok, Chip.landStep_ok, Chip.landFault_ok, Chip.Ok, foldl_ok]

theorem Chip.sheadFrame_ok (n : ℕ) (f : Frame) {s : Chip} (h : s.Ok b) : Chip.Ok b (Chip.sheadFrame n f s) := by
  unfold Chip.sheadFrame
  dsimp only
  repeat' first
      | with_reducible assumption | intro _ | with_reducible apply Chip.malFrame_ok | with_reducible apply Chip.goneDrop_ok
      | with_reducible apply Chip.malformed_ok | with_reducible apply Chip.endLand_ok | with_reducible apply Chip.landStep_ok
      | with_reducible apply foldl_ok | split
  all_goals grind [Chip.malFrame_ok, Chip.goneDrop_ok, Chip.malformed_ok, Chip.endLand_ok, Chip.landStep_ok, Chip.Ok, foldl_ok]

theorem Chip.landChunks_ok (n : ℕ) (src : ℕ) (mtag : ℕ) (h1 : BitVec 128) (a4 : ℕ) {a5 : Chip} (h : a5.Ok b) :
    Chip.Ok b (Chip.landChunks n src mtag h1 a4 a5) := by
  induction a4 generalizing a5 with
  | zero => exact h
  | succ k ih =>
    unfold Chip.landChunks
    split
    · exact h
    · split
      · exact h
      · split
        · exact h
        · exact Chip.malFrame_ok _ _ h
        · exact ih (Chip.landBytes_ok _ _ (Chip.updLand_ok _ _ h))

theorem Chip.sdataFrame_ok (n : ℕ) (f : Frame) {s : Chip} (h : s.Ok b) : Chip.Ok b (Chip.sdataFrame n f s) := by
  unfold Chip.sdataFrame
  dsimp only
  repeat' first
      | with_reducible assumption | intro _ | with_reducible apply Chip.malFrame_ok | with_reducible apply Chip.goneDrop_ok
      | with_reducible apply Chip.landChunks_ok | with_reducible apply Chip.updLand_ok | with_reducible apply Chip.landBytes_ok
      | with_reducible apply foldl_ok | split

theorem shead_ok (n : ℕ) {a1 : Chip} (h : a1.Ok b) : Chip.Ok b (shead n a1) := by
  unfold shead
  grind [Chip.onFrame_ok, Chip.sheadFrame_ok, Chip.Ok, foldl_ok]

theorem sdata_ok (n : ℕ) {a1 : Chip} (h : a1.Ok b) : Chip.Ok b (sdata n a1) := by
  unfold sdata
  grind [Chip.onFrame_ok, Chip.sdataFrame_ok, Chip.Ok, foldl_ok]

theorem Chip.dheadFrame_ok (n : ℕ) (f : Frame) {s : Chip} (h : s.Ok b) : Chip.Ok b (Chip.dheadFrame n f s) := by
  unfold Chip.dheadFrame
  dsimp only
  repeat' first
      | with_reducible assumption | intro _ | with_reducible apply Chip.malFrame_ok | with_reducible apply Chip.sendCmpl_ok
      | with_reducible apply Chip.overDeleg_ok | with_reducible apply Chip.malformed_ok | with_reducible apply Chip.dropDeleg_ok
      | with_reducible apply foldl_ok | split | with_reducible apply ok_lit

theorem dhead_ok (n : ℕ) {a1 : Chip} (h : a1.Ok b) : Chip.Ok b (dhead n a1) := by
  unfold dhead
  grind [Chip.onFrame_ok, Chip.dheadFrame_ok, Chip.Ok, foldl_ok]

theorem Chip.updDeleg_ok (d : Deleg) {s : Chip} (h : s.Ok b) : Chip.Ok b (Chip.updDeleg d s) := h

theorem Chip.grant_ok (d : Deleg) (n : ℕ) {s : Chip} (h : s.Ok b) : Chip.Ok b (Chip.grant d n s) := by
  unfold Chip.grant
  grind [Chip.engineFrame_ok, Chip.Ok, foldl_ok]

theorem Chip.guestBegin_ok (c : ℕ) (d : Deleg) {s : Chip} (h : s.Ok b) : Chip.Ok b (Chip.guestBegin c d s) := by
  unfold Chip.guestBegin
  dsimp only
  repeat' first
      | with_reducible assumption | intro _ | with_reducible apply Chip.heard_ok | with_reducible apply Chip.updXfer_ok
      | with_reducible apply foldl_ok | split

theorem Chip.openResult_ok (c : ℕ) (d : Deleg) (tb : Desc) {s : Chip} (h : s.Ok b) : Chip.Ok b (Chip.openResult c d tb s).1 := by
  unfold Chip.openResult
  intros
  dsimp only at *
  repeat' first
      | with_reducible assumption | intro _ | with_reducible apply Chip.framesOut_ok | with_reducible apply Chip.openMsg_ok
      | with_reducible apply foldl_ok | split
  all_goals grind [Chip.framesOut_ok, Chip.openMsg_ok, Chip.Ok, foldl_ok]

theorem Chip.dispatchTo_ok (c : ℕ) (d : Deleg) {s : Chip} (h : s.Ok b) : Chip.Ok b (Chip.dispatchTo c d s) := by
  unfold Chip.dispatchTo
  dsimp only
  repeat' first
      | with_reducible assumption | intro _ | with_reducible apply Chip.updDeleg_ok | with_reducible apply Chip.updCtx_ok
      | with_reducible apply Chip.setSt_ok | with_reducible apply Chip.ownFault_ok | with_reducible apply Chip.grant_ok
      | with_reducible apply Chip.openResult_ok | with_reducible apply Chip.updXfer_ok | with_reducible apply Chip.guestBegin_ok
      | with_reducible apply foldl_ok | split | with_reducible apply ok_lit

theorem guestDispatch_ok (p : ℕ) {s : Chip} (h : s.Ok b) : Chip.Ok b (guestDispatch p s) := by
  unfold guestDispatch
  dsimp only
  repeat' first
      | with_reducible assumption | intro _ | with_reducible apply Chip.yieldStg_ok | with_reducible apply Chip.dispatchTo_ok
      | with_reducible apply foldl_ok | split

theorem Chip.grantMore_ok (d : Deleg) (a1 : ℕ) {a2 : Chip} (h : a2.Ok b) : Chip.Ok b (Chip.grantMore d a1 a2) := by
  induction a1 generalizing a2 with
  | zero => exact h
  | succ k ih => unfold Chip.grantMore; exact ih (Chip.grant_ok _ _ h)

theorem Chip.ddataFrame_ok (n : ℕ) (f : Frame) {s : Chip} (h : s.Ok b) : Chip.Ok b (Chip.ddataFrame n f s) := by
  unfold Chip.ddataFrame
  dsimp only
  repeat' first
      | with_reducible assumption | intro _ | with_reducible apply Chip.malFrame_ok | with_reducible apply Chip.updDeleg_ok
      | with_reducible apply Chip.grantMore_ok | with_reducible apply Chip.guestBegin_ok | with_reducible apply foldl_ok | split

theorem ddata_ok (n : ℕ) {a1 : Chip} (h : a1.Ok b) : Chip.Ok b (ddata n a1) := by
  unfold ddata
  grind [Chip.onFrame_ok, Chip.ddataFrame_ok, Chip.Ok, foldl_ok]

theorem Chip.noMsg_ok (n : ℕ) (tag : ℕ) {s : Chip} (h : s.Ok b) : Chip.Ok b (Chip.noMsg n tag s) := by
  unfold Chip.noMsg
  grind [Chip.goneDrop_ok, Chip.bump_ok, Chip.Ok, foldl_ok]

theorem Chip.cmplFrame_ok (n : ℕ) (f : Frame) {s : Chip} (h : s.Ok b) : Chip.Ok b (Chip.cmplFrame n f s) := by
  unfold Chip.cmplFrame
  dsimp only
  repeat' first
      | with_reducible assumption | intro _ | with_reducible apply Chip.noMsg_ok | with_reducible apply Chip.malformed_ok
      | with_reducible apply Chip.progressed_ok | with_reducible apply Chip.updMsg_ok | with_reducible apply Chip.pumpAll_ok
      | with_reducible apply Chip.courseSignals_ok | with_reducible apply Chip.msgEnd_ok | with_reducible apply foldl_ok | split

theorem cmpl_ok (n : ℕ) {a1 : Chip} (h : a1.Ok b) : Chip.Ok b (cmpl n a1) := by
  unfold cmpl
  grind [Chip.onFrame_ok, Chip.cmplFrame_ok, Chip.Ok, foldl_ok]

theorem Chip.creditFrame_ok (n : ℕ) (f : Frame) {s : Chip} (h : s.Ok b) : Chip.Ok b (Chip.creditFrame n f s) := by
  unfold Chip.creditFrame
  dsimp only
  repeat' first
      | with_reducible assumption | intro _ | with_reducible apply Chip.noMsg_ok | with_reducible apply Chip.malformed_ok
      | with_reducible apply Chip.heard_ok | with_reducible apply Chip.framesOut_ok | with_reducible apply Chip.progressed_ok
      | with_reducible apply Chip.updMsg_ok | with_reducible apply foldl_ok | split

theorem delegCredit_ok (n : ℕ) {a1 : Chip} (h : a1.Ok b) : Chip.Ok b (delegCredit n a1) := by
  unfold delegCredit
  grind [Chip.onFrame_ok, Chip.creditFrame_ok, Chip.Ok, foldl_ok]

theorem Chip.goneFrame_ok (n : ℕ) (f : Frame) {s : Chip} (h : s.Ok b) : Chip.Ok b (Chip.goneFrame n f s) := by
  unfold Chip.goneFrame
  dsimp only
  repeat' first
      | with_reducible assumption | intro _ | with_reducible apply Chip.bump_ok | with_reducible apply Chip.dropDeleg_ok
      | with_reducible apply Chip.abortGuest_ok | with_reducible apply foldl_ok | split

theorem gone_ok (n : ℕ) {a1 : Chip} (h : a1.Ok b) : Chip.Ok b (gone n a1) := by
  unfold gone
  grind [Chip.onFrame_ok, Chip.goneFrame_ok, Chip.Ok, foldl_ok]

theorem completionTimeout_ok (id : ℕ) {s : Chip} (h : s.Ok b) : Chip.Ok b (completionTimeout id s) := by
  unfold completionTimeout
  grind [Chip.pumpAll_ok, Chip.msgEnd_ok, Chip.Ok, foldl_ok]

theorem mtagBarExpiry_ok (tag : ℕ) {s : Chip} (h : s.Ok b) : Chip.Ok b (mtagBarExpiry tag s) := by
  unfold mtagBarExpiry
  dsimp only
  repeat' (first | with_reducible assumption | intro _ | with_reducible apply Chip.pumpAll_ok | with_reducible apply foldl_ok | split)
  all_goals grind [Chip.pumpAll_ok, Chip.Ok, foldl_ok]

theorem Chip.lineWalked_ok (m : ℕ) (line : ℕ) (w : PWalk) {s : Chip} (h : s.Ok b) : Chip.Ok b (Chip.lineWalked m line w s) := by
  unfold Chip.lineWalked
  grind [Chip.lineGo_ok, Chip.dropLine_ok, Chip.Ok, foldl_ok]

theorem Chip.walkServes_ok (w : PWalk) {s : Chip} (f : WalkFor) (h : s.Ok b) : Chip.Ok b (Chip.walkServes w s f) := by
  unfold Chip.walkServes
  grind [Chip.walkFor_ok, Chip.landWalked_ok, Chip.shadowWalked_ok, Chip.lineWalked_ok, Chip.Ok, foldl_ok]

theorem pageWalkComplete_ok (id p va : ℕ) {s : Chip} (h : s.Ok b) : Chip.Ok b (pageWalkComplete id p va s) := by
  unfold pageWalkComplete
  grind [Chip.walkServes_ok, Chip.endWalk_ok, Chip.Ok, foldl_ok]

end Sys2Proof.Machine
end

