-- ==== Sys2Proof/Laws/KeepRest.lean ====
section
/-! SUPPORT. Every operation keeps the tables of the block canonical and its build as it is: recovery, startup, the tiers, register writes, the TAP.

`f_ok` says of the operation `f`: from a block with `Chip.Ok b` it gives one with `Chip.Ok b`. -/

set_option Elab.async false
set_option linter.unusedTactic false
set_option linter.unreachableTactic false

namespace Sys2Proof.Machine

variable {b : Build}

/-! ### `Machine/Recovery.lean` -/

theorem Chip.withdraw_ok (m : Msg) {s : Chip} (h : s.Ok b) : Chip.Ok b (Chip.withdraw m s) := by
  unfold Chip.withdraw
  dsimp only
  repeat' (first | with_reducible assumption | intro _ | with_reducible apply Chip.engineFrame_ok | with_reducible apply foldl_ok | split)
  all_goals grind [Chip.engineFrame_ok, Chip.Ok, foldl_ok]

theorem Chip.endMsgs_ok (c : ℕ) {s : Chip} (h : s.Ok b) : Chip.Ok b (Chip.endMsgs c s) := by
  unfold Chip.endMsgs
  grind [Chip.withdraw_ok, Chip.updMsg_ok, Chip.Ok, foldl_ok]

theorem Chip.endPrefetches_ok (c : ℕ) {s : Chip} (h : s.Ok b) : Chip.Ok b (Chip.endPrefetches c s) := h

theorem Chip.endService_ok (c : ℕ) {s : Chip} (h : s.Ok b) : Chip.Ok b (Chip.endService c s) := by
  unfold Chip.endService
  dsimp only
  repeat' (first | with_reducible assumption | intro _ | with_reducible apply Chip.delegDone_ok | with_reducible apply foldl_ok | split)

theorem Chip.skipAll_ok (c : ℕ) {s : Chip} (h : s.Ok b) : Chip.Ok b (Chip.skipAll c s) := by
  unfold Chip.skipAll
  grind [Chip.skipSample_ok, Chip.Ok, foldl_ok]

theorem Chip.deaden_ok (which : PortReq → Bool) {s : Chip} (h : s.Ok b) : Chip.Ok b (Chip.deaden which s) := h

theorem Chip.enterAborted_ok (c : ℕ) (zero : Bool) {s : Chip} (h : s.Ok b) : Chip.Ok b (Chip.enterAborted c zero s) := by
  unfold Chip.enterAborted
  dsimp only
  repeat' first
      | with_reducible assumption | intro _ | with_reducible apply Chip.releaseStg_ok | with_reducible apply Chip.endPrefetches_ok
      | with_reducible apply Chip.endMsgs_ok | with_reducible apply Chip.endService_ok | with_reducible apply Chip.skipAll_ok
      | with_reducible apply Chip.updCtx_ok | with_reducible apply Chip.deaden_ok | with_reducible apply Chip.freeSlotOf_ok
      | with_reducible apply Chip.setSt_ok | with_reducible apply foldl_ok | split

theorem Chip.rungDone_ok (code : ℕ) (dur : ℕ) {s : Chip} (h : s.Ok b) : Chip.Ok b (Chip.rungDone code dur s) := by
  unfold Chip.rungDone
  grind [Chip.setF_ok, Chip.Ok, foldl_ok]

theorem Chip.dropRungs_ok (which : Rung → Bool) {s : Chip} (h : s.Ok b) : Chip.Ok b (Chip.dropRungs which s) := h

theorem abortComplete_ok (c : ℕ) {s : Chip} (h : s.Ok b) : Chip.Ok b (abortComplete c s) := by
  unfold abortComplete
  dsimp only
  repeat' first
      | with_reducible assumption | intro _ | with_reducible apply Chip.pumpAll_ok | with_reducible apply Chip.rungDone_ok
      | with_reducible apply Chip.dropRungs_ok | with_reducible apply Chip.raise_ok | with_reducible apply Chip.enterAborted_ok
      | with_reducible apply foldl_ok | split
  all_goals grind [Chip.pumpAll_ok, Chip.rungDone_ok, Chip.dropRungs_ok, Chip.raise_ok, Chip.enterAborted_ok, Chip.Ok, foldl_ok]

theorem Chip.killCtx_ok (r : Rung) (c : ℕ) {s : Chip} (h : s.Ok b) : Chip.Ok b (Chip.killCtx r c s) := by
  unfold Chip.killCtx
  dsimp only
  repeat' first
      | with_reducible assumption | intro _ | with_reducible apply Chip.startAbort_ok | with_reducible apply Chip.enterAborted_ok
      | with_reducible apply Chip.deaden_ok | with_reducible apply foldl_ok | split

theorem Chip.dumpFirst_ok (d : Dump) {s : Chip} (h : s.Ok b) : ∀ z, Chip.dumpFirst d s = some z → z.Ok b := by
  intro t ht
  simp only [Chip.dumpFirst, Option.map_eq_some_iff] at ht
  obtain ⟨p, _, rfl⟩ := ht
  exact Chip.enq_ok _ h

theorem Chip.startDump_ok (r : Rung) {s : Chip} (h : s.Ok b) : Chip.Ok b (Chip.startDump r s).1 := by
  unfold Chip.startDump
  dsimp only
  split
  · exact Chip.dumpSkipped_ok _ _ h
  · split
    · exact Chip.dumpSkipped_ok _ _ h
    · split
      · rename_i hu; exact ok_lit (Chip.dumpFirst_ok _ h _ hu)
      · exact Chip.report_ok _ (Chip.dumpSkipped_ok _ _ h)

theorem Chip.writeDump_ok (d : Dump) (cut : Option ℕ) {s : Chip} (h : s.Ok b) : Chip.Ok b (Chip.writeDump d cut s) := by
  unfold Chip.writeDump
  dsimp only
  repeat' first
      | with_reducible assumption | intro _ | with_reducible apply Chip.burstWrite_ok | with_reducible apply Chip.bypassWrite_ok
      | with_reducible apply foldl_ok | split | with_reducible apply ok_lit

theorem Chip.afterDump_ok (part : Option ℕ) {s : Chip} (h : s.Ok b) : Chip.Ok b (Chip.afterDump part s) := by
  unfold Chip.afterDump
  grind [Chip.blockStepThree_ok, Chip.Ok, foldl_ok]

theorem dumpEnd_ok (part : Option ℕ) (bytes : Option ℕ) {s : Chip} (h : s.Ok b) : Chip.Ok b (dumpEnd part bytes s) := by
  unfold dumpEnd
  dsimp only
  repeat' first
      | with_reducible assumption | intro _ | with_reducible apply Chip.writeDump_ok | with_reducible apply Chip.setF_ok
      | with_reducible apply Chip.bump_ok | with_reducible apply Chip.afterDump_ok | with_reducible apply Chip.updDump_ok
      | with_reducible apply foldl_ok | split

theorem dumpAckTimeout_ok (part : Option ℕ) {s : Chip} (h : s.Ok b) : Chip.Ok b (dumpAckTimeout part s) := by
  unfold dumpAckTimeout
  grind [Chip.dumpStops_ok, Chip.Ok, foldl_ok]

theorem Chip.addRung_ok (r : Rung) {s : Chip} (h : s.Ok b) : Chip.Ok b (Chip.addRung r s) := h

theorem Chip.absorb_ok (r : Rung) {s : Chip} (h : s.Ok b) : Chip.Ok b (Chip.absorb r s) := by
  unfold Chip.absorb
  grind [Chip.dropRungs_ok, Chip.Ok, foldl_ok]

theorem Chip.startCtxRung_ok (r : Rung) {s : Chip} (h : s.Ok b) : Chip.Ok b (Chip.startCtxRung r s) := by
  unfold Chip.startCtxRung
  dsimp only
  repeat' first
      | with_reducible assumption | intro _ | with_reducible apply Chip.addRung_ok | with_reducible apply Chip.startAbort_ok
      | with_reducible apply foldl_ok | split

theorem Chip.skipTeam_ok (team : List ℕ) {s : Chip} (h : s.Ok b) : Chip.Ok b (Chip.skipTeam team s) := by
  unfold Chip.skipTeam
  grind [Chip.skipSample_ok, Chip.Ok, foldl_ok]

theorem Chip.startMover_ok (r : Rung) {s : Chip} (h : s.Ok b) : Chip.Ok b (Chip.startMover r s) := by
  unfold Chip.startMover
  dsimp only
  repeat' first
      | with_reducible assumption | intro _ | with_reducible apply Chip.skipTeam_ok | with_reducible apply Chip.killCtx_ok
      | with_reducible apply Chip.bump_ok | with_reducible apply Chip.addRung_ok | with_reducible apply foldl_ok | split

theorem Chip.startPortReset_ok (ls : List Lane) {s : Chip} (h : s.Ok b) : Chip.Ok b (Chip.startPortReset ls s) := by
  unfold Chip.startPortReset
  dsimp only
  repeat' first
      | with_reducible assumption | intro _ | with_reducible apply Chip.updLane_ok | with_reducible apply Chip.finish_ok
      | with_reducible apply Chip.barTag_ok | with_reducible apply foldl_ok | split
  all_goals grind [Chip.updLane_ok, Chip.finish_ok, Chip.barTag_ok, Chip.Ok, foldl_ok]

theorem Chip.clearSensors_ok {s : Chip} (h : s.Ok b) : Chip.Ok b (Chip.clearSensors s) := by
  unfold Chip.clearSensors
  dsimp only
  repeat' first
      | with_reducible assumption | intro _ | with_reducible apply Chip.setReg_ok | with_reducible apply foldl_ok | split
      | with_reducible apply ok_lit

theorem Chip.clearTrace_ok {s : Chip} (h : s.Ok b) : Chip.Ok b (Chip.clearTrace s) := by
  unfold Chip.clearTrace
  dsimp only
  repeat' (first | with_reducible assumption | intro _ | with_reducible apply Chip.deaden_ok | with_reducible apply foldl_ok | split)
  all_goals grind [Chip.deaden_ok, Chip.Ok, foldl_ok]

theorem Chip.startUnit_ok (r : Rung) {s : Chip} (h : s.Ok b) : Chip.Ok b (Chip.startUnit r s) := by
  unfold Chip.startUnit
  dsimp only
  repeat' first
      | with_reducible assumption | intro _ | with_reducible apply Chip.bump_ok | with_reducible apply Chip.addRung_ok
      | with_reducible apply Chip.linkDown_ok | with_reducible apply Chip.clearSensors_ok | with_reducible apply Chip.clearTrace_ok
      | with_reducible apply Chip.startPortReset_ok | with_reducible apply foldl_ok | split

theorem Chip.startPartition_ok (r : Rung) {s : Chip} (h : s.Ok b) : Chip.Ok b (Chip.startPartition r s) := by
  unfold Chip.startPartition
  dsimp only
  repeat' first
      | with_reducible assumption | intro _ | with_reducible apply Chip.deaden_ok | with_reducible apply Chip.bump_ok
      | with_reducible apply Chip.addRung_ok | with_reducible apply Chip.startDump_ok | with_reducible apply foldl_ok | split

theorem Chip.startBlock_ok (r : Rung) {s : Chip} (h : s.Ok b) : Chip.Ok b (Chip.startBlock r s) := by
  have key : ∀ t : Chip, t.Ok b → Chip.Ok b (match t.startDump r with
      | (s, true) => s
      | (s, false) => s.blockStepThree true) := by
    intro t ht
    have h1 := Chip.startDump_ok r ht
    split <;> rename_i e <;> rw [e] at h1 <;> [exact h1; exact Chip.blockStepThree_ok _ h1]
  have lk : ∀ t : Chip, t.Ok b → Chip.Ok b ((List.range t.build.nlp).foldl (fun s n => s.linkDown n) t) :=
    fun t ht => foldl_ok (fun t x ht => Chip.linkDown_ok x ht) ht
  unfold Chip.startBlock
  dsimp only
  split
  · exact key _ (lk _ (ok_lit (Chip.setReg_ok _ _ (Chip.bump_ok _ _ _ _ (Chip.addRung_ok _ h)))))
  · exact Chip.blockStepThree_ok _ (lk _ (ok_lit (Chip.setReg_ok _ _ (Chip.bump_ok _ _ _ _ (Chip.addRung_ok _ h)))))

theorem Chip.startRung_ok (r : Rung) {s : Chip} (h : s.Ok b) : Chip.Ok b (Chip.startRung r s) := by
  unfold Chip.startRung
  grind [Chip.startCtxRung_ok, Chip.startMover_ok, Chip.absorb_ok, Chip.startUnit_ok, Chip.startPartition_ok, Chip.startBlock_ok, Chip.Ok, foldl_ok]

theorem rungStart_ok {s : Chip} (h : s.Ok b) : Chip.Ok b (rungStart s) := by
  unfold rungStart
  dsimp only
  repeat' first
      | with_reducible assumption | intro _ | with_reducible apply Chip.pumpAll_ok | with_reducible apply Chip.startRung_ok
      | with_reducible apply foldl_ok | split
  all_goals grind [Chip.pumpAll_ok, Chip.startRung_ok, Chip.Ok, foldl_ok]

theorem rungDeadline_ok (k : RungSel) {s : Chip} (h : s.Ok b) : Chip.Ok b (rungDeadline k s) := by
  unfold rungDeadline
  dsimp only
  repeat' first
      | with_reducible assumption | intro _ | with_reducible apply Chip.bump_ok | with_reducible apply Chip.report_ok
      | with_reducible apply foldl_ok | split
  all_goals grind [Chip.bump_ok, Chip.report_ok, Chip.Ok, foldl_ok]

theorem Chip.clearMover_ok (m : ℕ) {s : Chip} (h : s.Ok b) : Chip.Ok b (Chip.clearMover m s) := by
  unfold Chip.clearMover
  grind [Chip.loadLfsr_ok, Chip.updMov_ok, Chip.Ok, foldl_ok]

theorem Chip.endMover_ok (r : Rung) {s : Chip} (h : s.Ok b) : Chip.Ok b (Chip.endMover r s) := by
  unfold Chip.endMover
  dsimp only
  repeat' first
      | with_reducible assumption | intro _ | with_reducible apply Chip.clearMover_ok | with_reducible apply Chip.raise_ok
      | with_reducible apply foldl_ok | split

theorem moverResetDone_ok (m : ℕ) (dur : ℕ) {s : Chip} (h : s.Ok b) : Chip.Ok b (moverResetDone m dur s) := by
  unfold moverResetDone
  dsimp only
  repeat' first
      | with_reducible assumption | intro _ | with_reducible apply Chip.pumpAll_ok | with_reducible apply Chip.rungDone_ok
      | with_reducible apply Chip.dropRungs_ok | with_reducible apply Chip.endMover_ok | with_reducible apply foldl_ok | split

theorem unitResetDone_ok (kind : UnitKind) (u : ℕ) (dur : ℕ) {s : Chip} (h : s.Ok b) : Chip.Ok b (unitResetDone kind u dur s) := by
  unfold unitResetDone
  dsimp only
  repeat' first
      | with_reducible assumption | intro _ | with_reducible apply Chip.pumpAll_ok | with_reducible apply Chip.rungDone_ok
      | with_reducible apply Chip.dropRungs_ok | with_reducible apply foldl_ok | split
  all_goals grind [Chip.pumpAll_ok, Chip.rungDone_ok, Chip.dropRungs_ok, Chip.Ok, foldl_ok]

theorem Chip.resetMovers_ok (r : Rung) {s : Chip} (h : s.Ok b) : Chip.Ok b (Chip.resetMovers r s) := by
  unfold Chip.resetMovers
  dsimp only
  repeat' first
      | with_reducible assumption | intro _ | with_reducible apply Chip.endMover_ok | with_reducible apply Chip.skipTeam_ok
      | with_reducible apply Chip.killCtx_ok | with_reducible apply foldl_ok | split

theorem Chip.abortUnbound_ok (r : Rung) {s : Chip} (h : s.Ok b) : Chip.Ok b (Chip.abortUnbound r s) := by
  unfold Chip.abortUnbound
  dsimp only
  repeat' first
      | with_reducible assumption | intro _ | with_reducible apply Chip.raise_ok | with_reducible apply Chip.killCtx_ok
      | with_reducible apply foldl_ok | split

theorem Chip.endLandings_ok (p : ℕ) {s : Chip} (h : s.Ok b) : Chip.Ok b (Chip.endLandings p s) := by
  unfold Chip.endLandings
  dsimp only
  repeat' first
      | with_reducible assumption | intro _ | with_reducible apply Chip.endLand_ok | with_reducible apply Chip.endDeleg_ok
      | with_reducible apply Chip.setF_ok | with_reducible apply foldl_ok | split

theorem Chip.flushTlbs_ok (p : ℕ) {s : Chip} (h : s.Ok b) : Chip.Ok b (Chip.flushTlbs p s) := by
  unfold Chip.flushTlbs
  dsimp only
  repeat' (first | with_reducible assumption | intro _ | with_reducible apply Chip.updMov_ok | with_reducible apply foldl_ok | split)
  all_goals grind [Chip.updMov_ok, Chip.Ok, foldl_ok]

theorem Chip.endTrace_ok (p : ℕ) {s : Chip} (h : s.Ok b) : Chip.Ok b (Chip.endTrace p s) := by
  unfold Chip.endTrace
  grind [Chip.clearTrace_ok, Chip.setF_ok, Chip.Ok, foldl_ok]

theorem Chip.dropQueued_ok (p : ℕ) {s : Chip} (h : s.Ok b) : Chip.Ok b (Chip.dropQueued p s) := by
  unfold Chip.dropQueued
  dsimp only
  repeat' (first | with_reducible assumption | intro _ | with_reducible apply Chip.nextWalks_ok | with_reducible apply foldl_ok | split)
  all_goals grind [Chip.nextWalks_ok, Chip.Ok, foldl_ok]

theorem Chip.partitionSteps_ok (r : Rung) {s : Chip} (h : s.Ok b) : Chip.Ok b (Chip.partitionSteps r s) := by
  unfold Chip.partitionSteps
  dsimp only
  repeat' first
      | with_reducible assumption | intro _ | with_reducible apply Chip.raise_ok | with_reducible apply Chip.deaden_ok
      | with_reducible apply Chip.endTrace_ok | with_reducible apply Chip.endLandings_ok | with_reducible apply Chip.flushTlbs_ok
      | with_reducible apply Chip.discardDirty_ok | with_reducible apply Chip.dropQueued_ok | with_reducible apply Chip.abortUnbound_ok
      | with_reducible apply Chip.resetMovers_ok | with_reducible apply foldl_ok | split

theorem partitionResetDone_ok (p : ℕ) (dur : ℕ) {s : Chip} (h : s.Ok b) : Chip.Ok b (partitionResetDone p dur s) := by
  unfold partitionResetDone
  grind [Chip.pumpAll_ok, Chip.rungDone_ok, Chip.dropRungs_ok, Chip.partitionSteps_ok, Chip.Ok, foldl_ok]

theorem blockResetDone_ok (dur : ℕ) {s : Chip} (h : s.Ok b) : Chip.Ok b (blockResetDone dur s) := by
  unfold blockResetDone
  dsimp only
  repeat' (first | with_reducible assumption | intro _ | with_reducible apply Chip.rungDone_ok | with_reducible apply foldl_ok | split)
  all_goals grind [Chip.rungDone_ok, Chip.Ok, foldl_ok]

theorem Chip.seqFails_ok (src : ℕ) {s : Chip} (h : s.Ok b) : Chip.Ok b (Chip.seqFails src s) := by
  unfold Chip.seqFails
  grind [Chip.report_ok, Chip.pinStop_ok, Chip.Ok, foldl_ok]

theorem lockstepDisagree_ok {s : Chip} (h : s.Ok b) : Chip.Ok b (lockstepDisagree s) := by
  unfold lockstepDisagree
  grind [Chip.seqFails_ok, Chip.Ok, foldl_ok]

theorem rsqWatchdog_ok {s : Chip} (h : s.Ok b) : Chip.Ok b (rsqWatchdog s) := by
  unfold rsqWatchdog
  grind [Chip.seqFails_ok, Chip.Ok, foldl_ok]

theorem refclkLoss_ok {s : Chip} (h : s.Ok b) : Chip.Ok b (refclkLoss s) := h

theorem rsqMoverReset_ok (t : ℕ) {a1 : Chip} (h : a1.Ok b) : Chip.Ok b (rsqMoverReset t a1) := by
  unfold rsqMoverReset
  grind [Chip.accept_ok, Chip.answer_ok, Chip.request_ok, Chip.Ok, foldl_ok]

theorem rsqPartitionReset_ok (t : ℕ) {a1 : Chip} (h : a1.Ok b) : Chip.Ok b (rsqPartitionReset t a1) := by
  unfold rsqPartitionReset
  grind [Chip.accept_ok, Chip.answer_ok, Chip.request_ok, Chip.Ok, foldl_ok]

theorem glbRst_ok (v : Word) {a1 : Chip} (h : a1.Ok b) : Chip.Ok b (glbRst v a1) := by
  unfold glbRst
  grind [Chip.accept_ok, Chip.answer_ok, Chip.request_ok, Chip.Ok, foldl_ok]

theorem hrst_ok {s : Chip} (h : s.Ok b) : Chip.Ok b (hrst s) := by
  unfold hrst
  dsimp only
  repeat' (first | with_reducible assumption | intro _ | with_reducible apply Chip.request_ok | with_reducible apply foldl_ok | split)
  all_goals grind [Chip.request_ok, Chip.Ok, foldl_ok]

theorem hrstRelease_ok {s : Chip} (h : s.Ok b) : Chip.Ok b (hrstRelease s) := by
  unfold hrstRelease
  dsimp only
  repeat' (first | with_reducible assumption | intro _ | with_reducible apply foldl_ok | split)
  all_goals grind [Chip.Ok, foldl_ok]

theorem rsqTmo_ok (v : Word) {a1 : Chip} (h : a1.Ok b) : Chip.Ok b (rsqTmo v a1) := by
  unfold rsqTmo
  dsimp only
  repeat' first
      | with_reducible assumption | intro _ | with_reducible apply Chip.accept_ok | with_reducible apply Chip.answer_ok
      | with_reducible apply Chip.setReg_ok | with_reducible apply foldl_ok | split

theorem rsqDump_ok (v : Word) {a1 : Chip} (h : a1.Ok b) : Chip.Ok b (rsqDump v a1) := by
  unfold rsqDump
  dsimp only
  repeat' first
      | with_reducible assumption | intro _ | with_reducible apply Chip.accept_ok | with_reducible apply Chip.answer_ok
      | with_reducible apply Chip.setReg_ok | with_reducible apply foldl_ok | split

/-! ### `Machine/Startup.lean` -/

theorem guard_ok (v : Word) {s : Chip} (h : s.Ok b) : Chip.Ok b (guard v s) := by
  unfold guard
  grind [Chip.answer_ok, Chip.logCtl_ok, Chip.Ok, foldl_ok]

theorem guardExpiry_ok {s : Chip} (h : s.Ok b) : Chip.Ok b (guardExpiry s) := h

theorem clkGate_ok (v : Word) {a1 : Chip} (h : a1.Ok b) : Chip.Ok b (clkGate v a1) := by
  unfold clkGate
  grind [Chip.accept_ok, Chip.answer_ok, Chip.setReg_ok, Chip.Ok, foldl_ok]

theorem snsUseroff_ok (off : ℕ) (v : Word) {a2 : Chip} (h : a2.Ok b) : Chip.Ok b (snsUseroff off v a2) := by
  unfold snsUseroff
  dsimp only
  repeat' first
      | with_reducible assumption | intro _ | with_reducible apply Chip.accept_ok | with_reducible apply Chip.answer_ok
      | with_reducible apply Chip.setReg_ok | with_reducible apply foldl_ok | split

theorem snsThreshold_ok (off : ℕ) (v : Word) {a2 : Chip} (h : a2.Ok b) : Chip.Ok b (snsThreshold off v a2) := by
  unfold snsThreshold
  grind [Chip.accept_ok, Chip.answer_ok, Chip.setReg_ok, Chip.Ok, foldl_ok]

theorem trcStore_ok (v : Word) {s : Chip} (h : s.Ok b) : Chip.Ok b (trcStore v s) := by
  unfold trcStore
  dsimp only
  repeat' first
      | with_reducible assumption | intro _ | with_reducible apply Chip.answer_ok | with_reducible apply Chip.setReg_ok
      | with_reducible apply foldl_ok | split

theorem trcCfg_ok (v : Word) {a1 : Chip} (h : a1.Ok b) : Chip.Ok b (trcCfg v a1) := by
  unfold trcCfg
  grind [Chip.accept_ok, Chip.guarded_ok, trcStore_ok, Chip.Ok, foldl_ok]

theorem porstAssert_ok {s : Chip} (h : s.Ok b) : Chip.Ok b (porstAssert s) := ⟨h.1, h.2.1, rfl, rfl, rfl⟩

theorem porstRelease_ok (presenceN : Bool) (ftmN : Bool) (rclkOk : Bool) {s : Chip} (h : s.Ok b) :
    Chip.Ok b (porstRelease presenceN ftmN rclkOk s) := by
  unfold porstRelease
  dsimp only
  repeat' (first | with_reducible assumption | intro _ | with_reducible apply Chip.setReg_ok | with_reducible apply foldl_ok | split)
  all_goals grind [Chip.setReg_ok, Chip.Ok, foldl_ok]

theorem selfTestDone_ok (pass : Bool) {s : Chip} (h : s.Ok b) : Chip.Ok b (selfTestDone pass s) := by
  unfold selfTestDone
  dsimp only
  repeat' first
      | with_reducible assumption | intro _ | with_reducible apply Chip.report_ok | with_reducible apply Chip.pinStop_ok
      | with_reducible apply foldl_ok | split | with_reducible apply ok_lit

theorem Chip.fuseReport_ok {s : Chip} (h : s.Ok b) : Chip.Ok b (Chip.fuseReport s) := by
  unfold Chip.fuseReport
  grind [Chip.report_ok, Chip.Ok, foldl_ok]

theorem Chip.fusesRead_ok {s : Chip} (h : s.Ok b) : Chip.Ok b (Chip.fusesRead s) := by
  unfold Chip.fusesRead
  dsimp only
  repeat' first
      | with_reducible assumption | intro _ | with_reducible apply Chip.fuseReport_ok | with_reducible apply Chip.setF_ok
      | with_reducible apply foldl_ok | split | with_reducible apply ok_lit

theorem Chip.takeFuse_ok (w : BitVec 32) {s : Chip} (h : s.Ok b) : Chip.Ok b (Chip.takeFuse w s) := by
  unfold Chip.takeFuse
  dsimp only
  repeat' first
      | with_reducible assumption | intro _ | with_reducible apply Chip.setReg_ok | with_reducible apply Chip.fusesRead_ok
      | with_reducible apply foldl_ok | split | with_reducible apply ok_lit

theorem fuseWordAck_ok (w : BitVec 32) {s : Chip} (h : s.Ok b) : Chip.Ok b (fuseWordAck w s) := by
  unfold fuseWordAck
  grind [Chip.takeFuse_ok, Chip.Ok, foldl_ok]

theorem fuseTimeout_ok {s : Chip} (h : s.Ok b) : Chip.Ok b (fuseTimeout s) := by
  unfold fuseTimeout
  grind [Chip.takeFuse_ok, Chip.fuseReport_ok, Chip.Ok, foldl_ok]

theorem clockStart_ok {s : Chip} (h : s.Ok b) : Chip.Ok b (clockStart s) := by
  unfold clockStart
  dsimp only
  repeat' (first | with_reducible assumption | intro _ | with_reducible apply foldl_ok | split)
  all_goals grind [Chip.Ok, foldl_ok]

theorem marchTestDone_ok (movFail : Word) (shFail : Bool) (reps : List Report) {s : Chip} (h : s.Ok b) :
    Chip.Ok b (marchTestDone movFail shFail reps s) := by
  unfold marchTestDone
  dsimp only
  repeat' first
      | with_reducible assumption | intro _ | with_reducible apply Chip.setReg_ok | with_reducible apply Chip.setF_ok
      | with_reducible apply Chip.report_ok | with_reducible apply Chip.loadLfsrs_ok | with_reducible apply foldl_ok | split
      | with_reducible apply ok_lit

theorem Chip.setTaps_ok {s : Chip} (h : s.Ok b) : Chip.Ok b (Chip.setTaps s) := h

theorem readyPhaseDone_ok {s : Chip} (h : s.Ok b) : Chip.Ok b (readyPhaseDone s) := by
  unfold readyPhaseDone
  dsimp only
  repeat' first
      | with_reducible assumption | intro _ | with_reducible apply Chip.setTaps_ok | with_reducible apply Chip.setF_ok
      | with_reducible apply foldl_ok | split | with_reducible apply ok_lit

theorem Chip.clkmon_ok {s : Chip} (h : s.Ok b) : Chip.Ok b (Chip.clkmon s) := by
  unfold Chip.clkmon
  grind [Chip.report_ok, Chip.Ok, foldl_ok]

theorem rclkOkLoss_ok {s : Chip} (h : s.Ok b) : Chip.Ok b (rclkOkLoss s) := by
  unfold rclkOkLoss
  dsimp only
  repeat' (first | with_reducible assumption | intro _ | with_reducible apply Chip.clkmon_ok | with_reducible apply foldl_ok | split)
  all_goals grind [Chip.clkmon_ok, Chip.Ok, foldl_ok]

theorem clockMonitorWindow_ok (n : ℕ) {s : Chip} (h : s.Ok b) : Chip.Ok b (clockMonitorWindow n s) := by
  unfold clockMonitorWindow
  dsimp only
  repeat' first
      | with_reducible assumption | intro _ | with_reducible apply Chip.setF_ok | with_reducible apply Chip.bump_ok
      | with_reducible apply Chip.clkmon_ok | with_reducible apply foldl_ok | split | with_reducible apply ok_lit

theorem presenceChange_ok (level : Bool) {s : Chip} (h : s.Ok b) : Chip.Ok b (presenceChange level s) := by
  unfold presenceChange
  dsimp only
  repeat' (first | with_reducible assumption | intro _ | with_reducible apply foldl_ok | split)
  all_goals grind [Chip.Ok, foldl_ok]

theorem aliveToggle_ok {s : Chip} (h : s.Ok b) : Chip.Ok b (aliveToggle s) := by
  unfold aliveToggle
  dsimp only
  repeat' (first | with_reducible assumption | intro _ | with_reducible apply foldl_ok | split)
  all_goals grind [Chip.Ok, foldl_ok]

theorem Chip.envOne_ok (i : ℕ) (k : ℕ) (c : ℕ × Bool × Bool) {s : Chip} (h : s.Ok b) : Chip.Ok b (Chip.envOne i k c s) := by
  unfold Chip.envOne
  grind [Chip.report_ok, Chip.Ok, foldl_ok]

theorem Chip.evalEnv_ok (i : ℕ) {s : Chip} (h : s.Ok b) : Chip.Ok b (Chip.evalEnv i s) := by
  unfold Chip.evalEnv
  grind [Chip.envOne_ok, Chip.Ok, foldl_ok]

theorem Chip.snsFail_ok (i : ℕ) {s : Chip} (h : s.Ok b) : Chip.Ok b (Chip.snsFail i s) := by
  unfold Chip.snsFail
  grind [Chip.report_ok, Chip.setF_ok, Chip.Ok, foldl_ok]

theorem sensorConversion_ok (i : ℕ) (raw : BitVec 16) {s : Chip} (h : s.Ok b) : Chip.Ok b (sensorConversion i raw s) := by
  unfold sensorConversion
  dsimp only
  repeat' first
      | with_reducible assumption | intro _ | with_reducible apply Chip.setF_ok | with_reducible apply Chip.evalEnv_ok
      | with_reducible apply Chip.snsFail_ok | with_reducible apply foldl_ok | split | with_reducible apply ok_lit

theorem sensorStale_ok (i : ℕ) {s : Chip} (h : s.Ok b) : Chip.Ok b (sensorStale i s) := by
  unfold sensorStale
  grind [Chip.evalEnv_ok, Chip.snsFail_ok, Chip.Ok, foldl_ok]

/-! ### `Machine/Tier.lean` -/

theorem Chip.legacyStart_ok (was : Word) {s : Chip} (h : s.Ok b) : Chip.Ok b (Chip.legacyStart was s) := by
  unfold Chip.legacyStart
  dsimp only
  repeat' (first | with_reducible assumption | intro _ | with_reducible apply foldl_ok | split)
  all_goals grind [Chip.Ok, foldl_ok]

theorem regionConfigWrite_ok (off : ℕ) (v : Word) {a2 : Chip} (h : a2.Ok b) : Chip.Ok b (regionConfigWrite off v a2) := by
  unfold regionConfigWrite
  dsimp only
  repeat' first
      | with_reducible assumption | intro _ | with_reducible apply Chip.accept_ok | with_reducible apply Chip.answer_ok
      | with_reducible apply Chip.setReg_ok | with_reducible apply Chip.legacyStart_ok | with_reducible apply Chip.logCtl_ok
      | with_reducible apply foldl_ok | split

theorem Chip.updTier_ok (f : TierSt → TierSt) {s : Chip} (h : s.Ok b) : Chip.Ok b (Chip.updTier f s) := h

theorem Chip.cmtFail_ok (err : ℕ) {s : Chip} (h : s.Ok b) : Chip.Ok b (Chip.cmtFail err s) := by
  unfold Chip.cmtFail
  grind [Chip.logCtl_ok, Chip.updTier_ok, Chip.Ok, foldl_ok]

theorem Chip.fillShadow_ok {s : Chip} (h : s.Ok b) : Chip.Ok b (Chip.fillShadow s).1 := by
  unfold Chip.fillShadow
  intros
  dsimp only at *
  repeat' first
      | with_reducible assumption | intro _ | with_reducible apply Chip.cmtFail_ok | with_reducible apply Chip.updTier_ok
      | with_reducible apply foldl_ok | split

theorem Chip.cmtOps_ok (v : Word) {s : Chip} (h : s.Ok b) : Chip.Ok b (Chip.cmtOps v s) := by
  unfold Chip.cmtOps
  dsimp only
  repeat' first
      | with_reducible assumption | intro _ | with_reducible apply Chip.setReg_ok | with_reducible apply Chip.fillShadow_ok
      | with_reducible apply Chip.answer_ok | with_reducible apply Chip.updTier_ok | with_reducible apply foldl_ok | split

theorem cmtCtl_ok (v : Word) {a1 : Chip} (h : a1.Ok b) : Chip.Ok b (cmtCtl v a1) := by
  unfold cmtCtl
  grind [Chip.accept_ok, Chip.answer_ok, Chip.whenMapped_ok, Chip.cmtOps_ok, Chip.Ok, foldl_ok]

theorem Chip.commitResumes_ok {s : Chip} (h : s.Ok b) : Chip.Ok b (Chip.commitResumes s) := by
  unfold Chip.commitResumes
  dsimp only
  repeat' first
      | with_reducible assumption | intro _ | with_reducible apply Chip.walkOut_ok | with_reducible apply Chip.linesGo_ok
      | with_reducible apply Chip.pumpAll_ok | with_reducible apply Chip.imageGo_ok | with_reducible apply Chip.fetchMiss_ok
      | with_reducible apply Chip.scalarGo_ok | with_reducible apply foldl_ok | split

theorem commitComplete_ok {s : Chip} (h : s.Ok b) : Chip.Ok b (commitComplete s) := by
  unfold commitComplete
  dsimp only
  repeat' first
      | with_reducible assumption | intro _ | with_reducible apply Chip.updTier_ok | with_reducible apply Chip.commitResumes_ok
      | with_reducible apply Chip.cmtFail_ok | with_reducible apply foldl_ok | split

theorem govConfigWrite_ok (off : ℕ) (v : Word) {a2 : Chip} (h : a2.Ok b) : Chip.Ok b (govConfigWrite off v a2) := by
  unfold govConfigWrite
  grind [Chip.accept_ok, Chip.answer_ok, Chip.setReg_ok, Chip.logCtl_ok, Chip.Ok, foldl_ok]

theorem rcEmbcfg_ok (v : Word) {a1 : Chip} (h : a1.Ok b) : Chip.Ok b (rcEmbcfg v a1) := by
  unfold rcEmbcfg
  grind [Chip.accept_ok, Chip.answer_ok, Chip.setReg_ok, Chip.Ok, foldl_ok]

/-! ### `Machine/RegWrite.lean` -/

theorem plainWrite_ok (off : ℕ) (v : Word) {a2 : Chip} (h : a2.Ok b) : Chip.Ok b (plainWrite off v a2) := by
  unfold plainWrite
  grind [Chip.accept_ok, Chip.answer_ok, Chip.setReg_ok, Chip.Ok, foldl_ok]

theorem ignoreWrite_ok {a0 : Chip} (h : a0.Ok b) : Chip.Ok b (ignoreWrite a0) := by
  unfold ignoreWrite
  grind [Chip.accept_ok, Chip.answer_ok, Chip.Ok, foldl_ok]

theorem ctxCmd_ok (c : ℕ) (v : Word) {a2 : Chip} (h : a2.Ok b) : Chip.Ok b (ctxCmd c v a2) := by
  obtain ⟨f, hf⟩ : ∃ f, f = ctxCmd c v := ⟨_, rfl⟩
  rw [← hf]
  unfold ctxCmd at hf
  split at hf <;> subst hf
  · exact bind_ok _ h
  · exact unbind_ok _ h
  · exact start_ok _ h
  · exact stop_ok _ h
  · exact resume_ok _ h
  · exact abort_ok _ h
  · exact clear_ok _ h
  · exact loadregs_ok _ h
  · exact saveregs_ok _ h
  · refine Chip.accept_ok _ (fun t ht => ?_) h
    split <;> [exact Chip.answer_ok _ ht; exact Chip.refuse_ok _ ht]

theorem icctl_ok (m : ℕ) (v : Word) {a2 : Chip} (h : a2.Ok b) : Chip.Ok b (icctl m v a2) := by
  unfold icctl
  grind [invall_ok, invasid_ok, ignoreWrite_ok, Chip.Ok, foldl_ok]

theorem trInvWrite_ok (v : Word) {a1 : Chip} (h : a1.Ok b) : Chip.Ok b (trInvWrite v a1) := by
  unfold trInvWrite
  grind [trInv_ok, Chip.accept_ok, Chip.answer_ok, Chip.Ok, foldl_ok]

theorem tnStkWrite_ok (k : ℕ) (v : Word) {a2 : Chip} (h : a2.Ok b) : Chip.Ok b (tnStkWrite k v a2) := by
  unfold tnStkWrite
  dsimp only
  repeat' first
      | with_reducible assumption | intro _ | with_reducible apply Chip.accept_ok | with_reducible apply Chip.answer_ok
      | with_reducible apply Chip.setReg_ok | with_reducible apply foldl_ok | split

theorem legCfgWrite_ok (v : Word) {a1 : Chip} (h : a1.Ok b) : Chip.Ok b (legCfgWrite v a1) := by
  unfold legCfgWrite
  grind [Chip.accept_ok, Chip.answer_ok, Chip.setReg_ok, Chip.Ok, foldl_ok]

theorem cmtWrite_ok (h1 : ℕ) (v : Word) {a2 : Chip} (h : a2.Ok b) : Chip.Ok b (cmtWrite h1 v a2) := by
  unfold cmtWrite
  grind [Chip.accept_ok, Chip.answer_ok, Chip.updTier_ok, Chip.Ok, foldl_ok]

theorem ringRegWrite_ok (k : ℕ) (r : ℕ) (v : Word) {a3 : Chip} (h : a3.Ok b) : Chip.Ok b (ringRegWrite k r v a3) := by
  unfold ringRegWrite
  grind [Chip.accept_ok, Chip.answer_ok, Chip.ringWrite_ok, Chip.Ok, foldl_ok]

theorem trcRingWrite_ok (r : ℕ) (v : Word) {a2 : Chip} (h : a2.Ok b) : Chip.Ok b (trcRingWrite r v a2) := by
  unfold trcRingWrite
  grind [Chip.accept_ok, Chip.ringWrite_ok, Chip.Ok, foldl_ok]

theorem rsqReq_ok (v : Word) {a1 : Chip} (h : a1.Ok b) : Chip.Ok b (rsqReq v a1) := by
  obtain ⟨f, hf⟩ : ∃ f, f = rsqReq v := ⟨_, rfl⟩
  rw [← hf]
  unfold rsqReq at hf
  split at hf <;> subst hf
  · exact ignoreWrite_ok h
  · exact rsqMoverReset_ok _ h
  · exact rsqPartitionReset_ok _ h
  · exact Chip.accept_ok _ (fun t ht => Chip.answer_ok _ ht) h

theorem statWrite_ok (key : ℕ) (v : Word) {a2 : Chip} (h : a2.Ok b) : Chip.Ok b (statWrite key v a2) := by
  unfold statWrite
  dsimp only
  repeat' first
      | with_reducible assumption | intro _ | with_reducible apply Chip.accept_ok | with_reducible apply Chip.answer_ok
      | with_reducible apply foldl_ok | split
  all_goals grind [Chip.accept_ok, Chip.answer_ok, Chip.Ok, foldl_ok]

theorem ctxRegWrite_ok (c : ℕ) (r : ℕ) (v : Word) {a3 : Chip} (h : a3.Ok b) : Chip.Ok b (ctxRegWrite c r v a3) := by
  unfold ctxRegWrite
  grind [ctxCmd_ok, Chip.accept_ok, ctxWrite_ok, Chip.Ok, foldl_ok]

theorem lowWrite_ok (off : ℕ) (v : Word) : OkWrite b (lowWrite off v) := by
  unfold lowWrite
  repeat' first
    | exact okWrite_none
    | with_reducible apply okWrite_ite
    | (with_reducible apply okWrite_some; intro t ht; first | with_reducible (apply glbRst_ok; assumption) | with_reducible (apply clkGate_ok; assumption) | with_reducible (apply guard_ok; assumption) | with_reducible (apply gangForm_ok; assumption) | with_reducible (apply trInvWrite_ok; assumption) | with_reducible (apply regionConfigWrite_ok; assumption) | with_reducible (apply cmtCtl_ok; assumption) | with_reducible (apply legCfgWrite_ok; assumption) | with_reducible (apply ctxRegWrite_ok; assumption) | with_reducible (apply icctl_ok; assumption) | with_reducible (apply partMov_ok; assumption) | with_reducible (apply ksPart_ok; assumption) | with_reducible (apply trqEnable_ok; assumption) | with_reducible (apply tnStkWrite_ok; assumption) | with_reducible (apply cmtWrite_ok; assumption))
    | (with_reducible apply okWrite_some; intro t ht; split <;> first | with_reducible (apply glbRst_ok; assumption) | with_reducible (apply clkGate_ok; assumption) | with_reducible (apply guard_ok; assumption) | with_reducible (apply gangForm_ok; assumption) | with_reducible (apply trInvWrite_ok; assumption) | with_reducible (apply regionConfigWrite_ok; assumption) | with_reducible (apply cmtCtl_ok; assumption) | with_reducible (apply legCfgWrite_ok; assumption) | with_reducible (apply ctxRegWrite_ok; assumption) | with_reducible (apply icctl_ok; assumption) | with_reducible (apply partMov_ok; assumption) | with_reducible (apply ksPart_ok; assumption) | with_reducible (apply trqEnable_ok; assumption) | with_reducible (apply tnStkWrite_ok; assumption) | with_reducible (apply cmtWrite_ok; assumption))
    | split

theorem linkWrite_ok (off : ℕ) (v : Word) : OkWrite b (linkWrite off v) := by
  unfold linkWrite
  repeat' first
    | exact okWrite_none
    | with_reducible apply okWrite_ite
    | (with_reducible apply okWrite_some; intro t ht; first | with_reducible (apply regionConfigWrite_ok; assumption) | with_reducible (apply lkCfg_ok; assumption) | with_reducible (apply lkPctl_ok; assumption) | with_reducible (apply rtEntryWrite_ok; assumption) | with_reducible (apply lwWrite_ok; assumption) | with_reducible (apply ringRegWrite_ok; assumption))
    | (with_reducible apply okWrite_some; intro t ht; split <;> first | with_reducible (apply regionConfigWrite_ok; assumption) | with_reducible (apply lkCfg_ok; assumption) | with_reducible (apply lkPctl_ok; assumption) | with_reducible (apply rtEntryWrite_ok; assumption) | with_reducible (apply lwWrite_ok; assumption) | with_reducible (apply ringRegWrite_ok; assumption))
    | split

theorem irqWrite_ok (off : ℕ) (v : Word) : OkWrite b (irqWrite off v) := by
  unfold irqWrite
  repeat' first
    | exact okWrite_none
    | with_reducible apply okWrite_ite
    | (with_reducible apply okWrite_some; intro t ht; first | with_reducible (apply icEvtcfg_ok; assumption) | with_reducible (apply icPset_ok; assumption) | with_reducible (apply icPclr_ok; assumption) | with_reducible (apply icMset_ok; assumption) | with_reducible (apply icMclr_ok; assumption) | with_reducible (apply Chip.accept_ok; assumption) | with_reducible (apply icVbase_ok; assumption) | with_reducible (apply icTcfg_ok; assumption) | with_reducible (apply icEoi_ok; assumption) | with_reducible (apply icTstat_ok; assumption) | with_reducible (apply icSrc_ok; assumption) | with_reducible (apply icSst_ok; assumption) | exact Chip.accept_ok _ (fun t ht => icVbase_ok _ _ ht) ht | exact Chip.accept_ok _ (fun t ht => icTstat_ok _ _ ht) ht)
    | (with_reducible apply okWrite_some; intro t ht; split <;> first | with_reducible (apply icEvtcfg_ok; assumption) | with_reducible (apply icPset_ok; assumption) | with_reducible (apply icPclr_ok; assumption) | with_reducible (apply icMset_ok; assumption) | with_reducible (apply icMclr_ok; assumption) | with_reducible (apply Chip.accept_ok; assumption) | with_reducible (apply icVbase_ok; assumption) | with_reducible (apply icTcfg_ok; assumption) | with_reducible (apply icEoi_ok; assumption) | with_reducible (apply icTstat_ok; assumption) | with_reducible (apply icSrc_ok; assumption) | with_reducible (apply icSst_ok; assumption))
    | split

theorem highWrite_ok (off : ℕ) (v : Word) : OkWrite b (highWrite off v) := by
  unfold highWrite
  repeat' first
    | exact okWrite_none
    | with_reducible apply okWrite_ite
    | (with_reducible apply okWrite_some; intro t ht; first | with_reducible (apply fcAck_ok; assumption) | with_reducible (apply fcSwrep_ok; assumption) | with_reducible (apply fcInjArm_ok; assumption) | with_reducible (apply shdConfigWrite_ok; assumption) | with_reducible (apply rsqTmo_ok; assumption) | with_reducible (apply rsqReq_ok; assumption) | with_reducible (apply rsqDump_ok; assumption) | with_reducible (apply govConfigWrite_ok; assumption) | with_reducible (apply rcEmbcfg_ok; assumption) | with_reducible (apply snsThreshold_ok; assumption) | with_reducible (apply trcCfg_ok; assumption) | with_reducible (apply snsUseroff_ok; assumption) | with_reducible (apply trcRingWrite_ok; assumption) | with_reducible (apply ksVal_ok; assumption) | with_reducible (apply ksAdd_ok; assumption) | with_reducible (apply kwatchCfg_ok; assumption))
    | (with_reducible apply okWrite_some; intro t ht; split <;> first | with_reducible (apply fcAck_ok; assumption) | with_reducible (apply fcSwrep_ok; assumption) | with_reducible (apply fcInjArm_ok; assumption) | with_reducible (apply shdConfigWrite_ok; assumption) | with_reducible (apply rsqTmo_ok; assumption) | with_reducible (apply rsqReq_ok; assumption) | with_reducible (apply rsqDump_ok; assumption) | with_reducible (apply govConfigWrite_ok; assumption) | with_reducible (apply rcEmbcfg_ok; assumption) | with_reducible (apply snsThreshold_ok; assumption) | with_reducible (apply trcCfg_ok; assumption) | with_reducible (apply snsUseroff_ok; assumption) | with_reducible (apply trcRingWrite_ok; assumption) | with_reducible (apply ksVal_ok; assumption) | with_reducible (apply ksAdd_ok; assumption) | with_reducible (apply kwatchCfg_ok; assumption))
    | split

theorem writeReg_ok (off : ℕ) (v : Word) {s : Chip} (h : s.Ok b) : Chip.Ok b (writeReg off v s) := by
  unfold writeReg
  split
  · exact statWrite_ok _ _ h
  · split
    · rename_i hg
      unfold orElse at hg
      split at hg
      · cases hg; rename_i hg; exact lowWrite_ok _ _ _ hg _ h
      · split at hg
        · cases hg; rename_i hg; exact linkWrite_ok _ _ _ hg _ h
        · split at hg
          · cases hg; rename_i hg; exact irqWrite_ok _ _ _ hg _ h
          · exact highWrite_ok _ _ _ hg _ h
    · exact plainWrite_ok _ _ h

theorem Chip.decodeError_ok (src : ℕ) {a1 : Chip} (h : a1.Ok b) : Chip.Ok b (Chip.decodeError src a1) := by
  unfold Chip.decodeError
  grind [Chip.acceptAny_ok, Chip.answer_ok, Chip.report_ok, Chip.Ok, foldl_ok]

theorem registerWrite_ok (off : ℕ) (size : ℕ) (v : Word) {s : Chip} (h : s.Ok b) : Chip.Ok b (registerWrite off size v s) := by
  unfold registerWrite
  grind [Chip.decodeError_ok, writeReg_ok, Chip.Ok, foldl_ok]

/-! ### `Machine/Tap.lean` -/

theorem Chip.updTap_ok (f : TapSt → TapSt) {s : Chip} (h : s.Ok b) : Chip.Ok b (Chip.updTap f s) := h

theorem Chip.tapCapture_ok {s : Chip} (h : s.Ok b) : Chip.Ok b (Chip.tapCapture s) := by
  unfold Chip.tapCapture
  dsimp only
  repeat' first
      | with_reducible assumption | intro _ | with_reducible apply Chip.updTap_ok | with_reducible apply foldl_ok | split
      | with_reducible apply ok_lit

theorem netWrite_ok (off : ℕ) (v : Word) {s : Chip} (h : s.Ok b) : Chip.Ok b (netWrite off v s) := by
  unfold netWrite
  dsimp only
  repeat' first
      | with_reducible assumption | intro _ | with_reducible apply Chip.logCtl_ok | with_reducible apply Chip.setReg_ok
      | with_reducible apply writeReg_ok | with_reducible apply foldl_ok | split | with_reducible apply ok_lit

theorem Chip.tapEnter_ok (off : ℕ) (v : Word) {s : Chip} (h : s.Ok b) : Chip.Ok b (Chip.tapEnter off v s) := by
  unfold Chip.tapEnter
  grind [Chip.updTap_ok, netWrite_ok, Chip.Ok, foldl_ok]

theorem Chip.tapAct_ok (tdi : Bool) {s : Chip} (h : s.Ok b) : Chip.Ok b (Chip.tapAct tdi s) := by
  unfold Chip.tapAct
  grind [Chip.tapCapture_ok, Chip.updTap_ok, Chip.Ok, foldl_ok]

theorem Chip.tapEvent_ok (off : ℕ) (v : Word) {s : Chip} (a3 : TckEv) (h : s.Ok b) : Chip.Ok b (Chip.tapEvent off v s a3) := by
  unfold Chip.tapEvent
  dsimp only
  repeat' first
      | with_reducible assumption | intro _ | with_reducible apply Chip.updTap_ok | with_reducible apply Chip.tapAct_ok
      | with_reducible apply Chip.tapEnter_ok | with_reducible apply foldl_ok | split

theorem tapNetaccWrite_ok (tck : List TckEv) (off : ℕ) (v : Word) {s : Chip} (h : s.Ok b) : Chip.Ok b (tapNetaccWrite tck off v s) := by
  unfold tapNetaccWrite
  grind [Chip.tapEvent_ok, Chip.Ok, foldl_ok]

end Sys2Proof.Machine
end

