-- ==== Sys2Proof/Laws/PerInstr.lean ====
section
/-! SUPPORT. What holds of every command as syntax, command by command: a command of a build is one of every build that has
at least as much of everything. -/

namespace Sys2Proof

/-- The build `b` has at least as much of everything as the build `a`. -/
structure Build.Within (a b : Build) : Prop where
  nmov  : a.nmov ≤ b.nmov
  nsp   : a.nsp ≤ b.nsp
  nfp   : a.nfp ≤ b.nfp
  ntp   : a.ntp ≤ b.ntp
  nlp   : a.nlp ≤ b.nlp
  nctx  : a.nctx ≤ b.nctx
  npart : a.npart ≤ b.npart

theorem lt_grows {i m n : Nat} (h : m ≤ n) (w : decide (i < m) = true) : decide (i < n) = true := by
  simp only [decide_eq_true_eq] at *
  omega

theorem and_grows {p p' q q' : Bool} (h1 : p = true → p' = true) (h2 : q = true → q' = true) (w : (p && q) = true) : (p' && q') = true := by
  simp only [Bool.and_eq_true] at *
  exact ⟨h1 w.1, h2 w.2⟩

theorem Lane.wf_grows {a b : Build} (h : a.Within b) (l : Lane) (w : l.wf a = true) : l.wf b = true := by
  obtain ⟨k, p, n⟩ := l
  cases k <;> first
    | exact w
    | exact and_grows (lt_grows h.nsp) id w
    | exact and_grows (lt_grows h.nfp) id w
    | exact and_grows (lt_grows h.ntp) id w

theorem unitWf_grows {a b : Build} (h : a.Within b) (k : UnitKind) (u : Nat) (w : unitWf a k u = true) : unitWf b k u = true := by
  cases k <;> first
    | exact w
    | exact lt_grows h.nmov w
    | exact lt_grows h.nsp w
    | exact lt_grows h.nfp w
    | exact lt_grows h.ntp w
    | exact lt_grows h.nlp w

theorem all_grows {α : Type} {p q : α → Bool} (h : ∀ x, p x = true → q x = true) (l : List α) (w : l.all p = true) : l.all q = true := by
  simp only [List.all_eq_true] at *
  exact fun x m => h x (w x m)

end Sys2Proof

namespace Sys2Proof.Laws.GrowsWithBuild

/-- A command of a build is one of every build that has at least as much of everything. -/
def Statement (i : Instr) : Prop := ∀ a b : Build, a.Within b → i.wf a = true → i.wf b = true

theorem nop (c : Nat) : Statement (.nop c) := fun _ _ h w => lt_grows h.nctx w
theorem halt (c : Nat) : Statement (.halt c) := fun _ _ h w => lt_grows h.nctx w
theorem haltDrainDone (c : Nat) : Statement (.haltDrainDone c) := fun _ _ h w => lt_grows h.nctx w
theorem yield (c : Nat) : Statement (.yield c) := fun _ _ h w => lt_grows h.nctx w
theorem jmp (c : Nat) : Statement (.jmp c) := fun _ _ h w => lt_grows h.nctx w
theorem br (c : Nat) : Statement (.br c) := fun _ _ h w => lt_grows h.nctx w
theorem call (c : Nat) : Statement (.call c) := fun _ _ h w => lt_grows h.nctx w
theorem ret (c : Nat) : Statement (.ret c) := fun _ _ h w => lt_grows h.nctx w
theorem loop (c : Nat) : Statement (.loop c) := fun _ _ h w => lt_grows h.nctx w
theorem endl (c : Nat) : Statement (.endl c) := fun _ _ h w => lt_grows h.nctx w
theorem sli (c : Nat) : Statement (.sli c) := fun _ _ h w => lt_grows h.nctx w
theorem slih (c : Nat) : Statement (.slih c) := fun _ _ h w => lt_grows h.nctx w
theorem sadd (c : Nat) : Statement (.sadd c) := fun _ _ h w => lt_grows h.nctx w
theorem ssub (c : Nat) : Statement (.ssub c) := fun _ _ h w => lt_grows h.nctx w
theorem smul (c : Nat) : Statement (.smul c) := fun _ _ h w => lt_grows h.nctx w
theorem sand (c : Nat) : Statement (.sand c) := fun _ _ h w => lt_grows h.nctx w
theorem sor (c : Nat) : Statement (.sor c) := fun _ _ h w => lt_grows h.nctx w
theorem sxor (c : Nat) : Statement (.sxor c) := fun _ _ h w => lt_grows h.nctx w
theorem sshl (c : Nat) : Statement (.sshl c) := fun _ _ h w => lt_grows h.nctx w
theorem sshr (c : Nat) : Statement (.sshr c) := fun _ _ h w => lt_grows h.nctx w
theorem scmp (c : Nat) : Statement (.scmp c) := fun _ _ h w => lt_grows h.nctx w
theorem ssel (c : Nat) : Statement (.ssel c) := fun _ _ h w => lt_grows h.nctx w
theorem sld (c : Nat) : Statement (.sld c) := fun _ _ h w => lt_grows h.nctx w
theorem sst (c : Nat) : Statement (.sst c) := fun _ _ h w => lt_grows h.nctx w
theorem ldtd (c : Nat) : Statement (.ldtd c) := fun _ _ h w => lt_grows h.nctx w
theorem sttd (c : Nat) : Statement (.sttd c) := fun _ _ h w => lt_grows h.nctx w
theorem scalarmemComplete (c va size : Nat) : Statement (.scalarmemComplete c va size) := fun _ _ h w => and_grows (lt_grows h.nctx) id w
theorem tdset (c : Nat) : Statement (.tdset c) := fun _ _ h w => lt_grows h.nctx w
theorem tdget (c : Nat) : Statement (.tdget c) := fun _ _ h w => lt_grows h.nctx w
theorem ksig (c : Nat) : Statement (.ksig c) := fun _ _ h w => lt_grows h.nctx w
theorem kwait (c : Nat) : Statement (.kwait c) := fun _ _ h w => lt_grows h.nctx w
theorem kwaitTimeout (c : Nat) : Statement (.kwaitTimeout c) := fun _ _ h w => lt_grows h.nctx w
theorem kdrain (c : Nat) : Statement (.kdrain c) := fun _ _ h w => lt_grows h.nctx w
theorem kdrainDone (c : Nat) : Statement (.kdrainDone c) := fun _ _ h w => lt_grows h.nctx w
theorem fence (c : Nat) : Statement (.fence c) := fun _ _ h w => lt_grows h.nctx w
theorem fenceDone (c : Nat) : Statement (.fenceDone c) := fun _ _ h w => lt_grows h.nctx w
theorem intr (c : Nat) : Statement (.intr c) := fun _ _ h w => lt_grows h.nctx w
theorem kread (c : Nat) : Statement (.kread c) := fun _ _ h w => lt_grows h.nctx w
theorem move (c : Nat) : Statement (.move c) := fun _ _ h w => lt_grows h.nctx w
theorem moveLdrt (c : Nat) : Statement (.moveLdrt c) := fun _ _ h w => lt_grows h.nctx w
theorem mset (c : Nat) : Statement (.mset c) := fun _ _ h w => lt_grows h.nctx w
theorem msetDataPass (c : Nat) : Statement (.msetDataPass c) := fun _ _ h w => lt_grows h.nctx w
theorem fill (c : Nat) : Statement (.fill c) := fun _ _ h w => lt_grows h.nctx w
theorem window (c : Nat) : Statement (.window c) := fun _ _ h w => lt_grows h.nctx w
theorem gather (c : Nat) : Statement (.gather c) := fun _ _ h w => lt_grows h.nctx w
theorem pool (c : Nat) : Statement (.pool c) := fun _ _ h w => lt_grows h.nctx w
theorem scatter (c : Nat) : Statement (.scatter c) := fun _ _ h w => lt_grows h.nctx w
theorem expand (c : Nat) : Statement (.expand c) := fun _ _ h w => lt_grows h.nctx w
theorem pack (c : Nat) : Statement (.pack c) := fun _ _ h w => lt_grows h.nctx w
theorem digest (c : Nat) : Statement (.digest c) := fun _ _ h w => lt_grows h.nctx w
theorem prefetch (c : Nat) : Statement (.prefetch c) := fun _ _ h w => lt_grows h.nctx w
theorem prefetchFillLand (c : Nat) (id : Nat) : Statement (.prefetchFillLand c id) := fun _ _ h w => lt_grows h.nctx w
theorem send (c : Nat) : Statement (.send c) := fun _ _ h w => lt_grows h.nctx w
theorem deleg (c : Nat) : Statement (.deleg c) := fun _ _ h w => lt_grows h.nctx w
theorem cinv (c : Nat) : Statement (.cinv c) := fun _ _ h w => lt_grows h.nctx w
theorem creditAcquired (c : Nat) : Statement (.creditAcquired c) := fun _ _ h w => lt_grows h.nctx w
theorem stageAllWritePass (c : Nat) : Statement (.stageAllWritePass c) := fun _ _ h w => lt_grows h.nctx w
theorem courseComplete (c : Nat) : Statement (.courseComplete c) := fun _ _ h w => lt_grows h.nctx w
theorem transferRetire (c : Nat) : Statement (.transferRetire c) := fun _ _ h w => lt_grows h.nctx w
theorem stopEffect (c : Nat) : Statement (.stopEffect c) := fun _ _ h w => lt_grows h.nctx w
theorem ifetchFill (c m line : Nat) : Statement (.ifetchFill c m line) := fun _ _ h w =>
  and_grows (and_grows (lt_grows h.nctx) (lt_grows h.nmov)) id w
theorem pageWalkComplete (n p va : Nat) : Statement (.pageWalkComplete n p va) := fun _ _ h w => and_grows (lt_grows h.npart) id w
theorem translationHalt (c : Nat) : Statement (.translationHalt c) := fun _ _ h w => lt_grows h.nctx w
theorem rowCacheFill (id : Nat) : Statement (.rowCacheFill id) := fun _ _ _ w => w
theorem combineSegment (id : Nat) : Statement (.combineSegment id) := fun _ _ _ w => w
theorem rowUpdateEnter (id : Nat) : Statement (.rowUpdateEnter id) := fun _ _ _ w => w
theorem rowUpdateExit (id : Nat) : Statement (.rowUpdateExit id) := fun _ _ _ w => w
theorem rowUpdateAbandon (id : Nat) : Statement (.rowUpdateAbandon id) := fun _ _ _ w => w
theorem tornRowRetry (c : Nat) : Statement (.tornRowRetry c) := fun _ _ h w => lt_grows h.nctx w
theorem shadowReexec (m : Nat) : Statement (.shadowReexec m) := fun _ _ h w => lt_grows h.nmov w
theorem shadowCompare (m : Nat) (err : Word) : Statement (.shadowCompare m err) := fun _ _ h w => lt_grows h.nmov w
theorem shadowTimeout (m : Nat) : Statement (.shadowTimeout m) := fun _ _ h w => lt_grows h.nmov w
theorem keystoneUpdate (b : Nat) : Statement (.keystoneUpdate b) := fun _ _ _ w => w
theorem keystoneTick (n : Nat) : Statement (.keystoneTick n) := fun _ _ _ w => w
theorem moverSwitch (m : Nat) : Statement (.moverSwitch m) := fun _ _ h w => lt_grows h.nmov w
theorem timesliceExpiry (m : Nat) : Statement (.timesliceExpiry m) := fun _ _ h w => lt_grows h.nmov w
theorem starvationPromote (c : Nat) : Statement (.starvationPromote c) := fun _ _ h w => lt_grows h.nctx w
theorem issueWindow : Statement .issueWindow := fun _ _ _ w => w
theorem quotaWindow : Statement .quotaWindow := fun _ _ _ w => w
theorem portGrant (l : Lane) : Statement (.portGrant l) := fun _ _ h w => Lane.wf_grows h l w
theorem portReadData (l : Lane) (b : RspBeat) : Statement (.portReadData l b) := fun _ _ h w => Lane.wf_grows h l w
theorem portWriteAck (l : Lane) (b : RspBeat) : Statement (.portWriteAck l b) := fun _ _ h w => Lane.wf_grows h l w
theorem portCreditReturn (l : Lane) (wdat : Bool) : Statement (.portCreditReturn l wdat) := fun _ _ h w => Lane.wf_grows h l w
theorem txnTimeout (l : Lane) (tag : Nat) : Statement (.txnTimeout l tag) := fun _ _ h w => and_grows (Lane.wf_grows h l) id w
theorem tagBarExpiry (l : Lane) (tag : Nat) : Statement (.tagBarExpiry l tag) := fun _ _ h w => and_grows (Lane.wf_grows h l) id w
theorem portHoldWatchdog (n : Nat) : Statement (.portHoldWatchdog n) := fun _ _ h w => lt_grows h.nfp w
theorem progressWatchdog (c : Nat) : Statement (.progressWatchdog c) := fun _ _ h w => lt_grows h.nctx w
theorem bind (c : Nat) : Statement (.bind c) := fun _ _ h w => lt_grows h.nctx w
theorem bindComplete (c : Nat) : Statement (.bindComplete c) := fun _ _ h w => lt_grows h.nctx w
theorem unbind (c : Nat) : Statement (.unbind c) := fun _ _ h w => lt_grows h.nctx w
theorem unbindComplete (c : Nat) : Statement (.unbindComplete c) := fun _ _ h w => lt_grows h.nctx w
theorem start (c : Nat) : Statement (.start c) := fun _ _ h w => lt_grows h.nctx w
theorem stop (c : Nat) : Statement (.stop c) := fun _ _ h w => lt_grows h.nctx w
theorem resume (c : Nat) : Statement (.resume c) := fun _ _ h w => lt_grows h.nctx w
theorem abort (c : Nat) : Statement (.abort c) := fun _ _ h w => lt_grows h.nctx w
theorem abortComplete (c : Nat) : Statement (.abortComplete c) := fun _ _ h w => lt_grows h.nctx w
theorem clear (c : Nat) : Statement (.clear c) := fun _ _ h w => lt_grows h.nctx w
theorem loadregs (c : Nat) : Statement (.loadregs c) := fun _ _ h w => lt_grows h.nctx w
theorem saveregs (c : Nat) : Statement (.saveregs c) := fun _ _ h w => lt_grows h.nctx w
theorem regimageComplete (c p : Nat) (save : Bool) : Statement (.regimageComplete c p save) := fun _ _ h w =>
  and_grows (lt_grows h.nctx) (lt_grows h.npart) w
theorem gangForm (v : Word) : Statement (.gangForm v) := fun _ _ _ w => w
theorem partMov (k : Nat) (v : Word) : Statement (.partMov k v) := fun _ _ _ w => w
theorem ksPart (k : Nat) (v : Word) : Statement (.ksPart k v) := fun _ _ _ w => w
theorem invall (m : Nat) : Statement (.invall m) := fun _ _ h w => lt_grows h.nmov w
theorem invasid (m : Nat) (asid : BitVec 16) : Statement (.invasid m asid) := fun _ _ h w => lt_grows h.nmov w
theorem ksVal (n : Nat) (v : Word) : Statement (.ksVal n v) := fun _ _ _ w => w
theorem ksAdd (n : Nat) (v : Word) : Statement (.ksAdd n v) := fun _ _ _ w => w
theorem kwatchCfg (w : Nat) (v : Word) : Statement (.kwatchCfg w v) := fun _ _ _ w => w
theorem trInvAll : Statement .trInvAll := fun _ _ _ w => w
theorem trInvPartition (p : Nat) : Statement (.trInvPartition p) := fun _ _ _ w => w
theorem trInvAsid (p : Nat) (asid : BitVec 16) : Statement (.trInvAsid p asid) := fun _ _ _ w => w
theorem trInvAsidPage (p : Nat) (asid : BitVec 16) : Statement (.trInvAsidPage p asid) := fun _ _ _ w => w
theorem trInvGlobalPage (p : Nat) : Statement (.trInvGlobalPage p) := fun _ _ _ w => w
theorem invalidationComplete : Statement .invalidationComplete := fun _ _ _ w => w
theorem trqEnable (q : Nat) (r : Nat) (v : Word) : Statement (.trqEnable q r v) := fun _ _ h w => and_grows (lt_grows (Nat.mul_le_mul_left 2 h.npart)) id w
theorem autofill (v : Word) : Statement (.autofill v) := fun _ _ _ w => w
theorem commit (v : Word) : Statement (.commit v) := fun _ _ _ w => w
theorem commitComplete : Statement .commitComplete := fun _ _ _ w => w
theorem regionConfigWrite (off : Nat) (v : Word) : Statement (.regionConfigWrite off v) := fun _ _ _ w => w
theorem fcAck (v : Word) : Statement (.fcAck v) := fun _ _ _ w => w
theorem fcSwrep (v : Word) : Statement (.fcSwrep v) := fun _ _ _ w => w
theorem fcInjArm (v : Word) : Statement (.fcInjArm v) := fun _ _ _ w => w
theorem injectionFire : Statement .injectionFire := fun _ _ _ w => w
theorem shdConfigWrite (off : Nat) (v : Word) : Statement (.shdConfigWrite off v) := fun _ _ _ w => w
theorem rsqMoverReset (t : Nat) : Statement (.rsqMoverReset t) := fun _ _ h w => lt_grows h.nmov w
theorem rsqPartitionReset (t : Nat) : Statement (.rsqPartitionReset t) := fun _ _ h w => lt_grows h.npart w
theorem glbRst (v : Word) : Statement (.glbRst v) := fun _ _ _ w => w
theorem guard (v : Word) : Statement (.guard v) := fun _ _ _ w => w
theorem guardExpiry : Statement .guardExpiry := fun _ _ _ w => w
theorem clkGate (v : Word) : Statement (.clkGate v) := fun _ _ _ w => w
theorem icPset (k : Nat) (v : Word) : Statement (.icPset k v) := fun _ _ _ w => w
theorem icPclr (k : Nat) (v : Word) : Statement (.icPclr k v) := fun _ _ _ w => w
theorem icMset (k : Nat) (v : Word) : Statement (.icMset k v) := fun _ _ _ w => w
theorem icMclr (k : Nat) (v : Word) : Statement (.icMclr k v) := fun _ _ _ w => w
theorem icEvtcfg (v : Word) : Statement (.icEvtcfg v) := fun _ _ _ w => w
theorem icSrc (s : Nat) (v : Word) : Statement (.icSrc s v) := fun _ _ _ w => w
theorem icSst (s : Nat) (v : Word) : Statement (.icSst s v) := fun _ _ _ w => w
theorem icEoi (t : Nat) (v : Word) : Statement (.icEoi t v) := fun _ _ _ w => w
theorem icTcfg (t : Nat) (v : Word) : Statement (.icTcfg t v) := fun _ _ _ w => w
theorem vectorPresent (t : Nat) (early : Option Nat) : Statement (.vectorPresent t early) := fun _ _ _ w => w
theorem vectorClaim (t : Nat) : Statement (.vectorClaim t) := fun _ _ _ w => w
theorem vpackTimeout (t : Nat) : Statement (.vpackTimeout t) := fun _ _ _ w => w
theorem evtEdge (i : Nat) (merged : Bool) : Statement (.evtEdge i merged) := fun _ _ _ w => w
theorem evtLevelRise (i : Nat) : Statement (.evtLevelRise i) := fun _ _ _ w => w
theorem evtLevelFall (i : Nat) : Statement (.evtLevelFall i) := fun _ _ _ w => w
theorem stormWindow (s : Nat) : Statement (.stormWindow s) := fun _ _ _ w => w
theorem lkCfg (v : Word) : Statement (.lkCfg v) := fun _ _ _ w => w
theorem lkPctl (n : Nat) (v : Word) : Statement (.lkPctl n v) := fun _ _ h w => lt_grows h.nlp w
theorem rtEntryWrite (p : Nat) (e : Nat) (r : Nat) (v : Word) : Statement (.rtEntryWrite p e r v) := fun _ _ _ w => w
theorem lwWrite (w : Nat) (r : Nat) (v : Word) : Statement (.lwWrite w r v) := fun _ _ _ w => w
theorem govConfigWrite (off : Nat) (v : Word) : Statement (.govConfigWrite off v) := fun _ _ _ w => w
theorem rcEmbcfg (v : Word) : Statement (.rcEmbcfg v) := fun _ _ _ w => w
theorem snsUseroff (off : Nat) (v : Word) : Statement (.snsUseroff off v) := fun _ _ _ w => w
theorem snsThreshold (off : Nat) (v : Word) : Statement (.snsThreshold off v) := fun _ _ _ w => w
theorem trcCfg (v : Word) : Statement (.trcCfg v) := fun _ _ _ w => w
theorem rsqTmo (v : Word) : Statement (.rsqTmo v) := fun _ _ _ w => w
theorem rsqDump (v : Word) : Statement (.rsqDump v) := fun _ _ _ w => w
theorem tapNetaccWrite (tck : List TckEv) (r : NetWr) : Statement (.tapNetaccWrite tck r) := fun _ _ _ w => w
theorem registerWrite (off : Nat) (size : Nat) (v : Word) : Statement (.registerWrite off size v) := fun _ _ _ w => w
theorem porstAssert : Statement .porstAssert := fun _ _ _ w => w
theorem porstRelease (presenceN : Bool) (ftmN : Bool) (rclkOk : Bool) : Statement (.porstRelease presenceN ftmN rclkOk) := fun _ _ _ w => w
theorem selfTestDone (pass : Bool) : Statement (.selfTestDone pass) := fun _ _ _ w => w
theorem fuseWordAck (w : BitVec 32) : Statement (.fuseWordAck w) := fun _ _ _ w => w
theorem fuseTimeout : Statement .fuseTimeout := fun _ _ _ w => w
theorem clockStart : Statement .clockStart := fun _ _ _ w => w
theorem marchTestDone (movFail : Word) (shFail : Bool) (reps : List Report) : Statement (.marchTestDone movFail shFail reps) := fun a b h w => all_grows (p := fun (r : Report) => unitWf a r.kind r.unit) (q := fun (r : Report) => unitWf b r.kind r.unit) (fun (r : Report) => unitWf_grows h r.kind r.unit) reps w
theorem readyPhaseDone : Statement .readyPhaseDone := fun _ _ _ w => w
theorem hrst : Statement .hrst := fun _ _ _ w => w
theorem rclkOkLoss : Statement .rclkOkLoss := fun _ _ _ w => w
theorem clockMonitorWindow (n : Nat) : Statement (.clockMonitorWindow n) := fun _ _ _ w => w
theorem presenceChange (level : Bool) : Statement (.presenceChange level) := fun _ _ _ w => w
theorem aliveToggle : Statement .aliveToggle := fun _ _ _ w => w
theorem sensorConversion (i : Nat) (raw : BitVec 16) : Statement (.sensorConversion i raw) := fun _ _ _ w => w
theorem sensorStale (i : Nat) : Statement (.sensorStale i) := fun _ _ _ w => w
theorem scrubRead (x : ArrayWord) (flip : BitVec 288) : Statement (.scrubRead x flip) := fun _ _ h w =>
  and_grows id (unitWf_grows h x.kind x.unit) w
theorem reportAccept (raised : List Report) : Statement (.reportAccept raised) := fun a b h w => all_grows (p := fun (r : Report) => unitWf a r.kind r.unit) (q := fun (r : Report) => unitWf b r.kind r.unit) (fun (r : Report) => unitWf_grows h r.kind r.unit) raised w
theorem lockstepDisagree : Statement .lockstepDisagree := fun _ _ _ w => w
theorem rsqWatchdog : Statement .rsqWatchdog := fun _ _ _ w => w
theorem rungStart : Statement .rungStart := fun _ _ _ w => w
theorem rungDeadline (k : RungSel) : Statement (.rungDeadline k) := fun _ _ h w => by
  cases k with
  | ctx c => exact lt_grows h.nctx w
  | mover m => exact lt_grows h.nmov w
  | unit k u => exact unitWf_grows h k u w
  | part p => exact lt_grows h.npart w
  | block => exact w
theorem moverResetDone (m : Nat) (dur : Nat) : Statement (.moverResetDone m dur) := fun _ _ h w => lt_grows h.nmov w
theorem dumpEnd (part : Option Nat) (bytes : Option Nat) : Statement (.dumpEnd part bytes) := fun _ _ h w => by cases part with | none => exact w | some p => exact lt_grows h.npart w
theorem dumpAckTimeout (part : Option Nat) : Statement (.dumpAckTimeout part) := fun _ _ h w => by cases part with | none => exact w | some p => exact lt_grows h.npart w
theorem partitionResetDone (p : Nat) (dur : Nat) : Statement (.partitionResetDone p dur) := fun _ _ h w => lt_grows h.npart w
theorem blockResetDone (dur : Nat) : Statement (.blockResetDone dur) := fun _ _ _ w => w
theorem pcsLock (n : Nat) (lanes : BitVec 8) : Statement (.pcsLock n lanes) := fun _ _ h w => lt_grows h.nlp w
theorem trainProposeTimer (n : Nat) : Statement (.trainProposeTimer n) := fun _ _ h w => lt_grows h.nlp w
theorem train (n : Nat) (f : Frame) : Statement (.train n f) := fun _ _ h w => lt_grows h.nlp w
theorem trainTimeout (n : Nat) : Statement (.trainTimeout n) := fun _ _ h w => lt_grows h.nlp w
theorem trainRetry (n : Nat) : Statement (.trainRetry n) := fun _ _ h w => lt_grows h.nlp w
theorem linkctlCredit (n : Nat) (f : Frame) : Statement (.linkctlCredit n f) := fun _ _ h w => lt_grows h.nlp w
theorem nack (n : Nat) (f : Frame) : Statement (.nack n f) := fun _ _ h w => lt_grows h.nlp w
theorem replayTimer (n : Nat) : Statement (.replayTimer n) := fun _ _ h w => lt_grows h.nlp w
theorem creditTimer (n : Nat) : Statement (.creditTimer n) := fun _ _ h w => lt_grows h.nlp w
theorem keepaliveTimer (n : Nat) : Statement (.keepaliveTimer n) := fun _ _ h w => lt_grows h.nlp w
theorem linkSilence (n : Nat) : Statement (.linkSilence n) := fun _ _ h w => lt_grows h.nlp w
theorem laneLockLoss (n : Nat) (lanes : BitVec 8) : Statement (.laneLockLoss n lanes) := fun _ _ h w => lt_grows h.nlp w
theorem pcsError (n : Nat) : Statement (.pcsError n) := fun _ _ h w => lt_grows h.nlp w
theorem rxFifoOverflow (n : Nat) : Statement (.rxFifoOverflow n) := fun _ _ h w => lt_grows h.nlp w
theorem frameForward (n : Nat) (f : Frame) : Statement (.frameForward n f) := fun _ _ h w => lt_grows h.nlp w
theorem shead (n : Nat) : Statement (.shead n) := fun _ _ h w => lt_grows h.nlp w
theorem sdata (n : Nat) : Statement (.sdata n) := fun _ _ h w => lt_grows h.nlp w
theorem landingBurst (id : Nat) : Statement (.landingBurst id) := fun _ _ _ w => w
theorem dhead (n : Nat) : Statement (.dhead n) := fun _ _ h w => lt_grows h.nlp w
theorem ddata (n : Nat) : Statement (.ddata n) := fun _ _ h w => lt_grows h.nlp w
theorem guestDispatch (p : Nat) : Statement (.guestDispatch p) := fun _ _ h w => lt_grows h.npart w
theorem cmpl (n : Nat) : Statement (.cmpl n) := fun _ _ h w => lt_grows h.nlp w
theorem delegCredit (n : Nat) : Statement (.delegCredit n) := fun _ _ h w => lt_grows h.nlp w
theorem gone (n : Nat) : Statement (.gone n) := fun _ _ h w => lt_grows h.nlp w
theorem forwardWatchdog (n : Nat) (vl : Nat) : Statement (.forwardWatchdog n vl) := fun _ _ h w => and_grows (lt_grows h.nlp) id w
theorem completionTimeout (id : Nat) : Statement (.completionTimeout id) := fun _ _ _ w => w
theorem mtagBarExpiry (tag : Nat) : Statement (.mtagBarExpiry tag) := fun _ _ _ w => w
theorem unitResetDone (kind : UnitKind) (u : Nat) (dur : Nat) : Statement (.unitResetDone kind u dur) := fun _ _ h w => unitWf_grows h kind u w
theorem hrstRelease : Statement .hrstRelease := fun _ _ _ w => w
theorem refclkLoss : Statement .refclkLoss := fun _ _ _ w => w
theorem brokenWire (kind : UnitKind) (u : Nat) (codes : PairCodes) (sub : Nat) : Statement (.brokenWire kind u codes sub) := fun _ _ h w =>
  and_grows (and_grows (unitWf_grows h kind u) id) id w

end Sys2Proof.Laws.GrowsWithBuild
end

