-- ==== Sys2Proof/Machine/RegRead.lean ====
section
/-! DEFINITION. What a read of each register shows (R597–R613 and the owner chapters). A read changes nothing and is no
command of the table: this is how statements observe the block. -/

namespace Sys2Proof.Machine

/-- A flag as a number, and a number placed at a bit. -/
def nat1 (b : Bool) : Nat := if b then 1 else 0

/-- Fields placed at their bits. -/
def fields (l : List (Nat × Nat)) : Word := l.foldl (fun w f => w ||| at64 f.1 f.2) 0

/-- The flags of `n` things as bits. -/
def bitsOf (n : Nat) (f : Nat → Bool) : Word := fields ((List.range n).map (fun i => (i, nat1 (f i))))

/-! ### Block and contexts -/

/-- CLK_STAT (R607): RCLKOK is the pin. -/
def Chip.readClkStat (s : Chip) : Word := s.reg Reg.clkStat ||| flag64 0 s.pins.rclkOk

/-- GUARD (R610). -/
def Chip.readGuard (s : Chip) : Word :=
  fields [(19, nat1 (!s.pins.presenceN)),
    (16, match s.guardNow with | .closed => 0 | .key1 => 1 | .opened _ => 2),
    (32, match s.guardNow with | .opened t => t - s.time | _ => 0)]

/-- PART_STATE (R27). -/
def Chip.readPartState (s : Chip) : Word :=
  bitsOf 8 (fun p => decide (p < s.build.npart) && (List.range s.build.nmov).any (fun m => s.movPart m == p)) |||
  fields ((List.range 8).map (fun p => (8 + p, nat1 (s.inReset p))))

/-- CTX_BIND (R81): while the context is bound, the actual binding. -/
def Chip.readBind (s : Chip) (c : Nat) : Word :=
  match (s.ctxAt c).slotOf with
  | none => s.reg (Reg.ctx c 0x28)
  | some m => match s.gangOf m with
    | some n => fields [(8, 1), (0, n)]
    | none => fields [(0, m)]

/-- CTX_STATE (R83). BUSY shows BIND, UNBIND, LOADREGS and SAVEREGS; a STOP that has not yet taken effect, a RESUME and an
ABORT under way are shown by the state alone (log 99). -/
def Chip.readCtxState (s : Chip) (c : Nat) : Word :=
  let x := s.ctxAt c
  fields [(0, x.st.code), (8, nat1 x.busy.isSome), (9, nat1 x.cmderr), (10, nat1 x.slotOf.isSome), (11, nat1 (s.isCur c)),
    (12, if x.st = .waiting then (match x.wait with | some w => w.code | none => 0) else 0)]

def Chip.readCtx (s : Chip) (c r : Nat) : Word :=
  let x := s.ctxAt c
  if s.build.nctx ≤ c then 0
  else if r = 0x20 then BitVec.ofNat 64 x.ip
  else if r = 0x28 then s.readBind c
  else if r = 0x38 then s.readCtxState c
  else if r = 0x40 then fields [(0, x.exit), (12, x.fclass), (16, x.fcode)]
  else if r = 0x48 then BitVec.ofNat 64 x.faddr
  else if r = 0x50 then x.retired.setWidth 64
  else if r < 0x28 then s.reg (Reg.ctx c r)
  else 0

/-! ### Movers -/

/-- Work of a context that keeps its mover's clocks running (R38). -/
def Chip.ctxBusyOn (s : Chip) (c : Nat) : Bool :=
  let x := s.ctxAt c
  x.st == .ready || (x.xfer.isSome && x.wait != some .credit && x.st != .faulted) || !x.detached.isEmpty ||
    s.allRequests.any (fun r => r.ctx == some c && (match r.kind with
      | .xread | .xwrite | .fill | .prefetchStg | .prefetchRc | .prefetchFill | .save | .restore => true
      | _ => false))

/-- The mover, or its gang, is idle (R38): no context of it works, no combine or row update that it issued is in a bank, and
it re-executes for no partner. -/
def Chip.movIdle (s : Chip) (m : Nat) : Bool :=
  let l := s.leaderOf m
  !(slotCtxs (s.movAt l)).any s.ctxBusyOn && !s.segs.any (fun g => g.lead == l) && !s.groups.any (fun g => g.lead == l) &&
    !s.mov.any (fun e => e.2.samples.any (fun p => p.redo.isNone) && (s.shadowTeam e.1).contains l)

/-- MOV_SLOTV (R22, R38, R86, R608). CURSLOT reads 0 while CURV = 0 (log 97). -/
def Chip.readSlotv (s : Chip) (m : Nat) : Word :=
  let y := s.movAt m
  bitsOf 8 (fun k => (Tab.get none y.slots k).isSome) |||
  fields [(8, y.cur.getD 0), (11, nat1 y.cur.isSome), (12, nat1 (bitB (s.reg Reg.clkGate) 0 && s.movIdle m)), (13, nat1 (s.leaderOf m != m))]

/-- A status register (R441, R443): HEALTHY while no unmasked pair is held. -/
def Chip.readStat (s : Chip) (key : Nat) : Word :=
  let u : UnitStat := Tab.get {} s.fc.units key
  fields [(48, u.lastsrc % 256), (32, u.count), (16, u.pair), (3, nat1 (!u.masked.isEmpty)), (2, nat1 u.err),
    (0, nat1 (!s.fc.pend.any (fun p => unitKey p.rep.kind p.rep.unit == key && !u.masked.contains p.rep.src)))]

def Chip.readMov (s : Chip) (m r : Nat) : Word :=
  if r = 0 then fields ((List.range 8).map (fun k => (8 * k, (Tab.get none (s.movAt m).slots k).getD 0)))
  else if r = 8 then s.readSlotv m
  else if r = 0x30 then (s.reg (Reg.mov m r) &&& ~~~0xFF) ||| bitsOf 8 (fun k => !(Tab.get [] (s.movAt m).routes k).isEmpty)
  else s.reg (Reg.mov m r)

/-! ### Tiers, ports, link -/

/-- CMT_STAT (R328). -/
def Chip.readCmtStat (s : Chip) : Word :=
  fields [(32, s.tier.depth), (16, s.tier.nch), (1, s.tier.err), (0, nat1 s.tier.busy)]

/-- An entry of the Channel Map Table (R328): the active table, zero before its first commit, or the shadow table. -/
def Chip.readCmt (s : Chip) (h : Nat) : Word :=
  if bitB (s.reg Reg.cmtCtl) 2 then fields [(0, Tab.get 0 s.tier.shadow h)]
  else if s.tier.nch = 0 then 0
  else
    let c := Tab.get 0 s.tier.active h
    fields [(32, cmtApp s.tier.active c), (16, cmtRank s.tier.active h), (0, c)]

/-- PRT_CRED (R556). -/
def Chip.readCred (s : Chip) (k : UnitKind) (n : Nat) : Word :=
  let a := s.laneAt { kind := k, port := n, lane := 0 }
  let b := s.laneAt { kind := k, port := n, lane := 1 }
  fields [(0, a.rq), (8, a.wd), (32, if k = .stackPort then b.rq else 0), (40, if k = .stackPort then b.wd else 0)]

def LState.code : LState → Nat
  | .disabled => 0 | .waitPcs => 1 | .training => 2 | .up => 3 | .flapoff => 4

/-- LK_PSTAT (R435). -/
def Chip.readPstat (s : Chip) (n : Nat) : Word :=
  let p := s.portAt n
  fields [(48, p.epoch), (36, p.peerChip), (32, p.peerPort), (31, nat1 p.peerZc), (30, nat1 p.peerDel), (28, p.genUp),
    (26, p.wUp), (3, (p.downs.filter (fun t => decide (s.time < t + 100000000))).length), (0, p.st.code)]

/-- Registers of the ports, from 0x05_4000 to 0x07_0FFF, and the link engine's presence (R612). -/
def Chip.readPort (s : Chip) (off : Nat) : Option Word :=
  match blockOf 0x054000 0x40 s.build.nsp off with
  | some (n, r) => if r = 0x10 then some (s.readCred .stackPort n) else none
  | none => match blockOf 0x060000 0x40 s.build.nfp off with
  | some (n, r) => if r = 0x18 then some (s.readCred .farPort n) else none
  | none => match blockOf 0x069000 0x10 s.build.ntp off with
  | some (n, r) => if r = 8 then some (s.readCred .tilePort n) else none
  | none => match blockOf 0x070100 0x40 16 off with
  | some (n, r) => if s.build.nlp ≤ n then some 0 else if r = 8 then some (s.readPstat n) else none
  | none => if off = Reg.lkCfg ∧ s.build.nlp = 0 then some 0 else none

/-! ### Interrupt controller (R526–R528) -/

def Chip.readSst (s : Chip) (n : Nat) : Word :=
  let x := s.srcAt n
  if s.srcPresent n then
    fields [(0, nat1 x.pend), (1, nat1 x.mask), (2, nat1 x.active), (3, nat1 x.nmireq), (4, nat1 (s.lvlOf n)), (5, nat1 (s.isLevel n)),
      (6, nat1 x.lost), (7, nat1 x.storm), (16, x.cnt), (24, x.phant)]
  else 0

def Chip.readTgt (s : Chip) (t r : Nat) : Word :=
  let x := s.tgtAt t
  if r = 0 then x.vbase
  else if r = 8 then fields [(0, nat1 x.en), (8, x.prigroup), (16, x.vptmo)]
  else if r = 0x18 then
    fields [(8, (s.runningPrio t).getD 0), (16, nat1 (s.runningPrio t).isSome), (29, nat1 x.eoierr), (30, nat1 (s.nmiActive t)),
      (31, nat1 x.pres.isSome), (32, match x.pres with | some (n, _) => n | none => 0)]
  else 0

def Chip.srcBits (s : Chip) (k : Nat) (f : IrqSrc → Bool) : Word :=
  bitsOf 64 (fun i => s.srcPresent (64 * k + i) && f (s.srcAt (64 * k + i)))

def Chip.readIrq (s : Chip) (off : Nat) : Option Word :=
  match blockOf 0x080000 8 12 off with
  | some (k, _) => some (s.srcBits k IrqSrc.pend)
  | none => match blockOf 0x080080 8 12 off with
  | some (k, _) => some (s.srcBits k IrqSrc.pend)
  | none => match blockOf 0x080100 8 12 off with
  | some (k, _) => some (s.srcBits k IrqSrc.mask)
  | none => match blockOf 0x080180 8 12 off with
  | some (k, _) => some (s.srcBits k IrqSrc.mask)
  | none => match blockOf 0x080200 8 12 off with
  | some (k, _) => some (s.srcBits k IrqSrc.active)
  | none => match blockOf 0x081000 0x40 8 off with
  | some (t, r) => some (s.readTgt t r)
  | none => match blockOf 0x088000 8 768 off with
  | some (n, _) =>
    some (if s.srcPresent n then fields [(0, (s.srcAt n).prio), (8, (s.srcAt n).target), (11, nat1 (s.srcAt n).nmi)] else 0)
  | none => match blockOf 0x08A000 8 768 off with
  | some (n, _) => some (s.readSst n)
  | none => none

/-! ### Fault records (R452, R475) -/

def FRec.word (x : FRec) (w : Nat) : Word :=
  let r := x.rep
  match w with
  | 0 => fields [(48, x.cmask.toNat), (40, x.merged), (37, x.sev), (36, nat1 x.esc), (32, srcClass r.src), (24, r.src), (0, nat1 x.valid)]
  | 1 => fields [(56, r.partner), (48, r.kind.code), (40, r.unit), (35, nat1 r.part.isSome), (32, r.part.getD 0), (8, nat1 r.ctx.isSome),
      (0, r.ctx.getD 0)]
  | 2 => (match r.iaddr with | some (ia, _) => fields [(0, ia / 8 * 8 + 1)] | none => 0)
  | 3 => (match r.iaddr with | some (_, w) => w | none => 0)
  | 4 => BitVec.ofNat 64 x.time
  | 5 => fields [(48, x.temp.toNat), (32, x.volt.toNat), (28, x.tsens), (26, x.vsens)]
  | 6 => r.detail.getD 0
  | _ => BitVec.ofNat 64 x.lastTime

/-- FC_STAT. -/
def Chip.readFcStat (s : Chip) : Word :=
  s.reg Reg.fcStat ||| flag64 32 s.pins.ftm ||| fields ((List.range 16).map (fun c => (16 + c, nat1 (s.classHeld c)))) |||
  bitsOf 16 (fun r => match s.recAt r with | some x => x.valid | none => false)

/-- RSQ_STAT (R500): ACTIVE shows the rungs that run. -/
def Chip.readRsqStat (s : Chip) : Word :=
  s.reg Reg.rsqStat ||| fields [(0, nat1 (s.rsq.rungs.any (fun r => r.kind == .ctxAbort))),
    (1, nat1 (s.rsq.rungs.any (fun r => r.kind == .mover || r.kind == .unit))),
    (2, nat1 (s.rsq.rungs.any (fun r => r.kind == .partition))), (3, nat1 (s.rsq.rungs.any (fun r => r.kind == .block)))]

/-! ### The register an offset shows -/

/-- Registers whose value is not held as a plain word. -/
def Chip.readSpecial (s : Chip) (off : Nat) : Option Word :=
  if off = Reg.clkStat then some s.readClkStat
  else if off = Reg.timebase then some (BitVec.ofNat 64 s.time)
  else if off = Reg.guard then some s.readGuard
  else if off = Reg.partState then some s.readPartState
  else if off = Reg.trInvStat then some (flag64 0 s.inv.isSome)
  else if off = Reg.cmtStat then some s.readCmtStat
  else if off = Reg.fcStat then some s.readFcStat
  else if off = Reg.rsqStat then some s.readRsqStat
  else match blockOf 0x010000 0x100 256 off with
  | some (c, r) => some (s.readCtx c r)
  | none => match blockOf 0x020000 0x400 s.build.nmov off with
  | some (m, r) => some (s.readMov m r)
  | none => match blockOf 0x058000 8 4096 off with
  | some (h, _) => some (s.readCmt h)
  | none => match blockOf 0x0A1000 8 128 off with
  | some (i, _) => some (match s.recAt (i / 8) with | some x => x.word (i % 8) | none => 0)
  | none => match blockOf 0x100000 0x10 4096 off with
  | some (n, r) => some (if r = 0 then (s.ksRead n).setWidth 64 else 0)
  | none => orElse (s.readPort off) (s.readIrq off)

/-- What a read of an aligned offset of the register space returns once RST_DONE = 1. -/
def Chip.readReg (s : Chip) (off : Nat) : Word :=
  match statUnit s.build off with
  | some key => s.readStat key
  | none => match s.readSpecial off with
    | some v => v
    | none => s.reg off

/-- What the register port answers to a read (R533, R539): while RST_DONE = 0 only the fault collector and the recovery
sequencer are read. -/
def Chip.readPortAnswer (s : Chip) (off size : Nat) : RpStatus × Word :=
  if size ≠ 3 ∨ off % 8 ≠ 0 ∨ Reg.inRegion off = false then (.decerr, 0)
  else if s.pins.rstDone ∨ (0x0A0000 ≤ off ∧ off < 0x0C0000) then (.ok, s.readReg off)
  else (.err, 0)

end Sys2Proof.Machine
end

