-- ==== Sys2Proof/Tests/Slice0.lean ====
section
/-! SUPPORT. Tests: ill-formed commands are refused, states that meet the hypotheses of the statements, single steps whose
results the spec gives. -/

set_option Elab.async false

namespace Sys2Proof.Tests

open Sys2Proof.Machine

/-! ### Words of the formats S, Y and X (R127–R129) -/

def ws (opc sd sa sb pd imm : Nat) : Word :=
  BitVec.ofNat 64 (opc * 2 ^ 56 + sd * 2 ^ 51 + sa * 2 ^ 46 + sb * 2 ^ 41 + pd * 2 ^ 38 + imm % 2 ^ 32)
def wy (opc k sa mode imm : Nat) : Word :=
  BitVec.ofNat 64 (opc * 2 ^ 56 + k * 2 ^ 44 + sa * 2 ^ 39 + mode * 2 ^ 32 + imm % 2 ^ 32)
def wx (opc ta tb tc ks km md : Nat) : Word :=
  BitVec.ofNat 64 (opc * 2 ^ 56 + ta * 2 ^ 52 + tb * 2 ^ 48 + tc * 2 ^ 44 + ks * 2 ^ 28 + km * 2 ^ 26 + md)

/-! ### States -/

/-- The block running, out of reset. -/
def base : Chip := { Chip.porst Build.beldel7L with phase := .run, pins := { rstDone := true, alive := true, rclkOk := true } }

/-- A state with a block and no waiting command. -/
def st (s : Chip) : State := { chip := s, pending := [] }

/-- Mover 0 with context 0 in its slot 0, current, and the word `w` at address 0 in its cache. -/
def mov0 (w : Word) : Mover := { slots := [(0, some 0)], cur := some 0, ic := [{ asid := 0, va := 0, data := w.setWidth 2048 }] }

/-- Context 0, READY on mover 0, whose next word, at address 0, is `w`. -/
def runs (w : Word) (x : Ctx) : State :=
  st { base with mov := [(0, mov0 w)], ctx := [(0, { x with st := .ready, slotOf := some 0 })] }

/-- Context 0 in a state on mover 0, with an empty cache. -/
def holds (x : Ctx) : State := st { base with mov := [(0, { slots := [(0, some 0)], cur := some 0 })], ctx := [(0, { x with slotOf := some 0 })] }

/-- The state with other registers. -/
def withRegs (r : Tab Word) (s : State) : State := s.to { s.chip with regs := r }

/-- A page at address 0 for everything. -/
def page0 : TlbEnt := { va := 0, lg := 12, part := 0, asid := 0, g := false, pa := 0, w := true, x := true }

/-- Far port 0 holds the first GiB, and mover 0 knows page 0. -/
def mapped (s : State) : State :=
  s.to (({ s.chip with regs := [(Reg.fp 0 0, 0x10001)] } : Chip).updMov 0 (fun m => { m with l1 := [page0] }))

/-- What issuing asks for, as one check. -/
def canRun (s : State) (i : Instr) (c : Nat) (w : Word) : Bool :=
  match issueRow i with
  | some r => r.ctx == c && s.chip.canIssue c && (s.chip.fetched c == some w) && (s.chip.ctxAt c).guardTrue w && r.sel w && r.enc w &&
      (match r.ctr w with | some k => s.chip.ksPart k == s.chip.ctxPart c | none => true)
  | none => false

theorem canRun_issues {s : State} {i : Instr} {c : Nat} {w : Word} (h : canRun s i c w = true) : s.chip.issuesAs i c w := by
  unfold canRun at h
  unfold Chip.issuesAs
  cases hr : issueRow i with
  | none => simp [hr] at h
  | some r =>
    simp only [hr, Bool.and_eq_true, beq_iff_eq] at h
    obtain ⟨⟨⟨⟨⟨⟨h1, h2⟩, h3⟩, h4⟩, h5⟩, h6⟩, h7⟩ := h
    subst h1
    exact ⟨rfl, ⟨h2, h3, h4⟩, h5, h6, fun k hk => by simpa [hk] using h7⟩

/-- An instruction that issues completes: the hypothesis of a statement about it is met by a small state. -/
theorem issued (i : Instr) (w : Word) (x : Ctx) (h : canRun (runs w x) i 0 w = true) : (runs w x).chip.issuesAs i 0 w := canRun_issues h

/-! ### Ill-formed commands -/

/-- One ill-formed command for each check of `Instr.wf`, at the first value past its range. -/
theorem test_wf_refuses :
    (Instr.nop 256).wf .beldel7L = false ∧ (Instr.scalarmemComplete 256 0 8).wf .beldel7L = false ∧ (Instr.scalarmemComplete 0 (2 ^ 52) 8).wf .beldel7L = false ∧
    (Instr.ifetchFill 256 0 0).wf .beldel7L = false ∧ (Instr.ifetchFill 0 64 0).wf .beldel7L = false ∧
    (Instr.ifetchFill 0 0 (2 ^ 44)).wf .beldel7L = false ∧ (Instr.regimageComplete 256 0 true).wf .beldel7L = false ∧
    (Instr.regimageComplete 0 8 true).wf .beldel7L = false ∧ (Instr.pageWalkComplete 0 8 0).wf .beldel7L = false ∧
    (Instr.pageWalkComplete 0 0 (2 ^ 52)).wf .beldel7L = false ∧
    (Instr.prefetchFillLand 256 0).wf .beldel7L = false ∧
    (Instr.moverSwitch 64).wf .beldel7L = false ∧ (Instr.keystoneUpdate 16).wf .beldel7L = false ∧
    (Instr.portGrant { kind := .stackPort, port := 24, lane := 0 }).wf .beldel7L = false ∧
    (Instr.portGrant { kind := .stackPort, port := 0, lane := 2 }).wf .beldel7L = false ∧
    (Instr.portGrant { kind := .farPort, port := 8, lane := 0 }).wf .beldel7L = false ∧
    (Instr.portGrant { kind := .farPort, port := 0, lane := 1 }).wf .beldel7L = false ∧
    (Instr.portGrant { kind := .tilePort, port := 128, lane := 0 }).wf .beldel7L = false ∧
    (Instr.portGrant { kind := .tilePort, port := 0, lane := 1 }).wf .beldel7L = false ∧
    (Instr.portGrant { kind := .mover, port := 0, lane := 0 }).wf .beldel7L = false ∧
    (Instr.txnTimeout { kind := .farPort, port := 8, lane := 0 } 0).wf .beldel7L = false ∧
    (Instr.txnTimeout { kind := .farPort, port := 0, lane := 0 } 4096).wf .beldel7L = false ∧
    (Instr.portHoldWatchdog 8).wf .beldel7L = false ∧ (Instr.partMov 4 0).wf .beldel7L = false ∧ (Instr.ksPart 4 0).wf .beldel7L = false ∧
    (Instr.ksVal 4096 0).wf .beldel7L = false ∧ (Instr.kwatchCfg 16 0).wf .beldel7L = false ∧ (Instr.trInvPartition 8).wf .beldel7L = false ∧
    (Instr.trqEnable 16 0 0).wf .beldel7L = false ∧ (Instr.trqEnable 0 4 0).wf .beldel7L = false := by decide +kernel

theorem test_wf_refuses_registers :
    (Instr.regionConfigWrite 0x060008 0).wf .beldel7L = false ∧ (Instr.regionConfigWrite 0x060200 0).wf .beldel7L = false ∧
    (Instr.shdConfigWrite 0x0A00D0 0).wf .beldel7L = false ∧ (Instr.rsqMoverReset 64).wf .beldel7L = false ∧
    (Instr.rsqPartitionReset 8).wf .beldel7L = false ∧ (Instr.icPset 12 0).wf .beldel7L = false ∧ (Instr.icSrc 768 0).wf .beldel7L = false ∧
    (Instr.icEoi 8 0).wf .beldel7L = false ∧ (Instr.vectorPresent 8 none).wf .beldel7L = false ∧
    (Instr.vectorPresent 0 (some 768)).wf .beldel7L = false ∧ (Instr.evtEdge 32 false).wf .beldel7L = false ∧
    (Instr.lkPctl 16 0).wf .beldel7L = false ∧ (Instr.rtEntryWrite 8 0 0 0).wf .beldel7L = false ∧
    (Instr.rtEntryWrite 0 64 0 0).wf .beldel7L = false ∧ (Instr.rtEntryWrite 0 0 0x20 0).wf .beldel7L = false ∧
    (Instr.rtEntryWrite 0 0 4 0).wf .beldel7L = false ∧ (Instr.lwWrite 256 0 0).wf .beldel7L = false ∧ (Instr.lwWrite 0 0x20 0).wf .beldel7L = false ∧
    (Instr.lwWrite 0 4 0).wf .beldel7L = false ∧ (Instr.govConfigWrite 0x0C0018 0).wf .beldel7L = false ∧
    (Instr.snsUseroff 0x0E00A0 0).wf .beldel7L = false ∧ (Instr.snsUseroff 0x0E0004 0).wf .beldel7L = false ∧
    (Instr.snsThreshold 0x0E0110 0).wf .beldel7L = false ∧ (Instr.tapNetaccWrite [] ⟨2 ^ 24, 0⟩).wf .beldel7L = false ∧
    (Instr.registerWrite (2 ^ 24) 3 0).wf .beldel7L = false ∧ (Instr.registerWrite 0 4 0).wf .beldel7L = false := by decide +kernel

theorem test_wf_refuses_events :
    (Instr.marchTestDone 0 false [{ src := 0, kind := .mover, unit := 64 }]).wf .beldel7L = false ∧
    (Instr.clockMonitorWindow 256).wf .beldel7L = false ∧ (Instr.sensorConversion 20 0).wf .beldel7L = false ∧
    (Instr.scrubRead ⟨16, .mover, 0, 0⟩ 0).wf .beldel7L = false ∧ (Instr.scrubRead ⟨0, .shared, 43, 0⟩ 0).wf .beldel7L = false ∧
    (Instr.reportAccept [{ src := 0, kind := .sequencer, unit := 2 }]).wf .beldel7L = false ∧
    (Instr.rungDeadline (.ctx 256)).wf .beldel7L = false ∧ (Instr.rungDeadline (.mover 64)).wf .beldel7L = false ∧
    (Instr.rungDeadline (.unit .bank 64)).wf .beldel7L = false ∧ (Instr.rungDeadline (.part 8)).wf .beldel7L = false ∧
    (Instr.dumpEnd (some 8) none).wf .beldel7L = false ∧ (Instr.dumpAckTimeout (some 8)).wf .beldel7L = false ∧
    (Instr.partitionResetDone 8 0).wf .beldel7L = false ∧ (Instr.guestDispatch 8).wf .beldel7L = false ∧
    (Instr.pcsLock 16 0).wf .beldel7L = false ∧ (Instr.forwardWatchdog 16 0).wf .beldel7L = false ∧
    (Instr.forwardWatchdog 0 2).wf .beldel7L = false ∧ (Instr.mtagBarExpiry 65536).wf .beldel7L = false ∧
    (Instr.unitResetDone .sensor 20 0).wf .beldel7L = false ∧ (Instr.unitResetDone .linkPort 16 0).wf .beldel7L = false ∧
    (Instr.brokenWire .stackPort 24 ⟨0, []⟩ 1).wf .beldel7L = false ∧ (Instr.brokenWire .mover 0 ⟨0, []⟩ 0).wf .beldel7L = false ∧
    (Instr.brokenWire .mover 0 ⟨0, []⟩ 24).wf .beldel7L = false := by decide +kernel

/-- The last value of a range is accepted. -/
theorem test_wf_accepts :
    (Instr.nop 255).wf .beldel7L = true ∧ (Instr.moverSwitch 63).wf .beldel7L = true ∧ (Instr.ksVal 4095 0).wf .beldel7L = true ∧
    (Instr.portGrant { kind := .stackPort, port := 23, lane := 1 }).wf .beldel7L = true ∧ (Instr.trqEnable 15 0x18 0).wf .beldel7L = true ∧
    (Instr.icSrc 767 0).wf .beldel7L = true ∧ Build.beldel7L.wf = true := by decide +kernel

/-! ### States that meet the hypotheses: issue, control, scalar and descriptor instructions -/

theorem witness_StepKeepsInvariant : (st base).chip.Ok .beldel7L ∧ ∃ t, step (st base) = .next t :=
  ⟨⟨rfl, by decide, by decide, by decide, by decide⟩, ⟨_, rfl⟩⟩

/-- Words that the decode checks refuse: an unassigned opcode, a NOP with a field set, a KSIG of another partition's counter. -/
theorem witness_DecodeFaults :
    (runs (ws 0xFF 0 0 0 0 0) {}).chip.canIssue 0 = true ∧ (runs (ws 0xFF 0 0 0 0 0) {}).chip.fetched 0 = some (ws 0xFF 0 0 0 0 0) ∧
    opcAssigned (wOpc (ws 0xFF 0 0 0 0 0)) = false ∧
    (runs (ws 0 0 0 0 0 1) {}).chip.canIssue 0 = true ∧ (runs (ws 0 0 0 0 0 1) {}).chip.fetched 0 = some (ws 0 0 0 0 0 1) ∧
    isOp 0x00 (ws 0 0 0 0 0 1) = true ∧ encS 0 (ws 0 0 0 0 0 1) = false ∧
    (let w := wy 0x30 4095 0 0 0
     let s := (withRegs [(Reg.ksPart 3, 0x1000000000000000)] (runs w {})).chip
     s.canIssue 0 = true ∧ s.fetched 0 = some w ∧ isOp 0x30 w = true ∧ (unusedZero maskYall w && decide (wModeY w ≤ 1)) = true ∧
       (s.ctxAt 0).guardTrue w = true ∧ namesK w = some 4095 ∧ s.ksPart 4095 ≠ s.ctxPart 0) := by decide +kernel

/-- SADD whose guard P0 is negated. -/
theorem witness_FalseGuardOnlyRetires :
    (let w := ws 0x12 31 31 31 0 0 ||| at64 34 1
     let s := (runs w {}).chip
     s.canIssue 0 = true ∧ s.fetched 0 = some w ∧ isOp 0x12 w = true ∧ encS maskABD w = true ∧ (s.ctxAt 0).guardTrue w = false) := by decide +kernel

/-- A read answered well or not, of the line at address 0 for context 0 on mover 0. -/
def lineRead (rsp : Rsp) : FillDone :=
  { r := { id := 5, kind := .ifetch, write := false, lane := { kind := .farPort, port := 0, lane := 0 }, loc := locFar 0 0,
           mask := BitVec.allOnes 256, ctx := some 0, part := some 0, cls := 0, req := 0 }, tag := 0, data := 7, ok := 15, rsp := rsp }

/-- The block with answers of its ports. -/
def withFills (l : List FillDone) (s : Chip) : Chip := { s with ports := { s.ports with fills := l } }

/-- A context that may not issue, one whose line is absent with and without a share left, on its way, with and without its page;
fills that return well, after an invalidation, with an error. -/
theorem witness_InstructionFetch :
    (holds {}).chip.canIssue 0 = false ∧
    ((holds { st := .ready }).chip.canIssue 0 = true ∧ (holds { st := .ready }).chip.fetched 0 = none) ∧
    (let s := (holds { st := .ready }).chip.updMov 0 (fun m => { m with rdUsed := 96 })
     s.canIssue 0 = true ∧ s.fetched 0 = none ∧ s.rdFree (s.slotMover 0) = false) ∧
    (let s := (mapped (holds { st := .ready })).chip
     s.canIssue 0 = true ∧ s.fetched 0 = none ∧ s.rdFree (s.slotMover 0) = true ∧
       (match s.look 0 .fetch (s.ctxAt 0).ip with | .ok pa p _ => pa == 0 && !s.tnWaits p | _ => false) = true ∧
       ((s.icFilling 0 (s.ctxAsid 0) 0).bind (·.pa)).isSome = false) ∧
    (let s := (holds { st := .ready }).chip
     (match s.look 0 .fetch 0 with | .miss => true | _ => false) = true) ∧
    (let s := (holds { st := .ready }).chip.updMov 0 (fun m => { m with icFill := [{ asid := 0, line := 0, ctx := 0, pa := some 0 }] })
     s.canIssue 0 = true ∧ s.fetched 0 = none ∧ s.rdFree (s.slotMover 0) = true ∧ ((s.icFilling 0 (s.ctxAsid 0) 0).bind (·.pa)).isSome = true) ∧
    (let f := fun (redo : Bool) => ({ asid := 0, line := 0, ctx := 0, pa := some 0, redo := redo } : ICFill)
     let s := fun (redo : Bool) (rsp : Rsp) =>
       withFills [lineRead rsp] ((mapped (holds { st := .waiting, wait := some .ifetch })).chip.updMov 0 (fun m => { m with icFill := [f redo] }))
     ∀ redo ∈ [false, true], ∀ rsp ∈ [Rsp.ok, .err],
       (s redo rsp).ports.fills.find? (fun x => x.r.kind == .ifetch && x.r.ctx == some 0 && x.r.req == 0 && x.r.va == 256 * 0) = some (lineRead rsp) ∧
       ((s redo rsp).movAt 0).icFill.find? (fun f => f.pa.isSome && f.ctx == 0 && f.line == 0) = some (f redo) ∧
       (s redo rsp).lineWaiters 0 (f redo) = [0]) := by decide +kernel

theorem witness_ControlTransfers :
    canRun (runs (ws 0x00 0 0 0 0 0) {}) (.nop 0) 0 (ws 0x00 0 0 0 0 0) = true ∧
    canRun (runs (ws 0x03 0 0 31 0 (2 ^ 32 - 1)) {}) (.jmp 0) 0 (ws 0x03 0 0 31 0 (2 ^ 32 - 1)) = true ∧
    canRun (runs (ws 0x04 0 0 0 0 (2 ^ 32 - 1)) {}) (.br 0) 0 (ws 0x04 0 0 0 0 (2 ^ 32 - 1)) = true ∧
    canRun (runs (ws 0x05 0 0 0 0 1) {}) (.call 0) 0 (ws 0x05 0 0 0 0 1) = true ∧
    canRun (runs (ws 0x06 0 0 0 0 0) {}) (.ret 0) 0 (ws 0x06 0 0 0 0 0) = true := by decide +kernel

/-- LEN 0 and 1,023, count 0 and 1, four levels and three; ENDL with no level, a last run, and the largest count. -/
theorem witness_LoopLevels :
    (let w := ws 0x07 0 0 0 0 1
     (runs w {}).chip.canIssue 0 = true ∧ (runs w {}).chip.fetched 0 = some w ∧ wOpc w = 0x07 ∧ fldN w 46 10 = 0) ∧
    (let w := ws 0x07 31 31 0 0 0
     canRun (runs w {}) (.loop 0) 0 w = true ∧ ((runs w {}).chip.opB 0 w).toNat % 2 ^ 32 = 0) ∧
    (let w := ws 0x07 0 1 0 0 1
     let three := (runs w { loops := [{ start := 8, count := 1 }, { start := 8, count := 1 }, { start := 8, count := 1 }] })
     let four := (runs w { loops := [{ start := 8, count := 1 }, { start := 8, count := 1 }, { start := 8, count := 1 }, { start := 8, count := 1 }] })
     canRun three (.loop 0) 0 w = true ∧ (three.chip.opB 0 w).toNat % 2 ^ 32 ≠ 0 ∧ (three.chip.ctxAt 0).loops.length < 4 ∧
     canRun four (.loop 0) 0 w = true ∧ (four.chip.opB 0 w).toNat % 2 ^ 32 ≠ 0 ∧ 4 ≤ (four.chip.ctxAt 0).loops.length) ∧
    (let w := ws 0x08 0 0 0 0 0
     canRun (runs w {}) (.endl 0) 0 w = true ∧ ((runs w {}).chip.ctxAt 0).loops = [] ∧
     canRun (runs w { loops := [{ start := 8, count := 1 }] }) (.endl 0) 0 w = true ∧
     canRun (runs w { loops := [{ start := 8, count := 2 ^ 32 - 1 }] }) (.endl 0) 0 w = true ∧ 2 ≤ 2 ^ 32 - 1 ∧ 2 ^ 32 - 1 < 2 ^ 32) := by decide +kernel

theorem witness_HaltYieldStop :
    (let w := ws 0x01 0 0 0 0 0
     canRun (runs w {}) (.halt 0) 0 w = true ∧ ((runs w {}).chip.ctxAt 0).detached = [] ∧
     canRun (runs w { detached := [(1, 4096)] }) (.halt 0) 0 w = true ∧ ((runs w { detached := [(1, 4096)] }).chip.ctxAt 0).detached ≠ []) ∧
    (let x := (holds { st := .waiting, wait := some .kdrain, halting := true }).chip.ctxAt 0
     x.st = .waiting ∧ x.wait = some .kdrain ∧ x.halting = true ∧ x.detached = [] ∧ x.ended = false) ∧
    canRun (runs (ws 0x02 0 0 0 0 0) {}) (.yield 0) 0 (ws 0x02 0 0 0 0 0) = true ∧
    (let x := (holds { st := .ready, stopReq := true }).chip.ctxAt 0
     x.stopReq = true ∧ x.st = .ready ∧ x.ended = false ∧ x.xfer = none ∧ x.halt = none) := by decide +kernel

theorem witness_ScalarResults :
    (let ok := fun (i : Instr) (o : Nat) (w : Word) => wOpc w = o ∧ canRun (runs w {}) i 0 w = true
     ok (.sli 0) 0x10 (ws 0x10 31 0 0 0 0x80000000) ∧ ok (.slih 0) 0x11 (ws 0x11 31 0 0 0 (2 ^ 32 - 1)) ∧ ok (.sadd 0) 0x12 (ws 0x12 31 31 31 0 1) ∧
     ok (.ssub 0) 0x13 (ws 0x13 0 0 0 0 0) ∧ ok (.smul 0) 0x14 (ws 0x14 1 2 3 0 4) ∧ ok (.sand 0) 0x15 (ws 0x15 1 2 3 0 4) ∧
     ok (.sor 0) 0x16 (ws 0x16 1 2 3 0 4) ∧ ok (.sxor 0) 0x17 (ws 0x17 1 2 3 0 4) ∧ ok (.sshl 0) 0x18 (ws 0x18 1 2 0 0 63) ∧
     ok (.sshr 0) 0x19 (ws 0x19 1 2 0 0 64) ∧ ok (.sshr 0) 0x19 (ws 0x19 1 2 0 1 63) ∧ ok (.ssel 0) 0x1B (ws 0x1B 1 2 3 7 0)) := by decide +kernel

/-- The last code of SCMP, into P0 and P7, and the first one past it. -/
theorem witness_CompareSetsPredicate :
    canRun (runs (ws 0x1A 7 1 2 0 0) {}) (.scmp 0) 0 (ws 0x1A 7 1 2 0 0) = true ∧
    canRun (runs (ws 0x1A 0 1 2 7 0) {}) (.scmp 0) 0 (ws 0x1A 0 1 2 7 0) = true ∧
    (let w := ws 0x1A 8 0 0 1 0
     (runs w {}).chip.canIssue 0 = true ∧ (runs w {}).chip.fetched 0 = some w ∧ wOpc w = 0x1A ∧ 8 ≤ wSD w) := by decide +kernel

/-- Selectors with WIDTH 64 at LSB 0, WIDTH 1 at LSB 63, the last descriptor and word. -/
theorem witness_DescriptorFields :
    canRun (runs (ws 0x22 15 31 0 0 0x0040001F) {}) (.tdset 0) 0 (ws 0x22 15 31 0 0 0x0040001F) = true ∧
    canRun (runs (ws 0x22 0 0 0 0 0x00013F00) {}) (.tdset 0) 0 (ws 0x22 0 0 0 0 0x00013F00) = true ∧
    canRun (runs (ws 0x23 31 15 0 0 0x00C0001F) {}) (.tdget 0) 0 (ws 0x23 31 15 0 0 0x00C0001F) = true ∧
    canRun (runs (wy 0x35 4095 31 0 0) {}) (.kread 0) 0 (wy 0x35 4095 31 0 0) = true := by decide +kernel

/-- Addresses −8, 2^52, 4, 0 and 2^52 − 8 of an SLD, with no share left, with a page, without one, with one that forbids writes. -/
theorem witness_ScalarAccessIssues :
    (let sld := fun (imm : Nat) => ws 0x1C 1 0 0 3 imm
     let ea := fun (s : Chip) (w : Word) => (s.opA 0 w).toInt + (s.opB 0 w).toInt
     let at_ := fun (v : Nat) (w : Word) => runs w { s := [(0, BitVec.ofNat 64 v)] }
     canRun (at_ 0 (sld (2 ^ 32 - 8))) (.sld 0) 0 (sld (2 ^ 32 - 8)) = true ∧ ea (at_ 0 (sld (2 ^ 32 - 8))).chip (sld (2 ^ 32 - 8)) < 0 ∧
     canRun (at_ (2 ^ 52) (sld 0)) (.sld 0) 0 (sld 0) = true ∧ 2 ^ 52 ≤ ea (at_ (2 ^ 52) (sld 0)).chip (sld 0) ∧
     canRun (at_ (2 ^ 52 - 8) (sld 0)) (.sld 0) 0 (sld 0) = true ∧ ea (at_ (2 ^ 52 - 8) (sld 0)).chip (sld 0) = (2 ^ 52 - 8 : Nat) ∧
     canRun (at_ 4 (sld 0)) (.sld 0) 0 (sld 0) = true ∧ 4 % 8 ≠ 0 ∧
     (let s := (runs (sld 0) {}).to ((runs (sld 0) {}).chip.updMov 0 (fun m => { m with rdUsed := 96 }))
      canRun s (.sld 0) 0 (sld 0) = true ∧ (s.chip.taken 0 (sld 0)).shareFree 0 false = false) ∧
     (let s := mapped (runs (sld 0) {})
      canRun s (.sld 0) 0 (sld 0) = true ∧ (s.chip.taken 0 (sld 0)).shareFree 0 false = true ∧
        (match (s.chip.taken 0 (sld 0)).look 0 .read 0 with | .ok pa p _ => pa == 0 && !(s.chip.taken 0 (sld 0)).tnWaits p && p.loc == locFar 0 0 | _ => false) = true ∧
        (∀ dirty : Bool, byteMask 0 8 &&& ~~~((({ s.chip with rc := [(locFar 0 0, { here := true, valid := 15, dirty := if dirty then byteMask 0 8 else 0 })] } : Chip).lineAt
          (locFar 0 0)).serves true) == 0 ↔ dirty = true)) ∧
     (let s := runs (sld 0) {}
      (match (s.chip.taken 0 (sld 0)).look 0 .read 0 with | .miss => true | _ => false) = true) ∧
     (let s := runs (sld 0) {}
      let s := s.to (s.chip.updMov 0 (fun m => { m with l1 := [page0] }))
      canRun s (.sld 0) 0 (sld 0) = true ∧
        (match (s.chip.taken 0 (sld 0)).look 0 .read 0 with | .fault code _ => code == 5 | _ => false) = true)) ∧
    (let ok := fun (i : Instr) (w : Word) => canRun (runs w {}) i 0 w = true
     ok (.sst 0) (ws 0x1D 1 0 0 3 0) ∧ ok (.ldtd 0) (ws 0x20 15 0 0 0 0) ∧ ok (.sttd 0) (ws 0x21 15 0 0 0 256)) := by decide +kernel

/-- Each kind of access with each answer, its line with its data and without. -/
theorem witness_ScalarAccessCompletes :
    (let acc := fun (op : ScalarOp) => ({ op := op, va := 0, pa := 0, size := 8, reg := 1, sext := false } : ScalarAcc)
     let x := fun (rsp : Rsp) => { lineRead rsp with r := { (lineRead rsp).r with kind := .scalar } }
     let s := fun (op : ScalarOp) (rsp : Rsp) (lost : Bool) =>
       let s := withFills [x rsp] (holds { st := .waiting, wait := some .scalarmem, acc := some (acc op) }).chip
       ({ s with rc := [(locFar 0 0, { here := true, dirty := sectorMask 0, valid := 15, lost := lost })] } : Chip)
     ∀ op ∈ [ScalarOp.sld, .sst, .ldtd, .sttd], ∀ rsp ∈ [Rsp.ok, .err], ∀ lost ∈ [false, true],
       (s op rsp lost).ports.fills.find? (fun x => x.r.kind == .scalar && x.r.ctx == some 0) = some (x rsp) ∧
       ((s op rsp lost).ctxAt 0).acc = some (acc op) ∧ ((s op rsp lost).ctxAt 0).st = .waiting ∧ ((s op rsp lost).ctxAt 0).ended = false ∧
       ((s op rsp lost).lineAt (x rsp).r.loc).lost = lost) := by decide +kernel

/-- A byte inside the store, and the ones before and after it. -/
theorem witness_StoreWritesItsBytes : (255 + [(1 : Byte)].length ≤ 256 ∧ 0 < [(1 : Byte)].length ∧ 511 = 256 + 255 + 0) ∧ 510 < 256 + 255 ∧
    256 + 255 + [(1 : Byte)].length ≤ 512 := by decide

/-! ### Synchronisation, translation, scheduling -/

/-- The largest counter and software source; KDRAIN with and without work, at issue and at its end; a KWAIT that holds and one
that does not, hard and soft, with no deadline and one of one TCLK; a deadline at hand and one ahead. -/
theorem witness_Synchronisation :
    (let w0 := wy 0x30 4095 31 0 0
     let w1 := wy 0x30 0 0 1 (2 ^ 32 - 1)
     canRun (runs w0 {}) (.ksig 0) 0 w0 = true ∧ canRun (runs w1 {}) (.ksig 0) 0 w1 = true) ∧
    (let w0 := wy 0x34 0 0 0 0
     let w1 := wy 0x34 0 0 1 31
     canRun (runs w0 {}) (.intr 0) 0 w0 = true ∧ canRun (runs w1 {}) (.intr 0) 0 w1 = true ∧ wImm w1 = 31) ∧
    (let w0 := wy 0x32 0 0 0 0
     let w1 := wy 0x32 4095 1 1 7
     canRun (runs w0 {}) (.kdrain 0) 0 w0 = true ∧ wModeY w0 = 0 ∧ canRun (runs w1 {}) (.kdrain 0) 0 w1 = true ∧ wModeY w1 = 1 ∧
       ((runs w1 {}).chip.ctxAt 0).detached = [] ∧ canRun (runs w1 { detached := [(1, 0)] }) (.kdrain 0) 0 w1 = true ∧
       ((runs w1 { detached := [(1, 0)] }).chip.ctxAt 0).detached ≠ []) ∧
    (let x := fun (d : Option (Nat × BitVec 48)) => (holds { st := .waiting, wait := some .kdrain, drainSig := d }).chip.ctxAt 0
     (x none).st = .waiting ∧ (x none).wait = some .kdrain ∧ (x none).halting = false ∧ (x none).detached = [] ∧ (x none).ended = false ∧
       (x none).drainSig = none ∧ (x (some (4095, 1))).drainSig = some (4095, 1) ∧ (x (some (4095, 1))).st = .waiting) ∧
    (let kw := fun (mode imm : Nat) => wy 0x31 0 0 mode imm
     let ok := fun (w : Word) => canRun (runs w {}) (.kwait 0) 0 w = true
     let c := fun (w : Word) => ksCompare (wModeY w % 4) ((runs w {}).chip.ksAt (wK w)) (fld (((runs w {}).chip.ctxAt 0).zr (wSAy w)) 0 48)
     ok (kw 0 0) ∧ c (kw 0 0) = true ∧ ok (kw 5 1) ∧ c (kw 5 1) = true ∧ ok (kw 2 0) ∧ c (kw 2 0) = false ∧ ok (kw 6 1) ∧ c (kw 6 1) = false) ∧
    (let k := fun (soft : Bool) (t : Nat) => ({ k := 0, mode := 2, tgt := 0, till := some t, soft := soft } : KWaitSt)
     let x := fun (soft : Bool) (t : Nat) => (holds { st := .waiting, wait := some .kwait, kw := some (k soft t) }).chip
     ((x true 1).ctxAt 0).kw = some (k true 1) ∧ (x true 1).time < 1 ∧ ((x true 0).ctxAt 0).kw = some (k true 0) ∧ 0 ≤ (x true 0).time ∧
       ((x false 0).ctxAt 0).kw = some (k false 0)) := by decide +kernel

/-- Across the wrap: the counter stands at 2^47 − 2 past a target of 2^48 − 1. -/
theorem witness_CounterComparisons : (2 ^ 47 - 1 < 2 ^ 47) ∧
    ksCompare 0 (BitVec.ofNat 48 (2 ^ 48 - 1) + BitVec.ofNat 48 (2 ^ 47 - 1)) (BitVec.ofNat 48 (2 ^ 48 - 1)) = true := by decide +kernel

theorem witness_FenceWritesBack :
    (let w := wy 0x33 0 0 0 0
     let s := runs w {}
     let d := s.to { s.chip with rc := [(256, { here := true, dirty := 1 })] }
     let n := s.to { s.chip with build := { s.chip.build with rcache := 0 } }
     canRun s (.fence 0) 0 w = true ∧ (s.chip.taken 0 w).dirtyLines 0 = [] ∧
     canRun n (.fence 0) 0 w = true ∧ (n.chip.taken 0 w).rcOn = false ∧
     canRun d (.fence 0) 0 w = true ∧ (d.chip.taken 0 w).rcOn = true ∧ (d.chip.taken 0 w).dirtyLines ((d.chip.taken 0 w).ctxPart 0) ≠ []) ∧
    (let s := fun (f : Option Report) => (holds { st := .waiting, wait := some .fence, ffault := f }).chip
     ((s none).ctxAt 0).st = .waiting ∧ ((s none).ctxAt 0).wait = some .fence ∧ ((s none).ctxAt 0).ended = false ∧ (s none).allRequests = [] ∧
       ((s none).ctxAt 0).ffault = none ∧ (((s (some { src := 0x43, kind := .stackPort, unit := 0 })).ctxAt 0).ffault).isSome = true) := by decide +kernel

/-- A walk that finds its leaf, one that finds nothing, one whose read failed; a context that no longer waits; each permission. -/
theorem witness_PageWalks :
    (let req : WalkReq := { va := 0, acc := .read, walk := .other }
     let w := fun (a : Option PtAns) => ({ id := 4, mov := some 0, part := 0, asid := 0, root := 0, va := 0, cls := 0, who := [.ctx 0], epoch := 0, base := 0, ans := a } : PWalk)
     let s := fun (st : CState) (a : Option PtAns) =>
       ({ (holds { st := st, wait := some .translate, walk := some req }).chip with walks := [w a] } : Chip)
     (s .waiting none).walkAt 4 = some (w none) ∧ (w none).ans = none ∧
     (∀ a ∈ [PtAns.leaf page0, .fault 1 0, .failed { src := 0x43, kind := .stackPort, unit := 0 }],
       (s .waiting (some a)).walkAt 4 = some (w (some a)) ∧ (w (some a)).ans = some a ∧ ((s .waiting (some a)).ctxAt 0).walk = some req ∧
       ((s .waiting (some a)).ctxAt 0).st = .waiting ∧ ((s .waiting (some a)).ctxAt 0).ended = false ∧ ((s .waiting (some a)).ctxAt 0).xfer = none ∧
       (s .waiting (some a)).installs (w (some a)).epoch page0 = true) ∧
     ((s .aborting none).ctxAt 0).st ≠ .waiting ∧ ((s .aborting none).ctxAt 0).walk = some req) ∧
    (({ page0 with w := false } : TlbEnt).w = false ∧ ({ page0 with x := false } : TlbEnt).x = false ∧
     base.decodePA (page0.pa + 0 % 2 ^ page0.lg) = none ∧ ((mapped (holds {})).chip.decodePA (page0.pa + 4095 % 2 ^ page0.lg)).isSome = true) := by decide +kernel

/-- Mover 0 with the READY contexts 0 and 1 in its slots 0 and 7; context 0 is current, or none, or no context is READY. -/
theorem witness_MoverScheduling :
    (let s := fun (st : CState) (cur : Option Nat) =>
       ({ base with mov := [(0, { slots := [(0, some 0), (7, some 1)], cur := cur })],
                    ctx := [(0, { st := st, slotOf := some 0 }), (1, { st := st, slotOf := some 0 })] } : Chip)
     (s .ready none).selectSlot 0 = some 0 ∧ ((s .ready none).movAt 0).cur ≠ some 0 ∧
     (s .ready (some 0)).selectSlot 0 = some 0 ∧ ((s .ready (some 0)).movAt 0).cur = some 0 ∧
     (s .bound none).selectSlot 0 = none ∧
     nextSlot 0 (((s .ready (some 0)).readySlots 0).filter (fun i => i != 0 && (s .ready (some 0)).slotClass 0 i == (s .ready (some 0)).slotClass 0 0)) = some 7 ∧
     nextSlot 7 (((s .ready (some 7)).readySlots 0).filter (fun i => i != 7 && (s .ready (some 7)).slotClass 0 i == (s .ready (some 7)).slotClass 0 7)) = some 0 ∧
     ((s .ready (some 0)).ctxAt 1).st = .ready ∧ (s .ready (some 0)).isCur 1 = false) := by decide +kernel

/-! ### Transfers -/

/-- Words of a dense rank-1 descriptor at the place of descriptor `n`: a format, a base, elements. -/
def dsc (n fmt base ext : Nat) : Tab Word :=
  [(32 * n, BitVec.ofNat 64 (fmt * 2 ^ 56 + 2 ^ 52 + base)), (32 * n + 4, BitVec.ofNat 64 (2 ^ 32 + ext)), (32 * n + 12, BitVec.ofNat 64 (ext * 2 ^ 32))]

/-- FILL of `n` bytes at 256. -/
def fillW : Word := wx 0x42 0 1 0 0 0 0
def fillX (n : Nat) : Ctx := { t := dsc 1 0x04 256 n }

/-- Context 0 in a transfer of the word on mover 0. -/
def inXfer (t : Xfer) (regs : Tab Word) : State := mapped (holds { st := .waiting, wait := some .transfer, t := regs, xfer := some t })

/-- The first word of each transfer, and its last: every opcode issues. A descriptor of rank 0 is a fault; a FILL of one byte
starts, with credits and without. -/
theorem witness_TransfersIssue :
    (let ok := fun (i : Instr) (w : Word) => canRun (runs w {}) i 0 w = true
     ok (.move 0) (wx 0x40 15 14 13 4095 3 0x00C00011) ∧ ok (.moveLdrt 0) (wx 0x40 15 0 0 4095 1 0x00C00030) ∧ ok (.mset 0) (wx 0x41 0 0 15 4095 3 0) ∧
     ok (.fill 0) fillW ∧ ok (.window 0) (wx 0x43 15 14 0 1 1 0) ∧ ok (.gather 0) (wx 0x44 1 2 3 0 0 1) ∧ ok (.pool 0) (wx 0x45 1 2 3 0 0 4) ∧
     ok (.scatter 0) (wx 0x46 1 2 3 0 0 4) ∧ ok (.expand 0) (wx 0x47 1 2 3 0 0 0) ∧ ok (.pack 0) (wx 0x48 1 2 3 0 0 0) ∧
     ok (.digest 0) (wx 0x49 1 2 0 0 0 0) ∧ ok (.prefetch 0) (wx 0x4A 1 0 0 0 0 1) ∧ ok (.send 0) (wx 0x4B 1 2 0 0 0 0x003F8000) ∧
     ok (.deleg 0) (wx 0x4C 1 2 3 0 2 0x003F0001) ∧ ok (.cinv 0) (wx 0x4E 15 0 0 0 0 0)) ∧
    ((runs fillW {}).chip.taken 0 fillW).transferFault 0 fillW = some Src.rank ∧
    (let s := runs fillW (fillX 1)
     let t := s.chip.taken 0 fillW
     canRun s (.fill 0) 0 fillW = true ∧ t.transferFault 0 fillW = none ∧ t.creditNeed 0 fillW = 1024 ∧
       t.creditNeed 0 fillW ≤ (t.yieldStg 0 (t.slotMover 0) (t.creditNeed 0 fillW)).freeCredits (t.slotMover 0)) ∧
    (let s := runs fillW (fillX 1)
     let s := s.to { s.chip with mov := [(0, { mov0 fillW with slots := [(0, some 0), (1, some 1)] })],
                                 ctx := s.chip.ctx ++ [(1, { st := .waiting, wait := some .transfer, slotOf := some 0, xfer := some { word := fillW, ip := 0, credits := 8192 } })] }
     let t := s.chip.taken 0 fillW
     canRun s (.fill 0) 0 fillW = true ∧ t.transferFault 0 fillW = none ∧
       (t.yieldStg 0 (t.slotMover 0) (t.creditNeed 0 fillW)).freeCredits (t.slotMover 0) < t.creditNeed 0 fillW) ∧
    (let s := fun (c : Nat) => (holds { st := .waiting, wait := some .credit, t := dsc 1 0x04 256 1, xfer := some { word := fillW, ip := 0, credits := c } }).chip
     ((s 0).ctxAt 0).xfer = some { word := fillW, ip := 0, credits := 0 } ∧ ((s 0).ctxAt 0).st = .waiting ∧ ((s 0).ctxAt 0).wait = some .credit ∧
       ((s 0).ctxAt 0).ended = false ∧ (s 0).slotMover 0 = 0 ∧ (s 0).creditNeed 0 fillW ≤ ((s 0).yieldStg 0 0 ((s 0).creditNeed 0 fillW)).freeCredits 0 ∧
       ((s 7169).yieldStg 0 0 ((s 7169).creditNeed 0 fillW)).freeCredits 0 < (s 7169).creditNeed 0 fillW) := by decide +kernel

/-- A stage-all copy and an MSET (of slices that hold nothing) at the end of their first passes; a full course; a guarded row
that waits for its retry. -/
theorem witness_TransferPasses :
    (let w := wx 0x40 1 2 0 0 0 0
     let regs := dsc 1 0x04 256 0 ++ dsc 2 0x04 256 0
     let t : Xfer := { word := w, ip := 0, pass := 0 }
     let s := (inXfer t regs).chip
     s.inFlightXfer 0 = some t ∧ wOpc t.word ≠ 0x41 ∧ s.pendingReads 0 = false ∧ t.nextStaged (s.xiOf 0 t) = none ∧ t.due = none) ∧
    (let t : Xfer := { word := wx 0x41 0 0 1 0 0 0, ip := 0, pass := 2 }
     let s := (inXfer t (dsc 1 0x3F 0 0)).chip
     s.inFlightXfer 0 = some t ∧ (match (s.xiOf 0 t).slices t.env 2 with | .ok l => decide (sliceUnits l ≤ t.cursor) | _ => false) = true ∧
       t.out = [] ∧ s.pendingWrites 0 = false) ∧
    (let t : Xfer := { word := fillW, ip := 0, halves := 131072, out := [{ va := 0, crs := 1, bytes := [] }] }
     let s := (inXfer t []).chip
     s.inFlightXfer 0 = some t ∧ t.remote = false ∧ wOpc t.word ≠ 0x4C ∧ 131072 * (t.courses + 1) ≤ t.halves ∧ (∀ o ∈ t.out, t.courses < o.crs) ∧
       s.allRequests ++ s.ports.fills.map (·.r) = [] ∧ s.segs = [] ∧ s.groups = [] ∧ s.courseDone 0 t = true ∧
       s.courseDone 0 { t with halves := 131071 } = false ∧ s.courseDone 0 { t with out := [{ va := 0, crs := 0, bytes := [] }] } = false) ∧
    (let q : RowSt := { pos := 0, v := 0, wt := 0, lo := 0, hi := 0, tries := 1, phase := .waiting }
     let t : Xfer := { word := wx 0x44 1 2 3 0 0 1, ip := 0, rows := [q] }
     (inXfer t []).chip.inFlightXfer 0 = some t ∧ t.rows.find? (fun q => q.phase == .waiting) = some q) := by decide +kernel

/-- A transfer that has not ended, one that has, one with a fault, a guest's; halts of a fetch and of a transfer. -/
theorem witness_TransferEnds :
    (let t : Xfer := { word := fillW, ip := 0 }
     (inXfer t []).chip.inFlightXfer 0 = some t ∧ (inXfer t []).chip.mayRetire 0 t = false) ∧
    (let t : Xfer := { word := fillW, ip := 0, ended := true }
     (inXfer t []).chip.inFlightXfer 0 = some t ∧ (inXfer t []).chip.mayRetire 0 t = true ∧ t.fault = none ∧ t.shipped = none) ∧
    (let t : Xfer := { word := wx 0x4E 0 0 0 0 0 0, ip := 0, ended := true, fault := some { src := 0x43, kind := .stackPort, unit := 0 } }
     (inXfer t []).chip.inFlightXfer 0 = some t ∧ (inXfer t []).chip.mayRetire 0 t = true ∧ t.fault.isSome = true) ∧
    (let t : Xfer := { word := wx 0x46 1 2 3 0 0 0, ip := 0, ended := true, shipped := some {} }
     let s := (inXfer t []).chip
     let s := { s with link := { delegs := [{ src := 1, mtag := 0, win := 0, rlwin := 0, part := 0, tagp := 0, cls := 0, rroute := 0, word := 0, len := 0, guest := some 0 }] } }
     s.inFlightXfer 0 = some t ∧ s.mayRetire 0 t = true ∧ (s.link.delegs.find? (fun d => d.guest == some 0)).isSome = true) ∧
    (let h : Halt := { req := { va := 0, acc := .fetch, walk := .other }, code := 1, level := 0, time := 0 }
     let s := (holds { st := .waiting, wait := some .ifetch, halt := some h }).chip
     (s.ctxAt 0).st = .waiting ∧ (s.ctxAt 0).ended = false ∧ (s.ctxAt 0).xfer = none ∧ (s.ctxAt 0).halt = some h) ∧
    (let h : Halt := { req := { va := 0, acc := .write, walk := .dest }, code := 1, level := 4, time := 0 }
     let t : Xfer := { word := fillW, ip := 0, halt := some h, saving := true }
     let s := (inXfer t []).chip
     (s.ctxAt 0).xfer = some t ∧ (s.ctxAt 0).halt = none ∧ s.allRequests = []) := by decide +kernel

/-- SIGNAL amounts need no state: each KM is a word. -/
theorem witness_SignalAmounts : wKM (wx 0x42 0 1 0 4095 0 0) = 0 ∧ wKM (wx 0x42 0 1 0 4095 1 0) = 1 ∧ wKM (wx 0x42 0 1 0 4095 2 0) = 2 ∧
    wKM (wx 0x42 0 1 0 4095 3 0) = 3 := by decide +kernel

/-! ### Row cache, what transfers compute -/

/-- A fill that returned with its line free; one whose sectors all stand already. -/
def fillOf (k : ReqKind) (rsp : Rsp) : FillDone :=
  { r := { id := 5, kind := k, write := false, lane := { kind := .farPort, port := 0, lane := 0 }, loc := locFar 0 256, mask := sectorMask 0,
           ctx := some 0, cls := 0, req := 0 }, tag := 0, data := 1, ok := 1, rsp := rsp }
def withFill (k : ReqKind) (rsp : Rsp) : Chip := withFills [fillOf k rsp] (mapped (holds {})).chip

/-- A combine of one byte: MOVE of 1 to half-byte 0 of the granule; an addition there. -/
def segOf (cmb : Nat) : Seg :=
  { id := 3, ctx := 0, lead := 0, part := 0, cls := 0, cmb := cmb, loc := locFar 0 256, pos := 0, run := 0,
    ops := [{ half := 0, tfmt := 0x04, taff := false, tscale := 0, tzp := 0, sfmt := 0x04, saff := false, sscale := 0, szp := 0, scode := 1 }] }
def withSegs (l : List Seg) (rc : Nat) : Chip := { (mapped (holds {})).chip with build := { Build.beldel7L with rcache := rc }, segs := l }

/-- A row of one header and eight codes behind it, in one sector. -/
def rowOf (entered : Option Nat) (failed : Option Report) : RowGroup :=
  { id := 4, ctx := 0, lead := 0, part := 0, cls := 0, hdr := locFar 0 256, bytes := (List.range 8).map (fun i => (locFar 0 264 + i, 0xFF, 1)),
    lines := [locFar 0 256], pos := 3, run := 6, entered := entered, failed := failed }
def withGroup (g : RowGroup) (v : BitVec 4) (rc : Nat) : Chip :=
  { (mapped (holds {})).chip with build := { Build.beldel7L with rcache := rc }, groups := [g], rc := [(locFar 0 256, { here := true, valid := v })] }

theorem wayFor_alone (s : Chip) (g : Nat) (h : s.rc.length < 24) : s.wayFor g :=
  .inr (.inl (Nat.lt_of_le_of_lt (List.length_filter_le _ _) h))

/-- A set of pinned lines: of infinitely many lines infinitely many are in one set. -/
theorem fullSet : ∃ (g : Nat) (l : List Nat), g ∉ l ∧
    let s : Chip := { base with rc := l.map (fun h => (h, { here := true, pinned := true })) }
    (s.setWays g).length = 24 ∧ ∀ w ∈ s.setWays g, w.2.pinned = true := by
  obtain ⟨y, hy⟩ := Finite.exists_infinite_fiber (fun n : Nat => (⟨Config.rcSet n % 16384, Nat.mod_lt _ (by decide)⟩ : Fin 16384))
  have hi : Set.Infinite {n : Nat | Config.rcSet n % 16384 = y} := by
    rw [Set.infinite_coe_iff] at hy
    refine hy.mono (fun n hn => ?_)
    simpa [Fin.ext_iff] using hn
  obtain ⟨t, ht, hc⟩ := hi.exists_subset_card_eq 25
  obtain ⟨g, hg⟩ : t.Nonempty := Finset.card_pos.mp (by omega)
  refine ⟨g, (t.erase g).toList, by simp, ?_⟩
  have hs : ∀ h ∈ (t.erase g).toList, Config.rcSet h % 16384 = Config.rcSet g % 16384 ∧ h ≠ g := by
    intro h hh
    have h1 := Finset.mem_erase.mp (Finset.mem_toList.mp hh)
    exact ⟨(ht h1.2).trans (ht hg).symm, h1.1⟩
  have hf : Chip.setWays { base with rc := (t.erase g).toList.map (fun h => (h, ({ here := true, pinned := true } : Line))) } g =
      (t.erase g).toList.map (fun h => (h, { here := true, pinned := true })) := by
    unfold Chip.setWays
    rw [List.filter_eq_self]
    intro x hx
    obtain ⟨h, hh, rfl⟩ := List.mem_map.mp hx
    have := hs h hh
    have hb : Chip.build base = Build.beldel7L := rfl
    simp [Line.present, Chip.rcSetOf, this.2, hb, Build.beldel7L]
    exact this.1
  intro s
  rw [hf]
  refine ⟨by simp [hg, hc], ?_⟩
  intro w hw
  obtain ⟨h, _, rfl⟩ := List.mem_map.mp hw
  rfl

/-- Fills and prefetches that returned well, of a line that has a way, that holds all of them, that has no way. -/
theorem witness_RowCacheUpdates_fills :
    ((withFill .fill .ok).ports.fills.find? (fun x => x.r.id == 5 && x.r.kind == .fill) = some (fillOf .fill .ok) ∧
     (withFill .fill .ok).fillNew (fillOf .fill .ok) ≠ 0 ∧ (withFill .fill .ok).wayFor (fillOf .fill .ok).r.loc ∧
     ({ withFill .fill .ok with rc := [(locFar 0 256, { here := true, valid := 15 })] } : Chip).fillNew (fillOf .fill .ok) = 0 ∧
     ∀ k ∈ [ReqKind.prefetchRc, .prefetchStg, .prefetchFill],
       (withFill k .ok).ports.fills.find? (fun x => x.r.id == 5 && x.r.ctx == some 0 &&
         (x.r.kind == .prefetchRc || x.r.kind == .prefetchStg || x.r.kind == .prefetchFill)) = some (fillOf k .ok) ∧ (fillOf k .ok).rsp = .ok) ∧
    ∃ g : Nat, ∃ s : Chip, ∀ k : ReqKind,
      let x := { fillOf k .ok with r := { (fillOf k .ok).r with loc := g } }
      (withFills [x] s).ports.fills = [x] ∧ ¬ ((withFills [x] s).fillNew x = 0 ∨ (withFills [x] s).wayFor g) := by
  refine ⟨⟨by decide +kernel, by decide +kernel, wayFor_alone _ _ (by decide), by decide +kernel, by decide +kernel⟩, ?_⟩
  obtain ⟨g, l, hg, h1, h2⟩ := fullSet
  have hn : Tab.get {} (l.map (fun h => (h, ({ here := true, pinned := true } : Line)))) g = {} := by
    clear h1 h2
    induction l with
    | nil => rfl
    | cons a r ih =>
      simp only [List.mem_cons, not_or] at hg
      simp only [List.map_cons, Tab.get]
      rw [if_neg (fun h => hg.1 h.symm), ih hg.2]
  refine ⟨g, { base with rc := l.map (fun h => (h, { here := true, pinned := true })) }, fun k => ⟨rfl, ?_⟩⟩
  rintro (h | ⟨h, -⟩ | h | ⟨w, hw, hp⟩)
  · exact absurd h (by show (fillOf k .ok).ok &&& ~~~(Tab.get ({} : Line) (l.map _) g).valid ≠ 0; rw [hn]; simp [fillOf])
  · exact absurd h (by show ¬ (Tab.get ({} : Line) (l.map _) g).here = true; rw [hn]; decide)
  · exact absurd h (by show ¬ (Chip.setWays { base with rc := l.map _ } g).length < 24; rw [h1]; decide)
  · exact absurd (h2 w hw) (by rw [hp]; decide)

/-- A segment that is not due, one that writes past the cache, one in it with its bytes there, one that a later position of its
SCATTER has overtaken. -/
theorem witness_RowCacheUpdates_segments :
    (withSegs [{ segOf 1 with id := 2 }, segOf 1] 96).segs.find? (fun g => g.id == 3) = some (segOf 1) ∧
    (withSegs [{ segOf 1 with id := 2 }, segOf 1] 96).segTurn (segOf 1) = false ∧
    (withSegs [segOf 1] 0).segs.find? (fun g => g.id == 3) = some (segOf 1) ∧ (withSegs [segOf 1] 0).segTurn (segOf 1) = true ∧
    (segOf 1).grp = none ∧ (segOf 1).cmb ≠ 0 ∧ (withSegs [segOf 1] 0).cachedLoc (segOf 1).loc = false ∧
    (withSegs [segOf 0] 96).segTurn (segOf 0) = true ∧ (withSegs [segOf 0] 96).stalePos (segOf 0).run ((segOf 0).loc / 64 + (segOf 0).sector) (segOf 0).pos = false ∧
    (withSegs [segOf 0] 96).cachedLoc (segOf 0).loc = true ∧ (withSegs [segOf 0] 96).rowReady (segOf 0) = true ∧
    (withSegs [segOf 0] 96).wayFor (segOf 0).loc ∧
    (let s : Chip := { withSegs [segOf 0] 96 with banked := [((segOf 0).run, (segOf 0).loc / 64 + (segOf 0).sector, 1)] }
     s.segTurn (segOf 0) = true ∧ (segOf 0).cmb = 0 ∧ s.stalePos (segOf 0).run ((segOf 0).loc / 64 + (segOf 0).sector) (segOf 0).pos = true ∧
       s.banking (.combine (segOf 0).id) = false) := by
  refine ⟨by decide +kernel, by decide +kernel, by decide +kernel, by decide +kernel, by decide +kernel, by decide +kernel, by decide +kernel,
    by decide +kernel, by decide +kernel, by decide +kernel, by decide +kernel, wayFor_alone _ _ (by decide), by decide +kernel⟩

/-- A row whose lines are present, one that a later position has overtaken, one that has entered, with and without a cache, one that
has failed, with and without its SCATTER running. -/
theorem witness_RowCacheUpdates_rows :
    (let g := rowOf none none
     let s := withGroup g 15 96
     s.groupAt 4 = some g ∧ s.groupTurn g = true ∧ s.stalePos g.run g.hdr g.pos = false ∧ s.cachedLoc g.hdr = true ∧
       (∀ l ∈ g.lines, s.groupLacks g l = 0) ∧ (s.lineAt (granuleOf g.hdr)).here = true ∧ (s.lineAt (granuleOf g.hdr)).evict = false ∧
       ({ s with banked := [(6, g.hdr, 4)] } : Chip).stalePos g.run g.hdr g.pos = true) ∧
    (let g := rowOf (some 65535) none
     (withGroup g 15 96).groupAt 4 = some g ∧ g.entered = some 65535 ∧ (withGroup g 15 96).segs = [] ∧ (withGroup g 15 96).banking (.header 4) = false ∧
       (withGroup g 15 96).cachedLoc g.hdr = true ∧ (withGroup g 15 96).wayFor (granuleOf g.hdr) ∧ (withGroup g 15 0).cachedLoc g.hdr = false) ∧
    (let r : Report := { src := 0x40, kind := .bank, unit := 0 }
     let g := rowOf none (some r)
     let s := withGroup g 1 96
     s.groupAt 4 = some g ∧ g.failed = some r ∧ (s.dropGroup g).liveRun g.ctx g.run = none ∧
       (let t := s.updCtx 0 (fun x => { x with st := .waiting, wait := some .transfer, xfer := some { word := wx 0x46 1 2 3 0 0 0, ip := 0, grp := 6 } })
        t.groupAt 4 = some g ∧ (t.dropGroup g).liveRun g.ctx g.run = some 0)) := by
  refine ⟨by decide +kernel, ⟨by decide +kernel, by decide +kernel, by decide +kernel, by decide +kernel, by decide +kernel,
    wayFor_alone _ _ (by decide), by decide +kernel⟩, by decide +kernel⟩

/-- The first and last code of U4, of I64 and of FP32, a NaN apart; a division by 1. -/
theorem witness_FormatsRoundTrip :
    (fmtInt 1 = true ∧ 15 < 2 ^ fmtBits 1) ∧ (fmtInt 9 = true ∧ 2 ^ 64 - 1 < 2 ^ fmtBits 9) ∧
    (fmtFloat 0x14 = true ∧ decodePlain 0x14 0x7F800000 ≠ .nan ∧ 0x7F800000 < 2 ^ fmtBits 0x14) ∧ decodePlain 0x23 15 ≠ .nan ∧ 0 < 1 := by decide +kernel

/-- Streams of one byte and of 4,096; the largest offset. -/
theorem witness_BlocksDecode :
    ([(0 : Byte)] ≠ [] ∧ [(0 : Byte)].length ≤ 4096 ∧ [(1 : Byte)].length = [(0 : Byte)].length) ∧ (List.replicate 4096 (0 : Byte)).length ≤ 4096 ∧
    2 ^ 48 - 8 < 2 ^ 48 ∧ (2 ^ 48 - 8) % 8 = 0 := by
  exact ⟨⟨by decide, by decide, by decide⟩, by rw [List.length_replicate], by decide, by decide⟩

/-- Descriptors of rank 1 and 8; a permutation that is accepted. -/
def d8 : Desc := { words := (List.range 32).map (fun n => if n = 0 then at64 56 4 ||| at64 52 8 else if n = 1 then at64 24 1 ||| BitVec.ofNat 64 0o01234567
                                             else if 4 ≤ n ∧ n < 12 then at64 32 1 ||| at64 0 2 else if 12 ≤ n ∧ n < 20 then at64 32 2 else 0) }

theorem witness_WalkVisitsEveryElement :
    Dsc.rank d8 ≤ 8 ∧ 255 < Dsc.count d8 ∧ chkPerm d8 = false ∧ ([1, 1, 1, 1, 1, 1, 1, 1] : List Nat).length = Dsc.rank d8 ∧
    (∀ k, k < Dsc.rank d8 → ([1, 1, 1, 1, 1, 1, 1, 1] : List Nat).getD k 0 < Dsc.ext d8 k) := by decide +kernel

/-- Byte descriptors of two elements, of which the second is outside the valid range of one of them. -/
def dense (fmt base ext lim : Nat) : Desc :=
  { words := [at64 56 fmt ||| at64 52 1 ||| at64 0 base, 0, 0x7F, 0, at64 32 1 ||| at64 0 ext, 0, 0, 0, 0, 0, 0, 0, at64 32 lim] }
def pair (la lb : Nat) : XI := { op := 0x40, a := dense 4 4096 2 la, b := dense 4 256 2 lb, c := { words := [] }, md := 0, w := 1, pass := 1 }

theorem witness_ElementsWritten :
    (let xi := pair 1 1
     Dsc.mx xi.b = false ∧ Dsc.rq xi.b = false ∧ Dsc.blist xi.b = false ∧
     Dsc.validA xi.b (Dsc.aOf xi.b (Dsc.unrank xi.b 0)) = true ∧ Dsc.validA xi.b (Dsc.aOf xi.b (Dsc.unrank xi.b 1)) = false ∧
     0 ≤ Dsc.nibAddr xi.b (Dsc.aOf xi.b (Dsc.unrank xi.b 1)) ∧ Dsc.nibAddr xi.b (Dsc.aOf xi.b (Dsc.unrank xi.b 1)) < 2 ^ 53 ∧
     xi.down = false ∧ xi.noCast = true ∧ Dsc.blist xi.a = false) ∧
    (let xi := pair 2 2
     let e : Env := { lines := [{ run := 0, id := 0, kind := .data, key := 4096, win := 0, want := 1, asked := 1, got := 1, data := 7, from_ := 0, to_ := 0 }] }
     let src := Dsc.aOf xi.a (Dsc.alloc xi.a (Dsc.logical xi.b (Dsc.unrank xi.b 0)))
     Dsc.validA xi.a src = true ∧ (match e.codeAt .data xi.a (Dsc.nibAddr xi.a src) with | .ok c => c == 7 | _ => false) = true) ∧
    (let xi := pair 1 2
     Dsc.validA xi.a (Dsc.aOf xi.a (Dsc.alloc xi.a (Dsc.logical xi.b (Dsc.unrank xi.b 1)))) = false ∧
     Dsc.validA xi.b (Dsc.aOf xi.b (Dsc.unrank xi.b 1)) = true ∧ Dsc.skip xi.b = false ∧
     Dsc.skip { xi.b with words := xi.b.words.set 1 (at64 25 1) } = true) := by decide +kernel

/-! ### Counters, ports, the shadow checker -/

theorem witness_CountersAndTime :
    (let o : KsOp := { k := 4095, set := false, v := 1 }
     let s : Chip := { base with ksq := [o] }
     s.ksq.find? (fun o => o.k % 16 == 15) = some o ∧ s.ksq.find? (fun o => o.k % 16 == 0) = none) ∧
    base.clocked = true ∧ (Chip.porst Build.beldel7L).clocked = false ∧ (base.ctxAt 255).kw = none := by decide +kernel

theorem witness_CounterRegisters :
    base.takesWrites ∧ 4095 < 4096 ∧ 15 < 16 ∧
    (let a := base.accepted
     let hold := fun (v : Word) => bitB v 15 && ksCompare (fldN v 12 2) (a.ksAt (fldN v 0 12)) (fld (a.reg (Reg.kwatchTgt 15)) 0 48)
     hold 0x1FFF = false ∧ hold 0x9FFF = true) := by
  refine ⟨⟨rfl, rfl⟩, by decide, by decide, by decide +kernel⟩

/-- A write of one far burst and a read of a stack granule wait; a lane with no credit grants nothing. -/
def farLane : Lane := { kind := .farPort, port := 7, lane := 0 }
def stkLane : Lane := { kind := .stackPort, port := 0, lane := 0 }
def wrReq (mask : BitVec 256) : PortReq :=
  { id := 9, kind := .xwrite, write := true, lane := farLane, loc := locFar 7 256, mask := mask, data := 1, ctx := some 0, part := some 0, cls := 0, req := 0 }
def rdReq (l : Lane) (loc : Nat) : PortReq :=
  { id := 9, kind := .xread, write := false, lane := l, loc := loc, mask := sectorMask 3, ctx := some 0, part := some 0, cls := 1, req := 0 }
def waitsAt (r : PortReq) (rq : Nat) : Chip :=
  { base with ports := { queue := [r], lanes := [(laneCode r.lane, { rq := rq, wd := 4 })] } }

theorem witness_PortGrants :
    (waitsAt (wrReq 1) 0).arbitrate farLane = none ∧ (waitsAt (wrReq 1) 1).arbitrate farLane = some (0, wrReq 1) ∧
    ((waitsAt (wrReq 1) 1).tagFor (wrReq 1)).isSome = true ∧ (waitsAt (wrReq 1) 1).waitingAt farLane = [wrReq 1] ∧
    (waitsAt (wrReq 1) 1).ports.held.contains (laneCode farLane) = false ∧ ((waitsAt (wrReq 1) 1).laneAt farLane).owe = 0 ∧
    1 ≤ ((waitsAt (wrReq 1) 1).laneAt farLane).rq ∧ 1 ≤ ((waitsAt (wrReq 1) 1).laneAt farLane).wd ∧ (waitsAt (wrReq 1) 1).masked (wrReq 1) = false ∧
    (wrReq 1).cls ≤ 4 ∧ (wrReq 1).kind.bypasses = false ∧ ({ wrReq 1 with kind := .save } : PortReq).kind.bypasses = true ∧
    (waitsAt (rdReq stkLane (locStack 0 0)) 64).arbitrate stkLane = some (2, rdReq stkLane (locStack 0 0)) := by decide +kernel

def outst (r : PortReq) (tag : Nat) : Outst := { tag := tag, r := r, pool := .own 0, at_ := 0 }
def waits (o : Outst) : Chip := { base with ports := { outs := [o], lanes := [(laneCode o.r.lane, { rq := 63, wd := 255, cur := some o.r.id })] } }
def beat (tag kind b : Nat) : RspBeat := { tag := tag, ptag := 0, kind := kind, status := 0, beat := b, poison := 0, last := true, data := [] }

theorem witness_PortResponses :
    (let o := outst (wrReq 1) 4095
     (waits o).phase = .run ∧ (waits o).outOf farLane 4095 = some o ∧ (beat 4095 1 0).ptag = o.r.part.getD 15 ∧ o.r.write = true ∧ farLane = o.r.lane) ∧
    (let o := outst (rdReq farLane (locFar 7 0)) 0
     (waits o).outOf farLane 0 = some o ∧ o.r.write = false ∧ (beat 0 0 0).beat < o.r.nb ∧ bitB o.got (o.r.first + 0) = false) ∧
    (let o := outst (rdReq stkLane (locStack 0 0)) 0
     (waits o).outOf stkLane 0 = some o ∧ stkLane.kind ≠ .farPort ∧ o.got = 0) ∧
    base.outOf farLane 0 = none ∧ base.portBars farLane = [] := by decide +kernel

/-- One credit below a lane's limit and at it; a request that has timed out and one that has not; a write of two beats that holds
its far port; a context that has made no progress for PROG. -/
theorem witness_PortTimers :
    (let o := outst (wrReq 1) 4095
     let s := waits o
     s.phase = .run ∧ (s.laneAt farLane).rq < 64 ∧ (s.laneAt farLane).wd < 256 ∧ s.outOf farLane 4095 = some o ∧
       s.time < o.at_ + s.txnTicks ∧ o.at_ + ({ s with time := s.txnTicks } : Chip).txnTicks ≤ ({ s with time := s.txnTicks } : Chip).time) ∧
    (let s : Chip := { base with ports := { lanes := [(laneCode farLane, { rq := 64, wd := 256 })] } }
     64 ≤ (s.laneAt farLane).rq ∧ 256 ≤ (s.laneAt farLane).wd) ∧
    (let o := outst (wrReq (sectorMask 0 ||| sectorMask 1)) 0
     (waits o).holder farLane = some o ∧ o.r.req < 64 ∧ base.holder farLane = none ∧ ((waits o).laneAt farLane).beatAt + 200 ≤ 200 ∧
       ({ waits o with time := 200 } : Chip).holder farLane = some o ∧ 199 < ((waits o).laneAt farLane).beatAt + 200) ∧
    (let s := fun (t : Nat) => ({ (runs 0 {}).chip with time := t } : Chip)
     let n := 100000 * base.regF Reg.rsqTmo 32 16
     ((s n).ctxAt 0).st = .ready ∧ ((s n).ctxAt 0).progress + n ≤ (s n).time ∧ (s (n - 1)).time < ((s (n - 1)).ctxAt 0).progress + n) := by decide +kernel

/-- The queue of mover 0 with one sample of a FILL of no element. -/
def sampleOf (d : Option Word) (r : Option (Word × Word × Bool)) (torn : Bool) : Sample :=
  { id := 3, ctx := 0, part := 0, asid := 0, root := 0, ip := 0, word := fillW, size := 1, t := dsc 1 0x04 256 0, digest := d, vdigest := 0, torn := torn,
    retired := some 0, redo := r }
def sampled (p : Sample) (t : Nat) : Chip := { base with mov := [(0, { samples := [p] })], time := t }

/-- A sample not yet re-executed, with its partner idle and not, with and without a partner, one that cannot finish, one that
has reached its end; one that is done with the injection armed for its mover and not. -/
theorem witness_ShadowChecks :
    (let p := sampleOf (some 5) none false
     let t : Xfer := { word := fillW, ip := 0, grp := 3 }
     let q := { p with walk := some t }
     ((sampled p 0).movAt 0).samples.find? (fun p => p.redo.isNone) = some p ∧ ((sampled q 0).movAt 0).samples.find? (fun p => p.redo.isNone) = some q ∧
     (sampled p 0).partnerOf 0 = some 32 ∧ (sampled p 0).shadowIdle 0 = true ∧
     ({ sampled p 0 with ctx := [(9, { st := .ready, slotOf := some 32 })], mov := [(0, { samples := [p] }), (32, { slots := [(0, some 9)] })] } : Chip).shadowIdle 0 = false ∧
     ({ sampled p 0 with regs := [(Reg.gangForm, 2)] } : Chip).partnerOf 0 = none ∧
     ({ p with stuck := true } : Sample).redo.isNone = true ∧ q.stuck = false ∧ q.walk = some t ∧ t.rows = [] ∧ wOpc q.word ≠ 0x41 ∧ wOpc q.word ≠ 0x45 ∧
     q.need ≤ (sampled q 0).freeCredits ((sampled q 0).leaderOf 32) ∧
     (q.xop.xi t.pass ((sampled q 0).routesOf 0 (rsel q.word - 1))).view.total ≤ t.cursor) ∧
    (let p := sampleOf (some 5) (some (5, 0, false)) false
     let armed : Chip := { sampled p 0 with regs := [(Reg.fcInj, at64 24 3 ||| 1)] }
     ((sampled p 0).movAt 0).samples.find? (fun p => p.digest.isSome && p.redo.isSome) = some p ∧ bitB ((sampled p 0).reg Reg.fcInj) 0 = false ∧
       bitB (armed.reg Reg.fcInj) 0 = true ∧ fldN (armed.reg Reg.fcInj) 24 2 = 3 ∧ fldN (armed.reg Reg.fcInj) 32 16 = 0) ∧
    (sampleOf (some 5) (some (5, 0, false)) true).torn = true ∧ (5 : Word) = 5 ^^^ 0 ∧ (5 : Word) ≠ 5 ^^^ 1 ∧
    (let p := sampleOf (some 5) none false
     ((sampled p 0).movAt 0).samples = [p] ∧ 0 + (sampled p (sampled p 0).shadowTicks).shadowTicks ≤ (sampled p (sampled p 0).shadowTicks).time ∧
       (sampled p 0).time < 0 + (sampled p 0).shadowTicks) := by decide +kernel

/-! ### Contexts, gangs, partitions, the memory map -/

/-- Context 0 in a state; with the registers that bind it to mover 0. -/
def ctx0 (x : Ctx) : Chip := { base with ctx := [(0, x)] }
def bindable : Tab Word := [(Reg.ctx 0 0x18, 1), (Reg.ctx 0 0x28, 0)]

/-- BIND with no target, with one of each fault, and a good one. -/
theorem witness_ContextCommands_bind :
    (let s : Chip := { base with regs := [(Reg.ctx 0 0x28, at64 8 1 ||| 32)] }
     s.takesWrites ∧ s.accepted = s ∧ 0 < s.build.nctx ∧ (s.ctxAt 0).busy = none ∧ s.ctxCovered 0 = false ∧ (s.ctxAt 0).st = .idle ∧ s.bindMovers 0 = none) ∧
    (let tested := fun (s : Chip) => s.sharedFailed = false ∧ ∀ n ∈ (s.bindMovers 0).getD [], s.movFailed n = false
     let mine := fun (s : Chip) => s.movPart 0 = s.ctxPart 0
     let room := fun (s : Chip) => ∃ k, k < 8 ∧ Tab.get none (s.movAt 0).slots k = none
     let valid := fun (s : Chip) => bitB (s.reg (Reg.ctx 0 0x18)) 0 = true
     let s : Chip := { base with regs := bindable }
     let gang : Chip := { base with regs := [(Reg.gangForm, at64 32 1), (Reg.ctx 0 0x18, 1), (Reg.ctx 0 0x28, at64 8 1 ||| 32)] }
     (s.bindMovers 0 = some [0] ∧ tested s ∧ mine s ∧ s.movCovered 0 = false ∧ room s ∧ valid s ∧ 1 ≤ 2 ^ s.ctxSavew 0) ∧
     ¬ tested { s with regs := (Reg.stupMovfail, 1) :: bindable } ∧
     (let u : Chip := { s with regs := (Reg.partMov 0, 1) :: bindable }
      tested u ∧ ¬ mine u) ∧
     (let u : Chip := { s with rsq := { rungs := [{ kind := .mover, obj := 0, origin := .host }] } }
      tested u ∧ mine u ∧ u.ctxCovered 0 = false ∧ u.movCovered 0 = true) ∧
     (let u : Chip := { s with mov := [(0, { slots := (List.range 8).map (fun k => (k, some (8 + k))) })] }
      tested u ∧ mine u ∧ u.movCovered 0 = false ∧ ¬ room u) ∧
     (let u : Chip := { s with regs := [(Reg.ctx 0 0x28, 0)] }
      tested u ∧ mine u ∧ u.movCovered 0 = false ∧ room u ∧ ¬ valid u) ∧
     (gang.bindMovers 0 = some [0, 1] ∧ tested gang ∧ mine gang ∧ gang.movCovered 0 = false ∧ room gang ∧ valid gang ∧ ¬ 2 ≤ 2 ^ gang.ctxSavew 0)) := by
  refine ⟨⟨⟨rfl, rfl⟩, rfl, ?_⟩, ?_⟩ <;> decide +kernel

/-- Each other command in the states that list it; BUSY contexts, and one inside a partition reset, refuse. -/
theorem witness_ContextCommands :
    base.takesWrites ∧ base.accepted = base ∧ 0 < base.build.nctx ∧
    ((ctx0 { st := .bound }).ctxAt 0).st = .bound ∧ (ctx0 { st := .bound }).ctxGuest 0 = false ∧
    ((ctx0 { st := .ready }).ctxAt 0).st = .ready ∧ ((ctx0 { st := .ready }).ctxAt 0).wait = none ∧
    (((ctx0 { st := .waiting, wait := some .credit }).ctxAt 0).wait = some .credit ∧ WaitCause.credit.stopsAtOnce = true ∧
      WaitCause.transfer.stopsAtOnce = false) ∧
    (let x : Ctx := { st := .faulted, slotOf := some 0 }
     ((ctx0 x).ctxAt 0).st = .faulted ∧ ((ctx0 x).ctxAt 0).slotOf.isSome = true ∧ x.size = x.faultSize ∧ x.xfer = none ∧
       ({ x with xfer := some { word := fillW, ip := 0 } } : Ctx).xfer.isSome = true ∧ ({ x with size := 2 } : Ctx).size ≠ ({ x with size := 2 } : Ctx).faultSize) ∧
    CState.bound.abortable = true ∧ CState.faulted.abortable = true ∧ ((ctx0 { st := .aborted }).ctxAt 0).st = .aborted ∧
    (let s := (mapped (st base)).chip
     s.accepted = s ∧ s.tier.busy = false ∧ ∀ k, k < 18 → (s.decodePA (s.ctxSaveBase 0 + 256 * k)).isSome = true) ∧
    base.decodePA (base.ctxSaveBase 0 + 256 * 0) = none ∧
    ((ctx0 { busy := some .bind }).ctxAt 0).busy.isSome = true ∧
    (let s : Chip := { base with rsq := { rungs := [{ kind := .partition, obj := 0, origin := .host }] } }
     s.ctxCovered 0 = true) := by
  refine ⟨⟨rfl, rfl⟩, rfl, ?_⟩
  decide +kernel

/-- The 18 answers of an image, all zero but for bit 0 of the predicates, and one of them with an answer `rsp`. -/
def imageFills (rsp : Rsp) : List FillDone :=
  (List.range 18).map (fun k =>
    { r := { (lineRead .ok).r with kind := .image, va := 256 * k }, tag := 0, data := if k = 17 then at64 0 1 <<< 64 |>.setWidth 2048 else 0, ok := 15,
      rsp := if k = 17 then rsp else .ok })

theorem witness_ContextCompletions :
    ((ctx0 { busy := some .bind }).ctxAt 0).busy = some .bind ∧ ((ctx0 { busy := some .bind }).ctxAt 0).st = .idle ∧
    ((ctx0 { busy := some .unbind, st := .bound }).ctxAt 0).busy = some .unbind ∧ ((ctx0 { busy := some .unbind, st := .bound }).ctxAt 0).st = .bound ∧
    (let mine := fun (r : PortReq) => r.kind == .image && r.ctx == some 0 && r.part == some 0
     let xs := fun (l : List FillDone) => (withFills l (ctx0 { busy := some .loadregs })).ports.fills.filter (fun y => mine y.r)
     let bs := fun (l : List FillDone) => (List.range 18).flatMap (fun k => match (xs l).find? (fun y => y.r.va == 256 * k) with
       | some y => toBytes 256 y.data.toNat | none => [])
     (xs ((imageFills .ok).take 17)).length < 18 ∧ 18 ≤ (xs (imageFills .ok)).length ∧ (∀ y ∈ xs (imageFills .ok), y.rsp = .ok) ∧
       imageOk (bs (imageFills .ok)) = true ∧
       (∃ y ∈ xs (imageFills .err), y.rsp ≠ .ok) ∧
       imageOk (bs ((imageFills .ok).map (fun y => { y with data := 1 }))) = false ∧ ((ctx0 { busy := some .saveregs }).ctxAt 0).busy = some .saveregs) ∧
    (let s : Chip := { ctx0 { st := .aborting } with rsq := { rungs := [{ kind := .ctxAbort, obj := 0, origin := .host }] } }
     s.sequencer = true ∧ (s.ctxAt 0).st = .aborting ∧ s.rsq.rungs.any (isRung .ctxAbort 0) = true ∧ s.abortDrained 0 = true) := by decide +kernel

/-- Four levels of loops, the largest IP and counts. -/
theorem witness_ImagesRestore :
    (let l : LoopLvl := { start := 2 ^ 52 - 8, count := 2 ^ 32 - 1 }
     let x : Ctx := { ip := 2 ^ 52 - 8, p := 255, loops := [l, l, l, l] }
     x.ip < 2 ^ 52 ∧ x.ip % 8 = 0 ∧ x.loops.length ≤ 4 ∧ bitB x.p 0 = true ∧ ∀ l ∈ x.loops, l.start < 2 ^ 52 ∧ l.start % 8 = 0 ∧ l.count < 2 ^ 32) := by decide +kernel

/-- Gang 32 (movers 0 and 1), and gangs 16 and 32, which clash; the last partition and the first one past it. -/
theorem witness_GangAndPartitionWrites :
    (let w : Word := maskBits 32 1
     let moved := (List.range 64).filter (fun m => gangIn base.build w m != gangIn base.build (base.reg Reg.gangForm) m)
     moved ≠ [] ∧ moved.any base.movCovered = false ∧ gangClash base.build w = false ∧ moved.any base.teamHolds = false ∧
       ((formedIn base.build w).filter (fun n => !(formedIn base.build (base.reg Reg.gangForm)).contains n)).any (fun n =>
         (gangMovers base.build n).any (fun m => base.movPart m != base.movPart (gangBase base.build n) || base.movFailed m)) = false) ∧
    (let w : Word := maskBits 16 1 ||| maskBits 32 1
     let moved := (List.range 64).filter (fun m => gangIn base.build w m != gangIn base.build (base.reg Reg.gangForm) m)
     moved.any base.movCovered = false ∧ gangClash base.build w = true) ∧
    base.allIdle = true ∧ 3 < 4 ∧ min 16 (base.build.nmov - 16 * 3) ≠ 0 ∧ fldN (0x7777777777777777 : Word) 60 3 < base.build.npart ∧
    (let b : Build := { Build.beldel7L with npart := 7 }
     b.npart ≤ fldN (0x7000000000000000 : Word) 60 3) ∧
    base.teamHolds 63 = false ∧ base.gangOf 63 = none ∧ base.movCovered 63 = false ∧ 63 < base.build.nmov := by decide +kernel

/-- One channel of 2^32 bytes behind stack 0. -/
def oneChannel : Tab Word := [(Reg.tnStk 0, 32), (Reg.tnChen 0, 1)]

theorem witness_MemoryMap :
    (base.takesWrites ∧ base.accepted.regionReg (Reg.fp 7 0) = 2 ∧ base.accepted.regionReg Reg.tnCfg = 2 ∧ base.accepted.allIdle = true) ∧
    (let off := Reg.fp 7 0
     let ok := fun (v : Word) => regionRange off v && (base.setReg off (v &&& regionMask off)).regionsOk off
     ok (at64 16 4096 ||| 1) = true ∧ ok (at64 16 4097 ||| 1) = false) ∧
    (let ok := fun (v : Word) => regionRange Reg.tnCfg v && (base.setReg Reg.tnCfg (v &&& regionMask Reg.tnCfg)).regionsOk Reg.tnCfg
     ok 1 = true ∧ bitB (base.reg Reg.tnCfg) 0 = false) ∧
    (ctx0 { st := .bound }).allIdle = false ∧
    (let s := fun (r : Tab Word) => (({ base with regs := r } : Chip).accepted.setReg Reg.cmtCtl (2 &&& maskBits 2 1))
     (s oneChannel).channels = [0] ∧ (s []).channels = []) ∧
    (bitB (2 : Word) 0 = false ∧ bitB (2 : Word) 1 = true ∧ bitB (1 : Word) 0 = true ∧ bitB (1 : Word) 1 = false ∧ base.accepted.tier.busy = false) ∧
    (({ base with tier := { busy := true } } : Chip).tier.busy = true ∧ ({ base with regs := oneChannel, build := { base.build with nsp := 1 } } : Chip).commitCheck = 0 ∧
      base.commitCheck ≠ 0 ∧ base.tier.busy = false) := by
  refine ⟨⟨⟨rfl, rfl⟩, by decide +kernel⟩, ?_⟩
  decide +kernel

theorem witness_Invalidations :
    base.takesWrites ∧ base.accepted.inv = none ∧ 7 < base.accepted.build.npart ∧
    (let i : InvSt := { scope := 2, part := 7, asid := 0xFFFF, va := 0, epoch := 1 }
     let e : TlbEnt := { page0 with part := 7, asid := 0xFFFF }
     let r := fun (n : Nat) (x : TlbEnt) => { (lineRead .ok).r with tr := some { epoch := n, e := x } }
     let w : PWalk := { id := 4, mov := none, part := 0, asid := 0, root := 0, va := 0, cls := 0, who := [], epoch := 0, base := 0, ans := some (.leaf page0) }
     let s : Chip := { base with inv := some i, walks := [w], ports := { queue := [r 1 e, r 0 page0] } }
     s.accepted.inv.isSome = true ∧ s.inv = some i ∧ (∀ l ∈ s.leavesInUse, l.epoch < i.epoch → i.covers l.e = false) ∧ s.leavesInUse.length = 2 ∧
       (w.epoch < i.epoch ∧ i.covers page0 = false) ∧
       (let u : Chip := { s with ports := { queue := [r 0 e] } }
        r 0 e ∈ u.allRequests ∧ (r 0 e).tr = some { epoch := 0, e := e } ∧ 0 < i.epoch ∧ i.covers e = true)) ∧
    15 < 2 * base.accepted.build.npart := by
  refine ⟨⟨rfl, rfl⟩, ?_⟩
  decide +kernel

/-! ### Faults and interrupts -/

/-- GUARD open; FC_INJ armed for the shared units. -/
def opened (ftm : Bool) : Chip := { base with guard := .opened 1, pins := { base.pins with presenceN := false, ftm := ftm } }

theorem witness_FaultRegisters :
    base.clocked = true ∧ base.takesWrites ∧ bitB (1 : Word) 0 = true ∧ bitB (2 : Word) 0 = false ∧ base.accepted.unlocked = false ∧
    ((opened true).accepted.unlocked = true ∧ (opened true).accepted.pins.ftm = true ∧ (opened true).takesWrites ∧
      injMatches (at64 48 0xE7) = true ∧ injMatches (at64 48 0xE8) = false) ∧
    (let s := fun (mode : Nat) => ({ base with regs := [(Reg.fcInj, at64 48 0x0F ||| at64 40 6 ||| at64 26 1 ||| at64 24 mode ||| 1)] } : Chip)
     ∀ mode ∈ [0, 1, 2],
       bitB ((s mode).reg Reg.fcInj) 0 = true ∧ unitKindOf (fldN ((s mode).reg Reg.fcInj) 40 8) = some .shared ∧ (s mode).phase ≠ .porst ∧
         fldN ((s mode).reg Reg.fcInj) 24 2 = mode ∧ fldN ((s mode).reg Reg.fcInj) 26 2 = 1 ∧ fldN ((s mode).reg Reg.fcInj) 48 8 = 0x0F ∧
         srcAssigned 0x0F = true ∧ 0x0F ∉ ((s mode).unitStat .shared 0).masked) ∧
    bitB (base.reg Reg.fcInj) 0 = false ∧ fldN (at64 24 1 ||| 20) 0 5 ≤ 20 ∧ fldN (at64 24 1 ||| 20) 24 16 ≠ 0 ∧ 20 < fldN (at64 24 1 ||| 21) 0 5 ∧
    fldN (20 : Word) 24 16 = 0 ∧ fldN (1 : Word) 0 32 ≠ 0 ∧ fldN (at64 32 1) 0 32 = 0 := by
  refine ⟨rfl, ⟨rfl, rfl⟩, by decide +kernel, by decide +kernel, by decide +kernel, ⟨by decide +kernel, by decide +kernel, ⟨rfl, rfl⟩, by decide +kernel⟩, ?_⟩
  decide +kernel

theorem witness_FaultReports :
    (let p : PendRep := { rep := { src := 0x30, kind := .mover, unit := 0 } }
     let s : Chip := { base with fc := { pend := [p] } }
     s.clocked = true ∧ s.phase ≠ .porst ∧ s.fc.pend ≠ []) ∧
    base.fc.pend = [] ∧ srcAssigned 0xE7 = true ∧ badCode 0#2 = true ∧ badCode 3#2 = true ∧ 65535 < 65536 ∧ 65535 ∉ (base.unitStat .mover 0).masked ∧
    (let s : Chip := { base with fc := { units := [(unitKey .mover 0, { masked := [65535] })] } }
     65535 ∈ (s.unitStat .mover 0).masked) ∧
    (let s : Chip := { base with regs := [(Reg.fcScrub, 1)], rc := [(256, { here := true, dirty := 1, data := 7 })] }
     let d := fun (flip : BitVec 288) => rsDecode (toBytes 36 flip.toNat)
     let l := fun (flip : BitVec 288) =>
       rsDecode ((rsWord (toBytes 32 (fld (s.lineAt 256).data 0 256).toNat)).zipWith (fun a b => a ^^^ b) (toBytes 36 flip.toNat))
     s.phase = .run ∧ s.regF Reg.fcScrub 0 16 ≠ 0 ∧ scrubbed 8 = true ∧ scrubbed 0 = true ∧ granuleOf 256 = 256 ∧ eccuOf 8 = some 0x17 ∧
       d 0 = .ok ∧ (match d 1 with | .fixed 0 1 => true | _ => false) = true ∧ d 0x101 = .bad ∧
       l 0 = .ok ∧ (match l 0x100 with | .fixed 1 1 => true | _ => false) = true ∧ l 0x101 = .bad ∧ (s.lineAt 256).dirty ≠ 0) := by decide +kernel

/-- A source that a write names, one that it cannot name in a small build, an unmasked and an ACTIVE one, a presented one. -/
theorem witness_InterruptRegisters :
    base.takesWrites ∧ 767 ∈ base.accepted.srcSet 11 (maskBits 63 1) ∧ (base.srcAt 767).mask = true ∧
    (let s : Chip := base.updSrc 736 (fun x => { x with mask := false })
     bitB (s.accepted.reg Reg.icEvtcfg ^^^ (1 : Word)) 0 = true ∧ (s.srcAt 736).mask = false ∧ (s.srcAt 736).active = false) ∧
    (∀ i, i < 32 → (base.srcAt (736 + i)).mask = true ∧ (base.srcAt (736 + i)).active = false) ∧
    base.accepted.srcPresent 767 = true ∧ base.accepted.presented 767 = false ∧
    ({ base.srcAt 767 with prio := 0, target := 7, nmi := true } : IrqSrc) ≠ base.srcAt 767 ∧
    (let s := base.updSrc 767 (fun x => { x with active := true, target := 7 })
     s.accepted.activeOn 7 (fldN (767 : Word) 0 10) = true ∧ s.accepted.lvlOf 767 = false) ∧ 768 ≤ fldN (768 : Word) 0 10 ∧
    base.accepted.activeOn 7 767 = false ∧ (base.tgtAt 7).prigroup ≤ 8 ∧ fldN (at64 16 1) 16 16 ≠ 0 ∧ fldN (at64 16 1) 8 4 = (base.tgtAt 7).prigroup ∧
    fldN (at64 8 8) 16 16 = 0 ∧ 8 < fldN (at64 16 1 ||| at64 8 9) 8 4 := by
  refine ⟨⟨rfl, rfl⟩, ?_⟩
  decide +kernel

theorem witness_InterruptDelivery :
    (let s := (base.updTgt 7 (fun x => { x with en := true })).updSrc 767 (fun x => { x with pend := true, mask := false, target := 7 })
     (s.tgtAt 7).en = true ∧ (s.tgtAt 7).pres = none ∧ s.nmiActive 7 = false ∧ 767 ∈ s.srcKeys ∧ s.candidate 7 767 = true ∧ s.preempts 7 767 = true ∧
       (s.srcAt 767).nmireq = false) ∧
    (let s := base.updTgt 7 (fun x => { x with en := true })
     (s.tgtAt 7).en = true ∧ (s.tgtAt 7).pres = none ∧ s.srcKeys = []) ∧
    (let s := (base.updTgt 7 (fun x => { x with en := true })).updSrc 767 (fun x => { x with pend := true, mask := true, target := 7 })
     let s : Chip := { s with irq := { s.irq with grace := [767] } }
     767 ∈ s.irq.grace ∧ s.wants 7 767 = true ∧ s.nmiActive 7 = false ∧ s.preempts 7 767 = true) ∧
    (base.tgtAt 7).pres = none ∧ (base.tgtAt 7).ackHigh = none ∧
    (let s := base.updTgt 7 (fun x => { x with en := true, pres := some (767, true) })
     (s.tgtAt 7).pres = some (767, true) ∧ s.isLevel 767 = false ∧ ({ s with time := 100 * 100 } : Chip).vpackDue 7 = true) ∧
    (let s : Chip := { base with regs := [(Reg.icEvtcfg, maskBits 63 1 ||| maskBits 31 1 ||| maskBits 0 1)] }
     s.evtEn 0 = true ∧ s.evtLevel 0 = false ∧ s.evtEn 31 = true ∧ s.evtLevel 31 = true ∧ bitB s.irq.lvl 31 = false ∧ (s.srcAt 767).active = false ∧
       ((s.updSrc 767 (fun x => { x with active := true })).srcAt 767).active = true) ∧
    (let s : Chip := { base with regs := [(Reg.icEvtcfg, maskBits 63 1 ||| maskBits 31 1)], irq := { lvl := maskBits 31 1 |>.setWidth 32 } }
     bitB s.irq.lvl 31 = true ∧ (s.srcAt 767).byLevel = false) ∧
    (let s := base.updSrc 767 (fun x => { x with winCnt := 1025 })
     1024 < (s.srcAt 767).winCnt ∧ (s.srcAt 767).winRep = false) := by decide +kernel

/-! ### Registers, power-on, recovery -/

theorem witness_RegisterWrites :
    base.clocked = true ∧ 3 ≠ 2 ∧ (0x11FFFC % 8 ≠ 0) ∧ 0x120000 ≤ 0x120000 ∧ base.pins.ftm = false ∧ (opened true).pins.ftm = true ∧
    (opened true).clocked = true ∧ ({ base with pins := {} } : Chip).pins.rstDone = false ∧
    (base.build.nmov ≤ 64 ∧ base.build.nsp ≤ 24 ∧ base.build.nfp ≤ 8 ∧ base.build.nlp ≤ 16) ∧
    fldN (9 : Word) 0 4 = 9 ∧ fldN (4 : Word) 0 3 = 4 ∧ fldN (at64 8 255 ||| 2) 0 2 = 2 ∧ netRaw (Reg.kwatchCfg 15) = 0 ∧ Reg.kwatchTgt 15 < 0x120000 ∧
    63 < 64 ∧ 19 < 20 ∧ Reg.kwatchCfg 15 ≠ Reg.guard ∧ Reg.kwatchCfg 15 % 8 = 0 ∧
    (let s := fun (f : TapFsm) (ir : BitVec 8) => base.updTap (fun t => { t with fsm := f, ir := ir, irs := 0x10, dr := 5 })
     (s .capDr 0x02).tap.fsm = .capDr ∧ (s .capDr 0xFF).tap.ir = 0xFF ∧ tapInstr 0xFF = .bypass ∧ (s .shiftDr 0xFF).tap.fsm = .shiftDr ∧
       (s .exit1Ir 0xFF).tap.fsm = .exit1Ir ∧ (s .exit2Dr 0x01).tap.fsm = .exit2Dr ∧ (s .exit2Dr 0x01).tap.ir = 0x01 ∧ (s .exit1Dr 0x10).tap.ir = 0x10) := by decide +kernel

theorem witness_GuardUnlocks :
    (let s := opened false
     let c : Chip := { s with guard := .closed }
     c.takesWrites ∧ c.pins.presenceN = false ∧ c.guardNow = .closed ∧ ({ s with guard := .key1 } : Chip).guardNow = .key1 ∧
       ({ s with time := 1 } : Chip).guardNow = .closed) ∧
    fldN (0xA5 : Word) 0 16 = 0x00A5 ∧ fldN (0x5A : Word) 0 16 = 0x005A ∧ fldN (0x100A5 : Word) 0 16 = 0x00A5 ∧ fldN (0x1A5 : Word) 0 16 ≠ 0x00A5 ∧
    base.pins.presenceN = true ∧ (opened false).guard = .opened 1 ∧ (opened false).time < 1 := by
  refine ⟨⟨⟨rfl, rfl⟩, by decide +kernel⟩, ?_⟩
  decide +kernel

/-- The ends of each range, and the first value past them. -/
theorem witness_ConfigurationWrites :
    base.takesWrites ∧
    (sextN 16 (fldN (at64 32 64) 32 16) ≤ 64 ∧ (-64 : Int) ≤ sextN 16 (fldN (at64 32 0xFFC0) 32 16) ∧ 64 < sextN 16 (fldN (at64 32 65) 32 16) ∧
      sextN 16 (fldN (at64 32 0xFFBF) 32 16) < -64) ∧
    (sextN 16 (fldN (at64 16 500 ||| 499) 0 16) < sextN 16 (fldN (at64 16 500 ||| 499) 16 16) ∧ sextN 16 (fldN (at64 16 500 ||| 499) 16 16) ≤ 500 ∧
      500 < sextN 16 (fldN (at64 16 501) 16 16) ∧ sextN 16 (fldN (0 : Word) 16 16) ≤ sextN 16 (fldN (0 : Word) 0 16)) ∧
    tracesOthers 0 = false ∧ tracesOthers (at64 8 2 ||| 1) = true ∧ base.accepted.unlocked = false ∧
    (let v : Word := at64 32 1 ||| 1000
     fldN v 32 16 ≠ 0 ∧ fldN v 0 10 ≠ 0 ∧ fldN v 0 10 ≤ 1000 ∧ 1000 < fldN (1001 : Word) 0 10) ∧ base.accepted.allIdle = true ∧
    bitB (base.accepted.reg Reg.rsqDump) 0 = false ∧ 63 < base.accepted.build.nmov ∧ base.accepted.movCovered 63 = false ∧
    base.accepted.build.nmov ≤ 64 ∧ 7 < base.accepted.build.npart ∧ base.accepted.inReset 7 = false ∧ base.accepted.build.npart ≤ 8 ∧
    (bitB (0xC301 : Word) 0 = true ∧ fldN (0xC301 : Word) 8 8 = 0xC3 ∧ fldN (0xC201 : Word) 8 8 ≠ 0xC3) ∧
    govRange base.accepted.build Reg.govSplit (at64 16 2 ||| at64 8 2 ||| 96) = true ∧ govRange base.accepted.build Reg.govSplit (at64 16 2 ||| at64 8 2 ||| 97) = false ∧
    base.accepted.build.rcache ≠ 0 ∧ 8 ≤ fldN (at64 8 8) 8 8 ∧ fldN (at64 8 7) 8 8 < 8 := by
  refine ⟨⟨rfl, rfl⟩, ?_⟩
  decide +kernel

/-- Port 0 enabled or not; an enabled entry and window; a valid route of one hop on port 15 and an invalid one. -/
theorem witness_LinkRegisters :
    base.takesWrites ∧ base.accepted.build.nlp ≠ 0 ∧
    (let v : Word := at64 32 1000 ||| 1
     fldN v 32 16 ≠ 0 ∧ fldN v 32 16 ≤ 1000 ∧ base.accepted.noPortEn = true ∧ fldN v 0 14 ≠ fldN (base.accepted.reg Reg.lkCfg) 0 14 ∧
       ({ base with regs := [(Reg.lk 15 0, 1)] } : Chip).accepted.noPortEn = false) ∧
    (let v : Word := at64 12 15 ||| at64 2 1 ||| 1
     15 < base.accepted.build.nlp ∧ fldN v 2 2 ≠ 0 ∧ fldN v 2 2 ≠ 3 ∧ fldN v 12 4 < base.accepted.build.nlp ∧ bitB v 0 = true ∧
       bitB (base.accepted.reg (Reg.lk 15 0)) 0 = false ∧
       bitB (({ base with regs := [(Reg.lk 15 0, 1)] } : Chip).accepted.reg (Reg.lk 15 0)) 0 = true ∧
       v &&& (maskBits 11 5 ||| maskBits 4 3 ||| maskBits 2 2) ≠
         ({ base with regs := [(Reg.lk 15 0, 1)] } : Chip).accepted.reg (Reg.lk 15 0) &&& (maskBits 11 5 ||| maskBits 4 3 ||| maskBits 2 2)) ∧
    (7 < base.accepted.build.npart ∧ base.accepted.rtEn 7 63 = false ∧ ({ base with regs := [(Reg.rt 7 63 0, at64 63 1)] } : Chip).accepted.rtEn 7 63 = true ∧
      routeValid base.accepted.build.nlp (base.accepted.rtRoute 7 63) = false ∧
      (let s : Chip := { base with regs := [(Reg.rt 7 63 8, 0xF01), (Reg.rt 7 63 0x10, 0xFF), (Reg.rt 7 63 0x18, 1)] }
       routeValid s.accepted.build.nlp (s.accepted.rtRoute 7 63) = true ∧ routeValid s.accepted.build.nlp (s.accepted.rtRroute 7 63) = true ∧ s.accepted.rtSize 7 63 ≠ 0)) ∧
    base.accepted.lwEn 255 = false ∧ ({ base with regs := [(Reg.lw 255 0, at64 63 1)] } : Chip).accepted.lwEn 255 = true ∧
    fldN (at64 59 7) 59 3 < base.accepted.build.npart := by
  refine ⟨⟨rfl, rfl⟩, ?_⟩
  decide +kernel

/-- Each phase of the sequence. -/
theorem witness_PowerOnSequence :
    (State.reset.chip.phase = .porst) ∧
    (∀ p ∈ [Phase.selfTest, .fuses, .clockWait, .march, .readyPor, .readyBlk], ({ base with phase := p } : Chip).phase = p ∧ ({ base with phase := p } : Chip).pins.refclk = true) ∧
    ({ base with fuseIdx := 62 } : Chip).fuseIdx < 63 ∧ ({ base with fuseIdx := 63 } : Chip).fuseIdx = 63 ∧ ({ base with fuseIdx := 63 } : Chip).fuseIdx < 64 := by decide +kernel

theorem witness_ClocksAndSensors :
    base.pins.refclk = true ∧ base.clocked = true ∧ base.pins.ftm = false ∧ (97 ≤ 97 ∧ 103 ≤ 103 ∧ 96 < 97 ∧ 103 < 104) ∧ base.clkBad = false ∧
    ({ base with clkBad := true } : Chip).clkBad = true ∧ base.pins.alive = true ∧ (Chip.porst Build.beldel7L).pins.alive = false ∧
    base.pins.hrstArmed = true ∧ bitB (({ base with regs := [(Reg.stupStat, 1)] } : Chip).reg Reg.stupStat) 0 = true ∧ bitB (base.reg Reg.stupStat) 0 = false ∧
    base.phase = .run ∧ rawOk 15 680 = true ∧ rawOk 15 681 = false ∧ rawOk 0 (-160) = true ∧ rawOk 19 400 = true ∧ rawOk 16 1101 = false ∧
    base.snsStale 19 = false ∧ ({ base with time := 3000 } : Chip).snsStale 19 = true ∧ base.snsFailed 0 = false ∧
    ({ base with regs := [(snsReg 19, at64 48 1)] } : Chip).snsFailed 19 = true := by decide +kernel

theorem witness_RecoveryRungs :
    (let r : Rung := { kind := .mover, obj := 63, origin := .host }
     let s : Chip := { base with rsq := { reqs := [r] } }
     s.sequencer = true ∧ s.clocked = true ∧ s.rsq.reqs = [r] ∧ ({ s with rsq := {} } : Chip).absorbed r = false ∧
       ({ s with rsq := { rungs := [r] } } : Chip).absorbed r = true ∧ base.rsq.reqs = []) ∧
    (let r : Rung := { kind := .mover, obj := 63, origin := .host }
     let s : Chip := { base with rsq := { rungs := [r] } }
     s.rsq.rungs.any (fun r => s.rungOf (.mover 63) r && !r.late) = true ∧ s.rsq.rungs.find? (isRung .mover (s.leaderOf 63)) = some r) ∧
    (let r : Rung := { kind := .unit, obj := unitKey .sensor 19, origin := .report }
     ({ base with rsq := { rungs := [r] } } : Chip).rsq.rungs.any (isRung .unit (unitKey .sensor 19)) = true) ∧
    (let r : Rung := { kind := .partition, obj := 7, origin := .host }
     let s : Chip := { base with rsq := { rungs := [r] } }
     s.rsq.rungs.find? (isRung .partition 7) = some r ∧ s.dumpOf (some 7) = none) ∧
    ({ base with phase := .blkReset } : Chip).phase = .blkReset ∧ ({ base with phase := .blkReset } : Chip).sequencer = true ∧
    (let d := fun (acked : Bool) => ({ part := some 7, src := 0, slot := none, started := 0, movers := [], acked := acked } : Dump)
     let s := fun (acked : Bool) => ({ base with rsq := { dumps := [d acked] }, time := 1000 } : Chip)
     (s true).dumpOf (some 7) = some (d true) ∧ (s false).dumpOf (some 7) = some (d false) ∧ (d false).started + 1000 ≤ (s false).time) ∧
    base.phase = .run ∧ base.pins.refclk = true := by decide +kernel

/-! ### The link -/

/-- Port 0 in a state, enabled at generation 1 and all widths, chip 1. -/
def linked (p : LinkPort) (time : Nat) : Chip :=
  { base with regs := [(Reg.lkCfg, 1), (Reg.lk 0 0, 0x75)], link := { ports := [(0, p)] }, time := time }

/-- A LINKCTL frame, and a data frame, sealed under an epoch. -/
def ctlFrame (h : BitVec 128) (epoch : Nat) : Frame :=
  let h := at128 124 15 ||| h
  { hdr := sealFrame epoch h [], payload := [], bad := false }
def dataFrame (h : BitVec 128) (ws : List Nat) (epoch : Nat) : Frame :=
  let p := padFrame 256 (ws.flatMap (toBytes 8))
  { hdr := sealFrame epoch h p, payload := p, bad := false }

/-- Lanes that allow a width and none; TRAIN frames of STEP 0 and 1 from chip 2, and from chip 1. -/
theorem witness_LinkStates :
    ((0 < base.build.nlp) ∧ (linked { st := .waitPcs } 0).lkEn 0 = true ∧ ((linked { st := .waitPcs } 0).portAt 0).st = .waitPcs ∧
      ((linked { st := .waitPcs } 0).updPort 0 (fun p => { p with lanes := 0xFF })).widths 0 ≠ [] ∧
      ((linked { st := .waitPcs } 0).updPort 0 (fun p => { p with lanes := 0x7E })).widths 0 = []) ∧
    (let s := linked { st := .training, lanes := 0xFF } 10000
     (s.portAt 0).st = .training ∧ (s.portAt 0).retryAt = none ∧ (s.portAt 0).trainAt + 10000 ≤ s.time ∧
       (linked { st := .training, lanes := 0xFF } 9999).time < 0 + 10000 ∧
     (let f := fun (chip step e : Nat) => ctlFrame (at128 120 2 ||| at128 108 chip ||| at128 92 e ||| at128 90 1 ||| at128 80 step) 0
      hType (f 2 0 7).hdr = 15 ∧ hOp (f 2 0 7).hdr = 2 ∧ Frame.checks (f 2 0 7) 0 = true ∧ fldN (f 2 0 7).hdr 24 55 = 0 ∧
        fldN (f 2 1 7).hdr 80 2 = 1 ∧ Frame.checks (f 2 1 7) 0 = true ∧ fldN (f 2 0 7).hdr 80 2 = 0 ∧
        s.commonWidth 0 (fldN (f 2 0 7).hdr 88 2) = some 0 ∧ fldN (f 2 0 7).hdr 108 12 ≠ s.chipId ∧ fldN (f 2 0 7).hdr 90 2 = s.lkGen 0 ∧
        fldN (f 1 0 7).hdr 108 12 = s.chipId)) ∧
    ((linked { st := .training, retryAt := some 5 } 5).portAt 0).retryAt = some 5 ∧
    ((linked { st := .training, sent1 := some 7, got1 := some 7 } 0).portAt 0).sent1 = some 7 ∧ (65535 < 65536 ∧ 1 ≠ 2) ∧
    (((linked { st := .up, lanes := 0xFF } 150).portAt 0).lastRx + 150 ≤ 150 ∧ (0xFF : BitVec 8) &&& ~~~0x0F ≠ 0 ∧ (0x0F : BitVec 8) &&& ~~~0xFF = 0) ∧
    ((linked { st := .training, lanes := 0xFF } 0).updPort 0 (fun p => { p with lanes := p.lanes &&& 0 })).widths 0 = [] := by decide +kernel

/-- Routes with one hop left, with more, with a second segment; four segments of the largest total. -/
theorem witness_RoutesForward :
    segCount 0xF01 0 = 1 ∧ 0xF01 / 4096 % 4096 = 0 ∧ segCount 0x101F01 0 = 1 ∧ 0x101F01 / 4096 % 4096 ≠ 0 ∧ 2 ≤ segCount 0xFFF 0 ∧ segCount 0xFFF 0 = 255 ∧
    routeValid 16 0xFFF = true ∧ routeValid 16 (0x0010010010FC) = true ∧ routeValid 16 (0x0010010010FD) = false ∧ routeValid 16 0 = false ∧ routeValid 15 0xF01 = false ∧
    (0xF01 < 2 ^ 48 ∧ ({ base with link := { ports := [(15, { st := .up })] } } : Chip).portUp (segPort 0xF01 0) = true) := by decide +kernel

set_option maxRecDepth 100000 in
/-- Data frames with the number due, one before it, one past it; of this epoch, of the one before, of none; CREDIT and NACK of the
next number; one TCLK before 1 µs and at it; a frame that has waited for 1 ms. -/
theorem witness_HopFrames :
    (let p : LinkPort := { st := .up, epoch := 7, oldEpoch := some 6, rxSeq := 511 }
     let f := fun (q e : Nat) => dataFrame (mkHdr 2 3 0 2 1 0 0xF01 ||| at128 85 q) [] e
     ((linked p 0).portAt 0).st = .up ∧ hType (f 511 7).hdr = 2 ∧ Frame.whole (f 511 7) = true ∧ Frame.checks (f 511 7) 7 = true ∧
       (hSeq (f 511 7).hdr + 512 - 511) % 512 = 0 ∧ p.taken (hVl (f 511 7).hdr) < 128 ∧ 256 ≤ (hSeq (f 510 7).hdr + 512 - 511) % 512 ∧
       (hSeq (f 0 7).hdr + 512 - 511) % 512 ≠ 0 ∧ (hSeq (f 0 7).hdr + 512 - 511) % 512 < 256 ∧
       Frame.checks (f 511 6) 7 = false ∧ Frame.checks (f 511 6) 6 = true ∧ Frame.checks (f 511 5) 7 = false ∧ Frame.checks (f 511 5) 6 = false ∧
       Frame.whole { f 511 7 with payload := [] } = false) ∧
    (let e : EgFrame := { f := dataFrame (mkHdr 2 3 0 2 1 0 0xF01) [] 7, vl := 0, cls := 3, src := none, msg := none, seq := some 0, at_ := 0 }
     let p : LinkPort := { st := .up, epoch := 7, txSeq := 1, egress := [e] }
     let c := ctlFrame (at128 111 1 ||| at128 103 1) 7
     let k := ctlFrame (at128 120 1 ||| at128 111 0) 7
     hType c.hdr = 15 ∧ Frame.whole c = true ∧ Frame.checks c 7 = true ∧ hOp c.hdr = 0 ∧ p.outstanding (fldN c.hdr 111 9) = true ∧
       c.hdr &&& BitVec.ofNat 128 (2 ^ 120 - 2 ^ 24) &&& ~~~(BitVec.ofNat 128 (2 ^ 120 - 2 ^ 95)) = 0 ∧
       hOp k.hdr = 1 ∧ Frame.checks k 7 = true ∧ p.outstanding (fldN k.hdr 111 9) = true ∧
       k.hdr &&& BitVec.ofNat 128 (2 ^ 120 - 2 ^ 24) &&& ~~~(BitVec.ofNat 128 (2 ^ 120 - 2 ^ 111)) = 0 ∧
       ((linked p 100).portAt 0).unacked.head? = some e ∧ e.at_ + 100 ≤ (linked p 100).time ∧ (linked p 99).time < e.at_ + 100) ∧
    (let e : EgFrame := { f := dataFrame (mkHdr 2 3 0 2 1 0 0xF01) [] 7, vl := 1, cls := 3, src := none, msg := none, at_ := 0 }
     let p : LinkPort := { st := .up, egress := [e] }
     e ∈ p.egress.filter (fun e => e.waits && e.vl == 1) ∧ e.at_ + 100000 ≤ (linked p 100000).time ∧ p.laneTx1 + 100000 ≤ (linked p 100000).time ∧
       (linked p 99999).time < e.at_ + 100000) := by decide +kernel

/-- A frame of a type delivered at port 0, window 1 enabled for source 1 with 4,096 bytes. -/
def delivers (ty : Nat) (ws : List Nat) (l : LinkSt) : Chip :=
  { base with regs := [(Reg.lw 1 0, at64 63 1), (Reg.lw 1 0x18, 4096)],
              link := { l with ports := [(0, { st := .up, ingress := [{ f := { hdr := mkHdr ty 3 0 2 1 9 1, payload := padFrame 256 (ws.flatMap (toBytes 8)), bad := false }, vl := 0, egress := none }] })] } }

/-- The payload of a SHEAD of one byte: its layout, the return route, the length, the window. -/
def headWords (fmt size win last : Nat) : List Nat :=
  [fmt * 2 ^ 56 + 2 ^ 52, 0, 0, 0, 2 ^ 32 + size] ++ List.replicate 7 0 ++ [size * 2 ^ 32] ++ List.replicate 15 0 ++ [1, size, win, last]

def landOf (status : Option Nat) (next : Nat) (zc : Bool) : Land :=
  { src := 1, mtag := 9, win := 1, part := 0, tagp := 0, cls := 3, port := 0, rroute := 1, t := [], len := 1, zc := zc, next := next, status := status }
def msgOf (deleg : Bool) : Msg :=
  { id := 2, mtag := 9, deleg := deleg, ctx := 0, part := 0, cls := 3, entry := 0, route := 1, dst := 1, crec := false, ring := 0, ip := 0, ks := 0, km := 0,
    len := 1, zc := false }

/-- The frame that is delivered at port 0. -/
def got (s : Chip) : Frame := match (s.portAt 0).ingress.find? (fun i => i.egress.isNone) with | some i => i.f | none => { hdr := 0, payload := [], bad := true }

theorem witness_LinkMessages_landing :
    (let s := delivers 1 (headWords 4 1 1 0) {}
     let f := got s
     let w := fun k => Frame.word f k
     let l := s.newLand 0 f
     ((s.portAt 0).ingress.find? (fun i => i.egress.isNone)).isSome = true ∧ hType f.hdr = 1 ∧ fldN (w 28) 48 16 = 0 ∧ fldN (w 29) 48 15 = 0 ∧
       fldN (w 30) 19 45 = 0 ∧ fldN (w 31) 13 51 = 0 ∧ routeValid 16 (fldN (w 28) 0 48) = true ∧ l.dres = false ∧
       (s.lwEn l.win = true ∧ s.lwDeleg l.win = false ∧
        l.src &&& s.regF (Reg.lw l.win 0) 16 12 = s.regF (Reg.lw l.win 0) 28 12 &&& s.regF (Reg.lw l.win 0) 16 12 ∧
        s.lwUsed l.win < s.regF (Reg.lw l.win 0) 53 6 + 1 ∧ spanIn l.desc (s.lwSize l.win) = true) ∧
       ((checkDesc { dst := true } true l.desc).isSome = false ∧ l.zc = false ∧ streamLen l.desc = l.len)) ∧
    (let h := fun (fmt win last : Nat) => delivers 1 (headWords fmt 1 win last) {}
     let l := fun (fmt win last : Nat) => (h fmt win last).newLand 0 (got (h fmt win last))
     fldN (Frame.word (got (h 4 1 (2 ^ 13))) 31) 13 51 ≠ 0 ∧ (l 4 1 (2 ^ 12)).dres = true ∧ (h 4 1 (2 ^ 12)).delegOut (l 4 1 (2 ^ 12)).dmtag = false ∧
       (h 4 0 0).lwEn (l 4 0 0).win = false ∧ (l 4 0 0).win = 0 ∧ (checkDesc { dst := true } true (l 0 1 0).desc).isSome = true) ∧
    (let d := fun (l : List Land) => delivers 2 [5] { lands := l }
     let g := fun (l : List Land) => (d l).landAt (hSrc (got (d l)).hdr) (hMtag (got (d l)).hdr)
     hType (got (d [])).hdr = 2 ∧ g [] = none ∧
     ∀ l ∈ [landOf none 0 false, landOf none 0 true, landOf (some 0) 1 false, landOf none 1 false, landOf (some 4) 0 false], g [l] = some l) ∧
    (let l := { landOf none 1 false with bursts := [(5, 0, 1)] }
     let s : Chip := { base with link := { lands := [l] } }
     s.link.lands.find? (fun l => l.bursts.any (fun b => b.1 == 5)) = some l ∧ l.bursts.find? (fun b => b.1 == 5) = some (5, 0, 1) ∧ s.allRequests = [] ∧
       s.ports.fills = [] ∧ s.ksPart l.kcnt = l.part ∧ ({ s with regs := [(Reg.ksPart 0, 1)] } : Chip).ksPart l.kcnt ≠ l.part ∧
       (withFills [{ lineRead .err with r := { (lineRead .err).r with id := 5 } }] s).ports.fills.find? (fun x => x.r.id == 5) =
         some { lineRead .err with r := { (lineRead .err).r with id := 5 } } ∧ l.status = none) := by decide +kernel

theorem witness_LinkMessages_sender :
    (let d := fun (a : Nat) (l : List Msg) => delivers 5 [a, 1] { msgs := l }
     let g := fun (a : Nat) (l : List Msg) => (d a l).msgOfTag (hMtag (got (d a l)).hdr)
     hType (got (d 0 [])).hdr = 5 ∧ g 0 [] = none ∧ g 9 [msgOf false] = some (msgOf false) ∧ (d 9 [msgOf false]).msgAt (msgOf false).id = some (msgOf false) ∧
     ∀ k ∈ [0, 1, 2], fldN (Frame.word (got (d (k * 2 ^ 12) [msgOf false])) 0) 12 4 = k ∧ fldN (Frame.word (got (d (k * 2 ^ 12) [])) 1) 48 16 = 0 ∧
       (Frame.word (got (d (k * 2 ^ 12) [])) 0) &&& ~~~(maskBits 12 4 ||| maskBits 16 10) = 0) ∧
    (let d := fun (a : Nat) (l : List Msg) => delivers 6 [a] { msgs := l }
     let g := fun (a : Nat) (l : List Msg) => (d a l).link.msgs.find? (fun m => m.deleg && m.mtag == hMtag (got (d a l)).hdr)
     hType (got (d 0 [])).hdr = 6 ∧ g 9 [msgOf false] = none ∧ g 9 [msgOf true] = some (msgOf true) ∧ hMtag (got (d 9 [])).hdr = 9 ∧
       fldN (Frame.word (got (d (9 + 2 ^ 32) [])) 0) 0 32 = 9 ∧ fldN (Frame.word (got (d 8 [])) 0) 0 32 ≠ 9) ∧
    (let s := fun (time : Nat) => ({ base with link := { msgs := [msgOf false] }, time := time } : Chip)
     (s 0).msgAt 2 = some (msgOf false) ∧ 0 + (s (base.rto)).rto ≤ (s base.rto).time ∧ (s (base.rto - 1)).time < 0 + (s 0).rto) := by decide +kernel

def delegOf (images ops granted : Nat) (guest : Option Nat) (ended : Bool) : Deleg :=
  { src := 1, mtag := 9, win := 1, rlwin := 0, part := 0, tagp := 0, cls := 3, rroute := 1, word := 0, len := 2, images := List.replicate images 0,
    ops := List.replicate ops 0, granted := granted, guest := guest, ended := ended }

/-- The word of a delegated GATHER. -/
def guestWord : Nat := 0x44 * 2 ^ 56 + 2 ^ 48 + 2 * 2 ^ 44

theorem witness_DelegationAtOwner_requests :
    (let s := fun (ws : List Nat) (lk a : Word) (g : Bool) =>
       let s := delivers 3 ws {}
       ({ s with regs := (if g then [(Reg.ctx 5 0, at64 8 1)] else []) ++ [(Reg.lkCfg, lk), (Reg.lw 1 0, a)] } : Chip)
     let del := at64 13 1
     let win := at64 63 1 ||| at64 62 1
     let good := s [guestWord, 1, 1, 2] del win true
     routeValid 16 (fldN (Frame.word (got (s [guestWord, 0, 1, 2] del win true)) 1) 0 48) = false ∧
     guestWordOk (Frame.word (got (s [0, 1, 1, 2] del win true)) 0) = false ∧
     ((good.portAt 0).ingress.find? (fun i => i.egress.isNone)).isSome = true ∧
     hType (got good).hdr = 3 ∧ guestWordOk (Frame.word (got good) 0) = true ∧ (∀ k, k < 28 → Frame.word (got good) (4 + k) = 0) ∧
     fldN (Frame.word (got good) 1) 48 16 = 0 ∧ fldN (Frame.word (got good) 2) 27 37 = 0 ∧ fldN (Frame.word (got good) 3) 48 16 = 0 ∧
     routeValid 16 (fldN (Frame.word (got good) 1) 0 48) = true ∧ hSrc (got good).hdr = 1 ∧
     bitB (good.reg Reg.lkCfg) 13 = true ∧ good.lwRefuses 1 1 true = false ∧ good.hasGuest (good.lwPart 1) = true ∧
     bitB ((s [guestWord, 1, 1, 2] 0 win true).reg Reg.lkCfg) 13 = false ∧ (s [guestWord, 1, 1, 2] del 0 true).lwRefuses 1 1 true = true ∧
     (s [guestWord, 1, 1, 2] del win false).hasGuest 0 = false) := by decide +kernel

theorem witness_DelegationAtOwner_operands :
    (let d := fun (ty : Nat) (l : List Deleg) => delivers ty [5] { delegs := l }
     let g := fun (ty : Nat) (l : List Deleg) =>
       (d ty l).link.delegs.find? (fun x => x.src == hSrc (got (d ty l)).hdr && x.mtag == hMtag (got (d ty l)).hdr)
     hType (got (d 4 [])).hdr = 4 ∧ hType (got (d 7 [])).hdr = 7 ∧ g 4 [] = none ∧ g 7 [] = none ∧
     (∀ x ∈ [delegOf 768 0 16384 none true, delegOf 767 0 16384 none false, delegOf 768 2 16384 none false, delegOf 768 0 16384 none false,
            delegOf 768 0 16384 (some 5) false], g 4 [x] = some x) ∧
     ∀ x ∈ [delegOf 0 0 0 none false, delegOf 768 2 16384 (some 5) false], g 7 [x] = some x ∧ x.ended = false) ∧
    (let s := fun (images : Nat) => ({ base with regs := [(Reg.ctx 5 0, at64 8 1)], ctx := [(5, { st := .bound, slotOf := some 0 })], mov := [(0, { slots := [(0, some 5)] })],
                                                 link := { delegs := [delegOf images 0 16384 none false] } } : Chip)
     let n := (s 768).creditNeed 5 0
     let full := (s 768).updCtx 5 (fun x => { x with xfer := some { word := 0, ip := 0, credits := 8192 } })
     (∀ k ∈ [767, 768], (s k).link.delegs.find? (fun d => d.part == 0 && d.guest.isNone && !d.ended) = some (delegOf k 0 16384 none false)) ∧
       (s 768).boundGuest 0 = some 5 ∧ (s 768).slotMover 5 = 0 ∧ (delegOf 768 0 0 none false).word = 0 ∧
       n ≤ ((s 768).yieldStg 5 0 n).freeCredits 0 ∧ (s 768).freeTags ≠ [] ∧
       full.boundGuest 0 = some 5 ∧ (full.yieldStg 5 0 (full.creditNeed 5 0)).freeCredits 0 < full.creditNeed 5 0) := by decide +kernel

/-! ### Single steps and worked examples: every expected value is one the spec computes -/

/-- What a step answers, as the block. -/
def after (i : Instr) (s : State) : Chip := match exec i s with | .next t => t.chip | _ => s.chip

/-- R129, R183: the word of MOVE.sums T3, T2, T4, K7.bytes (05, the example of R183). -/
theorem test_move_word : wx 0x40 2 3 4 7 2 1 = 0x4023400078000001 := by decide +kernel

/-- R150: a wait for 0x10 from 0xFFFFFFFFFFF0 on; it goes on at 0x8 and ends at 0x10 (04, the example of R157). -/
theorem test_counter_wrap :
    ksCompare 0 0x8 0x10 = false ∧ ksCompare 0 0x10 0x10 = true ∧ (0xFFFFFFFFFFF0 : BitVec 48) + 24 = 0x8 := by decide +kernel

/-- R149: an update of a counter wraps modulo 2^48. -/
theorem test_keystone_update :
    (after (.keystoneUpdate 5) (st { base with ks := [(5, 0xFFFFFFFFFFF0)], ksq := [{ k := 5, set := false, v := 32 }] })).ksAt 5 = 0x10 := by decide +kernel

/-- R141: SADD wraps; SLI extends the sign. -/
theorem test_sadd_wraps :
    ((after (.sadd 0) (runs (ws 0x12 2 1 0 0 1) { s := [(1, BitVec.allOnes 64)] })).ctxAt 0).sr 2 = 0 ∧
    ((after (.sli 0) (runs (ws 0x10 2 0 0 0 0x80000000) {})).ctxAt 0).sr 2 = 0xFFFFFFFF80000000 := by decide +kernel

/-- R142: −1 is less than 0 as a signed number (code 2), and not less as an unsigned one (code 4). -/
theorem test_scmp_signs :
    let x : Ctx := { s := [(1, BitVec.allOnes 64)] }
    bitB ((after (.scmp 0) (runs (ws 0x1A 2 1 0 3 0) x)).ctxAt 0).p 3 = true ∧ bitB ((after (.scmp 0) (runs (ws 0x1A 4 1 0 3 0) x)).ctxAt 0).p 3 = false := by decide +kernel

/-- R137: CALL with IMM32 = −1 links the next address in S31 and goes to the one before. -/
theorem test_call_links :
    let s := (runs (ws 0x05 0 0 0 0 (2 ^ 32 - 1)) {})
    ((after (.call 0) s).ctxAt 0).sr 31 = 8 ∧ ((after (.call 0) s).ctxAt 0).ip = 2 ^ 52 - 8 ∧ ((after (.call 0) s).ctxAt 0).retired = 1 := by decide +kernel

/-- R138, R67: ENDL goes back with one run less. -/
theorem test_endl :
    let x := (after (.endl 0) (runs (ws 0x08 0 0 0 0 0) { loops := [{ start := 64, count := 3 }] })).ctxAt 0
    x.ip = 64 ∧ x.loops = [{ start := 64, count := 2 }] := by decide +kernel

/-- R146: a field of 4 bits at bit 52 of word 0, the rank of a descriptor. -/
theorem test_tdset : ((after (.tdset 0) (runs (ws 0x22 1 2 0 0 0x00043400) { s := [(2, 0x13)] })).ctxAt 0).td 1 0 = 0x0030000000000000 := by decide +kernel

/-- R240, R241: the table of casts. -/
theorem test_casts :
    ((encodePlain 0x10 (fp32 0x43960000)).code = 0x79 ∧ (encodePlain 0x10 (fp32 0x43FA0000)).code = 0x7E ∧ (encodePlain 0x10 (fp32 0x7F800000)).code = 0x7E ∧
     (encodePlain 0x11 (fp32 0x7F800000)).code = 0x7C ∧ (encodePlain 0x10 (fp32 0x3A83126F)).code = 0x01 ∧ (encodePlain 0x12 (fp32 0x477FF000)).code = 0x7BFF ∧
     (encodePlain 0x13 (fp32 0x3F800001)).code = 0x3F80 ∧ (encodePlain 0x13 (fp32 0xFFC12345)).code = 0x7FC0 ∧ (encodePlain 0x04 (fp32 0x7FC00000)).code = 0 ∧
     (encodePlain 0x04 (fp32 0x42FD0000)).code = 0x7E ∧ (encodePlain 0x04 (fp32 0xC3008000)).code = 0x80 ∧ (encodePlain 0x04 (fp32 0xC3008000)).sat = false ∧
     (encodePlain 0x04 (fp32 0x4348B333)).code = 0x7F ∧ (encodePlain 0x03 (fp32 0xC04CCCCD)).code = 0 ∧ (encodePlain 0x14 (decodePlain 0x08 16777217)).code = 0x4B800000 ∧
     (encodePlain 0x04 (decodePlain 0x06 (65536 - 300))).code = 0x80) ∧
    (toFp32 (decodeAffine { scale := 0x3D4CCCCD, zp := 8 } 3) = 0xBE800000 ∧
     (encodePlain 0x12 (decodeAffine { scale := 0x3F000000, zp := 3 } (-20))).code = 0xC9C0 ∧
     (encodeAffine 0x03 { scale := 0x3DCCCCCD, zp := 128 } (fp32 0x40E9999A)).code = 201) := by decide +kernel

/-- R242, R244: the MXFP8 block of 1,000, 3 and 0.01. -/
theorem test_mx_block :
    (encodeMX 0x20 ([0x447A0000, 0x40400000, 0x3C23D70A].map fp32 ++ List.replicate 29 (.zero false))).1 = 0x80 ∧
    ((encodeMX 0x20 ([0x447A0000, 0x40400000, 0x3C23D70A].map fp32 ++ List.replicate 29 (.zero false))).2.map (·.code)).take 4 = [0x7E, 0x3C, 0x03, 0x00] := by decide +kernel

/-- R280: 2,048, then 1 and 2.5 in either order. -/
theorem test_combine_order :
    let add := fun (a b : Nat) => (encodePlain 0x12 ((decodePlain 0x12 a).add (decodePlain 0x12 b))).code
    add (add 0x6800 0x3C00) 0x4100 = (encodePlain 0x12 (.fin false 2050 0)).code ∧ add (add 0x6800 0x4100) 0x3C00 = (encodePlain 0x12 (.fin false 2052 0)).code := by decide +kernel

/-- R314, R318: the granule at 0x3_4567_8900 over 1,536 channels: pseudo-channel 41 of stack 4 at 0x9D0200; the hash of the next. -/
theorem test_hash : granuleHash 0x3456789 = 0x3DC ∧ granuleHash 0x345678A = 0x3DF ∧ 988 / 24 = 41 ∧ 988 % 24 = 4 := by decide +kernel

/-- R293: the entry of an XSPARSE block of one unit at 0x10000. -/
theorem test_delta_entry : mkEntry 3 1 0x10000 = 0x0013000000010000 := by decide +kernel

/-- R407: the route of 8 hops on L0 and 7 on L2; at the last hop of the first segment the second moves up (13, the torus). -/
theorem test_route :
    let s := linked { st := .up } 0
    let h := mkHdr 2 3 0 2 1 0 0x207001
    routeValid 16 0x207008 = true ∧ hRoute (s.nextHop 0 h).1 = 0x207 ∧ (s.nextHop 0 h).2 = some 2 := by decide +kernel

/-- R581: RAW 340 with GAIN −12, OFFSET 6 and USEROFF −4 reads 338. -/
theorem test_sensor : snsReading (52 * 1024 + 6) (-4) 340 = 338 := by decide +kernel

/-- R511: EVT_IN[3] at PRIO 0x40 with PRIGROUP 3 is of group 2. -/
theorem test_prio_group : prioGroup 3 0x40 = 2 ∧ prioGroup 3 0x20 = 1 := by decide +kernel

/-- R48, R133: an unassigned opcode ends its context, and the block goes on. -/
theorem test_illop :
    let t := after (.nop 0) (runs (ws 0xFF 0 0 0 0 0) {})
    (t.ctxAt 0).ended = true ∧ (t.ctxAt 0).retired = 0 ∧ t.fc.pend.length = 1 := by decide +kernel

/-- R589: the two keys open GUARD for 10 ms. -/
theorem test_guard :
    let s := after (.guard 0xA5) (st { opened false with guard := .closed })
    s.guard = .key1 ∧ (after (.guard 0x5A) (st s)).guard = .opened 1000000 ∧ (after (.clkGate 0) (st s)).guard = .closed := by decide +kernel

/-- R512: of two pending sources of one target the one of the lower PRIO is presented. -/
theorem test_vector :
    let s := ((base.updTgt 1 (fun x => { x with en := true })).updSrc 700 (fun x => { x with pend := true, mask := false, target := 1, prio := 1 })).updSrc 5
      (fun x => { x with pend := true, mask := false, target := 1, prio := 2 })
    ((after (.vectorPresent 1 none) (st s)).tgtAt 1).pres = some (700, false) := by decide +kernel

end Sys2Proof.Tests
end

section
/-! Control, SCMP and the comparisons of counters (chapter 4): what an instruction does once it issues, and the statements
about the false guard, the branches, the loop levels, SCMP and `ksCompare`. -/

namespace Sys2Proof.Machine

/-! ### Issue -/

/-- A word of a row with an undefined field ends in ENCODING (R133, step 2). -/
theorem Chip.issue_encoding {c : Nat} {sel enc : Word → Bool} {ctr : Word → Option Nat} {body : Word → Chip → Chip} {s : Chip} {w : Word}
    (hc : s.canIssue c = true) (hf : s.fetched c = some w) (ha : opcAssigned (wOpc w) = true) (hs : sel w = true)
    (he : enc w = false) :
    Chip.issue c sel enc ctr body s = (s.taken c w).ownFault c Src.encoding := by
  simp [Chip.issue, Chip.taken, hc, hf, ha, hs, he]

/-! ### Operands of an instruction that has been taken -/

@[simp] theorem Ctx.sr_iword (x : Ctx) (i : Option Word) (n : Nat) : ({ x with iword := i } : Ctx).sr n = x.sr n := rfl

@[simp] theorem Ctx.opB_iword (x : Ctx) (i : Option Word) (w : Word) : ({ x with iword := i } : Ctx).opB w = x.opB w := rfl

theorem fldN_zero_eq_mod {m : Nat} (w : BitVec m) (n : Nat) : fldN w 0 n = w.toNat % 2 ^ n := by
  simp [fldN, BitVec.extractLsb'_toNat]

/-- Only what the instruction makes of its own context matters. -/
theorem Chip.retires_congr {s : Chip} {c ip : Nat} {w : Word} {f g : Ctx → Ctx}
    (h : f { s.ctxAt c with iword := some w } = g { s.ctxAt c with iword := some w }) :
    s.retires c w f ip = s.retires c w g ip :=
  Chip.updCtx_congr (by simp only [Chip.taken_ctxAt, h])

/-! ### The false guard -/

/-- Settles O7: every row is an issue, and an issue whose guard is false only retires. -/
theorem falseGuardOnlyRetires : Obligations.FalseGuardOnlyRetires := by
  intro s i r w hr hc hf hs he hg
  obtain ⟨body, hbody⟩ := issue_row_cases i r hr
  rw [hbody, Chip.issue_skip hc hf hg (issue_row_assigned i r hr w hs) hs he, Chip.nextOf]

/-! ### Branches -/

theorem exec_nop {s : State} {c : Nat} {w : Word} (h : s.chip.issuesAs (.nop c) c w) :
    exec (.nop c) s = .next (s.to (s.chip.retires c w id (s.chip.nextOf c))) := by
  show Host.Outcome.next (s.to (nop c s.chip)) = _
  rw [nop, Chip.issueS, Chip.issue_as h rfl, Chip.retireNext_taken, Chip.nextOf]

theorem exec_jmp {s : State} {c : Nat} {w : Word} (h : s.chip.issuesAs (.jmp c) c w) :
    exec (.jmp c) s = .next (s.to (s.chip.retires c w id (target (s.chip.opB c w).toNat))) := by
  show Host.Outcome.next (s.to (jmp c s.chip)) = _
  rw [jmp, Chip.issueS, Chip.issue_as h rfl, Chip.retireTo_taken, Chip.taken_ctxAt, Ctx.opB_iword, Chip.opB]

theorem exec_br {s : State} {c : Nat} {w : Word} (h : s.chip.issuesAs (.br c) c w) :
    exec (.br c) s = .next (s.to (s.chip.retires c w id (relTarget (s.chip.ctxAt c).ip w))) := by
  show Host.Outcome.next (s.to (br c s.chip)) = _
  rw [br, Chip.issueS, Chip.issue_as h rfl, Chip.retireTo_taken, Chip.taken_ctxAt]

theorem exec_call {s : State} {c : Nat} {w : Word} (h : s.chip.issuesAs (.call c) c w) :
    exec (.call c) s = .next (s.to (s.chip.retires c w (Ctx.setS 31 (BitVec.ofNat 64 (s.chip.nextOf c)))
      (relTarget (s.chip.ctxAt c).ip w))) := by
  show Host.Outcome.next (s.to (call c s.chip)) = _
  rw [call, Chip.issueS, Chip.issue_as h rfl, Chip.updCtx_retireTo_taken, Chip.taken_ctxAt, Chip.nextOf]

theorem exec_ret {s : State} {c : Nat} {w : Word} (h : s.chip.issuesAs (.ret c) c w) :
    exec (.ret c) s = .next (s.to (s.chip.retires c w id (target ((s.chip.ctxAt c).sr 31).toNat))) := by
  show Host.Outcome.next (s.to (ret c s.chip)) = _
  rw [ret, Chip.issueS, Chip.issue_as h rfl, Chip.retireTo_taken, Chip.taken_ctxAt, Ctx.sr_iword]

/-- Settles O10, an equation for each of the five instructions. -/
theorem controlTransfers : Obligations.ControlTransfers := by
  intro s c w
  exact ⟨exec_nop, exec_jmp, exec_br, exec_call, exec_ret⟩

/-! ### Loop levels -/

/-- LOOP of an empty body is ENCODING (R138). -/
theorem exec_loop_of_len_zero {s : State} {c : Nat} {w : Word} (hc : s.chip.canIssue c = true) (hf : s.chip.fetched c = some w)
    (ho : wOpc w = 0x07) (hl : loopLen w = 0) :
    exec (.loop c) s = .next (s.to ((s.chip.taken c w).ownFault c Src.encoding)) := by
  show Host.Outcome.next (s.to (loop c s.chip)) = _
  rw [loop, Chip.issueS, Chip.issue_encoding hc hf (by simp [opcAssigned, ho]) (by simp [isOp, ho]) (by simp [hl])]

/-- The three ends of LOOP (R67, R138): past the body, one level too many, a level pushed. -/
theorem exec_loop {s : State} {c : Nat} {w : Word} (h : s.chip.issuesAs (.loop c) c w) :
    exec (.loop c) s = .next (s.to (
      if (s.chip.opB c w).toNat % 2 ^ 32 = 0 then
        s.chip.retires c w id (target ((s.chip.ctxAt c).ip + 8 * (loopLen w + 1)))
      else if 4 ≤ (s.chip.ctxAt c).loops.length then (s.chip.taken c w).ownFault c Src.loopdepth
      else s.chip.retires c w
        (fun y => { y with loops := { start := nextIp y.ip, count := (s.chip.opB c w).toNat % 2 ^ 32 } :: y.loops })
        (s.chip.nextOf c))) := by
  show Host.Outcome.next (s.to (loop c s.chip)) = _
  rw [loop, Chip.issueS, Chip.issue_as h rfl]
  simp only [Chip.taken_ctxAt, Ctx.opB_iword, fldN_zero_eq_mod, Chip.retireTo_taken]
  rw [Chip.retireWith_taken _ _ _ _ rfl, Chip.nextOf, Chip.opB]

/-- ENDL with no level (R67). -/
theorem exec_endl_of_nil {s : State} {c : Nat} {w : Word} (h : s.chip.issuesAs (.endl c) c w) (hl : (s.chip.ctxAt c).loops = []) :
    exec (.endl c) s = .next (s.to ((s.chip.taken c w).ownFault c Src.loopunder)) := by
  show Host.Outcome.next (s.to (endl c s.chip)) = _
  rw [endl, Chip.issueS, Chip.issue_as h rfl]
  simp only [Chip.taken_ctxAt, hl]

/-- ENDL with a level counts one run of it, modulo 2^32, and leaves it or goes back to its start (R67). -/
theorem exec_endl_of_cons {s : State} {c : Nat} {w : Word} (h : s.chip.issuesAs (.endl c) c w) {l : LoopLvl} {r : List LoopLvl}
    (hl : (s.chip.ctxAt c).loops = l :: r) :
    exec (.endl c) s = .next (s.to (
      if (l.count + 2 ^ 32 - 1) % 2 ^ 32 = 0 then s.chip.retires c w (fun y => { y with loops := r }) (s.chip.nextOf c)
      else s.chip.retires c w (fun y => { y with loops := { l with count := (l.count + 2 ^ 32 - 1) % 2 ^ 32 } :: r }) l.start)) := by
  show Host.Outcome.next (s.to (endl c s.chip)) = _
  rw [endl, Chip.issueS, Chip.issue_as h rfl]
  simp only [Chip.taken_ctxAt, hl, Chip.updCtx_retireTo_taken]
  rw [Chip.retireWith_taken _ _ _ _ rfl, Chip.nextOf]

/-- Settles O11: the branches of LOOP, and of ENDL by the innermost level. -/
theorem loopLevels : Obligations.LoopLevels := by
  intro s c w x n
  refine ⟨exec_loop_of_len_zero, fun h => ⟨fun hn => ?_, fun hn hd => ?_, fun hn hd => ?_⟩,
    fun h => ⟨exec_endl_of_nil h, fun l r hl h1 => ?_, fun l r hl h2 hm => ?_⟩⟩
  · rw [exec_loop h, if_pos hn, loopLen]
  · rw [exec_loop h, if_neg hn, if_neg (Nat.not_le.mpr hd)]
    rfl
  · rw [exec_loop h, if_neg hn, if_pos hd]
  · rw [exec_endl_of_cons h hl, if_pos (by omega)]
  · have hcount : (l.count + 2 ^ 32 - 1) % 2 ^ 32 = l.count - 1 := by omega
    rw [exec_endl_of_cons h hl, hcount, if_neg (by omega)]

/-! ### SCMP -/

/-- The model's condition is the one R142's table names for the code. -/
theorem scmpCond_eq_means (k : Nat) (a b : Word) : scmpCond k a b = scmpMeans k a b := by
  match k with
  | 0 | 1 | 6 | 7 => simp [scmpCond, scmpMeans, Bool.beq_eq_decide_eq, bne]
  | 2 | 3 => simp [scmpCond, scmpMeans, BitVec.slt, ← decide_not]
  | 4 | 5 => simp [scmpCond, scmpMeans, BitVec.ult, ← decide_not]
  | _ + 8 => simp [scmpCond, scmpMeans, Bool.beq_eq_decide_eq]

/-- The codes 8 to 31 of SCMP (R142). -/
theorem exec_scmp_of_code_undefined {s : State} {c : Nat} {w : Word} (hc : s.chip.canIssue c = true)
    (hf : s.chip.fetched c = some w) (ho : wOpc w = 0x1A) (hk : 8 ≤ wSD w) :
    exec (.scmp c) s = .next (s.to ((s.chip.taken c w).ownFault c Src.encoding)) := by
  show Host.Outcome.next (s.to (scmp c s.chip)) = _
  rw [scmp, Chip.issueS, Chip.issue_encoding hc hf (by simp [opcAssigned, ho]) (by simp [isOp, ho]) (by simp [hk])]

theorem Ctx.setP_ip (n : Nat) (b : Bool) (x : Ctx) : (x.setP n b).ip = x.ip := by
  unfold Ctx.setP
  split <;> rfl

/-- SCMP writes the condition of R142 to P[PD] and goes on at the next instruction. -/
theorem exec_scmp {s : State} {c : Nat} {w : Word} (h : s.chip.issuesAs (.scmp c) c w) :
    exec (.scmp c) s = .next (s.to (s.chip.retires c w
      (Ctx.setP (wPD w) (scmpMeans (wSD w) (s.chip.opA c w) (s.chip.opB c w))) (s.chip.nextOf c))) := by
  show Host.Outcome.next (s.to (scmp c s.chip)) = _
  rw [scmp, Chip.issueS, Chip.issue_as h rfl, Chip.retireWith_taken, Chip.nextOf, ← scmpCond_eq_means]
  · exact congrArg (fun t => Host.Outcome.next (s.to t)) (Chip.retires_congr rfl)
  · exact Ctx.setP_ip ..

/-- Settles O14: an undefined code is an undefined field of the word, and a defined one names R142's condition. -/
theorem compareSetsPredicate : Obligations.CompareSetsPredicate := by
  intro s c w
  exact ⟨exec_scmp_of_code_undefined, exec_scmp⟩

/-! ### Comparisons of counters -/

/-- .ge of R150: the distance from the target, modulo 2^48, is below 2^47. -/
theorem ksCompare_ge_iff (c v : BitVec 48) :
    ksCompare 0 c v = true ↔ (c.toNat + 2 ^ 48 - v.toNat) % 2 ^ 48 < 2 ^ 47 := by
  have hdist : (c - v).toNat = (c.toNat + 2 ^ 48 - v.toNat) % 2 ^ 48 := by
    rw [BitVec.toNat_sub]
    omega
  rw [← hdist, ksCompare, decide_eq_true_iff]

/-- A counter that less than 2^47 has been added to satisfies .ge of where it stood, wrapped or not (R150). -/
theorem ksCompare_ge_add (v : BitVec 48) {n : Nat} (hn : n < 2 ^ 47) : ksCompare 0 (v + BitVec.ofNat 48 n) v = true := by
  have hdist : v + BitVec.ofNat 48 n - v = BitVec.ofNat 48 n := by
    exact add_sub_cancel_left v _
  rw [ksCompare, hdist, BitVec.toNat_ofNat, decide_eq_true_iff]
  omega

/-- Settles O20, mode by mode. -/
theorem counterComparisons : Obligations.CounterComparisons := by
  intro c v
  refine ⟨ksCompare_ge_iff c v, ?_, ?_, ?_, fun n hn => ksCompare_ge_add v hn⟩
  · exact beq_iff_eq
  · exact bne_iff_ne
  · exact decide_eq_true_iff

end Sys2Proof.Machine
end

section
/-! Dweath routes (chapter 13): fields of a frame's header after a write of another, the valid routes as R407 lists them,
and the statement about the route, port and lane of a frame that goes on. -/

namespace Sys2Proof.Machine

/-! ### Fields of a header -/

theorem getLsbD_at128 (lo v i : Nat) :
    (at128 lo v).getLsbD i = (decide (i < 128) && (decide (lo ≤ i) && v.testBit (i - lo))) := by
  rw [at128, BitVec.getLsbD_ofNat, Nat.testBit_mul_two_pow]

/-- A write of a field: its bits from the value, the others as before. -/
theorem getLsbD_put128 (lo n v : Nat) (h : BitVec 128) {i : Nat} (hi : i < 128) :
    (put128 lo n v h).getLsbD i = if lo ≤ i ∧ i < lo + n then v.testBit (i - lo) else h.getLsbD i := by
  have hmask : (BitVec.ofNat 128 ((2 ^ n - 1) * 2 ^ lo)).getLsbD i = decide (lo ≤ i ∧ i < lo + n) := by
    rw [BitVec.getLsbD_ofNat, Nat.testBit_mul_two_pow, Nat.testBit_two_pow_sub_one]
    simp only [hi, decide_true, Bool.true_and, ← Bool.decide_and, decide_eq_decide]
    omega
  simp only [put128, mergeMask, BitVec.getLsbD_or, BitVec.getLsbD_and, BitVec.getLsbD_not, hmask, getLsbD_at128,
    Nat.testBit_mod_two_pow, hi, decide_true, Bool.true_and]
  split
  case isTrue hin =>
    have hlt : i - lo < n := by omega
    simp [hin, hlt]
  case isFalse hout => simp [hout]

theorem testBit_fldN {m : Nat} (w : BitVec m) (lo n i : Nat) : (fldN w lo n).testBit i = (decide (i < n) && w.getLsbD (lo + i)) := by
  rw [fldN, BitVec.testBit_toNat, BitVec.getLsbD_extractLsb']

/-- A field whose bits are those of a number. -/
theorem fldN_eq_mod {m lo n v : Nat} {w : BitVec m} (h : ∀ i, i < n → w.getLsbD (lo + i) = v.testBit i) : fldN w lo n = v % 2 ^ n := by
  refine Nat.eq_of_testBit_eq fun i => ?_
  rw [testBit_fldN, Nat.testBit_mod_two_pow]
  by_cases hi : i < n
  · rw [h i hi]
  · simp [hi]

/-- The field that was written. -/
theorem fldN_put128_same {lo n : Nat} (v : Nat) (h : BitVec 128) (hn : lo + n ≤ 128) : fldN (put128 lo n v h) lo n = v % 2 ^ n := by
  refine fldN_eq_mod fun i hi => ?_
  rw [getLsbD_put128 _ _ _ _ (by omega), if_pos (by omega), Nat.add_sub_cancel_left]

/-- A field that shares no bit with the one that was written. -/
theorem fldN_put128_of_disjoint {lo n a k : Nat} (v : Nat) (h : BitVec 128) (hk : a + k ≤ 128) (hd : a + k ≤ lo ∨ lo + n ≤ a) :
    fldN (put128 lo n v h) a k = fldN h a k := by
  have hbits : fldN (put128 lo n v h) a k = fldN h a k % 2 ^ k := by
    refine fldN_eq_mod fun i hi => ?_
    rw [getLsbD_put128 _ _ _ _ (by omega), if_neg (by omega), testBit_fldN, decide_eq_true hi, Bool.true_and]
  exact hbits.trans (Nat.mod_eq_of_lt (BitVec.isLt _))

/-- The fields of R403 that belong to the message and not to its way: all but SEQ, VL, ROUTE and CRC. -/
def SameMessage (g h : BitVec 128) : Prop :=
  hType g = hType h ∧ hClass g = hClass h ∧ hPart g = hPart h ∧ hDst g = hDst h ∧ hSrc g = hSrc h ∧ hMtag g = hMtag h

theorem sameMessage_put128_vl (v : Nat) (h : BitVec 128) : SameMessage (put128 84 1 v h) h := by
  refine ⟨?_, ?_, ?_, ?_, ?_, ?_⟩ <;> exact fldN_put128_of_disjoint v h (by decide) (by decide)

theorem sameMessage_put128_route (v : Nat) (h : BitVec 128) : SameMessage (put128 24 48 v h) h := by
  refine ⟨?_, ?_, ?_, ?_, ?_, ?_⟩ <;> exact fldN_put128_of_disjoint v h (by decide) (by decide)

theorem SameMessage.trans {f g h : BitVec 128} (hfg : SameMessage f g) (hgh : SameMessage g h) : SameMessage f h := by
  obtain ⟨ht, hc, hp, hd, hs, hm⟩ := hfg
  obtain ⟨ht', hc', hp', hd', hs', hm'⟩ := hgh
  exact ⟨ht.trans ht', hc.trans hc', hp.trans hp', hd.trans hd', hs.trans hs', hm.trans hm'⟩

@[simp] theorem hRoute_put128_vl (v : Nat) (h : BitVec 128) : hRoute (put128 84 1 v h) = hRoute h :=
  fldN_put128_of_disjoint v h (by decide) (by decide)

@[simp] theorem hRoute_put128_route (v : Nat) (h : BitVec 128) : hRoute (put128 24 48 v h) = v % 2 ^ 48 :=
  fldN_put128_same v h (by decide)

@[simp] theorem hVl_put128_vl (v : Nat) (h : BitVec 128) : hVl (put128 84 1 v h) = v % 2 :=
  fldN_put128_same v h (by decide)

@[simp] theorem hVl_put128_route (v : Nat) (h : BitVec 128) : hVl (put128 24 48 v h) = hVl h :=
  fldN_put128_of_disjoint v h (by decide) (by decide)

theorem hRoute_lt (h : BitVec 128) : hRoute h < 2 ^ 48 := BitVec.isLt _

/-! ### A hop (R407) -/

/-- The lane of a frame that leaves by port `e`: VL1 past a dateline. -/
def Chip.dateVl (s : Chip) (e : Nat) (h : BitVec 128) : BitVec 128 :=
  if bitB (s.reg (Reg.lk e 0)) 11 then put128 84 1 1 h else h

theorem Chip.hRoute_dateVl (s : Chip) (e : Nat) (h : BitVec 128) : hRoute (s.dateVl e h) = hRoute h := by
  unfold Chip.dateVl
  split
  · exact hRoute_put128_vl 1 h
  · rfl

theorem Chip.hVl_dateVl (s : Chip) (e : Nat) (h : BitVec 128) :
    hVl (s.dateVl e h) = if bitB (s.reg (Reg.lk e 0)) 11 then 1 else hVl h := by
  unfold Chip.dateVl
  split
  · exact hVl_put128_vl 1 h
  · rfl

theorem Chip.sameMessage_dateVl (s : Chip) (e : Nat) (h : BitVec 128) : SameMessage (s.dateVl e h) h := by
  unfold Chip.dateVl
  split
  · exact sameMessage_put128_vl 1 h
  · exact ⟨rfl, rfl, rfl, rfl, rfl, rfl⟩

/-- The header whose first segment has ended: the next moves up, in lane VL0. -/
def popSegment (h : BitVec 128) : BitVec 128 := put128 84 1 0 (put128 24 48 (hRoute h / 4096) h)

/-- The header with one hop less in its first segment. -/
def countHop (h : BitVec 128) : BitVec 128 := put128 24 48 (hRoute h - 1) h

theorem hRoute_popSegment (h : BitVec 128) : hRoute (popSegment h) = hRoute h / 4096 := by
  have := hRoute_lt h
  rw [popSegment, hRoute_put128_vl, hRoute_put128_route]
  omega

theorem hVl_popSegment (h : BitVec 128) : hVl (popSegment h) = 0 := hVl_put128_vl 0 _

theorem sameMessage_popSegment (h : BitVec 128) : SameMessage (popSegment h) h :=
  (sameMessage_put128_vl 0 _).trans (sameMessage_put128_route _ h)

theorem hRoute_countHop (h : BitVec 128) : hRoute (countHop h) = hRoute h - 1 := by
  have := hRoute_lt h
  rw [countHop, hRoute_put128_route]
  omega

theorem segPort_div (r : Nat) : segPort (r / 4096) 0 = segPort r 1 := by
  simp [segPort]

/-- The last hop of the last segment: the frame is for this chip. -/
theorem Chip.nextHop_deliver (s : Chip) (n : Nat) {h : BitVec 128} (hc : segCount (hRoute h) 0 = 1)
    (hl : hRoute h / 4096 % 4096 = 0) : s.nextHop n h = (popSegment h, none) := by
  simp only [Chip.nextHop, if_pos hc, if_pos hl, popSegment]

/-- The last hop of a segment that another follows: the frame turns to that segment's port. -/
theorem Chip.nextHop_turn (s : Chip) (n : Nat) {h : BitVec 128} (hc : segCount (hRoute h) 0 = 1)
    (hl : hRoute h / 4096 % 4096 ≠ 0) :
    s.nextHop n h = (s.dateVl (segPort (hRoute h) 1) (popSegment h), some (segPort (hRoute h) 1)) := by
  simp only [Chip.nextHop, if_pos hc, if_neg hl, popSegment, segPort_div, Chip.dateVl]

/-- A hop inside a segment: the frame goes through. -/
theorem Chip.nextHop_through (s : Chip) (n : Nat) {h : BitVec 128} (hc : segCount (hRoute h) 0 ≠ 1) :
    s.nextHop n h = (s.dateVl (s.lkThru n) (countHop h), some (s.lkThru n)) := by
  simp only [Chip.nextHop, if_neg hc, countHop, Chip.dateVl]

theorem Chip.sameMessage_nextHop (s : Chip) (n : Nat) (h : BitVec 128) : SameMessage (s.nextHop n h).1 h := by
  by_cases hc : segCount (hRoute h) 0 = 1
  · by_cases hl : hRoute h / 4096 % 4096 = 0
    · rw [s.nextHop_deliver n hc hl]
      exact sameMessage_popSegment h
    · rw [s.nextHop_turn n hc hl]
      exact (s.sameMessage_dateVl _ _).trans (sameMessage_popSegment h)
  · rw [s.nextHop_through n hc]
    exact (s.sameMessage_dateVl _ _).trans (sameMessage_put128_route _ h)

theorem Chip.hRoute_nextHop_of_last (s : Chip) (n : Nat) {h : BitVec 128} (hc : segCount (hRoute h) 0 = 1) :
    hRoute (s.nextHop n h).1 = hRoute h / 4096 := by
  by_cases hl : hRoute h / 4096 % 4096 = 0
  · rw [s.nextHop_deliver n hc hl, hRoute_popSegment]
  · rw [s.nextHop_turn n hc hl, s.hRoute_dateVl, hRoute_popSegment]

/-! ### Valid routes (R407) -/

/-- The numbers that meet `p` are the first ones just where none follows one that does not. -/
theorem filter_range_eq_range_iff (p : Nat → Bool) (n : Nat) :
    (List.range (n + 1)).filter p = List.range ((List.range (n + 1)).filter p).length ↔
      ∀ k, k < n → p k = false → p (k + 1) = false := by
  induction n with
  | zero => cases h : p 0 <;> simp [h]
  | succ n ih =>
    rw [Nat.forall_lt_succ_right, ← ih, List.range_succ (n := n + 1), List.filter_append]
    cases hp : p (n + 1)
    case false => simp [hp]
    case true =>
      have hlen : ((List.range (n + 1)).filter p).length ≤ n + 1 := by
        simpa using List.length_filter_le p (List.range (n + 1))
      have hlast : (p n = false → true = false) ↔ n ∈ (List.range (n + 1)).filter p := by simp
      rw [hlast]
      generalize (List.range (n + 1)).filter p = l at hlen ⊢
      have hsplit : l ++ [n + 1] = List.range (l.length + 1) ↔ l = List.range l.length ∧ n + 1 = l.length := by
        rw [List.range_succ, List.append_singleton_inj]
      simp only [List.filter_cons, hp, if_true, List.filter_nil, List.length_append, List.length_singleton, hsplit]
      refine and_congr_right fun hl => ?_
      rw [hl, List.mem_range, List.length_range]
      omega

/-- A sum over the numbers that meet `p` is the sum over all where the others add 0. -/
theorem sum_map_filter_of_zero {l : List Nat} {p : Nat → Bool} {f : Nat → Nat} (h : ∀ k, p k = false → f k = 0) :
    ((l.filter p).map f).sum = (l.map f).sum := by
  induction l with
  | nil => rfl
  | cons k l ih =>
    cases hk : p k
    case false => simp [hk, ih, h k hk]
    case true => simp [hk, ih]

/-- R407's conditions, segment by segment: a segment not in use counts 0, so the counts of those in use total the four. -/
theorem routeValid_iff (nlp r : Nat) : routeValid nlp r = true ↔
    (∀ k, k < 3 → r / 2 ^ (12 * k) % 4096 = 0 → r / 2 ^ (12 * (k + 1)) % 4096 = 0) ∧
    (∀ k, k < 4 → r / 2 ^ (12 * k) % 4096 ≠ 0 → 1 ≤ segCount r k) ∧
    1 ≤ segCount r 0 + segCount r 1 + segCount r 2 + segCount r 3 ∧ segCount r 0 + segCount r 1 + segCount r 2 + segCount r 3 ≤ 255 ∧
    segPort r 0 < nlp := by
  have hcontig := filter_range_eq_range_iff (fun k => r / 2 ^ (12 * k) % 4096 != 0) 3
  have hsum : ((((List.range 4).filter fun k => r / 2 ^ (12 * k) % 4096 != 0).map (segCount r)).foldl (· + ·) 0) =
      segCount r 0 + segCount r 1 + segCount r 2 + segCount r 3 := by
    rw [← List.sum_eq_foldl, sum_map_filter_of_zero]
    · simp [List.range_succ, Nat.add_assoc]
    · intro k hk
      simp only [bne_eq_false_iff_eq] at hk
      unfold segCount
      omega
  simp only [routeValid, Bool.and_eq_true, beq_iff_eq, hcontig, hsum, decide_eq_true_eq, List.all_eq_true, List.mem_filter,
    List.mem_range, bne_iff_ne, bne_eq_false_iff_eq, and_assoc, and_imp]

/-! ### The source's frame -/

theorem fldN_or {m : Nat} (a b : BitVec m) (lo n : Nat) : fldN (a ||| b) lo n = fldN a lo n ||| fldN b lo n := by
  simp only [fldN, BitVec.extractLsb'_or, BitVec.toNat_or]

theorem fldN_at128_same {lo n : Nat} (v : Nat) (h : lo + n ≤ 128) : fldN (at128 lo v) lo n = v % 2 ^ n := by
  refine fldN_eq_mod fun i hi => ?_
  simp only [getLsbD_at128, show lo + i < 128 by omega, Nat.le_add_right, Nat.add_sub_cancel_left, decide_true, Bool.true_and]

/-- What stands above a field leaves it 0. -/
theorem fldN_at128_above {lo n a : Nat} (v : Nat) (h : lo + n ≤ a) : fldN (at128 a v) lo n = 0 := by
  have hbits : fldN (at128 a v) lo n = 0 % 2 ^ n := by
    refine fldN_eq_mod fun i hi => ?_
    simp [getLsbD_at128, show ¬ a ≤ lo + i by omega]
  rw [hbits, Nat.zero_mod]

theorem hRoute_mkHdr (ty cls part dst src mtag : Nat) {route : Nat} (hr : route < 2 ^ 48) :
    hRoute (mkHdr ty cls part dst src mtag route) = route := by
  have hlow : hRoute (mkHdr ty cls part dst src mtag route) = route % 2 ^ 48 := by
    simp [hRoute, mkHdr, fldN_or, fldN_at128_above, fldN_at128_same]
  rw [hlow, Nat.mod_eq_of_lt hr]

/-- A message's frame leaves by its first port with the message's whole route. -/
theorem Chip.sendFrame_full_route (s : Chip) (m : Msg) (ty : Nat) (bs : List Byte) (hr : m.route < 2 ^ 48)
    (hup : s.portUp (segPort m.route 0) = true) :
    ∃ e : EgFrame, s.sendFrame m ty bs = s.queueFrame (segPort m.route 0) e ∧ hRoute e.f.hdr = m.route ∧ e.msg = some m.id := by
  rw [Chip.sendFrame, if_pos hup]
  exact ⟨_, rfl, hRoute_mkHdr _ _ _ _ _ _ hr, rfl⟩

/-- Settles O57, by the three ends of a hop: the last of a route, a turn, a hop inside a segment. -/
theorem routesForward : Obligations.RoutesForward := by
  refine ⟨fun s n h => ⟨fun hc => ⟨s.hRoute_nextHop_of_last n hc, fun hl => ?_, fun hl => ?_⟩, fun hc => ?_, s.sameMessage_nextHop n h⟩,
    routeValid_iff, Chip.sendFrame_full_route⟩
  · rw [s.nextHop_deliver n hc hl]
    exact ⟨rfl, hVl_popSegment h⟩
  · rw [s.nextHop_turn n hc hl]
    exact ⟨rfl, by rw [s.hVl_dateVl, hVl_popSegment]⟩
  · rw [s.nextHop_through n (by omega)]
    exact ⟨by rw [s.hRoute_dateVl, hRoute_countHop], rfl, by rw [s.hVl_dateVl, countHop, hVl_put128_route]⟩

end Sys2Proof.Machine
end

section
/-! The step, the state after reset and the invariant: every command is a function of the block that keeps its tables
canonical, so every step is one too. -/

namespace Sys2Proof.Machine

/-! ### Every command is a function of the block -/

/-- A command's meaning is a function of the block alone, and that function keeps the invariant. -/
theorem exec_is_run_keeping_ok (b : Build) (i : Instr) :
    ∃ f : Chip → Chip, (∀ s : State, exec i s = s.run f) ∧ ∀ {s : Chip}, s.Ok b → (f s).Ok b := by
  cases i with
  | nop _ => exact ⟨_, fun _ => rfl, fun h => nop_ok _ h⟩
  | halt _ => exact ⟨_, fun _ => rfl, fun h => halt_ok _ h⟩
  | haltDrainDone _ => exact ⟨_, fun _ => rfl, fun h => haltDrainDone_ok _ h⟩
  | yield _ => exact ⟨_, fun _ => rfl, fun h => yield_ok _ h⟩
  | jmp _ => exact ⟨_, fun _ => rfl, fun h => jmp_ok _ h⟩
  | br _ => exact ⟨_, fun _ => rfl, fun h => br_ok _ h⟩
  | call _ => exact ⟨_, fun _ => rfl, fun h => call_ok _ h⟩
  | ret _ => exact ⟨_, fun _ => rfl, fun h => ret_ok _ h⟩
  | loop _ => exact ⟨_, fun _ => rfl, fun h => loop_ok _ h⟩
  | endl _ => exact ⟨_, fun _ => rfl, fun h => endl_ok _ h⟩
  | sli _ => exact ⟨_, fun _ => rfl, fun h => sli_ok _ h⟩
  | slih _ => exact ⟨_, fun _ => rfl, fun h => slih_ok _ h⟩
  | sadd _ => exact ⟨_, fun _ => rfl, fun h => scalarOp_ok _ _ _ h⟩
  | ssub _ => exact ⟨_, fun _ => rfl, fun h => scalarOp_ok _ _ _ h⟩
  | smul _ => exact ⟨_, fun _ => rfl, fun h => scalarOp_ok _ _ _ h⟩
  | sand _ => exact ⟨_, fun _ => rfl, fun h => scalarOp_ok _ _ _ h⟩
  | sor _ => exact ⟨_, fun _ => rfl, fun h => scalarOp_ok _ _ _ h⟩
  | sxor _ => exact ⟨_, fun _ => rfl, fun h => scalarOp_ok _ _ _ h⟩
  | sshl _ => exact ⟨_, fun _ => rfl, fun h => scalarOp_ok _ _ _ h⟩
  | sshr _ => exact ⟨_, fun _ => rfl, fun h => sshr_ok _ h⟩
  | scmp _ => exact ⟨_, fun _ => rfl, fun h => scmp_ok _ h⟩
  | ssel _ => exact ⟨_, fun _ => rfl, fun h => ssel_ok _ h⟩
  | sld _ => exact ⟨_, fun _ => rfl, fun h => sld_ok _ h⟩
  | sst _ => exact ⟨_, fun _ => rfl, fun h => sst_ok _ h⟩
  | ldtd _ => exact ⟨_, fun _ => rfl, fun h => ldtd_ok _ h⟩
  | sttd _ => exact ⟨_, fun _ => rfl, fun h => sttd_ok _ h⟩
  | scalarmemComplete _ _ _ => exact ⟨_, fun _ => rfl, fun h => scalarmemComplete_ok _ _ _ h⟩
  | tdset _ => exact ⟨_, fun _ => rfl, fun h => tdset_ok _ h⟩
  | tdget _ => exact ⟨_, fun _ => rfl, fun h => tdget_ok _ h⟩
  | ksig _ => exact ⟨_, fun _ => rfl, fun h => ksig_ok _ h⟩
  | kwait _ => exact ⟨_, fun _ => rfl, fun h => kwait_ok _ h⟩
  | kwaitTimeout _ => exact ⟨_, fun _ => rfl, fun h => kwaitTimeout_ok _ h⟩
  | kdrain _ => exact ⟨_, fun _ => rfl, fun h => kdrain_ok _ h⟩
  | kdrainDone _ => exact ⟨_, fun _ => rfl, fun h => kdrainDone_ok _ h⟩
  | fence _ => exact ⟨_, fun _ => rfl, fun h => fence_ok _ h⟩
  | fenceDone _ => exact ⟨_, fun _ => rfl, fun h => fenceDone_ok _ h⟩
  | intr _ => exact ⟨_, fun _ => rfl, fun h => intr_ok _ h⟩
  | kread _ => exact ⟨_, fun _ => rfl, fun h => kread_ok _ h⟩
  | move _ => exact ⟨_, fun _ => rfl, fun h => move_ok _ h⟩
  | moveLdrt _ => exact ⟨_, fun _ => rfl, fun h => moveLdrt_ok _ h⟩
  | mset _ => exact ⟨_, fun _ => rfl, fun h => mset_ok _ h⟩
  | msetDataPass _ => exact ⟨_, fun _ => rfl, fun h => msetDataPass_ok _ h⟩
  | fill _ => exact ⟨_, fun _ => rfl, fun h => fill_ok _ h⟩
  | window _ => exact ⟨_, fun _ => rfl, fun h => window_ok _ h⟩
  | gather _ => exact ⟨_, fun _ => rfl, fun h => gather_ok _ h⟩
  | pool _ => exact ⟨_, fun _ => rfl, fun h => pool_ok _ h⟩
  | scatter _ => exact ⟨_, fun _ => rfl, fun h => scatter_ok _ h⟩
  | expand _ => exact ⟨_, fun _ => rfl, fun h => expand_ok _ h⟩
  | pack _ => exact ⟨_, fun _ => rfl, fun h => pack_ok _ h⟩
  | digest _ => exact ⟨_, fun _ => rfl, fun h => digest_ok _ h⟩
  | prefetch _ => exact ⟨_, fun _ => rfl, fun h => prefetch_ok _ h⟩
  | prefetchFillLand _ _ => exact ⟨_, fun _ => rfl, fun h => prefetchFillLand_ok _ _ h⟩
  | send _ => exact ⟨_, fun _ => rfl, fun h => send_ok _ h⟩
  | deleg _ => exact ⟨_, fun _ => rfl, fun h => deleg_ok _ h⟩
  | cinv _ => exact ⟨_, fun _ => rfl, fun h => cinv_ok _ h⟩
  | creditAcquired _ => exact ⟨_, fun _ => rfl, fun h => creditAcquired_ok _ h⟩
  | stageAllWritePass _ => exact ⟨_, fun _ => rfl, fun h => stageAllWritePass_ok _ h⟩
  | courseComplete _ => exact ⟨_, fun _ => rfl, fun h => courseComplete_ok _ h⟩
  | transferRetire _ => exact ⟨_, fun _ => rfl, fun h => transferRetire_ok _ h⟩
  | stopEffect _ => exact ⟨_, fun _ => rfl, fun h => stopEffect_ok _ h⟩
  | ifetchFill _ _ _ => exact ⟨_, fun _ => rfl, fun h => ifetchFill_ok _ _ _ h⟩
  | pageWalkComplete _ _ _ => exact ⟨_, fun _ => rfl, fun h => pageWalkComplete_ok _ _ _ h⟩
  | translationHalt _ => exact ⟨_, fun _ => rfl, fun h => translationHalt_ok _ h⟩
  | rowCacheFill _ => exact ⟨_, fun _ => rfl, fun h => rowCacheFill_ok _ h⟩
  | combineSegment _ => exact ⟨_, fun _ => rfl, fun h => combineSegment_ok _ h⟩
  | rowUpdateEnter _ => exact ⟨_, fun _ => rfl, fun h => rowUpdateEnter_ok _ h⟩
  | rowUpdateExit _ => exact ⟨_, fun _ => rfl, fun h => rowUpdateExit_ok _ h⟩
  | rowUpdateAbandon _ => exact ⟨_, fun _ => rfl, fun h => rowUpdateAbandon_ok _ h⟩
  | tornRowRetry _ => exact ⟨_, fun _ => rfl, fun h => tornRowRetry_ok _ h⟩
  | shadowReexec _ => exact ⟨_, fun _ => rfl, fun h => shadowReexec_ok _ h⟩
  | shadowCompare _ _ => exact ⟨_, fun _ => rfl, fun h => shadowCompare_ok _ _ h⟩
  | shadowTimeout _ => exact ⟨_, fun _ => rfl, fun h => shadowTimeout_ok _ h⟩
  | keystoneUpdate _ => exact ⟨_, fun _ => rfl, fun h => keystoneUpdate_ok _ h⟩
  | keystoneTick _ => exact ⟨_, fun _ => rfl, fun h => keystoneTick_ok _ h⟩
  | moverSwitch _ => exact ⟨_, fun _ => rfl, fun h => switchTo_ok _ h⟩
  | timesliceExpiry _ => exact ⟨_, fun _ => rfl, fun h => sliceEnds_ok _ h⟩
  | starvationPromote _ => exact ⟨_, fun _ => rfl, fun h => starvationPromote_ok _ h⟩
  | issueWindow => exact ⟨_, fun _ => rfl, fun h => issueWindow_ok h⟩
  | quotaWindow => exact ⟨_, fun _ => rfl, fun h => quotaWindow_ok h⟩
  | portGrant _ => exact ⟨_, fun _ => rfl, fun h => portGrant_ok _ h⟩
  | portReadData _ _ => exact ⟨_, fun _ => rfl, fun h => portReadData_ok _ _ h⟩
  | portWriteAck _ _ => exact ⟨_, fun _ => rfl, fun h => portWriteAck_ok _ _ h⟩
  | portCreditReturn _ _ => exact ⟨_, fun _ => rfl, fun h => portCreditReturn_ok _ _ h⟩
  | txnTimeout _ _ => exact ⟨_, fun _ => rfl, fun h => txnTimeout_ok _ _ h⟩
  | tagBarExpiry _ _ => exact ⟨_, fun _ => rfl, fun h => tagBarExpiry_ok _ _ h⟩
  | portHoldWatchdog _ => exact ⟨_, fun _ => rfl, fun h => portHoldWatchdog_ok _ h⟩
  | progressWatchdog _ => exact ⟨_, fun _ => rfl, fun h => progressWatchdog_ok _ h⟩
  | bind _ => exact ⟨_, fun _ => rfl, fun h => bind_ok _ h⟩
  | bindComplete _ => exact ⟨_, fun _ => rfl, fun h => bindComplete_ok _ h⟩
  | unbind _ => exact ⟨_, fun _ => rfl, fun h => unbind_ok _ h⟩
  | unbindComplete _ => exact ⟨_, fun _ => rfl, fun h => unbindComplete_ok _ h⟩
  | start _ => exact ⟨_, fun _ => rfl, fun h => start_ok _ h⟩
  | stop _ => exact ⟨_, fun _ => rfl, fun h => stop_ok _ h⟩
  | resume _ => exact ⟨_, fun _ => rfl, fun h => resume_ok _ h⟩
  | abort _ => exact ⟨_, fun _ => rfl, fun h => abort_ok _ h⟩
  | abortComplete _ => exact ⟨_, fun _ => rfl, fun h => abortComplete_ok _ h⟩
  | clear _ => exact ⟨_, fun _ => rfl, fun h => clear_ok _ h⟩
  | loadregs _ => exact ⟨_, fun _ => rfl, fun h => loadregs_ok _ h⟩
  | saveregs _ => exact ⟨_, fun _ => rfl, fun h => saveregs_ok _ h⟩
  | regimageComplete _ _ _ => exact ⟨_, fun _ => rfl, fun h => regimageComplete_ok _ _ _ h⟩
  | gangForm _ => exact ⟨_, fun _ => rfl, fun h => gangForm_ok _ h⟩
  | partMov _ _ => exact ⟨_, fun _ => rfl, fun h => partMov_ok _ _ h⟩
  | ksPart _ _ => exact ⟨_, fun _ => rfl, fun h => ksPart_ok _ _ h⟩
  | invall _ => exact ⟨_, fun _ => rfl, fun h => invall_ok _ h⟩
  | invasid _ _ => exact ⟨_, fun _ => rfl, fun h => invasid_ok _ _ h⟩
  | ksVal _ _ => exact ⟨_, fun _ => rfl, fun h => ksVal_ok _ _ h⟩
  | ksAdd _ _ => exact ⟨_, fun _ => rfl, fun h => ksAdd_ok _ _ h⟩
  | kwatchCfg _ _ => exact ⟨_, fun _ => rfl, fun h => kwatchCfg_ok _ _ h⟩
  | trInvAll => exact ⟨_, fun _ => rfl, fun h => trInv_ok _ _ _ h⟩
  | trInvPartition _ => exact ⟨_, fun _ => rfl, fun h => trInv_ok _ _ _ h⟩
  | trInvAsid _ _ => exact ⟨_, fun _ => rfl, fun h => trInv_ok _ _ _ h⟩
  | trInvAsidPage _ _ => exact ⟨_, fun _ => rfl, fun h => trInv_ok _ _ _ h⟩
  | trInvGlobalPage _ => exact ⟨_, fun _ => rfl, fun h => trInv_ok _ _ _ h⟩
  | invalidationComplete => exact ⟨_, fun _ => rfl, fun h => invalidationComplete_ok h⟩
  | trqEnable _ _ _ => exact ⟨_, fun _ => rfl, fun h => trqEnable_ok _ _ _ h⟩
  | autofill _ => exact ⟨_, fun _ => rfl, fun h => cmtCtl_ok _ h⟩
  | commit _ => exact ⟨_, fun _ => rfl, fun h => cmtCtl_ok _ h⟩
  | commitComplete => exact ⟨_, fun _ => rfl, fun h => commitComplete_ok h⟩
  | regionConfigWrite _ _ => exact ⟨_, fun _ => rfl, fun h => regionConfigWrite_ok _ _ h⟩
  | fcAck _ => exact ⟨_, fun _ => rfl, fun h => fcAck_ok _ h⟩
  | fcSwrep _ => exact ⟨_, fun _ => rfl, fun h => fcSwrep_ok _ h⟩
  | fcInjArm _ => exact ⟨_, fun _ => rfl, fun h => fcInjArm_ok _ h⟩
  | injectionFire => exact ⟨_, fun _ => rfl, fun h => injectionFire_ok h⟩
  | shdConfigWrite _ _ => exact ⟨_, fun _ => rfl, fun h => shdConfigWrite_ok _ _ h⟩
  | rsqMoverReset _ => exact ⟨_, fun _ => rfl, fun h => rsqMoverReset_ok _ h⟩
  | rsqPartitionReset _ => exact ⟨_, fun _ => rfl, fun h => rsqPartitionReset_ok _ h⟩
  | glbRst _ => exact ⟨_, fun _ => rfl, fun h => glbRst_ok _ h⟩
  | guard _ => exact ⟨_, fun _ => rfl, fun h => guard_ok _ h⟩
  | guardExpiry => exact ⟨_, fun _ => rfl, fun h => guardExpiry_ok h⟩
  | clkGate _ => exact ⟨_, fun _ => rfl, fun h => clkGate_ok _ h⟩
  | icPset _ _ => exact ⟨_, fun _ => rfl, fun h => icPset_ok _ _ h⟩
  | icPclr _ _ => exact ⟨_, fun _ => rfl, fun h => icPclr_ok _ _ h⟩
  | icMset _ _ => exact ⟨_, fun _ => rfl, fun h => icMset_ok _ _ h⟩
  | icMclr _ _ => exact ⟨_, fun _ => rfl, fun h => icMclr_ok _ _ h⟩
  | icEvtcfg _ => exact ⟨_, fun _ => rfl, fun h => icEvtcfg_ok _ h⟩
  | icSrc _ _ => exact ⟨_, fun _ => rfl, fun h => icSrc_ok _ _ h⟩
  | icSst _ _ => exact ⟨_, fun _ => rfl, fun h => icSst_ok _ _ h⟩
  | icEoi _ _ => exact ⟨_, fun _ => rfl, fun h => icEoi_ok _ _ h⟩
  | icTcfg _ _ => exact ⟨_, fun _ => rfl, fun h => icTcfg_ok _ _ h⟩
  | vectorPresent _ _ => exact ⟨_, fun _ => rfl, fun h => vectorPresent_ok _ _ h⟩
  | vectorClaim _ => exact ⟨_, fun _ => rfl, fun h => vectorClaim_ok _ h⟩
  | vpackTimeout _ => exact ⟨_, fun _ => rfl, fun h => vpackTimeout_ok _ h⟩
  | evtEdge _ _ => exact ⟨_, fun _ => rfl, fun h => evtEdge_ok _ _ h⟩
  | evtLevelRise _ => exact ⟨_, fun _ => rfl, fun h => evtLevelRise_ok _ h⟩
  | evtLevelFall _ => exact ⟨_, fun _ => rfl, fun h => evtLevelFall_ok _ h⟩
  | stormWindow _ => exact ⟨_, fun _ => rfl, fun h => stormWindow_ok _ h⟩
  | lkCfg _ => exact ⟨_, fun _ => rfl, fun h => lkCfg_ok _ h⟩
  | lkPctl _ _ => exact ⟨_, fun _ => rfl, fun h => lkPctl_ok _ _ h⟩
  | rtEntryWrite _ _ _ _ => exact ⟨_, fun _ => rfl, fun h => rtEntryWrite_ok _ _ _ _ h⟩
  | lwWrite _ _ _ => exact ⟨_, fun _ => rfl, fun h => lwWrite_ok _ _ _ h⟩
  | govConfigWrite _ _ => exact ⟨_, fun _ => rfl, fun h => govConfigWrite_ok _ _ h⟩
  | rcEmbcfg _ => exact ⟨_, fun _ => rfl, fun h => rcEmbcfg_ok _ h⟩
  | snsUseroff _ _ => exact ⟨_, fun _ => rfl, fun h => snsUseroff_ok _ _ h⟩
  | snsThreshold _ _ => exact ⟨_, fun _ => rfl, fun h => snsThreshold_ok _ _ h⟩
  | trcCfg _ => exact ⟨_, fun _ => rfl, fun h => trcCfg_ok _ h⟩
  | rsqTmo _ => exact ⟨_, fun _ => rfl, fun h => rsqTmo_ok _ h⟩
  | rsqDump _ => exact ⟨_, fun _ => rfl, fun h => rsqDump_ok _ h⟩
  | tapNetaccWrite _ _ => exact ⟨_, fun _ => rfl, fun h => tapNetaccWrite_ok _ _ _ h⟩
  | registerWrite _ _ _ => exact ⟨_, fun _ => rfl, fun h => registerWrite_ok _ _ _ h⟩
  | porstAssert => exact ⟨_, fun _ => rfl, fun h => porstAssert_ok h⟩
  | porstRelease _ _ _ => exact ⟨_, fun _ => rfl, fun h => porstRelease_ok _ _ _ h⟩
  | selfTestDone _ => exact ⟨_, fun _ => rfl, fun h => selfTestDone_ok _ h⟩
  | fuseWordAck _ => exact ⟨_, fun _ => rfl, fun h => fuseWordAck_ok _ h⟩
  | fuseTimeout => exact ⟨_, fun _ => rfl, fun h => fuseTimeout_ok h⟩
  | clockStart => exact ⟨_, fun _ => rfl, fun h => clockStart_ok h⟩
  | marchTestDone _ _ _ => exact ⟨_, fun _ => rfl, fun h => marchTestDone_ok _ _ _ h⟩
  | readyPhaseDone => exact ⟨_, fun _ => rfl, fun h => readyPhaseDone_ok h⟩
  | hrst => exact ⟨_, fun _ => rfl, fun h => hrst_ok h⟩
  | rclkOkLoss => exact ⟨_, fun _ => rfl, fun h => rclkOkLoss_ok h⟩
  | clockMonitorWindow _ => exact ⟨_, fun _ => rfl, fun h => clockMonitorWindow_ok _ h⟩
  | presenceChange _ => exact ⟨_, fun _ => rfl, fun h => presenceChange_ok _ h⟩
  | aliveToggle => exact ⟨_, fun _ => rfl, fun h => aliveToggle_ok h⟩
  | sensorConversion _ _ => exact ⟨_, fun _ => rfl, fun h => sensorConversion_ok _ _ h⟩
  | sensorStale _ => exact ⟨_, fun _ => rfl, fun h => sensorStale_ok _ h⟩
  | scrubRead _ _ => exact ⟨_, fun _ => rfl, fun h => scrubRead_ok _ _ _ _ _ h⟩
  | reportAccept _ => exact ⟨_, fun _ => rfl, fun h => reportAccept_ok _ h⟩
  | lockstepDisagree => exact ⟨_, fun _ => rfl, fun h => lockstepDisagree_ok h⟩
  | rsqWatchdog => exact ⟨_, fun _ => rfl, fun h => rsqWatchdog_ok h⟩
  | rungStart => exact ⟨_, fun _ => rfl, fun h => rungStart_ok h⟩
  | rungDeadline _ => exact ⟨_, fun _ => rfl, fun h => rungDeadline_ok _ h⟩
  | moverResetDone _ _ => exact ⟨_, fun _ => rfl, fun h => moverResetDone_ok _ _ h⟩
  | dumpEnd _ _ => exact ⟨_, fun _ => rfl, fun h => dumpEnd_ok _ _ h⟩
  | dumpAckTimeout _ => exact ⟨_, fun _ => rfl, fun h => dumpAckTimeout_ok _ h⟩
  | partitionResetDone _ _ => exact ⟨_, fun _ => rfl, fun h => partitionResetDone_ok _ _ h⟩
  | blockResetDone _ => exact ⟨_, fun _ => rfl, fun h => blockResetDone_ok _ h⟩
  | pcsLock _ _ => exact ⟨_, fun _ => rfl, fun h => pcsLock_ok _ _ h⟩
  | trainProposeTimer _ => exact ⟨_, fun _ => rfl, fun h => trainProposeTimer_ok _ h⟩
  | train _ _ => exact ⟨_, fun _ => rfl, fun h => train_ok _ _ h⟩
  | trainTimeout _ => exact ⟨_, fun _ => rfl, fun h => trainTimeout_ok _ h⟩
  | trainRetry _ => exact ⟨_, fun _ => rfl, fun h => trainRetry_ok _ h⟩
  | linkctlCredit _ _ => exact ⟨_, fun _ => rfl, fun h => linkctlCredit_ok _ _ h⟩
  | nack _ _ => exact ⟨_, fun _ => rfl, fun h => nack_ok _ _ h⟩
  | replayTimer _ => exact ⟨_, fun _ => rfl, fun h => replayTimer_ok _ h⟩
  | creditTimer _ => exact ⟨_, fun _ => rfl, fun h => creditTimer_ok _ h⟩
  | keepaliveTimer _ => exact ⟨_, fun _ => rfl, fun h => keepaliveTimer_ok _ h⟩
  | linkSilence _ => exact ⟨_, fun _ => rfl, fun h => linkSilence_ok _ h⟩
  | laneLockLoss _ _ => exact ⟨_, fun _ => rfl, fun h => laneLockLoss_ok _ _ h⟩
  | pcsError _ => exact ⟨_, fun _ => rfl, fun h => pcsError_ok _ h⟩
  | rxFifoOverflow _ => exact ⟨_, fun _ => rfl, fun h => rxFifoOverflow_ok _ h⟩
  | frameForward _ _ => exact ⟨_, fun _ => rfl, fun h => frameForward_ok _ _ h⟩
  | shead _ => exact ⟨_, fun _ => rfl, fun h => shead_ok _ h⟩
  | sdata _ => exact ⟨_, fun _ => rfl, fun h => sdata_ok _ h⟩
  | landingBurst _ => exact ⟨_, fun _ => rfl, fun h => landingBurst_ok _ h⟩
  | dhead _ => exact ⟨_, fun _ => rfl, fun h => dhead_ok _ h⟩
  | ddata _ => exact ⟨_, fun _ => rfl, fun h => ddata_ok _ h⟩
  | guestDispatch _ => exact ⟨_, fun _ => rfl, fun h => guestDispatch_ok _ h⟩
  | cmpl _ => exact ⟨_, fun _ => rfl, fun h => cmpl_ok _ h⟩
  | delegCredit _ => exact ⟨_, fun _ => rfl, fun h => delegCredit_ok _ h⟩
  | gone _ => exact ⟨_, fun _ => rfl, fun h => gone_ok _ h⟩
  | forwardWatchdog _ _ => exact ⟨_, fun _ => rfl, fun h => forwardWatchdog_ok _ _ h⟩
  | completionTimeout _ => exact ⟨_, fun _ => rfl, fun h => completionTimeout_ok _ h⟩
  | mtagBarExpiry _ => exact ⟨_, fun _ => rfl, fun h => mtagBarExpiry_ok _ h⟩
  | unitResetDone _ _ _ => exact ⟨_, fun _ => rfl, fun h => unitResetDone_ok _ _ _ h⟩
  | hrstRelease => exact ⟨_, fun _ => rfl, fun h => hrstRelease_ok h⟩
  | refclkLoss => exact ⟨_, fun _ => rfl, fun h => refclkLoss_ok h⟩
  | brokenWire _ _ _ _ => exact ⟨_, fun _ => rfl, fun h => brokenWire_ok _ _ _ _ _ h⟩

/-- A command answers the next state, in which the queue is as before and the block keeps the invariant. -/
theorem exec_keeps_ok {b : Build} {i : Instr} {s t : State} (h : s.chip.Ok b) (he : exec i s = .next t) : t.chip.Ok b := by
  obtain ⟨f, hrun, hok⟩ := exec_is_run_keeping_ok b i
  rw [hrun] at he
  cases he
  exact hok h

/-! ### The statements -/

/-- Settles O1: both halves are the two cases of the queue. -/
theorem stepRunsFront : Obligations.StepRunsFront :=
  ⟨fun _ _ _ => rfl, fun _ => rfl⟩

/-- Settles O2: a command's meaning is a function of the block, and the queue stands beside it. -/
theorem everyCommandCompletes : Obligations.EveryCommandCompletes := by
  intro i s
  obtain ⟨f, hrun, _⟩ := exec_is_run_keeping_ok s.chip.build i
  exact ⟨f s.chip, hrun s⟩

/-- Settles O3: every table of the reset state is empty, so each entry reads as its default. -/
theorem resetState : Obligations.ResetState :=
  ⟨rfl, rfl, rfl, fun _ => rfl, fun _ => ⟨rfl, rfl⟩, rfl, rfl, rfl, fun _ => rfl, fun _ => rfl, rfl⟩

/-- Settles O4: an empty table is canonical. -/
theorem resetMeetsInvariant : Obligations.ResetMeetsInvariant :=
  ⟨rfl, rfl, rfl, rfl, rfl⟩

/-- Settles O5: the front command keeps the invariant, and an empty queue changes nothing. -/
theorem stepKeepsInvariant : Obligations.StepKeepsInvariant := by
  intro b s t h hstep
  obtain ⟨chip, pending⟩ := s
  cases pending with
  | nil =>
    cases hstep
    exact h
  | cons i rest => exact exec_keeps_ok (s := ⟨chip, rest⟩) h hstep

end Sys2Proof.Machine
end

section
/-! Bits of words: what a mask, a placed number, a field and a merged word hold at each bit. -/

namespace Sys2Proof

theorem getLsbD_maskBits (lo n i : Nat) : (maskBits lo n).getLsbD i = decide (i < 64 ∧ lo ≤ i ∧ i < lo + n) := by
  rw [maskBits, BitVec.getLsbD_ofNat, Nat.testBit_mul_two_pow, Nat.testBit_two_pow_sub_one, ← Bool.decide_and, ← Bool.decide_and,
    decide_eq_decide]
  omega

theorem getLsbD_at64 (lo v i : Nat) : (at64 lo v).getLsbD i = (decide (i < 64) && (decide (lo ≤ i) && v.testBit (i - lo))) := by
  rw [at64, BitVec.getLsbD_ofNat, Nat.testBit_mul_two_pow]

theorem getLsbD_mergeMask {n : Nat} (mask old new : BitVec n) (i : Nat) :
    (mergeMask mask old new).getLsbD i = if mask.getLsbD i then new.getLsbD i else old.getLsbD i := by
  simp only [mergeMask, BitVec.getLsbD_or, BitVec.getLsbD_and, BitVec.getLsbD_not]
  cases hm : mask.getLsbD i
  case true => simp
  case false =>
    have hge : n ≤ i → old.getLsbD i = false := BitVec.getLsbD_of_ge old i
    by_cases hi : i < n
    · simp [hi]
    · simp [hge (Nat.not_lt.mp hi)]

theorem getLsbD_fld {m : Nat} (w : BitVec m) (lo n i : Nat) : (fld w lo n).getLsbD i = (decide (i < n) && w.getLsbD (lo + i)) :=
  BitVec.getLsbD_extractLsb' ..

theorem getLsbD_setBit {n : Nat} (w : BitVec n) (k : Nat) (b : Bool) (i : Nat) :
    (setBit w k b).getLsbD i = if i = k then decide (i < n) && b else w.getLsbD i := by
  have hone : (BitVec.ofNat n (2 ^ k)).getLsbD i = (decide (i < n) && decide (k = i)) := by
    rw [BitVec.getLsbD_ofNat, Nat.testBit_two_pow]
  have hge : n ≤ i → w.getLsbD i = false := BitVec.getLsbD_of_ge w i
  have hbits : (setBit w k b).getLsbD i =
      if b then w.getLsbD i || (decide (i < n) && decide (k = i))
      else w.getLsbD i && (decide (i < n) && !(decide (i < n) && decide (k = i))) := by
    rw [setBit]
    split
    · rw [BitVec.getLsbD_or, hone]
    · rw [BitVec.getLsbD_and, BitVec.getLsbD_not, hone]
  grind

end Sys2Proof
end

section
/-! Instructions that change registers (chapter 4): decode faults, the frame of an instruction that retires, scalar results,
descriptor fields, and leaving READY for BOUND. -/

namespace Sys2Proof.Machine

/-! ### Faults of R133 -/

theorem Chip.issue_illop {c : Nat} {sel enc : Word → Bool} {ctr : Word → Option Nat} {body : Word → Chip → Chip} {s : Chip} {w : Word}
    (hc : s.canIssue c = true) (hf : s.fetched c = some w) (ha : opcAssigned (wOpc w) = false) :
    Chip.issue c sel enc ctr body s = (s.taken c w).ownFault c Src.illop := by
  simp [Chip.issue, Chip.taken, hc, hf, ha]

theorem Chip.issue_xpart {c : Nat} {sel enc : Word → Bool} {ctr : Word → Option Nat} {body : Word → Chip → Chip} {s : Chip} {w : Word}
    (hi : s.issues c w) (ha : opcAssigned (wOpc w) = true) (hs : sel w = true) (he : enc w = true) {k : Nat}
    (hk : ctr w = some k) (hp : s.ksPart k ≠ s.ctxPart c) :
    Chip.issue c sel enc ctr body s = (s.taken c w).ownFault c Src.xpart := by
  obtain ⟨hc, hf, hg⟩ := hi
  simp [Chip.issue, Chip.taken, hc, hf, ha, hs, he, hg, hk, hp]

/-- Settles O6: every row is an issue, and each of its checks that fails ends in that check's fault. -/
theorem decodeFaults : Obligations.DecodeFaults := by
  intro s i r w hr hc hf stop
  obtain ⟨body, hbody⟩ := issue_row_cases i r hr
  refine ⟨fun ha => ?_, fun hs he => ?_, fun hs he hg hk => ?_⟩
  · rw [hbody, Chip.issue_illop hc hf ha]
  · rw [hbody, Chip.issue_encoding hc hf (issue_row_assigned i r hr w hs) hs he]
  · obtain ⟨k, hk, hp⟩ := hk
    rw [hbody, Chip.issue_xpart ⟨hc, hf, hg⟩ (issue_row_assigned i r hr w hs) hs he hk hp]

/-! ### The frame of an instruction that retires -/

theorem Chip.retires_eq (s : Chip) (c : Nat) (w : Word) (f : Ctx → Ctx) (ip : Nat) :
    ∃ t, s.Fetched t ∧ s.retires c w f ip = { t with ctx := (s.retires c w f ip).ctx } := by
  obtain ⟨t, ht, hw⟩ := s.taken_eq c w
  exact ⟨t, ht, by rw [Chip.retires, hw, Chip.updCtx]⟩

theorem Chip.retires_ctxAt_self (s : Chip) (c : Nat) (w : Word) (f : Ctx → Ctx) (ip : Nat) :
    (s.retires c w f ip).ctxAt c = (f { s.ctxAt c with iword := some w }).retiredTo s.time ip := by
  simp [Chip.retires]

theorem Chip.retires_ctxAt_ne (s : Chip) {c d : Nat} (w : Word) (f : Ctx → Ctx) (ip : Nat) (hd : d ≠ c) :
    (s.retires c w f ip).ctxAt d = s.ctxAt d := by
  obtain ⟨t, _, hw⟩ := s.taken_eq c w
  rw [Chip.retires, Chip.ctxAt_updCtx, if_neg hd, hw, Chip.ctxAt, Tab.get_upd, if_neg hd, Chip.ctxAt]

/-- Settles O9: taking the word is fetching, and retiring writes the context alone. -/
theorem retireFrame : Obligations.RetireFrame := by
  intro s c w f ip t
  obtain ⟨u, ⟨hu, hreg, l, hq, hl⟩, ht⟩ := s.retires_eq c w f ip
  have hmem : t.mem = s.mem := by rw [show t = _ from ht, hu]
  have hks : t.ks = s.ks := by rw [show t = _ from ht, hu]
  have hports : t.ports = { s.ports with queue := s.ports.queue ++ l } := by rw [show t = _ from ht, ← hq, hu]
  have hregs : ∀ off, t.reg off = u.reg off := fun off => by rw [show t = _ from ht]; rfl
  refine ⟨fun d hd => s.retires_ctxAt_ne w f ip hd, fun loc => by rw [Chip.memByte, hmem, Chip.memByte],
    fun k => by rw [Chip.ksAt, hks, Chip.ksAt], ?_, fun off h1 h2 => (hregs off).trans (hreg off h1 h2), ?_, ?_, ?_, ?_, ?_, ?_, ?_, ?_, ?_,
    ?_, ?_, ?_, ?_, ⟨l, hports, hl⟩, _, s.retires_ctxAt_self c w f ip, rfl⟩ <;> rw [show t = _ from ht, hu]

/-! ### Results of scalar instructions (R141) -/

@[simp] theorem Ctx.zr_iword (x : Ctx) (i : Option Word) (n : Nat) : ({ x with iword := i } : Ctx).zr n = x.zr n := rfl

@[simp] theorem Ctx.td_iword (x : Ctx) (i : Option Word) (n k : Nat) : ({ x with iword := i } : Ctx).td n k = x.td n k := rfl

/-- An instruction of format S that changes registers of its context and retires. -/
theorem exec_retireWith {s : State} {i : Instr} {c o : Nat} {enc : Word → Bool} {w : Word} {f : Word → Ctx → Ctx} {g : Ctx → Ctx}
    (h : s.chip.issuesAs i c w) (hr : issueRow i = some ⟨c, isOp o, enc, noCtr⟩)
    (hrun : exec i s = s.run (Chip.issueS c o enc fun w t => t.retireWith c (f w)))
    (hip : (g { s.chip.ctxAt c with iword := some w }).ip = (s.chip.ctxAt c).ip)
    (hf : f w { s.chip.ctxAt c with iword := some w } = g { s.chip.ctxAt c with iword := some w }) :
    exec i s = .next (s.to (s.chip.retires c w g (s.chip.nextOf c))) := by
  rw [hrun, State.run, Chip.issueS, Chip.issue_as h hr, Chip.retireWith_taken _ _ _ _ (by rw [hf, hip]), Chip.retires_congr hf]
  rfl

/-- An instruction of format S whose one result goes to SD. -/
theorem exec_setsSD {s : State} {i : Instr} {c o : Nat} {enc : Word → Bool} {w v : Word} {f : Word → Ctx → Word}
    (h : s.chip.issuesAs i c w) (hr : issueRow i = some ⟨c, isOp o, enc, noCtr⟩)
    (hrun : exec i s = s.run (Chip.issueS c o enc fun w t => t.retireWith c (fun x => x.setS (wSD w) (f w x))))
    (hf : f w { s.chip.ctxAt c with iword := some w } = v) :
    exec i s = .next (s.to (s.chip.setsSD c w v)) :=
  exec_retireWith (f := fun w x => x.setS (wSD w) (f w x)) h hr hrun rfl (by rw [hf])

/-- SD := f(S[SA], B). -/
theorem exec_scalarOp {s : State} {i : Instr} {c o : Nat} {w v : Word} {f : Word → Word → Word}
    (h : s.chip.issuesAs i c w) (hr : issueRow i = some ⟨c, isOp o, encS maskABD, noCtr⟩)
    (hrun : exec i s = s.run (scalarOp c o f)) (hf : f (s.chip.opA c w) (s.chip.opB c w) = v) :
    exec i s = .next (s.to (s.chip.setsSD c w v)) :=
  exec_setsSD (f := fun w x => f (x.sr (wSA w)) (x.opB w)) h hr hrun hf

theorem shamt_eq_mod (b : Word) : shamt b = b.toNat % 64 := fldN_zero_eq_mod b 6

/-- The upper half of a word written by SLIH, the lower half kept. -/
theorem merge_upper_half (w old : Word) :
    mergeMask (maskBits 32 32) old (at64 32 (wImm w)) = (fld w 0 32 ++ fld old 0 32 : Word) := by
  refine BitVec.eq_of_getLsbD_eq fun i hi => ?_
  rw [getLsbD_mergeMask, getLsbD_maskBits, BitVec.getLsbD_append, getLsbD_at64, getLsbD_fld, getLsbD_fld, wImm, testBit_fldN]
  by_cases h : 32 ≤ i
  · have hlow : ¬ i < 32 := by omega
    have hup : i - 32 < 32 := by omega
    simp [hi, h, hlow, hup]
  · simp [h, Nat.not_le.mp h]

/-- Settles O13, an equation for each result. -/
theorem scalarResults : Obligations.ScalarResults := by
  intro s c w a b gives
  refine ⟨rfl, fun h => ?_, fun h => ?_, fun h => ?_, fun h => ?_, fun h => ?_, fun h => ?_, fun h => ?_, fun h => ?_, fun h => ?_,
    fun h => ?_, fun h => ?_⟩
  · exact exec_setsSD h rfl (f := fun w _ => sext32 (wImm w)) rfl rfl
  · exact exec_setsSD h rfl (f := fun w x => mergeMask (maskBits 32 32) (x.sr (wSD w)) (at64 32 (wImm w))) rfl (merge_upper_half w _)
  · exact exec_scalarOp h rfl rfl rfl
  · exact exec_scalarOp h rfl rfl rfl
  · exact exec_scalarOp h rfl rfl rfl
  · exact exec_scalarOp h rfl rfl rfl
  · exact exec_scalarOp h rfl rfl rfl
  · exact exec_scalarOp h rfl rfl rfl
  · exact exec_scalarOp h rfl rfl (by rw [shamt_eq_mod])
  · exact exec_setsSD h rfl (f := fun w x =>
      if bitB w 38 then (x.sr (wSA w)).sshiftRight (shamt (x.opB w)) else x.sr (wSA w) >>> shamt (x.opB w)) rfl (by simp only [shamt_eq_mod]; rfl)
  · exact exec_setsSD h rfl (f := fun w x => if bitB x.p (wPD w) then x.sr (wSA w) else x.opB w) rfl rfl

/-! ### Descriptor fields (R146, R147, R165) -/

theorem fldN_eq_div_mod {m : Nat} (w : BitVec m) (lo n : Nat) : fldN w lo n = w.toNat / 2 ^ lo % 2 ^ n := by
  rw [fldN, BitVec.extractLsb'_toNat, Nat.shiftRight_eq_div_pow]

/-- KREAD copies a counter to S[SA]. -/
theorem exec_kread {s : State} {c : Nat} {w : Word} (h : s.chip.issuesAs (.kread c) c w) :
    exec (.kread c) s = .next (s.to (s.chip.retires c w (Ctx.setS (wSAy w) ((s.chip.ksAt (wK w)).setWidth 64)) (s.chip.nextOf c))) := by
  show Host.Outcome.next (s.to (kread c s.chip)) = _
  rw [kread, Chip.issue_as h rfl, Chip.retireWith_taken _ _ _ _ rfl, Chip.taken_ksAt, BitVec.ofNat_toNat]
  rfl

/-- Settles O15: TDSET and TDGET are instructions of format S, KREAD one of format Y. -/
theorem descriptorFields : Obligations.DescriptorFields := by
  intro s c w x width lsb k
  refine ⟨fun h => ?_, fun h => ?_, exec_kread⟩
  · exact exec_retireWith (f := fun w x => x.setTd (wSD w) (selWord w)
      (mergeMask (maskBits (selLsb w) (selWidth w)) (x.td (wSD w) (selWord w)) (x.sr (wSA w) <<< selLsb w))) h rfl rfl rfl rfl
  · exact exec_setsSD (f := fun w x =>
      let v := fldN (x.td (wSA w) (selWord w)) (selLsb w) (selWidth w)
      if bitB w 23 then BitVec.ofInt 64 (sextN (selWidth w) v) else BitVec.ofNat 64 v) h rfl rfl
      (by simp only [fldN_eq_div_mod (Ctx.td _ _ _)]; rfl)

/-! ### HALT, YIELD and STOP (R48, R136, R140) -/

@[simp] theorem Chip.taken_drained (s : Chip) (c : Nat) (w : Word) : (s.taken c w).drained c = s.drained c := by
  simp [Chip.drained]

theorem Chip.drained_iff (s : Chip) (c : Nat) : s.drained c = true ↔ (s.ctxAt c).detached = [] := List.isEmpty_iff

/-- HALT with no detached work retires, and the context is BOUND. -/
theorem Chip.haltRetire_taken (s : Chip) (c : Nat) (w : Word) :
    (s.taken c w).haltRetire c = (s.retires c w (fun x => { x with faddr := x.ip }) (s.nextOf c)).toBound c 1 := by
  rw [Chip.haltRetire, ← Chip.retireWith, Chip.retireWith_taken _ _ _ _ rfl]
  rfl

/-- The two ends of HALT: BOUND, or the wait for detached work. -/
theorem exec_halt {s : State} {c : Nat} {w : Word} (h : s.chip.issuesAs (.halt c) c w) :
    exec (.halt c) s = .next (s.to (
      if s.chip.drained c then (s.chip.retires c w (fun x => { x with faddr := x.ip }) (s.chip.nextOf c)).toBound c 1
      else ((s.chip.taken c w).updCtx c (fun x => { x with halting := true })).waitFor c .kdrain)) := by
  show Host.Outcome.next (s.to (halt c s.chip)) = _
  rw [halt, Chip.issueS, Chip.issue_as h rfl, Chip.taken_drained, Chip.haltRetire_taken]

/-- Whatever retires the instruction that stands at the context's IP. -/
theorem Chip.retireNext_updCtx (s : Chip) (c : Nat) (f : Ctx → Ctx) (h : (f (s.ctxAt c)).ip = (s.ctxAt c).ip) :
    (s.updCtx c f).retireNext c = (s.updCtx c f).retireTo c (s.nextOf c) := by
  rw [Chip.retireNext, Chip.ctxAt_updCtx_self, h, Chip.nextOf]

theorem exec_yield {s : State} {c : Nat} {w : Word} (h : s.chip.issuesAs (.yield c) c w) :
    exec (.yield c) s = .next (s.to ((s.chip.retires c w id (s.chip.nextOf c)).passOn (s.chip.slotMover c))) := by
  show Host.Outcome.next (s.to (yield c s.chip)) = _
  rw [yield, Chip.issueS, Chip.issue_as h rfl, Chip.retireNext_taken, Chip.slotMover, Chip.taken_ctxAt]
  rfl

/-- Settles O12: the branch of HALT by its detached work, and the conditions of the other three met. -/
theorem haltYieldStop : Obligations.HaltYieldStop := by
  intro s c
  refine ⟨fun w h hd => ?_, fun w h hd => ?_, fun hst hw hh hd he => ?_, fun w h => exec_yield h, fun hr hst he hx hh => ?_⟩
  · rw [exec_halt h, if_pos ((s.chip.drained_iff c).mpr hd)]
  · rw [exec_halt h, if_neg (hd ∘ (s.chip.drained_iff c).mp)]
  · show Host.Outcome.next (s.to (haltDrainDone c s.chip)) = _
    have hdone : s.chip.drained c = true := (s.chip.drained_iff c).mpr hd
    simp only [haltDrainDone, hst, hw, hh, hdone, he, Bool.false_eq_true, not_false_eq_true, and_self, if_true]
    rw [Chip.haltRetire, Chip.retireNext_updCtx _ _ _ rfl]
  · show Host.Outcome.next (s.to (stopEffect c s.chip)) = _
    have hnone : (if (s.chip.ctxAt c).wait = some .credit then none else (s.chip.ctxAt c).xfer) = none := by rw [hx, ite_self]
    simp only [stopEffect, hr, hst, he, hx, hh, Option.isNone_none, Bool.false_eq_true, not_false_eq_true, and_self, if_true]
    have hsame : s.chip.updCtx c (fun x => { x with xfer := if x.wait = some .credit then none else x.xfer }) =
        s.chip.updCtx c (fun x => { x with xfer := none }) :=
      Chip.updCtx_congr (by simp only [hnone])
    rw [Chip.stopNow, hsame]

end Sys2Proof.Machine
end

section
/-! Scalar accesses to memory (R143–R145), synchronisation (R150, R158–R164) and FENCE (R163). -/

namespace Sys2Proof.Machine

/-! ### SLD, SST, LDTD and STTD at issue -/

theorem ScalarOp.writes_eq (o : ScalarOp) : o.writes = (o == .sst || o == .sttd) := by
  cases o <;> rfl

theorem ScalarRow.acc_at (r : ScalarRow) (va : Nat) :
    (r.at va).acc = if r.op = .sst ∨ r.op = .sttd then .write else .read := by
  rw [ScalarAcc.acc, ScalarRow.at, ScalarOp.writes_eq]
  simp

/-- The row's command is an access of its kind, size and register. -/
theorem exec_scalarMem {s : State} {i : Instr} {w : Word} {r : ScalarRow} (hr : scalarRow i w = some r) (h : s.chip.issuesAs i r.ctx w) :
    exec i s = .next (s.to ((s.chip.taken r.ctx w).scalarMem r.ctx r.op r.size r.reg r.sext w)) := by
  cases i <;> cases hr
  case sld c =>
    show Host.Outcome.next (s.to (sld c s.chip)) = _
    rw [sld, Chip.issueS, Chip.issue_as h rfl]
    rfl
  case sst c =>
    show Host.Outcome.next (s.to (sst c s.chip)) = _
    rw [sst, Chip.issueS, Chip.issue_as h rfl]
    rfl
  case ldtd c =>
    show Host.Outcome.next (s.to (ldtd c s.chip)) = _
    rw [ldtd, Chip.issueS, Chip.issue_as h rfl]
  case sttd c =>
    show Host.Outcome.next (s.to (sttd c s.chip)) = _
    rw [sttd, Chip.issueS, Chip.issue_as h rfl]

/-- A translated access: its share is used, and a load whose bytes are all in a dirty sector of the row cache is answered
at once (R144). -/
theorem Chip.scalarGo_of_ok {t : Chip} {c pa : Nat} {a : ScalarAcc} {p : Place} {l : Leaf} (hl : t.look c a.acc a.va = .ok pa p l)
    (htn : t.tnWaits p = false) :
    let u := (((t.lookTouch c a.va).useShare c a.op.writes).updCtx c (fun x => { x with acc := some { a with pa := pa } })).waitFor c .scalarmem
    let q := u.scalarReq c a p l
    t.scalarGo c a =
      if (!a.op.writes && byteMask (p.loc % 256) a.size &&& ~~~((u.lineAt q.loc).serves true) == 0) = true then
        { u with uid := u.uid + 1, ports := { u.ports with fills := u.ports.fills ++
          [{ r := { q with id := u.uid }, tag := 0, data := (u.lineAt q.loc).data, ok := sectorsOf q.mask, rsp := .ok }] } }
      else u.enq q := by
  intro u q
  simp only [Chip.scalarGo, hl, htn, Bool.false_eq_true, if_false]
  rfl

theorem effAddr_taken (s : Chip) (c : Nat) (w : Word) :
    effAddr ((s.taken c w).ctxAt c) w = (s.opA c w).toInt + (s.opB c w).toInt := by
  rw [Chip.taken_ctxAt]
  rfl

/-- The checks of an access in their order, at an effective address inside the address space. -/
theorem Chip.scalarMem_of_addr {t : Chip} {c reg size va : Nat} {op : ScalarOp} {sext : Bool} {w : Word}
    (hea : effAddr (t.ctxAt c) w = va) (hva : va < 2 ^ 52) :
    t.scalarMem c op size reg sext w =
      if va % size ≠ 0 then t.ownFault c Src.align
      else if t.shareFree c op.writes = false then t
      else t.scalarGo c { op := op, va := va, pa := 0, size := size, reg := reg, sext := sext } := by
  have hin : ¬ ((va : Int) < 0 ∨ (2 ^ 52 : Int) ≤ va) := by omega
  simp only [Chip.scalarMem, hea, if_neg hin, Int.toNat_natCast]

/-- Settles O16: the checks of R143 in their order, then the three answers of the translation. -/
theorem scalarAccessIssues : Obligations.ScalarAccessIssues := by
  intro s i w r hr h t ea acc share
  have hexec := exec_scalarMem hr h
  have hea : effAddr (t.ctxAt r.ctx) w = ea := effAddr_taken s.chip r.ctx w
  have hshare : r.op.writes = share := r.op.writes_eq
  refine ⟨fun hout => ?_, fun va hva hlt => ?_⟩
  · rw [hexec, Chip.scalarMem, hea, if_pos hout]
  rw [hva] at hea
  rw [Chip.scalarMem_of_addr hea hlt] at hexec
  refine ⟨fun hal => ?_, fun hal hsh => ?_, fun hal hsh => ?_⟩
  · rw [hexec, if_pos hal]
  · rw [hexec, if_neg (not_not.mpr hal), if_pos (hshare ▸ hsh)]
  have hacc : (r.at va).acc = acc := r.acc_at va
  have hgo : exec i s = .next (s.to (t.scalarGo r.ctx (r.at va))) := by
    rw [hexec, if_neg (not_not.mpr hal), hshare, if_neg (by simp [hsh])]
    rfl
  refine ⟨fun pa p l hl htn => ?_, fun hl => ?_, fun code level hl => ?_⟩
  · intro u q held
    have hlook : t.look r.ctx (r.at va).acc (r.at va).va = .ok pa p l := by rw [hacc]; exact hl
    have hok := Chip.scalarGo_of_ok hlook htn
    rw [show (r.at va).op.writes = share from hshare] at hok
    rw [hgo, hok]
    exact ⟨fun hh => congrArg (fun v => Host.Outcome.next (s.to v)) (if_neg (Bool.eq_false_iff.mp hh)),
      fun hh => congrArg (fun v => Host.Outcome.next (s.to v)) (if_pos hh)⟩
  · have hlook : t.look r.ctx (r.at va).acc (r.at va).va = .miss := by rw [hacc]; exact hl
    rw [hgo, Chip.scalarGo, hlook, hacc]
    rfl
  · have hlook : t.look r.ctx (r.at va).acc (r.at va).va = .fault code level := by rw [hacc]; exact hl
    rw [hgo, Chip.scalarGo, hlook, hacc]
    rfl

/-! ### The completion of a scalar access -/

/-- The answer of an access has come to a context that waits for it (R144, R145, R461). -/
theorem scalarmemComplete_waiting {s : Chip} {c : Nat} {x : FillDone} {a : ScalarAcc}
    (hx : s.ports.fills.find? (fun x => x.r.kind == .scalar && x.r.ctx == some c) = some x) (ha : (s.ctxAt c).acc = some a)
    (hst : (s.ctxAt c).st = .waiting) (he : (s.ctxAt c).ended = false) :
    let t := (s.dropFill x.r.id).updCtx c (fun y => { y with acc := none })
    scalarmemComplete c a.va a.size s =
      if x.rsp ≠ .ok then t.portFails c (portReport x.r x.rsp x.tag)
      else if a.op.writes then (t.retireNext c).wake c
      else if (s.lineAt x.r.loc).lost then t.ownFault c Src.eccuRcdata
      else
        let bs : List Byte := (List.range a.size).map (fun i => fld x.data (8 * (a.va % 256 + i)) 8)
        ((t.updCtx c (fun y => match a.op with
          | .ldtd => y.loadTd a.reg bs
          | _ => y.setS a.reg (loadValue bs a.sext))).retireNext c).wake c := by
  intro t
  simp only [scalarmemComplete, hx, ha, hst, he, ne_eq, not_true_eq_false, Bool.false_eq_true, or_self, if_false]
    <;> rfl

/-- Settles O17, by the answer and the kind of the access. -/
theorem scalarAccessCompletes : Obligations.ScalarAccessCompletes := by
  intro s c x a hx ha hst he t bs lost
  have hexec : exec (.scalarmemComplete c a.va a.size) s = .next (s.to (scalarmemComplete c a.va a.size s.chip)) := rfl
  rw [scalarmemComplete_waiting hx ha hst he] at hexec
  refine ⟨fun hok hl => ⟨fun hop => ?_, fun hop => ?_⟩, fun hok hop => ?_, fun hok hop hl => ?_, fun hbad => ?_⟩
  · rw [hexec, if_neg (not_not.mpr hok), hop, if_neg (by decide), if_neg (Bool.eq_false_iff.mp hl)]
  · rw [hexec, if_neg (not_not.mpr hok), hop, if_neg (by decide), if_neg (Bool.eq_false_iff.mp hl)]
  · rw [hexec, if_neg (not_not.mpr hok), if_pos (by rcases hop with h | h <;> rw [h] <;> rfl)]
  · rw [hexec, if_neg (not_not.mpr hok), if_neg (by rcases hop with h | h <;> rw [h] <;> decide), if_pos hl]
  · rw [hexec, if_pos hbad]

/-! ### KSIG, INTR, KDRAIN and KWAIT -/

theorem Ctx.opV_iword (x : Ctx) (i : Option Word) (w : Word) : ({ x with iword := i } : Ctx).opV w = x.opV w := rfl

/-- An update that arrives at its bank and a retirement do not touch each other. -/
theorem Chip.ksUpdate_retireNext (s : Chip) (c k : Nat) (set : Bool) (v : BitVec 48) :
    (s.ksUpdate k set v).retireNext c = (s.retireNext c).ksUpdate k set v := rfl

theorem exec_ksig {s : State} {c : Nat} {w : Word} (h : s.chip.issuesAs (.ksig c) c w) :
    exec (.ksig c) s = .next (s.to ((s.chip.retires c w id (s.chip.nextOf c)).ksUpdate (wK w) (wModeY w == 1)
      (fld ((s.chip.ctxAt c).opV w) 0 48))) := by
  show Host.Outcome.next (s.to (ksig c s.chip)) = _
  rw [ksig, Chip.issue_as h rfl, Chip.ksUpdate_retireNext, Chip.retireNext_taken, Chip.taken_ctxAt, Ctx.opV_iword, Chip.nextOf]

theorem exec_intr {s : State} {c : Nat} {w : Word} (h : s.chip.issuesAs (.intr c) c w) :
    exec (.intr c) s = .next (s.to ((s.chip.retires c w id (s.chip.nextOf c)).raise (if wModeY w = 1 then 736 + wImm w else c) false)) := by
  show Host.Outcome.next (s.to (intr c s.chip)) = _
  rw [intr, Chip.issue_as h rfl, Chip.retireNext_taken, Chip.nextOf]

/-- The two ends of KDRAIN: it retires, or it waits for the context's detached work. -/
theorem exec_kdrain {s : State} {c : Nat} {w : Word} (h : s.chip.issuesAs (.kdrain c) c w) :
    let d := (kdrainCtr w).map fun k => (k, (fld ((s.chip.ctxAt c).opV w) 0 48 : BitVec 48))
    exec (.kdrain c) s = .next (s.to (
      if s.chip.drained c then ((s.chip.taken c w).applyDrainSig d).retireNext c
      else ((s.chip.taken c w).updCtx c (fun x => { x with drainSig := d })).waitFor c .kdrain)) := by
  show Host.Outcome.next (s.to (kdrain c s.chip)) = _
  rw [kdrain, Chip.issue_as h rfl, Chip.taken_drained, Chip.taken_ctxAt, Ctx.opV_iword]

theorem kdrainDone_drained {s : Chip} {c : Nat} (hst : (s.ctxAt c).st = .waiting) (hw : (s.ctxAt c).wait = some .kdrain)
    (hh : (s.ctxAt c).halting = false) (hd : (s.ctxAt c).detached = []) (he : (s.ctxAt c).ended = false) :
    kdrainDone c s = (((s.applyDrainSig (s.ctxAt c).drainSig).updCtx c (fun x => { x with drainSig := none })).retireNext c).wake c := by
  have hdone : s.drained c = true := (s.drained_iff c).mpr hd
  simp only [kdrainDone, hst, hw, hh, hdone, he, Bool.false_eq_true, not_false_eq_true, and_self, if_true]

/-- The two ends of KWAIT at issue (R159, R160). -/
theorem exec_kwait {s : State} {c : Nat} {w : Word} (h : s.chip.issuesAs (.kwait c) c w) :
    let v : BitVec 48 := fld ((s.chip.ctxAt c).zr (wSAy w)) 0 48
    exec (.kwait c) s = .next (s.to (
      if ksCompare (wModeY w % 4) (s.chip.ksAt (wK w)) v then
        s.chip.retires c w (fun x => { x with p := if decide (4 ≤ wModeY w) then setBit x.p 7 true else x.p }) (s.chip.nextOf c)
      else ((s.chip.taken c w).updCtx c (fun x =>
        { x with kw := some { k := wK w, mode := wModeY w % 4, tgt := v, soft := decide (4 ≤ wModeY w),
                              till := if wImm w = 0 then none else some (s.chip.time + wImm w) } })).waitFor c .kwait)) := by
  show Host.Outcome.next (s.to (kwait c s.chip)) = _
  rw [kwait, Chip.issue_as h rfl]
  simp only [Chip.taken_ctxAt, Ctx.zr_iword, Chip.taken_ksAt, Chip.taken_time]
  rw [Chip.retireWith_taken _ _ _ _ rfl, Chip.nextOf]

/-- A KWAIT with a deadline: before it nothing happens, at it the soft form retires and the other faults (R160). -/
theorem kwaitTimeout_deadline {s : Chip} {c t : Nat} {k : KWaitSt} (hk : (s.ctxAt c).kw = some k) (ht : k.till = some t) :
    kwaitTimeout c s = if t ≤ s.time then if k.soft then s.kwaitEnd c false else s.ownFault c Src.tkwait else s := by
  simp only [kwaitTimeout, hk, ht]

theorem Chip.kwaitEnd_soft {s : Chip} {c : Nat} {k : KWaitSt} (hk : (s.ctxAt c).kw = some k) (hs : k.soft = true) (ok : Bool) :
    s.kwaitEnd c ok = ((s.updCtx c (fun x => { x with kw := none, p := setBit x.p 7 ok })).retireTo c (s.nextOf c)).wake c := by
  simp only [Chip.kwaitEnd, hk, hs, if_true, Chip.ctxAt_updCtx_self]
  rfl

/-- Settles O19, instruction by instruction and end by end. -/
theorem synchronisation : Obligations.Synchronisation := by
  refine ⟨fun s c w => ?_, fun s c => ⟨fun w h => ?_, fun k t hk ht => ?_⟩⟩
  · intro x next v
    refine ⟨exec_ksig, exec_intr, fun h hd => ?_, fun h hd => ?_, fun hst hw hh hd he => ?_⟩
    · have hdone : s.chip.drained c = true := (s.chip.drained_iff c).mpr hd
      refine ⟨fun hm => ?_, fun hm => ?_⟩
      · rw [exec_kdrain h, if_pos hdone, kdrainCtr, if_neg (by omega)]
        exact congrArg (fun t => Host.Outcome.next (s.to t)) (Chip.retireNext_taken s.chip c w)
      · rw [exec_kdrain h, if_pos hdone, kdrainCtr, if_pos hm, Option.map_some, Chip.applyDrainSig, Chip.ksUpdate_retireNext,
          Chip.retireNext_taken]
        rfl
    · rw [exec_kdrain h, if_neg (hd ∘ (s.chip.drained_iff c).mp), kdrainCtr]
      split <;> rfl
    · have hdone : exec (.kdrainDone c) s = .next (s.to (kdrainDone c s.chip)) := rfl
      rw [kdrainDone_drained hst hw hh hd he] at hdone
      refine ⟨fun hn => ?_, fun k d hk => ?_⟩
      · rw [hdone, show (s.chip.ctxAt c).drainSig = none from hn, Chip.retireNext_updCtx _ _ _ rfl]
        rfl
      · rw [hdone, show (s.chip.ctxAt c).drainSig = some (k, d) from hk, Chip.retireNext_updCtx _ _ _ rfl]
        rfl
  · intro v soft
    refine ⟨fun hc => ?_, fun hc => ?_⟩
    · rw [exec_kwait h, if_pos hc]
    · rw [exec_kwait h, if_neg (Bool.eq_false_iff.mp hc)]
  · have hexec : exec (.kwaitTimeout c) s = .next (s.to (kwaitTimeout c s.chip)) := rfl
    rw [kwaitTimeout_deadline hk ht] at hexec
    refine ⟨fun hlt => ?_, fun hle hs => ?_, fun hle hs => ?_⟩
    · rw [hexec, if_neg (Nat.not_le.mpr hlt)]
      rfl
    · rw [hexec, if_pos hle, if_pos hs, Chip.kwaitEnd_soft hk hs]
    · rw [hexec, if_pos hle, if_neg (Bool.eq_false_iff.mp hs)]

/-! ### FENCE -/

theorem exec_fence {s : State} {c : Nat} {w : Word} (h : s.chip.issuesAs (.fence c) c w) :
    let t := s.chip.taken c w
    let gs := t.dirtyLines (t.ctxPart c)
    exec (.fence c) s = .next (s.to (
      if t.rcOn = false ∨ gs = [] then s.chip.retires c w id (s.chip.nextOf c)
      else (gs.foldl (fun u g => u.startWb .fenceWb g (u.ctxClass c) 0 (some c))
        (t.updCtx c (fun x => { x with ffault := none }))).waitFor c .fence)) := by
  intro t gs
  show Host.Outcome.next (s.to (fence c s.chip)) = _
  rw [fence, Chip.issue_as h rfl, Chip.retireNext_taken]
  simp only [Bool.or_eq_true, Bool.not_eq_true', List.isEmpty_iff]
  rfl

/-- The last write-back of a FENCE is answered. -/
theorem fenceDone_answered {s : Chip} {c : Nat} (hst : (s.ctxAt c).st = .waiting) (hw : (s.ctxAt c).wait = some .fence)
    (he : (s.ctxAt c).ended = false) (hr : ∀ r ∈ s.allRequests, ¬ (r.kind = .fenceWb ∧ r.ctx = some c)) :
    fenceDone c s = match (s.ctxAt c).ffault with
      | none => (s.retireNext c).wake c
      | some rep => (s.updCtx c (fun x => { x with ended := true, faddr := x.ip, ffault := none })).report rep := by
  have hnone : s.allRequests.any (fun r => r.kind == .fenceWb && r.ctx == some c) = false := by
    simpa using hr
  simp only [fenceDone, hst, hw, he, hnone, Bool.false_eq_true, not_false_eq_true, and_self, if_true]
    <;> rfl

/-- Settles O21: FENCE by whether anything is dirty, its end by the fault it has met. -/
theorem fenceWritesBack : Obligations.FenceWritesBack := by
  intro s c
  refine ⟨fun w h => ⟨fun hn => ?_, fun hon hgs => ?_⟩, fun hst hw he hr => ⟨fun hf => ?_, fun rep hf => ?_⟩⟩
  · rw [exec_fence h, if_pos hn]
  · rw [exec_fence h, if_neg (not_or.mpr ⟨by rw [hon]; decide, hgs⟩)]
  · show Host.Outcome.next (s.to (fenceDone c s.chip)) = _
    rw [fenceDone_answered hst hw he hr, hf]
    rfl
  · show Host.Outcome.next (s.to (fenceDone c s.chip)) = _
    rw [fenceDone_answered hst hw he hr, hf]

end Sys2Proof.Machine
end

section
/-! Memory at the point of coherence (R144, R347, R348): what a write of a granule's bytes makes of every byte. -/

namespace Sys2Proof.Machine

theorem mem_onesBelow {m n : Nat} {w : BitVec m} {j : Nat} : j ∈ onesBelow w n ↔ j < n ∧ w.getLsbD j = true := by
  rw [onesBelow, List.mem_filter, List.mem_range, bitB]

/-- Bytes put at `g` and behind it, each by its offset. -/
theorem get_memPut_map (g : Nat) (f : Nat → Byte) (js : List Nat) (m : List Host.Cell) (loc : Nat) :
    Tab.get 0 (memPut (js.map fun j => (g + j, f j)) m) loc = if g ≤ loc ∧ loc - g ∈ js then f (loc - g) else Tab.get 0 m loc := by
  induction js generalizing m with
  | nil => simp [memPut]
  | cons j js ih =>
    rw [List.map_cons, memPut, ih, Tab.get_set]
    simp only [List.mem_cons]
    by_cases hin : g ≤ loc ∧ loc - g ∈ js
    · rw [if_pos hin, if_pos ⟨hin.1, .inr hin.2⟩]
    · rw [if_neg hin]
      by_cases hj : loc = g + j
      · rw [if_pos hj, if_pos ⟨by omega, .inl (by omega)⟩, hj, Nat.add_sub_cancel_left]
      · rw [if_neg hj, if_neg]
        rintro ⟨hle, h | h⟩
        · omega
        · exact hin ⟨hle, h⟩

theorem memByte_memWrite_onesBelow (s : Chip) (g : Nat) (m : BitVec 256) (d : Granule) (loc : Nat) :
    (s.memWrite ((onesBelow m 256).map fun j => (g + j, fld d (8 * j) 8))).memByte loc =
      if g ≤ loc ∧ loc < g + 256 ∧ m.getLsbD (loc - g) = true then fld d (8 * (loc - g)) 8 else s.memByte loc := by
  have hmem : (g ≤ loc ∧ loc - g ∈ onesBelow m 256) ↔ (g ≤ loc ∧ loc < g + 256 ∧ m.getLsbD (loc - g) = true) := by
    rw [mem_onesBelow]
    refine and_congr_right fun hle => and_congr_left fun _ => ?_
    omega
  rw [Chip.memByte, Chip.memWrite_mem, get_memPut_map g (fun j => fld d (8 * j) 8), Chip.memByte]
  simp only [hmem]

/-- A write at the point of coherence: the bytes of the granule at the mask, and no other byte. -/
theorem Chip.memByte_commitWrite (s : Chip) (g : Nat) (m : BitVec 256) (d : Granule) (loc : Nat) :
    (s.commitWrite g m d).memByte loc =
      if g ≤ loc ∧ loc < g + 256 ∧ m.getLsbD (loc - g) = true then fld d (8 * (loc - g)) 8 else s.memByte loc :=
  memByte_memWrite_onesBelow _ g m d loc

/-! ### The bytes of a store -/

theorem getLsbD_byteMask (j n i : Nat) : (byteMask j n).getLsbD i = decide (i < 256 ∧ j ≤ i ∧ i < j + n) := by
  rw [byteMask, BitVec.getLsbD_ofNat, Nat.testBit_mul_two_pow, Nat.testBit_two_pow_sub_one, ← Bool.decide_and, ← Bool.decide_and,
    decide_eq_decide]
  omega

/-- The bits of a little-endian number are those of its bytes. -/
theorem testBit_ofBytes (bs : List Byte) (i k : Nat) (hk : k < 8) : (ofBytes bs).testBit (8 * i + k) = (bs.getD i 0).getLsbD k := by
  induction bs generalizing i with
  | nil => simp [ofBytes]
  | cons b bs ih =>
    rw [ofBytes, Nat.add_comm, show (256 : Nat) = 2 ^ 8 from rfl, Nat.testBit_two_pow_mul_add _ b.isLt]
    cases i with
    | zero => simp [hk, BitVec.getLsbD]
    | succ i =>
      rw [if_neg (by omega), show 8 * (i + 1) + k - 8 = 8 * i + k by omega, ih, List.getD_cons_succ]

theorem fld_granuleBytes (j : Nat) (bs : List Byte) (i : Nat) (hi : j + i < 256) :
    (fld (granuleBytes j bs) (8 * (j + i)) 8 : Byte) = bs.getD i 0 := by
  refine BitVec.eq_of_getLsbD_eq fun k hk => ?_
  have hin : 8 * (j + i) + k < 2048 := by omega
  have hoff : 8 * (j + i) + k - 8 * j = 8 * i + k := by omega
  have hle : 8 * j ≤ 8 * (j + i) + k := by omega
  rw [getLsbD_fld, granuleBytes, BitVec.getLsbD_ofNat, Nat.testBit_mul_two_pow, hoff, testBit_ofBytes bs i k hk]
  simp only [hk, hin, hle, decide_true, Bool.true_and]

/-- Settles O18: the store's mask selects its bytes, and the granule holds them there. -/
theorem storeWritesItsBytes : Obligations.StoreWritesItsBytes := by
  intro s g j bs a hfit t
  have ha : t.memByte a = _ := s.memByte_commitWrite g (byteMask j bs.length) (granuleBytes j bs) a
  simp only [getLsbD_byteMask, decide_eq_true_iff] at ha
  refine ⟨fun i hi hai => ?_, fun hout => ?_⟩
  · rw [ha, if_pos (by omega), show a - g = j + i by omega, fld_granuleBytes j bs i (by omega)]
  · rw [ha, if_neg (by omega)]

end Sys2Proof.Machine
end

section
/-! Mover scheduling (R58, R59): the slot that a mover selects, and the one that takes over at the end of a time slice. -/

namespace Sys2Proof.Machine

theorem nextSlot_mem {k j : Nat} {l : List Nat} (h : nextSlot k l = some j) : j ∈ l := by
  unfold nextSlot at h
  split at h
  · rename_i i hi
    cases h
    exact List.mem_of_find?_eq_some hi
  · exact List.mem_of_mem_head? h

theorem nextSlot_of_ne_nil (k : Nat) {l : List Nat} (h : l ≠ []) : ∃ j ∈ l, nextSlot k l = some j := by
  obtain ⟨i, r, rfl⟩ := List.exists_cons_of_ne_nil h
  have hsome : ∃ j, nextSlot k (i :: r) = some j := by
    unfold nextSlot
    split
    · exact ⟨_, rfl⟩
    · exact ⟨i, rfl⟩
  obtain ⟨j, hj⟩ := hsome
  exact ⟨j, nextSlot_mem hj, hj⟩

/-- The least class among the READY slots of a mover. -/
theorem Chip.exists_least_class {s : Chip} {m : Nat} (h : s.readySlots m ≠ []) :
    ∃ n, ((s.readySlots m).map (s.slotClass m)).min? = some n ∧ (∃ k ∈ s.readySlots m, s.slotClass m k = n) ∧
      ∀ j ∈ s.readySlots m, n ≤ s.slotClass m j := by
  obtain ⟨n, hn⟩ := Option.isSome_iff_exists.mp (List.isSome_min?_of_ne_nil (l := (s.readySlots m).map (s.slotClass m)) (mt List.map_eq_nil_iff.mp h))
  obtain ⟨hmem, hle⟩ := List.min?_eq_some_iff.mp hn
  obtain ⟨k, hk, hkn⟩ := List.mem_map.mp hmem
  exact ⟨n, hn, ⟨k, hk, hkn⟩, fun j hj => hle _ (List.mem_map_of_mem hj)⟩

/-- The mover selects a slot of the least class: the current one, else the next after the last (R58). -/
theorem Chip.selectSlot_spec {s : Chip} {m : Nat} (h : s.readySlots m ≠ []) :
    ∃ k ∈ s.readySlots m, s.selectSlot m = some k ∧ (∀ j ∈ s.readySlots m, s.slotClass m k ≤ s.slotClass m j) ∧
      (∀ j ∈ s.readySlots m, (s.movAt m).cur = some j → s.slotClass m j = s.slotClass m k → j = k) ∧
      ((s.movAt m).cur ≠ some k →
        nextSlot (s.movAt m).last ((s.readySlots m).filter fun j => s.slotClass m j == s.slotClass m k) = some k) := by
  obtain ⟨n, hn, ⟨i, hi, hin⟩, hle⟩ := s.exists_least_class h
  have hbest : ∀ j, j ∈ (s.readySlots m).filter (fun j => s.slotClass m j == n) ↔ j ∈ s.readySlots m ∧ s.slotClass m j = n := by
    simp
  have hne : (s.readySlots m).filter (fun j => s.slotClass m j == n) ≠ [] := List.ne_nil_of_mem ((hbest i).mpr ⟨hi, hin⟩)
  obtain ⟨k, hk, hnext⟩ := nextSlot_of_ne_nil (s.movAt m).last hne
  obtain ⟨hkr, hkn⟩ := (hbest k).mp hk
  by_cases hcur : ∃ j, (s.movAt m).cur = some j ∧ j ∈ (s.readySlots m).filter (fun j => s.slotClass m j == n)
  case pos =>
    obtain ⟨j, hj, hjb⟩ := hcur
    obtain ⟨hjr, hjn⟩ := (hbest j).mp hjb
    refine ⟨j, hjr, ?_, fun i hi => hjn ▸ hle i hi, fun i _ hic _ => Option.some.inj (hic.symm.trans hj), fun hc => absurd hj hc⟩
    simp only [Chip.selectSlot, hn, hj, List.contains_iff_mem, hjb, if_true]
  case neg =>
    refine ⟨k, hkr, ?_, fun i hi => hkn ▸ hle i hi, fun j hj hjc hjk => ?_, fun _ => hkn ▸ hnext⟩
    · cases hc : (s.movAt m).cur with
      | none => simp only [Chip.selectSlot, hn, hc, hnext]
      | some j =>
        have hout : j ∉ (s.readySlots m).filter (fun j => s.slotClass m j == n) := fun hj => hcur ⟨j, hc, hj⟩
        simp only [Chip.selectSlot, hn, hc, List.contains_iff_mem, hout, if_false, hnext]
    · exact absurd ⟨j, hjc, (hbest j).mpr ⟨hj, hjk.trans hkn⟩⟩ hcur

theorem Chip.selectSlot_of_none {s : Chip} {m : Nat} (h : s.readySlots m = []) : s.selectSlot m = none := by
  simp [Chip.selectSlot, h]

/-- Settles O23: the choice of a slot, the next of its class, and the promotion. -/
theorem moverScheduling : Obligations.MoverScheduling := by
  intro s m x rs cls
  refine ⟨fun h => ?_, fun h => ?_, fun k hk => ⟨fun hs => ?_, fun hs => ?_⟩, fun c hst hcur => ?_⟩
  · show Host.Outcome.next (s.to (switchTo m s.chip)) = _
    rw [switchTo, moverSwitch, Chip.selectSlot_of_none h]
  · obtain ⟨k, hk, hsel, hle, hcur, hnext⟩ := Chip.selectSlot_spec h
    refine ⟨k, hk, hle, hcur, hnext, ?_⟩
    show Host.Outcome.next (s.to (switchTo m s.chip)) = _
    rw [switchTo, moverSwitch, hsel]
  · show Host.Outcome.next (s.to (sliceEnds m s.chip)) = _
    have hk' : (s.chip.movAt m).cur = some k := hk
    have hnone : nextSlot k ((s.chip.readySlots m).filter fun j => j != k && s.chip.slotClass m j == s.chip.slotClass m k) = none := by
      rw [show List.filter _ _ = [] from hs]
      rfl
    simp only [sliceEnds, timesliceExpiry, Chip.passOn, hk', hnone]
  · obtain ⟨j, hj, hnext⟩ := nextSlot_of_ne_nil k hs
    refine ⟨j, hj, hnext, ?_⟩
    show Host.Outcome.next (s.to (sliceEnds m s.chip)) = _
    have hk' : (s.chip.movAt m).cur = some k := hk
    have hsome : nextSlot k ((s.chip.readySlots m).filter fun j => j != k && s.chip.slotClass m j == s.chip.slotClass m k) = some j :=
      hnext
    simp only [sliceEnds, timesliceExpiry, Chip.passOn, hk', hsome]
  · show Host.Outcome.next (s.to (starvationPromote c s.chip)) = _
    rw [starvationPromote, if_pos ⟨hst, by rw [hcur]; decide⟩]

end Sys2Proof.Machine
end

section
/-! What a transfer's signals add to its counter (R155, R157). -/

namespace Sys2Proof.Machine

/-- The update that a signal of `v` to the counter of a transfer's KS field waits as. -/
def signalOp (w : Word) (v : Nat) : KsOp := { k := wKS w % 4096, set := false, v := BitVec.ofNat 48 v }

theorem Chip.signal_ksq (s : Chip) (w : Word) (v : Nat) : (s.signal (wKS w) v).ksq = s.ksq ++ [signalOp w v] := rfl

/-- What each course adds under a KM (R155). -/
theorem Chip.courseSignal_ksq (s : Chip) (c : Nat) (t : Xfer) :
    (s.courseSignal c t).ksq =
      s.ksq ++ if wKM t.word = 2 then [signalOp t.word 65536] else if wKM t.word = 3 then [signalOp t.word 1] else [] := by
  unfold Chip.courseSignal
  split
  · rename_i h
    rw [if_pos h, Chip.signal_ksq]
  · rename_i h
    rw [if_neg (by omega), if_pos h, Chip.signal_ksq]
  · rename_i h2 h3
    rw [if_neg h2, if_neg h3, List.append_nil, Chip.updCtx_ksq]

/-- A step that adds the same updates each time it is taken. -/
theorem ksq_foldl {f : Chip → Chip} {l : List KsOp} (hf : ∀ s, (f s).ksq = s.ksq ++ l) (n : Nat) (s : Chip) :
    ((List.range n).foldl (fun s _ => f s) s).ksq = s.ksq ++ (List.replicate n l).flatten := by
  induction n with
  | zero => simp
  | succ n ih => rw [List.range_succ, List.foldl_append, List.foldl_cons, List.foldl_nil, hf, ih, List.replicate_succ',
      List.flatten_append, List.flatten_singleton, List.append_assoc]

theorem Chip.courseSignals_ksq (s : Chip) (c n : Nat) (t : Xfer) :
    ((List.range n).foldl (fun s _ => s.courseSignal c t) s).ksq =
      s.ksq ++ if wKM t.word = 2 then List.replicate n (signalOp t.word 65536)
        else if wKM t.word = 3 then List.replicate n (signalOp t.word 1) else [] := by
  rw [ksq_foldl (fun s => s.courseSignal_ksq c t)]
  split
  · rw [List.flatten_replicate_singleton]
  · split
    · rw [List.flatten_replicate_singleton]
    · rw [List.flatten_replicate_nil]

/-- Settles O27, KM by KM: the whole courses that are owed, then the last bytes. -/
theorem signalAmounts : Obligations.SignalAmounts := by
  intro s c t whole rest n add
  have hcourses := s.courseSignals_ksq c n t
  have hrest : rest = (t.halves % 131072 + 1) / 2 := rfl
  refine ⟨fun h => ?_, fun h => ?_, fun h => ?_, fun h => ?_⟩
  · simp only [h] at hcourses
    simpa [Chip.lastSignals, h] using hcourses
  · simp only [h] at hcourses
    simp only [Chip.lastSignals, h, Chip.signal_ksq]
    exact congrArg (· ++ [signalOp t.word 1]) (by simpa using hcourses)
  · simp only [h, if_true] at hcourses
    simp only [Chip.lastSignals, h, ← hrest]
    by_cases hr : rest = 0
    · simpa [add, hr, signalOp] using hcourses
    · rw [if_neg hr, Chip.signal_ksq]
      exact (congrArg (· ++ [signalOp t.word rest]) hcourses).trans (by simp [add, hr, signalOp])
  · have hne : ¬ (3 : Nat) = 2 := by decide
    simp only [h, if_true, if_neg hne] at hcourses
    simp only [Chip.lastSignals, h, ← hrest]
    by_cases hr : rest = 0
    · simpa [add, hr, signalOp] using hcourses
    · rw [if_neg hr, Chip.signal_ksq]
      exact (congrArg (· ++ [signalOp t.word 1]) hcourses).trans (by simp [add, hr, signalOp])

end Sys2Proof.Machine
end

section
/-! Number formats (chapter 7): the nearest integer, integer codes and their ranges, floating-point codes, and the statement
that a code encodes what it decodes to. -/

namespace Sys2Proof.Machine

/-! ### The nearest integer -/

@[simp] theorem rneQ_one (n : Nat) : rneQ n 1 = n := by
  simp [rneQ, Nat.mod_one]

/-- Where `n` stands between the multiples of `d`, and which of the two nearest integers is taken. -/
theorem rneQ_cases (n : Nat) {d : Nat} (hd : 0 < d) : ∃ a b, n = d * a + b ∧ b < d ∧
    ((2 * b < d ∧ rneQ n d = a) ∨ (d < 2 * b ∧ rneQ n d = a + 1) ∨ (2 * b = d ∧ rneQ n d = a + a % 2)) := by
  refine ⟨n / d, n % d, (Nat.div_add_mod n d).symm, Nat.mod_lt n hd, ?_⟩
  unfold rneQ
  dsimp only
  split
  · exact .inl ⟨by assumption, rfl⟩
  · split
    · exact .inr (.inl ⟨by assumption, rfl⟩)
    · exact .inr (.inr ⟨by omega, rfl⟩)

/-- The integer taken is a nearest one, and of two nearest ones the even. -/
theorem rneQ_nearest (n d : Nat) (hd : 0 < d) : 2 * n ≤ (2 * rneQ n d + 1) * d ∧ (2 * (rneQ n d : Int) - 1) * d ≤ 2 * n ∧
    (2 * n = (2 * rneQ n d + 1) * d ∨ (2 * n : Int) = (2 * (rneQ n d : Int) - 1) * d → rneQ n d % 2 = 0) := by
  obtain ⟨a, b, rfl, hb, ⟨hc, hq⟩ | ⟨hc, hq⟩ | ⟨hc, hq⟩⟩ := rneQ_cases n hd <;> rw [hq]
  · push_cast
    refine ⟨by nlinarith, by nlinarith, ?_⟩
    rintro (h | h)
    · exact absurd h (by nlinarith)
    · exact absurd h (by nlinarith)
  · push_cast
    refine ⟨by nlinarith, by nlinarith, ?_⟩
    rintro (h | h)
    · exact absurd h (by nlinarith)
    · exact absurd h (by nlinarith)
  · have heven : (a + a % 2) % 2 = 0 := by omega
    refine ⟨?_, ?_, fun _ => heven⟩
    · have := Nat.zero_le (a % 2)
      nlinarith
    · have hle : a % 2 ≤ 1 := by omega
      have hle' : ((a % 2 : Nat) : Int) ≤ 1 := by exact_mod_cast hle
      push_cast at hle' ⊢
      nlinarith

/-! ### Integer codes (R231, R241) -/

theorem fmtBits_pos {f : Nat} (hf : fmtInt f = true) : 1 ≤ fmtBits f := by
  simp only [fmtInt, Bool.and_eq_true, decide_eq_true_eq] at hf
  obtain ⟨h1, h9⟩ := hf
  interval_cases f <;> decide

/-- A power of two by its half. -/
theorem two_pow_eq_add_half {w : Nat} (hw : 1 ≤ w) : 2 ^ w = 2 ^ (w - 1) + 2 ^ (w - 1) := by
  obtain ⟨k, rfl⟩ := Nat.exists_eq_add_of_le' hw
  rw [Nat.add_sub_cancel, Nat.pow_succ]
  omega

theorem fmt_range {f : Nat} (hf : fmtInt f = true) : fmtMin f ≤ 0 ∧ 0 ≤ fmtMax f ∧ fmtMax f - fmtMin f < (2 ^ fmtBits f : Nat) := by
  have hhalf := two_pow_eq_add_half (fmtBits_pos hf)
  have hpos := Nat.two_pow_pos (fmtBits f - 1)
  unfold fmtMin fmtMax
  generalize 2 ^ fmtBits f = N at hhalf ⊢
  generalize 2 ^ (fmtBits f - 1) = H at hhalf hpos ⊢
  split <;> omega

/-- A code stands for the one integer of its format's range that it is congruent to. -/
theorem intOf_spec {f : Nat} (hf : fmtInt f = true) (code : Nat) :
    fmtMin f ≤ intOf f code ∧ intOf f code ≤ fmtMax f ∧ intOf f code % (2 ^ fmtBits f : Nat) = (code % 2 ^ fmtBits f : Nat) := by
  have hhalf := two_pow_eq_add_half (fmtBits_pos hf)
  have hmod := Nat.mod_lt code (Nat.two_pow_pos (fmtBits f))
  unfold intOf fmtMin fmtMax sextN
  generalize 2 ^ fmtBits f = N at hhalf hmod ⊢
  generalize 2 ^ (fmtBits f - 1) = H at hhalf ⊢
  generalize code % N = r at hmod ⊢
  split
  · split
    · refine ⟨by omega, by omega, Int.emod_eq_of_lt (by omega) (by omega)⟩
    · refine ⟨by omega, by omega, ?_⟩
      rw [Int.sub_emod_right]
      exact Int.emod_eq_of_lt (by omega) (by omega)
  · exact ⟨by omega, by omega, Int.emod_eq_of_lt (by omega) (by omega)⟩

theorem intOf_intCode {f : Nat} (hf : fmtInt f = true) {i : Int} (hlo : fmtMin f ≤ i) (hhi : i ≤ fmtMax f) :
    intOf f (intCode f i) = i := by
  obtain ⟨hlo', hhi', hmod⟩ := intOf_spec hf (intCode f i)
  have hrange := (fmt_range hf).2.2
  have hcode : ((intCode f i % 2 ^ fmtBits f : Nat) : Int) = i % (2 ^ fmtBits f : Nat) := by
    have hpos : (0 : Int) < (2 ^ fmtBits f : Nat) := by exact_mod_cast Nat.two_pow_pos (fmtBits f)
    have hnn := Int.emod_nonneg i hpos.ne'
    have hlt := Int.emod_lt_of_pos i hpos
    rw [intCode, Int.natCast_emod, Int.toNat_of_nonneg hnn, Int.emod_emod]
  rw [hcode] at hmod
  have hdvd : ((2 ^ fmtBits f : Nat) : Int) ∣ i - intOf f (intCode f i) := Int.ModEq.dvd hmod
  have hzero := Int.eq_zero_of_abs_lt_dvd hdvd (abs_lt.mpr ⟨by omega, by omega⟩)
  omega

theorem intCode_intOf {f code : Nat} (hf : fmtInt f = true) (hc : code < 2 ^ fmtBits f) : intCode f (intOf f code) = code := by
  rw [intCode, (intOf_spec hf code).2.2, Int.toNat_natCast, Nat.mod_eq_of_lt hc]

theorem clampTo_fst {lo hi : Int} (h : lo ≤ hi) (i : Int) : (clampTo lo hi i).1 = max lo (min hi i) := by
  unfold clampTo
  split
  · simp only []
    omega
  · split <;> simp only [] <;> omega

theorem clampTo_of_mem {lo hi i : Int} (hl : lo ≤ i) (hh : i ≤ hi) : clampTo lo hi i = (i, false) := by
  rw [clampTo, if_neg (by omega), if_neg (by omega)]

@[simp] theorem rneNat_zero_exp (n : Nat) : rneNat n 0 = n := by
  simp [rneNat, up]

/-- An integer in range is encoded as its own code. -/
theorem encodeInt_ofInt {f : Nat} {i : Int} (hlo : fmtMin f ≤ i) (hhi : i ≤ fmtMax f) :
    encodeInt f (Val.ofInt i) = { code := intCode f i } := by
  unfold Val.ofInt Val.mk
  split
  · rename_i h
    rw [Int.natAbs_eq_zero.mp h]
    rfl
  · have hsigned : signedN (decide (i < 0)) i.natAbs = i := by
      unfold signedN
      split <;> rename_i h <;> simp at h <;> omega
    simp only [encodeInt, rneClamp, rneNat_zero_exp, hsigned, clampTo_of_mem hlo hhi]

/-- What an integer code stands for after rounding and clamping (R241). -/
theorem intOf_encodeInt (f : Nat) (v : Val) (hf : fmtInt f = true) :
    intOf f (encodeInt f v).code =
      match v with
      | .nan | .zero _ => 0
      | .inf neg => if neg then fmtMin f else fmtMax f
      | .fin neg n e => max (fmtMin f) (min (fmtMax f) (signedN neg (rneNat n e))) := by
  obtain ⟨hmin, hmax, -⟩ := fmt_range hf
  cases v with
  | nan => exact intOf_intCode hf hmin hmax
  | zero _ => exact intOf_intCode hf hmin hmax
  | inf neg =>
    cases neg
    · exact intOf_intCode hf (by omega) (le_refl _)
    · exact intOf_intCode hf (le_refl _) (by omega)
  | fin neg n e =>
    have hclamp := clampTo_fst (by omega : fmtMin f ≤ fmtMax f) (signedN neg (rneNat n e))
    show intOf f (intCode f (clampTo (fmtMin f) (fmtMax f) (signedN neg (rneNat n e))).1) = _
    rw [hclamp]
    exact intOf_intCode hf (by omega) (by omega)

/-! ### Floating-point codes (R232, R240) -/

/-- A significand of at most `m + 1` bits at its own unit, the lowest one unless its top bit is set, is not rounded. -/
theorem magCode_of_exact {s : FSpec} {n : Nat} {ex : Nat} (hex : 1 ≤ ex) (hlt : n < 2 ^ (s.m + 1)) (hn : n ≠ 0)
    (htop : ex = 1 ∨ 2 ^ s.m ≤ n) : magCode s n 1 ((ex : Int) - s.bias - s.m) = (ex - 1) * 2 ^ s.m + n := by
  have hlog : flog2 n 1 = Nat.log2 n := by
    have hone : Nat.log2 1 = 0 := rfl
    simp [flog2, up, hone, Nat.log2_self_le hn]
  have hle : Nat.log2 n ≤ s.m := by
    have := (Nat.log2_lt hn).mpr hlt
    omega
  have hunit : max (flog2 n 1 + ((ex : Int) - s.bias - s.m)) (1 - (s.bias : Int)) = (ex : Int) - s.bias := by
    rcases htop with h | h
    · omega
    · have : s.m ≤ Nat.log2 n := (Nat.le_log2 hn).mpr h
      omega
  simp only [magCode, fpRound, hunit, sub_self]
  have hexp : up ((ex : Int) - s.bias - s.m + s.m + s.bias - 1) = ex - 1 := by
    unfold up
    omega
  rw [hexp]
  simp [up]

/-- The sign and the magnitude of a code. -/
theorem sign_add_mag {s : FSpec} {code : Nat} (hc : code < 2 ^ (s.e + s.m + 1)) :
    signBit s (decide (code / 2 ^ (s.e + s.m) % 2 = 1)) + code % 2 ^ (s.e + s.m) = code := by
  have hdiv : code / 2 ^ (s.e + s.m) < 2 := by
    rw [Nat.div_lt_iff_lt_mul (Nat.two_pow_pos _), ← Nat.pow_succ']
    exact hc
  have hsplit := Nat.div_add_mod code (2 ^ (s.e + s.m))
  unfold signBit
  generalize 2 ^ (s.e + s.m) = N at hdiv hsplit ⊢
  rcases Nat.le_one_iff_eq_zero_or_eq_one.mp (Nat.le_of_lt_succ hdiv) with h | h
  · rw [h] at hsplit ⊢
    simp only [Nat.zero_mod, Nat.zero_ne_one, decide_false, Bool.false_eq_true, if_false]
    omega
  · rw [h] at hsplit ⊢
    simp only [Nat.one_mod, decide_true, if_true]
    omega

/-- The value of a magnitude that is finite encodes as the magnitude. -/
theorem encodeFloat_decodeFloat {s : FSpec} {code : Nat} (hc : code < 2 ^ (s.e + s.m + 1)) (hnan : decodeFloat s code ≠ .nan) :
    (encodeFloat s (decodeFloat s code)).1 = code := by
  have hcode := sign_add_mag hc
  unfold decodeFloat at hnan ⊢
  dsimp only at hnan ⊢
  generalize decide (code / 2 ^ (s.e + s.m) % 2 = 1) = neg at hcode hnan ⊢
  generalize code % 2 ^ (s.e + s.m) = mag at hcode hnan ⊢
  by_cases hinf : s.inf = some mag
  · rw [if_pos hinf, encodeFloat, hinf]
    exact hcode
  rw [if_neg hinf] at hnan ⊢
  by_cases hmax : s.max < mag
  · rw [if_pos hmax] at hnan
    exact absurd rfl hnan
  rw [if_neg hmax]
  have hman := Nat.mod_lt mag (Nat.two_pow_pos s.m)
  have hmag := Nat.div_add_mod mag (2 ^ s.m)
  have hpow : 2 ^ (s.m + 1) = 2 ^ s.m + 2 ^ s.m := by rw [Nat.pow_succ]; omega
  by_cases hex : mag / 2 ^ s.m = 0
  · rw [if_pos hex, Val.mk]
    rw [hex] at hmag
    by_cases h0 : mag % 2 ^ s.m = 0
    · rw [if_pos h0, encodeFloat]
      simp only []
      omega
    · rw [if_neg h0]
      have hexact : magCode s (mag % 2 ^ s.m) 1 (1 - (s.bias : Int) - s.m) = mag := by
        have := magCode_of_exact (s := s) (le_refl 1) (by omega : mag % 2 ^ s.m < 2 ^ (s.m + 1)) h0 (.inl rfl)
        simp only [Nat.cast_one, Nat.sub_self, Nat.zero_mul, Nat.zero_add] at this
        omega
      simp only [encodeFloat, hexact, if_neg hmax, hcode]
  · rw [if_neg hex]
    have hexact : magCode s (2 ^ s.m + mag % 2 ^ s.m) 1 (((mag / 2 ^ s.m : Nat) : Int) - s.bias - s.m) = mag := by
      rw [magCode_of_exact (Nat.one_le_iff_ne_zero.mpr hex) (by omega) (by omega) (.inr (Nat.le_add_right _ _))]
      obtain ⟨k, hk⟩ := Nat.exists_eq_succ_of_ne_zero hex
      rw [hk] at hmag ⊢
      rw [Nat.succ_sub_one]
      rw [Nat.mul_succ, Nat.mul_comm] at hmag
      omega
    simp only [encodeFloat, hexact, if_neg hmax, hcode]

/-- Every floating-point format has a sign bit above its exponent and mantissa. -/
theorem fmtBits_float {f : Nat} (hf : fmtFloat f = true ∨ f = 0x23) : fmtBits f = (fsOf f).e + (fsOf f).m + 1 ∧ fmtInt f = false := by
  rcases hf with hf | rfl
  · simp only [fmtFloat, Bool.and_eq_true, decide_eq_true_eq] at hf
    obtain ⟨h1, h2⟩ := hf
    interval_cases f <;> decide
  · decide

/-- Settles O29: integer codes, floating-point codes, the clamping of integers and the nearest integer. -/
theorem formatsRoundTrip : Obligations.FormatsRoundTrip := by
  refine ⟨fun f code hf hc => ?_, fun f code hf hc hnan => ?_, intOf_encodeInt, rneQ_nearest⟩
  · obtain ⟨hlo, hhi, -⟩ := intOf_spec hf code
    rw [encodePlain, decodePlain, if_pos hf, if_pos hf, encodeInt_ofInt hlo hhi, intCode_intOf hf hc]
  · obtain ⟨hbits, hint⟩ := fmtBits_float hf
    have hne : ¬ fmtInt f = true := by rw [hint]; decide
    rw [decodePlain, if_neg hne] at hnan ⊢
    rw [encodePlain, if_neg hne]
    exact encodeFloat_decodeFloat (hbits ▸ hc) hnan

end Sys2Proof.Machine
end

section
/-! The delta codec (chapter 9): each mode's payload decodes to the XOR stream it codes, and the entry of a coded block is one
that no check refuses. -/

namespace Sys2Proof.Machine

/-! ### Padding and units of 16 bytes -/

theorem le_ceilDiv_mul (n : Nat) : n ≤ 16 * ceilDiv n 16 := by
  unfold ceilDiv
  omega

theorem length_padTo {n : Nat} {l : List Byte} (h : l.length ≤ n) : (padTo n l).length = n := by
  rw [padTo, List.length_append, List.length_replicate]
  omega

theorem take_padTo (n : Nat) (l : List Byte) : (padTo n l).take l.length = l := by
  rw [padTo, List.take_left]

/-! ### XNIB (R296) -/

theorem length_nibPairs (x : List Byte) : (nibPairs x).length = ceilDiv x.length 2 := by
  induction x using nibPairs.induct with
  | case1 => rfl
  | case2 a => simp [nibPairs, ceilDiv]
  | case3 a b r ih =>
    simp only [nibPairs, List.length_cons, ih, ceilDiv]
    omega

/-- The pair of an element holds it in its nibble. -/
theorem getD_nibPairs (x : List Byte) (hx : ∀ b ∈ x, b.toNat < 16) (i : Nat) (hi : i < x.length) :
    ((nibPairs x).getD (i / 2) 0).toNat / 16 ^ (i % 2) % 16 = (x.getD i 0).toNat := by
  induction x using nibPairs.induct generalizing i with
  | case1 => cases hi
  | case2 a =>
    have ha := hx a (by simp)
    obtain rfl : i = 0 := by simpa using hi
    have hlow : (a &&& 15#8).toNat = a.toNat % 16 := by
      rw [BitVec.toNat_and]
      exact Nat.and_two_pow_sub_one_eq_mod a.toNat 4
    simp only [nibPairs, Nat.zero_div, Nat.zero_mod, List.getD_cons_zero, pow_zero, Nat.div_one]
    change (a &&& 15#8).toNat % 16 = a.toNat
    omega
  | case3 a b r ih =>
    have ha := hx a (by simp)
    have hb := hx b (by simp)
    match i with
    | 0 =>
      simp only [nibPairs, Nat.zero_div, Nat.zero_mod, List.getD_cons_zero, pow_zero, Nat.div_one, BitVec.toNat_ofNat]
      omega
    | 1 =>
      simp only [nibPairs, List.getD_cons_zero, List.getD_cons_succ, BitVec.toNat_ofNat, Nat.reduceDiv, Nat.reduceMod, pow_one]
      omega
    | i + 2 =>
      have hdiv : (i + 2) / 2 = i / 2 + 1 := by omega
      have hmod : (i + 2) % 2 = i % 2 := by omega
      rw [nibPairs, hdiv, hmod, List.getD_cons_succ, List.getD_cons_succ, List.getD_cons_succ]
      exact ih (fun c hc => hx c (by simp [hc])) i (by simpa using hi)

theorem getD_padTo {n i : Nat} {l : List Byte} (h : i < l.length) : (padTo n l).getD i 0 = l.getD i 0 :=
  List.getD_append _ _ _ _ h

/-- A list is its elements in order. -/
theorem map_range_getD {x : List Byte} {f : Nat → Byte} (h : ∀ i, i < x.length → f i = x.getD i 0) :
    (List.range x.length).map f = x := by
  refine List.ext_getElem (by simp) fun i h1 h2 => ?_
  rw [List.getElem_map, List.getElem_range, h i h2, List.getD_eq_getElem _ _ h2]

theorem nibUnpairs_nibPairs (n : Nat) {x : List Byte} (hx : ∀ b ∈ x, b.toNat < 16) :
    nibUnpairs x.length (padTo n (nibPairs x)) = x := by
  refine map_range_getD fun i hi => ?_
  have hin : i / 2 < (nibPairs x).length := by
    rw [length_nibPairs, ceilDiv]
    omega
  rw [getD_padTo hin, getD_nibPairs x hx i hi, BitVec.ofNat_toNat, BitVec.setWidth_eq]

/-! ### XSPARSE (R297) -/

theorem mem_sparsePairs {x : List Byte} {q : Nat × Byte} : q ∈ sparsePairs x ↔ q.1 < x.length ∧ q.2 ≠ 0 ∧ x.getD q.1 0 = q.2 := by
  obtain ⟨j, b⟩ := q
  simp only [sparsePairs, List.mem_filterMap, List.mem_range]
  constructor
  · rintro ⟨i, hi, h⟩
    split at h
    · cases h
    · rename_i hne
      cases h
      exact ⟨hi, hne, rfl⟩
  · rintro ⟨hj, hne, rfl⟩
    exact ⟨j, hj, if_neg hne⟩

/-- The indices of the pairs rise. -/
theorem pairwise_sparsePairs (x : List Byte) : (sparsePairs x).Pairwise (fun p q => p.1 < q.1) := by
  refine (List.pairwise_lt_range).filterMap _ fun i j hij p hp q hq => ?_
  dsimp only at hp hq
  split at hp
  · cases hp
  · split at hq
    · cases hq
    · cases hp
      cases hq
      exact hij

theorem toBytes_two (n : Nat) : toBytes 2 n = [BitVec.ofNat 8 n, BitVec.ofNat 8 (n / 256)] := rfl

theorem ofBytes_toBytes_two {n : Nat} (h : n < 65536) : ofBytes (toBytes 2 n) = n := by
  simp only [toBytes_two, ofBytes, BitVec.toNat_ofNat]
  omega

/-- Rising pairs below `r` are read back as they were written. -/
theorem sparseDecode_pairs {r : Nat} (hr : r ≤ 4096) (ps : List (Nat × Byte)) (last : Option Nat) (rest : List Byte)
    (hlt : ∀ q ∈ ps, q.1 < r) (hlast : ∀ l, last = some l → ∀ q ∈ ps, l < q.1) (hord : ps.Pairwise (fun p q => p.1 < q.1)) :
    sparseDecode r ps.length last (ps.flatMap (fun (i, b) => toBytes 2 i ++ [b]) ++ rest) = some ps := by
  induction ps generalizing last with
  | nil => rfl
  | cons q ps ih =>
    obtain ⟨i, b⟩ := q
    obtain ⟨hhead, htail⟩ := List.pairwise_cons.mp hord
    have hi : i < r := hlt (i, b) (by simp)
    have hlow : (BitVec.ofNat 8 i).toNat + 256 * ((BitVec.ofNat 8 (i / 256)).toNat % 16) = i := by
      simp only [BitVec.toNat_ofNat]
      omega
    have hhigh : ¬ 16 ≤ (BitVec.ofNat 8 (i / 256)).toNat := by
      simp only [BitVec.toNat_ofNat]
      omega
    have hprev : (match (generalizing := false) last with | some l => decide (i ≤ l) | none => false) = false := by
      cases hl : last with
      | none => rfl
      | some l => exact decide_eq_false (Nat.not_le.mpr (hlast l hl (i, b) (by simp)))
    have hnext := ih (some i) (fun q hq => hlt q (by simp [hq])) (fun l hl q hq => by cases hl; exact hhead q hq) htail
    show sparseDecode r (ps.length + 1) last
      (BitVec.ofNat 8 i :: BitVec.ofNat 8 (i / 256) :: b :: (ps.flatMap (fun (i, b) => toBytes 2 i ++ [b]) ++ rest)) = _
    simp only [sparseDecode, hlow]
    rw [if_neg]
    · rw [hnext]
      rfl
    · have hge : ¬ r ≤ i := Nat.not_le.mpr hi
      simp only [hhigh, hge, decide_false, Bool.or_self, Bool.false_or]
      exact Bool.eq_false_iff.mp hprev

/-- The byte of an index among the pairs, 0 where none is listed. -/
theorem find_sparsePairs (x : List Byte) {i : Nat} (hi : i < x.length) :
    (match (sparsePairs x).find? (fun q => q.1 == i) with | some q => q.2 | none => 0) = x.getD i 0 := by
  cases hf : (sparsePairs x).find? (fun q => q.1 == i) with
  | some q =>
    obtain ⟨_, _, hq⟩ := mem_sparsePairs.mp (List.mem_of_find?_eq_some hf)
    have hqi : q.1 = i := by simpa using List.find?_some hf
    exact hq.symm.trans (by rw [hqi])
  | none =>
    by_contra hne
    have hmem : (i, x.getD i 0) ∈ sparsePairs x := mem_sparsePairs.mpr ⟨hi, Ne.symm hne, rfl⟩
    exact absurd (List.find?_eq_none.mp hf _ hmem) (by simp)

theorem length_sparseBytes (x : List Byte) : (sparseBytes x).length = 2 + 3 * (sparsePairs x).length := by
  simp only [sparseBytes, toBytes_two, List.length_append, List.length_flatMap, List.length_cons, List.length_nil]
  simp [Nat.mul_comm]

theorem decode_sparse (n : Nat) {x : List Byte} (hx : x.length ≤ 4096) :
    decodePayload 3 (sparseUnits (sparsePairs x).length) x.length (padTo n (sparseBytes x)) = some x := by
  have hlen : (sparsePairs x).length ≤ 4096 := by
    refine Nat.le_trans (List.length_filterMap_le _ _) ?_
    rwa [List.length_range]
  have htake : (padTo n (sparseBytes x)).take 2 = toBytes 2 (sparsePairs x).length := by
    rw [padTo, sparseBytes, toBytes_two]
    rfl
  have hdrop : (padTo n (sparseBytes x)).drop 2 =
      (sparsePairs x).flatMap (fun (i, b) => toBytes 2 i ++ [b]) ++ List.replicate (n - (sparseBytes x).length) 0 := by
    rw [padTo, sparseBytes, toBytes_two]
    rfl
  have hdec := sparseDecode_pairs hx (sparsePairs x) none (List.replicate (n - (sparseBytes x).length) 0)
    (fun q hq => (mem_sparsePairs.mp hq).1) (fun l hl => nomatch hl) (pairwise_sparsePairs x)
  simp only [decodePayload, htake, hdrop, ofBytes_toBytes_two (by omega : (sparsePairs x).length < 65536), bne_self_eq_false,
    Bool.false_eq_true, if_false, hdec, Option.map_some]
  exact congrArg some (map_range_getD fun i hi => find_sparsePairs x hi)

/-! ### ZRUN (R298, R300) -/

/-- The bytes that runs stand for. -/
def runBytes (l : List (Bool × List Byte)) : List Byte := l.flatMap Prod.snd

/-- Every run marked zero holds zeros only. -/
def ZeroRuns (l : List (Bool × List Byte)) : Prop := ∀ q ∈ l, q.1 = true → ∀ b ∈ q.2, b = 0

theorem groupRuns_spec (x : List Byte) : runBytes (groupRuns x) = x ∧ ∀ q ∈ groupRuns x, ∀ b ∈ q.2, (b == 0) = q.1 := by
  induction x with
  | nil => exact ⟨rfl, by simp [groupRuns]⟩
  | cons b r ih =>
    obtain ⟨hbytes, hzero⟩ := ih
    unfold groupRuns
    split
    · rename_i z l t ht
      rw [ht] at hbytes hzero
      have htail : l ++ runBytes t = r := hbytes
      have hhead := hzero (z, l) (by simp)
      have hrest : ∀ q ∈ t, ∀ b ∈ q.2, (b == 0) = q.1 := fun q hq => hzero q (by simp [hq])
      split
      · rename_i hz
        refine ⟨congrArg (b :: ·) htail, ?_⟩
        rintro q hq c hc
        rcases List.mem_cons.mp hq with rfl | hq
        · rcases List.mem_cons.mp hc with rfl | hc
          · exact hz.symm
          · exact hhead c hc
        · exact hrest q hq c hc
      · refine ⟨congrArg (b :: ·) htail, ?_⟩
        rintro q hq c hc
        rcases List.mem_cons.mp hq with rfl | hq
        · rw [List.mem_singleton.mp hc]
        · exact hzero q hq c hc
    · rename_i hnil
      rw [hnil] at hbytes
      refine ⟨congrArg (b :: ·) hbytes, ?_⟩
      rintro q hq c hc
      rw [List.mem_singleton.mp hq] at hc ⊢
      rw [List.mem_singleton.mp hc]

theorem runBytes_markRuns (first : Bool) (l : List (Bool × List Byte)) : runBytes (markRuns first l) = runBytes l := by
  induction l generalizing first with
  | nil => rfl
  | cons q r ih => exact congrArg (q.2 ++ ·) (ih false)

theorem zeroRuns_markRuns (first : Bool) {l : List (Bool × List Byte)} (h : ZeroRuns l) : ZeroRuns (markRuns first l) := by
  induction l generalizing first with
  | nil => exact h
  | cons q r ih =>
    intro p hp hz
    rcases List.mem_cons.mp hp with rfl | hp
    · exact h q (by simp) (Bool.and_eq_true_iff.mp hz).1
    · exact ih false (fun p hp => h p (by simp [hp])) p hp hz

theorem joinLits_spec {l : List (Bool × List Byte)} (h : ZeroRuns l) : runBytes (joinLits l) = runBytes l ∧ ZeroRuns (joinLits l) := by
  induction l with
  | nil => exact ⟨rfl, h⟩
  | cons q r ih =>
    obtain ⟨z, l⟩ := q
    obtain ⟨hbytes, hzero⟩ := ih (fun p hp => h p (by simp [hp]))
    have hown : z = true → ∀ b ∈ l, b = 0 := h (z, l) (by simp)
    have hcons : ∀ t, ZeroRuns t → ZeroRuns ((z, l) :: t) := fun t ht p hp hz => by
      rcases List.mem_cons.mp hp with rfl | hp
      · exact hown hz
      · exact ht p hp hz
    unfold joinLits
    split
    · rename_i m t hj
      rw [hj] at hbytes hzero
      split
      · rename_i hz
        subst hz
        exact ⟨congrArg (l ++ ·) hbytes, hcons _ hzero⟩
      · refine ⟨?_, fun p hp hz => ?_⟩
        · have hmt : m ++ runBytes t = runBytes r := hbytes
          show (l ++ m) ++ runBytes t = l ++ runBytes r
          rw [List.append_assoc, hmt]
        · rcases List.mem_cons.mp hp with rfl | hp
          · exact absurd hz Bool.false_ne_true
          · exact hzero p (by simp [hp]) hz
    · exact ⟨congrArg (l ++ ·) hbytes, hcons _ hzero⟩

/-- Coded bytes `z` that stand for `x`: whatever follows, the decoder reads `x` from them and goes on. -/
def ZrunReads (z x : List Byte) : Prop :=
  ∀ (f r : Nat) (rest l : List Byte) (c : Nat), zrunDecode f rest r = some (l, c) →
    zrunDecode (f + z.length) (z ++ rest) (r + x.length) = some (x ++ l, c + z.length)

theorem zrunReads_nil : ZrunReads [] [] := by
  intro f r rest l c h
  exact h

theorem ZrunReads.append {z z' x x' : List Byte} (h : ZrunReads z x) (h' : ZrunReads z' x') : ZrunReads (z ++ z') (x ++ x') := by
  intro f r rest l c hd
  have hboth := h _ _ _ _ _ (h' f r rest l c hd)
  rw [List.length_append, List.length_append, List.append_assoc, List.append_assoc, Nat.add_comm z.length, Nat.add_comm x.length,
    ← Nat.add_assoc, ← Nat.add_assoc, ← Nat.add_assoc]
  exact hboth

/-- More steps than a payload needs change nothing. -/
theorem zrunDecode_mono {f g : Nat} {p : List Byte} {r : Nat} {o : List Byte × Nat} (h : zrunDecode f p r = some o) (hfg : f ≤ g) :
    zrunDecode g p r = some o := by
  induction f generalizing g p r o with
  | zero =>
    cases r with
    | zero => simpa [zrunDecode] using h
    | succ r => simp [zrunDecode] at h
  | succ f ih =>
    obtain ⟨g, rfl⟩ := Nat.exists_eq_add_of_le' (Nat.le_trans (Nat.succ_le_succ (Nat.zero_le f)) hfg)
    cases r with
    | zero => simpa [zrunDecode] using h
    | succ r =>
      cases p with
      | nil => simp [zrunDecode] at h
      | cons t rest =>
        have hle : f ≤ g := by omega
        simp only [zrunDecode] at h ⊢
        split at h
        · cases h
        · rename_i hr
          rw [if_neg hr]
          split at h
          · rename_i ht
            rw [if_pos ht]
            obtain ⟨v, hv, hvo⟩ := Option.map_eq_some_iff.mp h
            rw [ih hv hle, Option.map_some, hvo]
          · rename_i ht
            rw [if_neg ht]
            split at h
            · cases h
            · rename_i hl
              rw [if_neg hl]
              obtain ⟨v, hv, hvo⟩ := Option.map_eq_some_iff.mp h
              rw [ih hv hle, Option.map_some, hvo]

/-- A token of `n` zeros. -/
theorem zrunReads_zero {n : Nat} (h1 : 1 ≤ n) (h2 : n ≤ 128) : ZrunReads [BitVec.ofNat 8 (n - 1)] (List.replicate n 0) := by
  intro f r rest l c hd
  have ht : (BitVec.ofNat 8 (n - 1)).toNat = n - 1 := by
    rw [BitVec.toNat_ofNat]
    omega
  obtain ⟨k, hk⟩ : ∃ k, r + (List.replicate n (0 : Byte)).length = k + 1 := ⟨r + n - 1, by rw [List.length_replicate]; omega⟩
  have hkr : k + 1 - n = r := by
    rw [List.length_replicate] at hk
    omega
  have hn : (n - 1) % 128 + 1 = n := by omega
  have hfit : ¬ k + 1 < n := by
    rw [List.length_replicate] at hk
    omega
  rw [hk, List.singleton_append, List.length_singleton]
  simp only [zrunDecode, ht, hn, hkr, if_neg hfit, if_pos (by omega : n - 1 < 128), hd, Option.map_some]

/-- A token of literals. -/
theorem zrunReads_lit {h : List Byte} (h1 : 1 ≤ h.length) (h2 : h.length ≤ 128) : ZrunReads (BitVec.ofNat 8 (127 + h.length) :: h) h := by
  intro f r rest l c hd
  have ht : (BitVec.ofNat 8 (127 + h.length)).toNat = 127 + h.length := by
    rw [BitVec.toNat_ofNat]
    omega
  obtain ⟨k, hk⟩ : ∃ k, r + h.length = k + 1 := ⟨r + h.length - 1, by omega⟩
  have hkr : k + 1 - h.length = r := by omega
  have hn : (127 + h.length) % 128 + 1 = h.length := by omega
  have hbytes : ¬ (h ++ rest).length < h.length := by
    rw [List.length_append]
    omega
  have hmono : zrunDecode (f + h.length) rest r = some (l, c) := zrunDecode_mono hd (by omega)
  rw [hk, List.cons_append, List.length_cons, ← Nat.add_assoc]
  simp only [zrunDecode, ht, hn, hkr, if_neg (by omega : ¬ k + 1 < h.length), if_neg (by omega : ¬ 127 + h.length < 128), if_neg hbytes,
    List.drop_left, List.take_left, hmono, Option.map_some]
  rw [Nat.add_assoc c, Nat.add_comm 1]

theorem zrunReads_zeroTokens (n : Nat) : ZrunReads (zeroTokens n) (List.replicate n 0) := by
  have hfull : ∀ k, ZrunReads (List.replicate k 0x7F) (List.replicate (128 * k) 0) := fun k => by
    induction k with
    | zero => exact zrunReads_nil
    | succ k ih =>
      have h := (zrunReads_zero (n := 128) (by omega) (by omega)).append ih
      rw [← List.replicate_add, Nat.add_comm 128, ← Nat.mul_succ] at h
      exact h
  have hlast : ZrunReads (if n % 128 = 0 then [] else [BitVec.ofNat 8 (n % 128 - 1)]) (List.replicate (n % 128) 0) := by
    split
    · rename_i h
      rw [h]
      exact zrunReads_nil
    · exact zrunReads_zero (by omega) (by omega)
  have h := (hfull (n / 128)).append hlast
  rwa [← List.replicate_add, Nat.div_add_mod] at h

theorem zrunReads_litTokens (n : Nat) (l : List Byte) (hl : l.length ≤ n) : ZrunReads (litTokens n l) l := by
  induction n generalizing l with
  | zero =>
    rw [List.length_eq_zero_iff.mp (Nat.le_zero.mp hl)]
    exact zrunReads_nil
  | succ n ih =>
    cases l with
    | nil => exact zrunReads_nil
    | cons b r =>
      have hlen : ((b :: r).take 128).length = min 128 (r.length + 1) := by rw [List.length_take, List.length_cons]
      have hrest := ih ((b :: r).drop 128) (by rw [List.length_drop]; simp at hl ⊢; omega)
      have h := (zrunReads_lit (h := (b :: r).take 128) (by omega) (by omega)).append hrest
      rwa [List.take_append_drop] at h

/-- The coding of runs is read back as the bytes they stand for. -/
theorem zrunReads_runs {l : List (Bool × List Byte)} (h : ZeroRuns l) :
    ZrunReads (l.flatMap fun (z, l) => if z then zeroTokens l.length else litTokens l.length l) (runBytes l) := by
  induction l with
  | nil => exact zrunReads_nil
  | cons q r ih =>
    obtain ⟨z, l⟩ := q
    have hrest := ih (fun p hp => h p (by simp [hp]))
    have hown : z = true → ∀ b ∈ l, b = 0 := h (z, l) (by simp)
    have hhead : ZrunReads (if z then zeroTokens l.length else litTokens l.length l) l := by
      split
      · rename_i hz
        have hl : List.replicate l.length 0 = l := (List.eq_replicate_of_mem (hown hz)).symm
        have := zrunReads_zeroTokens l.length
        rwa [hl] at this
      · exact zrunReads_litTokens _ _ (le_refl _)
    exact hhead.append hrest

theorem zrunReads_zrunBytes (x : List Byte) : ZrunReads (zrunBytes x) x := by
  obtain ⟨hbytes, hzero⟩ := groupRuns_spec x
  have hruns : ZeroRuns (groupRuns x) := fun q hq hz b hb => by simpa [hz] using hzero q hq b hb
  obtain ⟨hjoin, hjz⟩ := joinLits_spec (zeroRuns_markRuns true hruns)
  have h := zrunReads_runs hjz
  rwa [hjoin, runBytes_markRuns, hbytes] at h

theorem decode_zrun {n : Nat} (x : List Byte) (hn : (zrunBytes x).length ≤ n) :
    decodePayload 4 (ceilDiv (zrunBytes x).length 16) x.length (padTo n (zrunBytes x)) = some x := by
  have hread := zrunReads_zrunBytes x (n - (zrunBytes x).length) 0 (List.replicate (n - (zrunBytes x).length) 0) [] 0
    (by cases n - (zrunBytes x).length <;> rfl)
  rw [Nat.zero_add, Nat.zero_add, Nat.sub_add_cancel hn, List.append_nil, ← padTo] at hread
  simp only [decodePayload, length_padTo hn, hread, if_true]

/-! ### The coder's choice (R299) -/

/-- What a candidate of R299 has: a payload that fits its length and decodes to the stream, in a mode other than RAW. -/
def Codes (x : List Byte) (c : Nat × Nat × List Byte) : Prop :=
  c.2.2.length ≤ 16 * c.2.1 ∧ decodePayload c.1 c.2.1 x.length (padTo (16 * c.2.1) c.2.2) = some x ∧
    ((c.1 = 2 ∧ c.2.1 = xnibUnits x.length) ∨ c.1 = 3 ∨ c.1 = 4) ∧ 1 ≤ c.2.1

theorem codes_xnib {x : List Byte} (hx : x ≠ []) (h16 : ∀ b ∈ x, b.toNat < 16) : Codes x (2, xnibUnits x.length, nibPairs x) := by
  have hpos := List.length_pos_iff.mpr hx
  refine ⟨?_, ?_, .inl ⟨rfl, rfl⟩, ?_⟩
  · show (nibPairs x).length ≤ 16 * xnibUnits x.length
    rw [length_nibPairs]
    exact le_ceilDiv_mul _
  · exact congrArg some (nibUnpairs_nibPairs _ h16)
  · show 1 ≤ xnibUnits x.length
    unfold xnibUnits ceilDiv
    omega

theorem codes_sparse {x : List Byte} (hx : x.length ≤ 4096) :
    Codes x (3, sparseUnits (sparsePairs x).length, sparseBytes x) := by
  refine ⟨?_, decode_sparse _ hx, .inr (.inl rfl), ?_⟩
  · show (sparseBytes x).length ≤ 16 * sparseUnits _
    rw [length_sparseBytes]
    exact le_ceilDiv_mul _
  · show 1 ≤ sparseUnits _
    unfold sparseUnits ceilDiv
    omega

theorem zrunBytes_ne_nil {x : List Byte} (hx : x ≠ []) : zrunBytes x ≠ [] := by
  intro hz
  have h := zrunReads_zrunBytes x 0 0 [] [] 0 rfl
  rw [hz] at h
  obtain ⟨k, hk⟩ := Nat.exists_eq_succ_of_ne_zero (List.length_pos_iff.mpr hx).ne'
  rw [hk] at h
  simp [zrunDecode] at h

theorem codes_zrun {x : List Byte} (hx : x ≠ []) : Codes x (4, ceilDiv (zrunBytes x).length 16, zrunBytes x) := by
  have hpos := List.length_pos_iff.mpr (zrunBytes_ne_nil hx)
  refine ⟨le_ceilDiv_mul _, decode_zrun x (le_ceilDiv_mul _), .inr (.inr rfl), ?_⟩
  show 1 ≤ ceilDiv _ 16
  unfold ceilDiv
  omega

/-- The shortest of several is one of them. -/
theorem shortest_mem {α : Type} (less : α → α → Prop) [DecidableRel less] (b : α) (l : List α) :
    l.foldl (fun b c => if less c b then c else b) b ∈ b :: l := by
  induction l generalizing b with
  | nil => simp
  | cons c l ih =>
    rw [List.foldl_cons]
    split
    · exact List.mem_cons_of_mem _ (ih c)
    · rcases List.mem_cons.mp (ih b) with h | h
      · rw [h]
        simp
      · simp [h]

/-- A block is absent, RAW, or a candidate that is no longer than the limit. -/
theorem encodeBlock_cases {variant x : List Byte} (hx : x ≠ []) (hr : x.length ≤ 4096) :
    (x = List.replicate x.length 0 ∧ encodeBlock variant x = (0, 0, [])) ∨
    encodeBlock variant x = (1, rawUnits x.length, padTo (16 * rawUnits x.length) variant) ∨
    ∃ c, Codes x c ∧ c.2.1 ≤ limUnits x.length ∧ encodeBlock variant x = (c.1, c.2.1, padTo (16 * c.2.1) c.2.2) := by
  unfold encodeBlock
  dsimp only
  split
  · rename_i h0
    refine .inl ⟨List.eq_replicate_of_mem fun b hb => ?_, rfl⟩
    simpa using List.all_eq_true.mp h0 b hb
  · generalize hcands : _ ++ [(4, ceilDiv (zrunBytes x).length 16, zrunBytes x)] = cands
    have hcodes : ∀ c ∈ cands, Codes x c := by
      intro c hc
      rw [← hcands] at hc
      simp only [List.mem_append, List.mem_singleton, List.mem_ite_nil_right] at hc
      rcases hc with (⟨h16, rfl⟩ | ⟨_, rfl⟩) | rfl
      · exact codes_xnib hx fun b hb => by simpa using List.all_eq_true.mp h16 b hb
      · exact codes_sparse hr
      · exact codes_zrun hx
    have hhead : Codes x (cands.headD (4, ceilDiv (zrunBytes x).length 16, zrunBytes x)) := by
      cases cands with
      | nil => exact codes_zrun hx
      | cons c l => exact hcodes c (by simp)
    generalize hbest : cands.foldl _ _ = best
    have hbestc : Codes x best := by
      have hmem := shortest_mem (fun c b : Nat × Nat × List Byte => c.2.1 < b.2.1)
        (cands.headD (4, ceilDiv (zrunBytes x).length 16, zrunBytes x)) cands
      rw [hbest] at hmem
      rcases List.mem_cons.mp hmem with h | h
      · rw [h]
        exact hhead
      · exact hcodes _ h
    split
    · exact .inr (.inl rfl)
    · rename_i hle
      exact .inr (.inr ⟨best, hbestc, Nat.not_lt.mp hle, rfl⟩)

/-! ### The entry (R293, R304) -/

theorem testBit_false_of_lt {v n i : Nat} (hv : v < 2 ^ n) (hi : n ≤ i) : v.testBit i = false :=
  Nat.testBit_lt_two_pow (Nat.lt_of_lt_of_le hv (Nat.pow_le_pow_right (by decide) hi))

theorem getLsbD_mkEntry (mode len off i : Nat) :
    (mkEntry mode len off).getLsbD i = (decide (i < 64) && (decide (52 ≤ i) && len.testBit (i - 52) ||
      decide (48 ≤ i) && mode.testBit (i - 48) || off.testBit i)) := by
  simp only [mkEntry, BitVec.getLsbD_or, getLsbD_at64, Nat.zero_le, decide_true, Bool.true_and, Nat.sub_zero, Bool.and_or_distrib_left]

theorem entry_fields {mode len off : Nat} (hm : mode < 2 ^ 4) (hl : len < 2 ^ 9) (ho : off < 2 ^ 48) :
    entryMode (mkEntry mode len off) = mode ∧ entryLen (mkEntry mode len off) = len ∧ entryOffset (mkEntry mode len off) = off ∧
      fldN (mkEntry mode len off) 61 3 = 0 := by
  refine ⟨?_, ?_, ?_, ?_⟩
  · refine (fldN_eq_mod (v := mode) fun i hi => ?_).trans (Nat.mod_eq_of_lt hm)
    rw [getLsbD_mkEntry, testBit_false_of_lt ho (by omega)]
    simp [show 48 + i < 64 by omega, show ¬ 52 ≤ 48 + i by omega]
  · refine (fldN_eq_mod (v := len) fun i hi => ?_).trans (Nat.mod_eq_of_lt hl)
    rw [getLsbD_mkEntry, testBit_false_of_lt ho (by omega), testBit_false_of_lt hm (by omega : 4 ≤ 52 + i - 48)]
    simp [show 52 + i < 64 by omega]
  · refine (fldN_eq_mod (v := off) fun i hi => ?_).trans (Nat.mod_eq_of_lt ho)
    rw [getLsbD_mkEntry]
    simp [show i < 64 by omega, show ¬ 48 ≤ i by omega, show ¬ 52 ≤ i by omega]
  · refine (fldN_eq_mod (v := 0) fun i hi => ?_).trans (Nat.zero_mod _)
    rw [getLsbD_mkEntry, testBit_false_of_lt ho (by omega), testBit_false_of_lt hm (by omega : 4 ≤ 61 + i - 48),
      testBit_false_of_lt hl (by omega : 9 ≤ 61 + i - 52)]
    simp

/-- Settles O30, by what the coder chooses: nothing for a stream of zeros, RAW, or a candidate. -/
theorem blocksDecode : Obligations.BlocksDecode := by
  intro variant x off hx hr hv hoff hal
  have hlim : limUnits x.length < 2 ^ 9 := by
    unfold limUnits rawUnits ceilDiv
    omega
  have hraw : rawUnits x.length < 2 ^ 9 := by
    unfold rawUnits ceilDiv
    omega
  obtain ⟨hzero, henc⟩ | henc | ⟨⟨mode, len, p⟩, ⟨hfit, hdec, hmode, hpos⟩, hle, henc⟩ := encodeBlock_cases (variant := variant) hx hr
  · obtain ⟨hem, hel, heo, he0⟩ := entry_fields (mode := 0) (len := 0) (by decide) (by decide) hoff
    refine ⟨0, 0, [], henc, rfl, congrArg some hzero.symm, ?_, hem, hel, heo⟩
    simp [entryBad, he0, hem, hel]
  · obtain ⟨hem, hel, heo, he0⟩ := entry_fields (mode := 1) (len := rawUnits x.length) (by decide) hraw hoff
    refine ⟨1, rawUnits x.length, _, henc, length_padTo (hv ▸ le_ceilDiv_mul _), ?_, ?_, hem, hel, heo⟩
    · rw [← hv]
      exact congrArg some (take_padTo _ variant)
    · simp [entryBad, he0, hem, hel, heo, hal]
  · dsimp only at hfit hdec hmode hpos hle
    have hm4 : mode < 2 ^ 4 := by omega
    obtain ⟨hem, hel, heo, he0⟩ := entry_fields hm4 (Nat.lt_of_le_of_lt hle hlim) hoff
    have hnot1 : mode ≠ 1 := by omega
    refine ⟨mode, len, _, henc, length_padTo hfit, ?_, ?_, hem, hel, heo⟩
    · rw [if_neg hnot1]
      exact hdec
    · have hlen : ¬ limUnits x.length < len := Nat.not_lt.mpr hle
      rcases hmode with ⟨rfl, rfl⟩ | rfl | rfl <;> simp [entryBad, he0, hem, hel, heo, hal, hlen] <;> omega

end Sys2Proof.Machine
end

section
/-! The walk of a descriptor (R93, R117): element numbers and index vectors name each other, and so do allocation and logical
indices under a permutation that R124 accepts. -/

namespace Sys2Proof.Machine

/-! ### Numbers in a mixed radix -/

/-- The number of vectors below `r` places with extents `e`: the weight of place `r`. -/
def weight (e : Nat → Nat) : Nat → Nat
  | 0 => 1
  | r + 1 => weight e r * e r

/-- The number whose digits at the first `r` places are `i`. -/
def numberOf (e i : Nat → Nat) : Nat → Nat
  | 0 => 0
  | r + 1 => numberOf e i r + weight e r * i r

/-- The digit of `n` at place `k`. -/
def digit (e : Nat → Nat) (n k : Nat) : Nat := n / weight e k % e k

theorem numberOf_digit (e : Nat → Nat) (n r : Nat) : numberOf e (digit e n) r + weight e r * (n / weight e r) = n := by
  induction r with
  | zero => simp [numberOf, weight]
  | succ r ih =>
    have hsplit := Nat.div_add_mod (n / weight e r) (e r)
    calc numberOf e (digit e n) (r + 1) + weight e (r + 1) * (n / weight e (r + 1))
        = numberOf e (digit e n) r + weight e r * (e r * (n / weight e r / e r) + n / weight e r % e r) := by
          rw [numberOf, weight, digit, ← Nat.div_div_eq_div_mul]
          ring
      _ = n := by rw [hsplit, ih]

theorem numberOf_congr {e i j : Nat → Nat} {r : Nat} (h : ∀ k, k < r → i k = j k) : numberOf e i r = numberOf e j r := by
  induction r with
  | zero => rfl
  | succ r ih => rw [numberOf, numberOf, ih fun k hk => h k (by omega), h r (by omega)]

theorem numberOf_lt {e i : Nat → Nat} {r : Nat} (h : ∀ k, k < r → i k < e k) : numberOf e i r < weight e r := by
  induction r with
  | zero => exact Nat.one_pos
  | succ r ih =>
    have hlow := ih fun k hk => h k (by omega)
    calc numberOf e i r + weight e r * i r < weight e r + weight e r * i r := by omega
      _ = weight e r * (i r + 1) := by ring
      _ ≤ weight e r * e r := Nat.mul_le_mul_left _ (h r (by omega))

theorem weight_dvd (e : Nat → Nat) {k r : Nat} (h : k ≤ r) : weight e k ∣ weight e r := by
  induction r with
  | zero => rw [Nat.le_zero.mp h]
  | succ r ih =>
    rcases Nat.lt_or_eq_of_le h with hlt | rfl
    · exact (ih (Nat.le_of_lt_succ hlt)).mul_right (e r)
    · exact dvd_refl _

/-- The places from `k` on add a multiple of the weight of place `k`. -/
theorem numberOf_split (e i : Nat → Nat) {k r : Nat} (h : k ≤ r) : ∃ q, numberOf e i r = numberOf e i k + weight e k * q := by
  induction r with
  | zero => exact ⟨0, by rw [Nat.le_zero.mp h, Nat.mul_zero, Nat.add_zero]⟩
  | succ r ih =>
    rcases Nat.lt_or_eq_of_le h with hlt | rfl
    · obtain ⟨q, hq⟩ := ih (Nat.le_of_lt_succ hlt)
      obtain ⟨v, hv⟩ := weight_dvd e (Nat.le_of_lt_succ hlt)
      exact ⟨q + v * i r, by rw [numberOf, hq, hv]; ring⟩
    · exact ⟨0, by simp⟩

theorem digit_numberOf {e i : Nat → Nat} {r : Nat} (h : ∀ k, k < r → i k < e k) {k : Nat} (hk : k < r) :
    digit e (numberOf e i r) k = i k := by
  obtain ⟨q, hq⟩ := numberOf_split e i (Nat.succ_le_of_lt hk)
  have hlow : numberOf e i k < weight e k := numberOf_lt fun j hj => h j (by omega)
  have hform : numberOf e i r = numberOf e i k + weight e k * (i k + e k * q) := by
    rw [hq, numberOf, weight]
    ring
  rw [digit, hform, Nat.add_mul_div_left _ _ (Nat.zero_lt_of_lt hlow), Nat.div_eq_of_lt hlow, Nat.zero_add, Nat.add_mul_mod_self_left,
    Nat.mod_eq_of_lt (h k hk)]

/-- A number below the weight of a place has every extent before it above 0. -/
theorem pos_of_weight_pos {e : Nat → Nat} {r k : Nat} (h : 0 < weight e r) (hk : k < r) : 0 < e k := by
  induction r with
  | zero => omega
  | succ r ih =>
    rcases Nat.lt_or_eq_of_le (Nat.le_of_lt_succ hk) with hlt | rfl
    · exact ih (Nat.pos_of_mul_pos_right h) hlt
    · exact Nat.pos_of_mul_pos_left h

/-! ### The walk (R117) -/

theorem Dsc.dims_eq {d : Desc} (h : Dsc.rank d ≤ 8) : Dsc.dims d = List.range (Dsc.rank d) := by
  rw [Dsc.dims, Nat.min_eq_left h]

theorem Dsc.count_eq {d : Desc} (h : Dsc.rank d ≤ 8) : Dsc.count d = weight (Dsc.ext d) (Dsc.rank d) := by
  rw [Dsc.count, Dsc.dims_eq h]
  generalize Dsc.rank d = r
  induction r with
  | zero => rfl
  | succ r ih => rw [List.range_succ, List.foldl_append, ih]; rfl

theorem Dsc.unrank_eq {d : Desc} (h : Dsc.rank d ≤ 8) (n : Nat) :
    Dsc.unrank d n = (List.range (Dsc.rank d)).map (digit (Dsc.ext d) n) := by
  have hfold : ∀ r, (List.range r).foldl (fun (acc : List Nat × Nat) k => (acc.1 ++ [acc.2 % Dsc.ext d k], acc.2 / Dsc.ext d k)) ([], n) =
      ((List.range r).map (digit (Dsc.ext d) n), n / weight (Dsc.ext d) r) := fun r => by
    induction r with
    | zero => simp [weight]
    | succ r ih => rw [List.range_succ, List.foldl_append, ih, List.map_append, weight, ← Nat.div_div_eq_div_mul]; rfl
  rw [Dsc.unrank, Dsc.dims_eq h, hfold]

theorem Dsc.rankOf_eq {d : Desc} (h : Dsc.rank d ≤ 8) (i : List Nat) :
    Dsc.rankOf d i = numberOf (Dsc.ext d) (fun k => i.getD k 0) (Dsc.rank d) := by
  have hfold : ∀ r x, (List.range r).foldr (fun k n => n * Dsc.ext d k + i.getD k 0) x =
      numberOf (Dsc.ext d) (fun k => i.getD k 0) r + weight (Dsc.ext d) r * x := fun r => by
    induction r with
    | zero => intro x; simp [numberOf, weight]
    | succ r ih =>
      intro x
      rw [List.range_succ, List.foldr_append, ih, numberOf, weight]
      simp only [List.foldr_cons, List.foldr_nil]
      ring
  rw [Dsc.rankOf, Dsc.dims_eq h, hfold, Nat.mul_zero, Nat.add_zero]

theorem getD_map_range {f : Nat → Nat} {r k : Nat} (hk : k < r) : ((List.range r).map f).getD k 0 = f k := by
  rw [List.getD_eq_getElem _ _ (by simpa using hk), List.getElem_map, List.getElem_range]

/-- A vector of `r` places is its places in order. -/
theorem map_range_of_getD {i : List Nat} {r : Nat} {f : Nat → Nat} (hl : i.length = r) (h : ∀ k, k < r → f k = i.getD k 0) :
    (List.range r).map f = i := by
  refine List.ext_getElem (by simp [hl]) fun k h1 h2 => ?_
  rw [List.getElem_map, List.getElem_range, h k (hl ▸ h2), List.getD_eq_getElem _ _ h2]

/-! ### Permutations (R93, R124) -/

/-- A permutation that R124 accepts names each dimension once. -/
theorem Dsc.p_spec {d : Desc} (h : Dsc.rank d ≤ 8) (hp : chkPerm d = false) :
    (∀ k, k < Dsc.rank d → Dsc.p d k < Dsc.rank d) ∧
      ∀ j k, j < Dsc.rank d → k < Dsc.rank d → Dsc.p d j = Dsc.p d k → j = k := by
  unfold Dsc.p
  cases hen : Dsc.permen d with
  | false => exact ⟨fun k hk => hk, fun j k _ _ hjk => hjk⟩
  | true =>
    simp only [chkPerm, hen, if_true, Bool.or_eq_false_iff, Bool.not_eq_false', List.all_eq_true, List.contains_iff_mem, Dsc.dims_eq h] at hp
    have hsub : List.range (Dsc.rank d) ⊆ (List.range (Dsc.rank d)).map (Dsc.permF d) := fun k hk => hp.1 k hk
    have hperm := (List.subperm_of_subset List.nodup_range hsub).perm_of_length_le (by simp)
    have hinj := List.inj_on_of_nodup_map (hperm.nodup_iff.mp List.nodup_range)
    refine ⟨fun k hk => ?_, fun j k hj hk hjk => ?_⟩
    · exact List.mem_range.mp (hperm.mem_iff.mpr (List.mem_map_of_mem (List.mem_range.mpr hk)))
    · exact hinj (List.mem_range.mpr hj) (List.mem_range.mpr hk) hjk

theorem Dsc.alloc_logical {d : Desc} (h : Dsc.rank d ≤ 8) (hp : chkPerm d = false) {i : List Nat} (hl : i.length = Dsc.rank d) :
    Dsc.alloc d (Dsc.logical d i) = i := by
  obtain ⟨hlt, hinj⟩ := Dsc.p_spec h hp
  rw [Dsc.alloc, Dsc.logical, Dsc.dims_eq h]
  refine map_range_of_getD hl fun k hk => ?_
  rw [getD_map_range (hlt k hk)]
  split
  · rename_i j hj
    have hjk : Dsc.p d j = Dsc.p d k := by simpa using List.find?_some hj
    rw [hinj j k (List.mem_range.mp (List.mem_of_find?_eq_some hj)) hk hjk]
  · rename_i hnone
    exact absurd (List.find?_eq_none.mp hnone k (List.mem_range.mpr hk)) (by simp)

/-- Settles O31: the digits of a number and the number of digits, and the inverse of a permutation. -/
theorem walkVisitsEveryElement : Obligations.WalkVisitsEveryElement := by
  intro d h
  refine ⟨fun n hn => ?_, fun i hl hi => ⟨?_, ?_, fun hp => Dsc.alloc_logical h hp hl⟩⟩
  · rw [Dsc.count_eq h] at hn
    rw [Dsc.unrank_eq h]
    refine ⟨?_, by simp, fun k hk => ?_⟩
    · have hnum := numberOf_digit (Dsc.ext d) n (Dsc.rank d)
      rw [Nat.div_eq_of_lt hn, Nat.mul_zero, Nat.add_zero] at hnum
      rw [Dsc.rankOf_eq h, numberOf_congr fun k hk => getD_map_range hk, hnum]
    · rw [getD_map_range hk]
      exact Nat.mod_lt _ (pos_of_weight_pos (Nat.zero_lt_of_lt hn) hk)
  · rw [Dsc.rankOf_eq h, Dsc.count_eq h]
    exact numberOf_lt hi
  · rw [Dsc.rankOf_eq h, Dsc.unrank_eq h]
    exact map_range_of_getD hl fun k hk => digit_numberOf hi hk

end Sys2Proof.Machine
end

section
/-! What an element of a walk writes (R97, R99, R100, R105, R186). -/

namespace Sys2Proof.Machine

/-! ### Where a destination element stands -/

theorem vaOf_of_lt (h : Int) (h0 : 0 ≤ h) (h1 : h < 2 ^ 53) : 2 * vaOf (h / 2) + (h % 2).toNat = h.toNat := by
  have hm : h / 2 % (2 ^ 52 : Nat) = h / 2 := Int.emod_eq_of_lt (by omega) (by omega)
  simp only [vaOf, hm]
  omega

theorem Env.dstAddr_of_valid (e : Env) (d : Desc) (a : List Int) (n : Nat) (hb : Dsc.blist d = false)
    (hv : Dsc.validA d a = true) (h0 : 0 ≤ Dsc.nibAddr d a) (h1 : Dsc.nibAddr d a < 2 ^ 53) :
    e.dstAddr d a n = .ok (some (Dsc.nibAddr d a).toNat) := by
  simp [Env.dstAddr, hb, hv, vaOf_of_lt _ h0 h1]

theorem Env.dstAddr_of_not_valid (e : Env) (d : Desc) (a : List Int) (n : Nat) (hb : Dsc.blist d = false)
    (hv : Dsc.validA d a = false) : e.dstAddr d a n = .ok none := by
  simp [Env.dstAddr, hb, hv]

/-! ### The source element of a dense source that holds plain codes -/

theorem Env.srcEl_of_not_valid (e : Env) (k : NeedKind) (d : Desc) (a : List Int) (n : Nat) (hb : Dsc.blist d = false)
    (hv : Dsc.validA d a = false) : e.srcEl k d a n = .ok (groutEl d) := by
  simp [Env.srcEl, hb, hv]

theorem Env.srcEl_of_code (e : Env) (k : NeedKind) (d : Desc) (a : List Int) (n c : Nat) (hb : Dsc.blist d = false)
    (hmx : Dsc.mx d = false) (hrq : Dsc.rq d = false) (hv : Dsc.validA d a = true)
    (hc : e.codeAt k d (Dsc.nibAddr d a) = .ok c) : e.srcEl k d a n = .ok { oob := false, code := c } := by
  simp [Env.srcEl, hb, hmx, hrq, hv, hc, Rd.map, Rd.bind]

/-- What casts nothing writes codes of one format, and no side sums. -/
theorem XI.noCast_spec {xi : XI} (h : xi.noCast = true) : Dsc.fmt xi.a = Dsc.fmt xi.b ∧ xi.sums = false := by
  simp only [XI.noCast, Bool.and_eq_true, beq_iff_eq, Bool.not_eq_true'] at h
  obtain ⟨⟨⟨hf, _⟩, _⟩, hs⟩ := h
  exact ⟨hf, hs⟩

/-! ### Units -/

/-- A unit of FILL in a plain destination is one element. -/
theorem XI.fillUnit_plain (xi : XI) (e : Env) (acc : WAcc) (n : Nat) (hmx : Dsc.mx xi.b = false)
    (hrq : Dsc.rq xi.b = false) (o : Option Nat)
    (hd : e.dstAddr xi.b (Dsc.aOf xi.b (Dsc.unrank xi.b n)) n = .ok o) :
    xi.fillUnit e acc n = .ok (match o with
      | some h => { acc := acc, halves := fmtBits (Dsc.fmt xi.b) / 4,
                    writes := [{ at_ := h, bits := fmtBits (Dsc.fmt xi.b),
                                 code := (Dsc.grout xi.b).toNat % 2 ^ fmtBits (Dsc.fmt xi.b) }] }
      | none => { acc := acc, dropped := 1 }) := by
  cases o <;> simp [XI.fillUnit, hmx, hrq, hd, Rd.all, Rd.map, Rd.bind, groutEl]

/-- The pair of an element of a MOVE in its one pass: a source element out of bounds is skipped or stands for the source's
GROUT. -/
theorem XI.pair_move (xi : XI) (e : Env) (n : Nat) (hop : xi.op = 0x40) (hp : xi.pass = 1)
    (hba : Dsc.blist xi.a = false) (o : Option Nat) (el : SrcEl)
    (hd : e.dstAddr xi.b (Dsc.aOf xi.b (Dsc.unrank xi.b n)) n = .ok o)
    (hs : ∀ pos, e.srcEl .data xi.a (Dsc.aOf xi.a (Dsc.alloc xi.a (Dsc.logical xi.b (Dsc.unrank xi.b n)))) pos = .ok el) :
    let oob := !Dsc.validA xi.a (Dsc.aOf xi.a (Dsc.alloc xi.a (Dsc.logical xi.b (Dsc.unrank xi.b n))))
    let want := !oob || !Dsc.skip xi.b
    xi.pair e n = .ok { kind := .data, el := el, dst := if want then o else none,
                        x := Dsc.logical xi.b (Dsc.unrank xi.b n), drop := want && o.isNone, fill := oob } := by
  have h3 : ¬ (0x40 : Nat) = 0x43 := by decide
  have h4 : ¬ (0x40 : Nat) = 0x44 := by decide
  simp [XI.pair, XI.source, hop, hp, hba, hd, hs, Rd.map, Rd.bind]

/-- A unit of a plain destination is one element; what casts nothing writes the source's code. -/
theorem XI.dstUnit_noCast (xi : XI) (e : Env) (acc : WAcc) (n : Nat) (hmx : Dsc.mx xi.b = false)
    (hrq : Dsc.rq xi.b = false) (hdn : xi.down = false) (hc : xi.noCast = true) (p : Pair) (hp : xi.pair e n = .ok p) :
    xi.dstUnit e acc n = .ok (match p.dst with
      | some h => { acc := acc, dropped := if p.drop then 1 else 0, filled := if p.fill then 1 else 0,
                    writes := [{ at_ := h, bits := fmtBits (Dsc.fmt xi.b), code := p.el.code }],
                    halves := fmtBits (Dsc.fmt xi.b) / 4 }
      | none => { acc := acc, dropped := if p.drop then 1 else 0, filled := if p.fill then 1 else 0 }) := by
  obtain ⟨_, hsums⟩ := XI.noCast_spec hc
  rcases hdst : p.dst with _ | h <;>
    simp [XI.dstUnit, XI.plainUnit, XI.code, hmx, hrq, hdn, hc, hp, hdst, hsums, Rd.map, Rd.bind]

/-- Settles O32: the destination element's address is known, or it is out of the valid range; then the unit's write. -/
theorem elementsWritten : Obligations.ElementsWritten := by
  intro xi e acc n b a h bits src hmx hrq hbl h0 h1
  have hin : Dsc.validA b a = true → e.dstAddr b a n = .ok (some h.toNat) :=
    fun hv => Env.dstAddr_of_valid e b a n hbl hv h0 h1
  have hout : Dsc.validA b a = false → e.dstAddr b a n = .ok none := fun hv => Env.dstAddr_of_not_valid e b a n hbl hv
  refine ⟨fun hv => XI.fillUnit_plain xi e acc n hmx hrq _ (hin hv),
    fun hv => XI.fillUnit_plain xi e acc n hmx hrq _ (hout hv), fun hop hp hdn hc hba => ?_⟩
  obtain ⟨hfmt, _⟩ := XI.noCast_spec hc
  constructor
  · intro c hs hcode
    have hmxa : Dsc.mx xi.a = false := (congrArg fmtMX hfmt).trans hmx
    have hrqa : Dsc.rq xi.a = false := (congrArg fmtRQ hfmt).trans hrq
    have hsrc := fun pos => Env.srcEl_of_code e .data xi.a src pos c hba hmxa hrqa hs hcode
    refine ⟨fun hv => ?_, fun hv => ?_⟩
    · rw [XI.dstUnit_noCast xi e acc n hmx hrq hdn hc _ (XI.pair_move xi e n hop hp hba _ _ (hin hv) hsrc)]
      simp only [src, b] at hs
      simp [hs, bits, b]
    · rw [XI.dstUnit_noCast xi e acc n hmx hrq hdn hc _ (XI.pair_move xi e n hop hp hba _ _ (hout hv) hsrc)]
      simp only [src, b] at hs
      simp [hs]
  · intro hs hv
    have hsrc := fun pos => Env.srcEl_of_not_valid e .data xi.a src pos hba hs
    have hpair := XI.pair_move xi e n hop hp hba _ _ (hin hv) hsrc
    simp only [src, b] at hs
    refine ⟨fun hk => ?_, fun hk => ?_⟩ <;> rw [XI.dstUnit_noCast xi e acc n hmx hrq hdn hc _ hpair]
    · simp only [b] at hk
      simp [hs, hk, groutEl, hfmt, bits, b]
    · simp only [b] at hk
      simp [hs, hk]

end Sys2Proof.Machine
end

section
/-! What tracing and the evaluation of KWAITs and watch slots leave as they were (R148–R151, R154, R594). -/

namespace Sys2Proof.Machine

/-! ### A trace record changes registers, ports, the request number and the fault collector alone -/

/-- `t` is `s` but for registers, ports, the number of the next request and the fault collector. -/
def Chip.Logged (s t : Chip) : Prop :=
  ∃ r p u f, t = { s with regs := r, ports := p, uid := u, fc := f }

theorem Chip.Logged.refl (s : Chip) : s.Logged s := ⟨_, _, _, _, rfl⟩

theorem Chip.Logged.trans {s t u : Chip} : s.Logged t → t.Logged u → s.Logged u := by
  rintro ⟨_, _, _, _, rfl⟩ ⟨_, _, _, _, rfl⟩
  exact ⟨_, _, _, _, rfl⟩

theorem Chip.logged_setReg (s : Chip) (o : Nat) (v : Word) : s.Logged (s.setReg o v) := ⟨_, _, _, _, rfl⟩

theorem Chip.logged_report (s : Chip) (r : Report) : s.Logged (s.report r) := by
  unfold Chip.report
  split
  · exact .refl s
  · exact ⟨_, _, _, _, rfl⟩

/-- A request that belongs to no transfer is no context's progress. -/
theorem Chip.logged_enq (s : Chip) (r : PortReq) (h : r.workOf = none) : s.Logged (s.enq r) := by
  have he : s.enq r = { s with ports := { s.ports with queue := s.ports.queue ++ [{ r with id := s.uid }] }, uid := s.uid + 1 } := by
    rw [Chip.enq, Chip.progressOf, h]
  exact ⟨_, _, _, _, he⟩

theorem Chip.logged_ringDrop (s : Chip) (ctl : Nat) : s.Logged (s.ringDrop ctl) :=
  (s.logged_setReg ..).trans (Chip.logged_setReg ..)

theorem PortReq.workOf_of_ctx {r : PortReq} (h : r.ctx = none) : r.workOf = none := by
  unfold PortReq.workOf
  split
  all_goals simp_all

theorem Chip.logged_ringPut (s : Chip) (b ctl : Nat) (kind : ReqKind) (bs : List Byte) (part : Option Nat) :
    s.Logged (s.ringPut b ctl kind bs none part) := by
  simp only [Chip.ringPut, Chip.maintWrite]
  split
  · exact s.logged_ringDrop ctl
  · rcases s.decodePA (s.ringBase b + 32 * ((s.regF (b + 16) 0 16 + s.inFlight kind) % s.ringSize b)) with _ | p
    · exact (s.logged_ringDrop ctl).trans (Chip.logged_report ..)
    · exact s.logged_enq _ (PortReq.workOf_of_ctx rfl)

theorem Chip.logged_trace (s : Chip) (c ev val ia : Nat) (x : Word) : s.Logged (s.trace c ev val ia x) := by
  simp only [Chip.trace]
  split
  · split
    · exact s.logged_ringDrop _
    · exact s.logged_ringPut ..
  · exact .refl s

/-- A change of a context's state changes that context and logs. -/
theorem Chip.logged_setSt (s : Chip) (c : Nat) (st : CState) (w : Option WaitCause) :
    (s.updCtx c (fun x => { x with st := st, wait := w })).Logged (s.setSt c st w) := by
  simp only [Chip.setSt]
  split
  · exact .refl _
  · exact Chip.logged_trace ..

theorem Chip.Logged.ctxAt {s t : Chip} (h : s.Logged t) (c : Nat) : t.ctxAt c = s.ctxAt c := by
  obtain ⟨_, _, _, _, rfl⟩ := h
  rfl

theorem Chip.Logged.memByte {s t : Chip} (h : s.Logged t) (loc : Nat) : t.memByte loc = s.memByte loc := by
  obtain ⟨_, _, _, _, rfl⟩ := h
  rfl

/-! ### Evaluations -/

/-- What an evaluation of waiters and watch slots leaves: counters and their updates, memory, time, link, sequencer, and
every context that does not wait in KWAIT. -/
structure Chip.Evaluated (s t : Chip) : Prop where
  ks   : t.ks = s.ks
  ksq  : t.ksq = s.ksq
  mem  : t.mem = s.mem
  time : t.time = s.time
  link : t.link = s.link
  rsq  : t.rsq = s.rsq
  ctx  : ∀ c, (s.ctxAt c).kw = none → t.ctxAt c = s.ctxAt c

theorem Chip.Evaluated.refl (s : Chip) : s.Evaluated s := ⟨rfl, rfl, rfl, rfl, rfl, rfl, fun _ _ => rfl⟩

theorem Chip.Evaluated.trans {s t u : Chip} (a : s.Evaluated t) (b : t.Evaluated u) : s.Evaluated u where
  ks := b.ks.trans a.ks
  ksq := b.ksq.trans a.ksq
  mem := b.mem.trans a.mem
  time := b.time.trans a.time
  link := b.link.trans a.link
  rsq := b.rsq.trans a.rsq
  ctx c h := by
    have hc := a.ctx c h
    exact (b.ctx c (by rw [hc, h])).trans hc

theorem Chip.Logged.evaluated {s t : Chip} : s.Logged t → s.Evaluated t := by
  rintro ⟨_, _, _, _, rfl⟩
  exact ⟨rfl, rfl, rfl, rfl, rfl, rfl, fun _ _ => rfl⟩

/-- A change of a context that waits in KWAIT. -/
theorem Chip.evaluated_updCtx {s : Chip} {c : Nat} (h : (s.ctxAt c).kw ≠ none) (f : Ctx → Ctx) : s.Evaluated (s.updCtx c f) where
  ks := rfl
  ksq := rfl
  mem := rfl
  time := rfl
  link := rfl
  rsq := rfl
  ctx d hd := by
    have hne : d ≠ c := fun e => h (e ▸ hd)
    rw [Chip.ctxAt_updCtx, if_neg hne]

theorem Chip.evaluated_ownFault {s : Chip} {c : Nat} (h : (s.ctxAt c).kw ≠ none) (src : Nat) : s.Evaluated (s.ownFault c src) :=
  (Chip.evaluated_updCtx h _).trans (Chip.logged_report ..).evaluated

theorem Chip.evaluated_kwaitEnd {s : Chip} {c : Nat} (h : (s.ctxAt c).kw ≠ none) (ok : Bool) : s.Evaluated (s.kwaitEnd c ok) := by
  rcases hk : (s.ctxAt c).kw with _ | w
  · exact absurd hk h
  · simp only [Chip.kwaitEnd, hk, Chip.wake, Chip.retireTo, Chip.updCtx_updCtx]
    exact (Chip.evaluated_updCtx h _).trans (Chip.updCtx_updCtx (s := s) c _ _ ▸ Chip.logged_setSt ..).evaluated

/-- One evaluation of a waiting KWAIT (R29, R151, R160). -/
theorem Chip.evaluated_evalKwait (s : Chip) (c : Nat) (inTime : KWaitSt → Bool) : s.Evaluated (s.evalKwait c inTime) := by
  rcases hk : (s.ctxAt c).kw with _ | w
  · simp only [Chip.evalKwait, hk]
    exact .refl s
  · have hc : (s.ctxAt c).kw ≠ none := by simp [hk]
    simp only [Chip.evalKwait, hk]
    split
    · exact Chip.evaluated_ownFault hc _
    · split
      · exact Chip.evaluated_kwaitEnd hc _
      · exact .refl s

/-- One evaluation of a watch slot (R154). -/
theorem Chip.evaluated_evalWatch (s : Chip) (w : Nat) : s.Evaluated (s.evalWatch w) := by
  simp only [Chip.evalWatch]
  split
  · exact ⟨rfl, rfl, rfl, rfl, rfl, rfl, fun _ _ => rfl⟩
  · exact .refl s

theorem Chip.evaluated_foldl {α : Type} (f : Chip → α → Chip) (hf : ∀ (s : Chip) a, s.Evaluated (f s a)) (l : List α) (s : Chip) :
    s.Evaluated (l.foldl f s) := by
  induction l generalizing s with
  | nil => exact .refl s
  | cons a l ih => exact (hf s a).trans (ih (f s a))

theorem Chip.evaluated_evaluate (s : Chip) (on : Nat → Bool) (inTime : KWaitSt → Bool) : s.Evaluated (s.evaluate on inTime) :=
  (Chip.evaluated_foldl _ (fun s c => s.evaluated_evalKwait c inTime) _ s).trans
    (Chip.evaluated_foldl _ (fun s w => s.evaluated_evalWatch w) _ _)

/-! ### Updates and ticks -/

/-- The update of a bank is applied before it evaluates (R149, R151). -/
theorem keystoneUpdate_evaluated {b : Nat} {s : Chip} {o : KsOp} (h : s.ksq.find? (fun o => o.k % 16 == b) = some o) :
    Chip.Evaluated { s with ksq := s.ksq.erase o, ks := Tab.set 0 o.k (o.apply (s.ksAt o.k)) s.ks } (keystoneUpdate b s) := by
  simp only [keystoneUpdate, h]
  exact Chip.evaluated_evaluate ..

/-- The edges are counted before the last one's evaluation (R151). -/
theorem keystoneTick_evaluated {n : Nat} {s : Chip} (hc : s.clocked = true) (hn : n ≠ 0) :
    Chip.Evaluated { s with time := s.time + n, irq := { s.irq with grace := [] } } (keystoneTick n s) := by
  rw [keystoneTick, if_pos ⟨hc, hn⟩]
  exact Chip.evaluated_evaluate ..

theorem keystoneUpdate_none {b : Nat} {s : Chip} (h : s.ksq.find? (fun o => o.k % 16 == b) = none) : keystoneUpdate b s = s := by
  simp only [keystoneUpdate, h]

theorem keystoneTick_none {n : Nat} {s : Chip} (h : s.clocked = false ∨ n = 0) : keystoneTick n s = s := by
  refine if_neg fun hcn => ?_
  obtain ⟨hc, hn⟩ := hcn
  rcases h with h | h
  · rw [h] at hc
    cases hc
  · exact hn h

/-- Settles O33: what an update or a tick changes stands before its evaluations, which change none of it. -/
theorem countersAndTime : Obligations.CountersAndTime := by
  refine ⟨fun s b => ⟨fun h => ?_, fun o h => ?_⟩, fun s n => ⟨fun h => ?_, fun hc hn => ?_⟩⟩
  · exact congrArg (fun t => Host.Outcome.next (s.to t)) (keystoneUpdate_none h)
  · have he := keystoneUpdate_evaluated h
    exact ⟨_, rfl, (congrArg (Tab.get 0 · o.k) he.ks).trans (Tab.get_set_self ..),
      fun k hk => (congrArg (Tab.get 0 · k) he.ks).trans (Tab.get_set_ne _ _ _ hk), he.ksq,
      fun loc => congrArg (Tab.get 0 · loc) he.mem, he.time, he.link, he.rsq, he.ctx⟩
  · exact congrArg (fun t => Host.Outcome.next (s.to t)) (keystoneTick_none h)
  · have he := keystoneTick_evaluated hc hn
    exact ⟨_, rfl, he.time, he.ks, he.ksq, fun loc => congrArg (Tab.get 0 · loc) he.mem, he.link, he.rsq, he.ctx⟩

end Sys2Proof.Machine
end

section
/-! The arbiter of a port's lane, and what a granted write does to memory (R226, R347, R384, R391, R545, R549). -/

namespace Sys2Proof.Machine

/-! ### What a write at the point of coherence leaves of the ports -/

/-- The requests that wait are the same, by their numbers, and as many are outstanding. -/
def Chip.samePorts (s t : Chip) : Prop :=
  t.ports.queue.map (·.id) = s.ports.queue.map (·.id) ∧ t.ports.outs.length = s.ports.outs.length

theorem Chip.samePorts.refl (s : Chip) : s.samePorts s := ⟨rfl, rfl⟩

theorem Chip.samePorts.trans {s t u : Chip} (a : s.samePorts t) (b : t.samePorts u) : s.samePorts u :=
  ⟨b.1.trans a.1, b.2.trans a.2⟩

theorem map_id_of_keeps (l : List PortReq) (f : PortReq → PortReq) (hf : ∀ q, (f q).id = q.id) :
    (l.map f).map (·.id) = l.map (·.id) := by
  rw [List.map_map]
  exact List.map_congr_left fun q _ => hf q

theorem Chip.samePorts_commitWrite (s : Chip) (g : Nat) (m : BitVec 256) (d : Granule) : s.samePorts (s.commitWrite g m d) :=
  ⟨rfl, List.length_map ..⟩

theorem Chip.samePorts_staleWb (s : Chip) (g : Nat) (m : BitVec 256) : s.samePorts (s.staleWb g m) :=
  ⟨map_id_of_keeps _ _ fun q => by split <;> rfl, List.length_map ..⟩

theorem Chip.samePorts_lineThrough (s : Chip) (g : Nat) (m : BitVec 256) (d : Granule) : s.samePorts (s.lineThrough g m d) := by
  have hq : ∀ q : PortReq, (if isWb q.kind && q.loc == g then { q with data := mergeMask (wide (m &&& q.mask)) q.data d } else q).id = q.id :=
    fun q => by split <;> rfl
  simp only [Chip.lineThrough]
  split <;> exact ⟨map_id_of_keeps _ _ hq, rfl⟩

theorem Chip.samePorts_flushSectors (s : Chip) (g : Nat) (v : BitVec 4) : s.samePorts (s.flushSectors g v) := by
  simp only [Chip.flushSectors]
  split
  · exact (s.samePorts_commitWrite ..).trans (Chip.samePorts_staleWb ..)
  · exact .refl s

theorem Chip.samePorts_writeGranted (s : Chip) (r : PortReq) : s.samePorts (s.writeGranted r) := by
  have hf : s.samePorts (if r.kind.bypasses then s.flushSectors r.loc (sectorsOf r.mask) else s) := by
    split
    · exact s.samePorts_flushSectors ..
    · exact .refl s
  simp only [Chip.writeGranted]
  split
  · exact (hf.trans (Chip.samePorts_commitWrite ..)).trans (Chip.samePorts_lineThrough ..)
  · exact hf.trans (Chip.samePorts_commitWrite ..)

/-! ### Memory after a granted write -/

theorem Chip.memByte_lineThrough (s : Chip) (g : Nat) (m : BitVec 256) (d : Granule) (loc : Nat) :
    (s.lineThrough g m d).memByte loc = s.memByte loc := by
  simp only [Chip.lineThrough]
  split <;> rfl

/-- The sectors written back are those of a line that is there (R347). -/
theorem Chip.memByte_flushSectors (s : Chip) (g : Nat) (v : BitVec 4) (loc : Nat) :
    (s.flushSectors g v).memByte loc =
      if (s.lineAt g).here = true ∧ g ≤ loc ∧ loc < g + 256 ∧ bitB ((s.lineAt g).dirty &&& sectorBytes v) (loc - g) = true
      then fld (s.lineAt g).data (8 * (loc - g)) 8 else s.memByte loc := by
  cases h : (s.lineAt g).here
  case false => simp only [Chip.flushSectors, Line.present, h, Bool.false_eq_true, if_false, false_and]
  case true =>
    simp only [Chip.flushSectors, Line.present, h, if_true, true_and]
    exact Chip.memByte_commitWrite ..

theorem mergeMask_zero {n : Nat} (old new : BitVec n) : mergeMask 0 old new = old := by
  refine BitVec.eq_of_getLsbD_eq fun i _ => ?_
  simp [getLsbD_mergeMask]

theorem Chip.memByte_writeGranted (s : Chip) (r : PortReq) (loc : Nat) :
    (s.writeGranted r).memByte loc =
      if r.loc ≤ loc ∧ loc < r.loc + 256 ∧ bitB r.mask (loc - r.loc) = true
      then fld (mergeMask r.keep r.data (s.memGranule r.loc)) (8 * (loc - r.loc)) 8
      else if r.kind.bypasses = true ∧ (s.lineAt r.loc).here = true ∧ r.loc ≤ loc ∧ loc < r.loc + 256 ∧
          bitB ((s.lineAt r.loc).dirty &&& sectorBytes (sectorsOf r.mask)) (loc - r.loc) = true
        then fld (s.lineAt r.loc).data (8 * (loc - r.loc)) 8 else s.memByte loc := by
  have hd : (if r.keep = 0 then r.data else mergeMask r.keep r.data (s.memGranule r.loc)) = mergeMask r.keep r.data (s.memGranule r.loc) := by
    split
    case isTrue h => rw [h, mergeMask_zero]
    case isFalse => rfl
  have hflush : (if r.kind.bypasses then s.flushSectors r.loc (sectorsOf r.mask) else s).memByte loc =
      if r.kind.bypasses = true ∧ (s.lineAt r.loc).here = true ∧ r.loc ≤ loc ∧ loc < r.loc + 256 ∧
          bitB ((s.lineAt r.loc).dirty &&& sectorBytes (sectorsOf r.mask)) (loc - r.loc) = true
        then fld (s.lineAt r.loc).data (8 * (loc - r.loc)) 8 else s.memByte loc := by
    by_cases hb : r.kind.bypasses = true
    · simp only [hb, if_true, true_and, Chip.memByte_flushSectors]
    · rw [if_neg hb, if_neg fun h => hb h.1]
  have hthrough : (s.writeGranted r).memByte loc = ((if r.kind.bypasses then s.flushSectors r.loc (sectorsOf r.mask) else s).commitWrite
      r.loc r.mask (mergeMask r.keep r.data (s.memGranule r.loc))).memByte loc := by
    simp only [Chip.writeGranted, hd]
    split
    · exact Chip.memByte_lineThrough ..
    · rfl
  rw [hthrough, Chip.memByte_commitWrite, hflush]
  rfl

/-! ### A grant -/

theorem Chip.progressOf_ports (s : Chip) (r : PortReq) : (s.progressOf r).ports = s.ports := by
  unfold Chip.progressOf
  split <;> rfl

theorem Chip.progressOf_mem (s : Chip) (r : PortReq) : (s.progressOf r).mem = s.mem := by
  unfold Chip.progressOf
  split <;> rfl

/-- The granted request has left the queue. -/
theorem Chip.countGrant_queue (s : Chip) (l : Lane) (st : Nat) (r q : PortReq) (h : q ∈ (s.countGrant l st r).ports.queue) : q.id ≠ r.id := by
  have hq : (s.countGrant l st r).ports.queue =
      (s.ports.queue.filter (fun q => q.id != r.id)).map (fun q => if q.lane == l then { q with waited := q.waited + 1 } else q) := rfl
  rw [hq, List.mem_map] at h
  obtain ⟨p, hp, rfl⟩ := h
  have hid : p.id ≠ r.id := by simpa using (List.mem_filter.mp hp).2
  split <;> exact hid

/-- The block once a request has been counted, and its write has reached the point of coherence. -/
def Chip.granted (l : Lane) (st : Nat) (r : PortReq) (s : Chip) : Chip :=
  let c := Chip.countGrant l st r { s with free := s.free + 1 }
  if r.write then c.writeGranted r else c

/-- The outstanding request that a grant makes. -/
def Chip.grantOut (l : Lane) (st : Nat) (pool : TagPool) (r : PortReq) (s : Chip) : Outst :=
  (Chip.countGrant l st r { s with free := s.free + 1 }).track (pick s.free (s.freePortTags l)) pool r

theorem Chip.grantOut_tag (l : Lane) (st : Nat) (pool : TagPool) (r : PortReq) (s : Chip) :
    (s.grantOut l st pool r).tag = pick s.free (s.freePortTags l) := by
  simp only [Chip.grantOut, Chip.track]

/-- The grant that `portGrant` makes of the arbiter's choice. -/
theorem portGrant_of_arbitrate {s : Chip} {l : Lane} {st : Nat} {r : PortReq} {pool : TagPool} (ha : s.arbitrate l = some (st, r))
    (hp : s.tagFor r = some pool) :
    portGrant l s = Chip.progressOf r { s.granted l st r with
      ports := { (s.granted l st r).ports with outs := (s.granted l st r).ports.outs ++ [s.grantOut l st pool r] } } := by
  rw [portGrant, ha]
  dsimp only
  rw [hp]
  rfl

theorem pick_mem {n : Nat} {l : List Nat} (h : l ≠ []) : pick n l ∈ l := by
  unfold pick
  split
  · exact absurd rfl h
  · exact List.mem_singleton_self _
  · have hlen : 0 < l.length := List.length_pos_iff.mpr h
    have hlt := Nat.mod_lt (Config.freeWord n).toNat hlen
    rw [List.getD_eq_getElem _ _ hlt]
    exact List.getElem_mem _

/-! ### The arbiter's choice when one request waits -/

theorem roundRobin_singleton (k : Nat) (r : PortReq) : roundRobin k [r] = some r := by
  by_cases h : k ≤ r.requester <;> simp [roundRobin, h]

theorem roundRobin_nil (k : Nat) : roundRobin k [] = none := rfl

theorem Chip.eligible_alone {s : Chip} {l : Lane} {r : PortReq} (hrq : 1 ≤ (s.laneAt l).rq)
    (hwd : r.write = true → 1 ≤ (s.laneAt l).wd) (ht : (s.tagFor r).isSome = true) (hm : s.masked r = false) :
    s.eligible l [r] r = true := by
  have hw : (!r.write || decide (1 ≤ (s.laneAt l).wd)) = true := by
    cases h : r.write
    · rfl
    · simpa using hwd h
  have hfar : (!(s.farReq r && decide (s.regF Reg.legCfg 0 7 ≤ (s.laneAt l).far) && [r].any s.nearReq)) = true := by
    cases h : s.farReq r <;> simp [Chip.nearReq, h]
  simp only [Chip.eligible, hrq, hw, ht, hm, hfar, decide_true, Bool.and_self, Bool.not_false]

theorem Chip.arbitrate_alone {s : Chip} {l : Lane} {r : PortReq} (hw : s.waitingAt l = [r])
    (hheld : s.ports.held.contains (laneCode l) = false) (howe : (s.laneAt l).owe = 0) (he : s.eligible l [r] r = true)
    (hcls : r.cls ≤ 4) : ∃ st, s.arbitrate l = some (st, r) := by
  have hidle : ¬ (s.ports.held.contains (laneCode l) = true ∨ (s.laneAt l).owe ≠ 0) := by
    rw [hheld, howe]
    decide
  have hes : (heads [] [r]).filter (s.eligible l [r]) = [r] := by simp [heads, he]
  rw [Chip.arbitrate, if_neg hidle]
  simp only [hw, hes]
  have hcase : r.cls = 0 ∨ r.cls = 1 ∨ r.cls = 2 ∨ r.cls = 3 ∨ r.cls = 4 := by omega
  by_cases haged : s.regF Reg.govArb 32 8 ≤ r.waited <;>
    rcases hcase with hc | hc | hc | hc | hc <;> simp [hc, haged, roundRobin_singleton, roundRobin_nil]

/-- Settles O35: the grant's request has left the queue before its bytes are written, and is tracked after. -/
theorem portGrants : Obligations.PortGrants := by
  intro s l
  refine ⟨fun h => ?_, fun r hw hheld howe hrq hwd ht hm hcls => ?_, fun st r pool ha hp => ?_⟩
  · have hn : portGrant l s.chip = s.chip := by simp only [portGrant, h]
    exact congrArg (fun t => Host.Outcome.next (s.to t)) hn
  · exact Chip.arbitrate_alone hw hheld howe (Chip.eligible_alone hrq hwd ht hm) hcls
  · have hports : (Chip.countGrant l st r { s.chip with free := s.chip.free + 1 }).samePorts (s.chip.granted l st r) := by
      simp only [Chip.granted]
      split
      · exact Chip.samePorts_writeGranted ..
      · exact .refl _
    obtain ⟨hq, hlen⟩ := hports
    have hexec : exec (.portGrant l) s = .next (s.to (portGrant l s.chip)) := rfl
    rw [hexec, portGrant_of_arbitrate ha hp]
    refine ⟨_, rfl, ?_, ?_, ?_, fun loc => ?_⟩
    · intro q hin
      rw [Chip.progressOf_ports] at hin
      have hid : q.id ∈ (s.chip.granted l st r).ports.queue.map (·.id) := List.mem_map_of_mem hin
      rw [hq, List.mem_map] at hid
      obtain ⟨p, hp, hpid⟩ := hid
      rw [← hpid]
      exact Chip.countGrant_queue _ l st r p hp
    · rw [Chip.progressOf_ports]
      exact (List.length_append ..).trans (congrArg (· + 1) hlen)
    · rw [Chip.progressOf_ports]
      exact ⟨_, List.mem_append_right _ (List.mem_singleton_self _), rfl, rfl, rfl,
        fun hne => (Chip.grantOut_tag ..).symm ▸ pick_mem hne⟩
    · have hmem : ∀ v : Chip, (v.progressOf r).memByte loc = v.memByte loc := fun v => congrArg (Tab.get 0 · loc) (v.progressOf_mem r)
      rw [hmem]
      show (s.chip.granted l st r).memByte loc = _
      simp only [Chip.granted]
      cases hw : r.write
      case false =>
        simp only [Bool.false_eq_true, if_false, false_and]
        rfl
      case true =>
        simp only [if_true, true_and]
        exact Chip.memByte_writeGranted ..

end Sys2Proof.Machine
end

section
/-! The register image: what SAVEREGS writes LOADREGS reads back (R69, R71). -/

namespace Sys2Proof.Machine

/-! ### Words of little-endian bytes -/

theorem length_toBytes (n v : Nat) : (toBytes n v).length = n := by
  induction n generalizing v with
  | zero => rfl
  | succ n ih => simp [toBytes, ih]

theorem ofBytes_toBytes (n v : Nat) : ofBytes (toBytes n v) = v % 2 ^ (8 * n) := by
  induction n generalizing v with
  | zero => simp [toBytes, ofBytes, Nat.mod_one]
  | succ n ih =>
    have hp : 2 ^ (8 * (n + 1)) = 256 * 2 ^ (8 * n) := by rw [Nat.mul_add, Nat.pow_add, Nat.mul_comm]
    rw [toBytes, ofBytes, ih, hp, Nat.mod_mul, BitVec.toNat_ofNat]

theorem length_flatMap_toBytes (l : List Nat) : (l.flatMap (toBytes 8)).length = 8 * l.length := by
  induction l with
  | nil => rfl
  | cons v l ih => rw [List.flatMap_cons, List.length_append, length_toBytes, ih, List.length_cons]; omega

/-- A doubleword of an image that is doublewords one after another. -/
theorem imgWord_flatMap (l : List Nat) (z : List Byte) (i : Nat) (hi : i < l.length) :
    imgWord (l.flatMap (toBytes 8) ++ z) (8 * i) = BitVec.ofNat 64 (l.getD i 0) := by
  induction l generalizing i with
  | nil => cases hi
  | cons v l ih =>
    rw [List.flatMap_cons, List.append_assoc]
    cases i with
    | zero =>
      rw [imgWord, Nat.mul_zero, List.drop_zero, List.take_left' (length_toBytes 8 v), ofBytes_toBytes]
      exact BitVec.eq_of_toNat_eq (by simp)
    | succ i =>
      have hd : (toBytes 8 v ++ (l.flatMap (toBytes 8) ++ z)).drop (8 * (i + 1)) = (l.flatMap (toBytes 8) ++ z).drop (8 * i) := by
        rw [Nat.mul_add, Nat.add_comm, ← List.drop_drop, List.drop_left' (length_toBytes 8 v)]
      rw [imgWord, hd, List.getD_cons_succ]
      exact ih i (by simpa using hi)

/-! ### The image as doublewords -/

/-- The two words that the image holds for loop level `k`, 0 the outermost; open ones where the level is not active. -/
def Ctx.levelStart (x : Ctx) (free k : Nat) : Nat :=
  (x.loops.reverse[k]?.map LoopLvl.start).getD (Config.freeWord (free + k) &&& maskBits 3 49).toNat

def Ctx.levelCount (x : Ctx) (free k : Nat) : Nat :=
  (x.loops.reverse[k]?.map LoopLvl.count).getD (Config.freeWord (free + 4 + k) &&& maskBits 0 32).toNat

/-- The words behind the registers: CTX_IP, the predicates, the loop depth, the levels. -/
def Ctx.controlWords (x : Ctx) (free : Nat) : List Nat :=
  [x.ip, (setBit x.p 0 true).toNat, x.loops.length, 0, x.levelStart free 0, x.levelCount free 0, x.levelStart free 1,
    x.levelCount free 1, x.levelStart free 2, x.levelCount free 2, x.levelStart free 3, x.levelCount free 3]

def Ctx.imageWords (x : Ctx) (free : Nat) : List Nat :=
  (List.range 32).map (fun n => (x.sr n).toNat) ++ ((List.range 512).map (fun k => (Tab.get 0 x.t k).toNat) ++ x.controlWords free)

theorem Ctx.length_imageWords (x : Ctx) (free : Nat) : (x.imageWords free).length = 556 := by
  simp [Ctx.imageWords, Ctx.controlWords]

theorem Ctx.flatMap_imageWords (x : Ctx) (free : Nat) :
    (x.imageWords free).flatMap (toBytes 8) = (List.range 32).flatMap (fun n => toBytes 8 (x.sr n).toNat) ++
      (List.range 512).flatMap (fun k => toBytes 8 (Tab.get 0 x.t k).toNat) ++
      toBytes 8 x.ip ++ toBytes 8 (setBit x.p 0 true).toNat ++ toBytes 8 x.loops.length ++ toBytes 8 0 ++
      (List.range 4).flatMap (fun k => toBytes 8 (x.levelStart free k) ++ toBytes 8 (x.levelCount free k)) := by
  have hr : List.range 4 = [0, 1, 2, 3] := rfl
  simp only [hr, Ctx.imageWords, Ctx.controlWords, List.flatMap_append, List.flatMap_map, List.flatMap_cons, List.flatMap_nil,
    List.append_nil, List.append_assoc]

theorem Ctx.image_eq (x : Ctx) (free : Nat) : x.image free = (x.imageWords free).flatMap (toBytes 8) ++ List.replicate 160 0 := by
  rw [Ctx.image, Ctx.flatMap_imageWords]
  congr 2
  refine List.flatMap_congr fun k _ => ?_
  unfold Ctx.levelStart Ctx.levelCount
  split <;> rename_i h <;> rw [h] <;> rfl

/-! ### Reads of the image -/

theorem imgWord_image (x : Ctx) (free i : Nat) (hi : i < 556) :
    imgWord (x.image free) (8 * i) = BitVec.ofNat 64 ((x.imageWords free).getD i 0) := by
  rw [Ctx.image_eq, imgWord_flatMap _ _ _ (by rw [Ctx.length_imageWords]; exact hi)]

theorem imgWord_image_s (x : Ctx) (free n : Nat) (hn : n < 32) : imgWord (x.image free) (8 * n) = x.sr n := by
  rw [imgWord_image x free n (by omega), Ctx.imageWords, List.getD_append _ _ _ _ (by simpa using hn)]
  simp [List.getD_eq_getElem?_getD, hn]

theorem imgWord_image_t (x : Ctx) (free k : Nat) (hk : k < 512) : imgWord (x.image free) (0x100 + 8 * k) = Tab.get 0 x.t k := by
  have ho : 0x100 + 8 * k = 8 * (32 + k) := by omega
  rw [ho, imgWord_image x free _ (by omega), Ctx.imageWords, List.getD_append_right _ _ _ _ (by simp)]
  rw [List.getD_append _ _ _ _ (by simp; omega)]
  simp [List.getD_eq_getElem?_getD, hk]

theorem imgWord_image_control (x : Ctx) (free j : Nat) (hj : j < 12) :
    imgWord (x.image free) (0x1100 + 8 * j) = BitVec.ofNat 64 ((x.controlWords free).getD j 0) := by
  have ho : 0x1100 + 8 * j = 8 * (544 + j) := by omega
  rw [ho, imgWord_image x free _ (by omega), Ctx.imageWords, List.getD_append_right _ _ _ _ (by simp; omega),
    List.getD_append_right _ _ _ _ (by simp; omega)]
  have hidx : 544 + j - ((List.range 32).map fun n => (x.sr n).toNat).length - ((List.range 512).map fun k => (Tab.get 0 x.t k).toNat).length = j := by
    simp
    omega
  rw [hidx]

theorem Ctx.drop_image (x : Ctx) (free : Nat) : (x.image free).drop 0x1160 = List.replicate 160 0 := by
  rw [Ctx.image_eq]
  exact List.drop_left' (by rw [length_flatMap_toBytes, Ctx.length_imageWords])

/-! ### Legal words -/

/-- An instruction address: 52 bits, a multiple of 8. -/
theorem addr_fields {v : Nat} (h : v < 2 ^ 52) (h8 : v % 8 = 0) :
    (fldN (BitVec.ofNat 64 v) 52 12 == 0 && fldN (BitVec.ofNat 64 v) 0 3 == 0) = true := by
  simp only [fldN_eq_div_mod, BitVec.toNat_ofNat, Bool.and_eq_true, beq_iff_eq]
  omega

theorem toNat_and_maskBits (w : Word) (lo n : Nat) (h : lo + n ≤ 64) : (w &&& maskBits lo n).toNat = w.toNat / 2 ^ lo % 2 ^ n * 2 ^ lo := by
  refine Nat.eq_of_testBit_eq fun i => ?_
  have hl : ∀ v : Word, v.toNat.testBit i = v.getLsbD i := fun v => rfl
  rw [hl, BitVec.getLsbD_and, getLsbD_maskBits, Nat.testBit_mul_two_pow, Nat.testBit_mod_two_pow, Nat.testBit_div_two_pow]
  by_cases hi : lo ≤ i
  · have hadd : i - lo + lo = i := by omega
    rw [hadd, hl, Bool.and_comm]
    by_cases hn : i < lo + n
    · have h64 : i < 64 := by omega
      have hsub : i - lo < n := by omega
      simp [hi, hn, h64, hsub]
    · have hsub : ¬ i - lo < n := by omega
      simp [hn, hsub]
  · simp [hi]

/-- The words of every level, active or not, are such as R71 asks for. -/
theorem Ctx.level_legal (x : Ctx) (free k : Nat)
    (h : ∀ l ∈ x.loops, l.start < 2 ^ 52 ∧ l.start % 8 = 0 ∧ l.count < 2 ^ 32) :
    x.levelStart free k < 2 ^ 52 ∧ x.levelStart free k % 8 = 0 ∧ x.levelCount free k < 2 ^ 32 := by
  unfold Ctx.levelStart Ctx.levelCount
  rcases hl : x.loops.reverse[k]? with _ | l
  · simp only [Option.map_none, Option.getD_none, toNat_and_maskBits _ 3 49 (by decide), toNat_and_maskBits _ 0 32 (by decide)]
    omega
  · exact h l (List.mem_reverse.mp (List.mem_of_getElem? hl))

theorem imgWord_image_levelStart (x : Ctx) (free k : Nat) (hk : k < 4) :
    imgWord (x.image free) (0x1100 + (0x20 + 16 * k)) = BitVec.ofNat 64 (x.levelStart free k) := by
  have ho : 0x1100 + (0x20 + 16 * k) = 0x1100 + 8 * (4 + 2 * k) := by omega
  rw [ho, imgWord_image_control x free _ (by omega)]
  obtain rfl | rfl | rfl | rfl : k = 0 ∨ k = 1 ∨ k = 2 ∨ k = 3 := by omega
  all_goals rfl

theorem imgWord_image_levelCount (x : Ctx) (free k : Nat) (hk : k < 4) :
    imgWord (x.image free) (0x1100 + (0x28 + 16 * k)) = BitVec.ofNat 64 (x.levelCount free k) := by
  have ho : 0x1100 + (0x28 + 16 * k) = 0x1100 + 8 * (5 + 2 * k) := by omega
  rw [ho, imgWord_image_control x free _ (by omega)]
  obtain rfl | rfl | rfl | rfl : k = 0 ∨ k = 1 ∨ k = 2 ∨ k = 3 := by omega
  all_goals rfl

theorem imgWord_image_ip (x : Ctx) (free : Nat) : imgWord (x.image free) (0x1100 + 0) = BitVec.ofNat 64 x.ip :=
  imgWord_image_control x free 0 (by decide)

theorem imgWord_image_p (x : Ctx) (free : Nat) : imgWord (x.image free) (0x1100 + 8) = BitVec.ofNat 64 (setBit x.p 0 true).toNat :=
  imgWord_image_control x free 1 (by decide)

theorem imgWord_image_depth (x : Ctx) (free : Nat) : imgWord (x.image free) (0x1100 + 0x10) = BitVec.ofNat 64 x.loops.length :=
  imgWord_image_control x free 2 (by decide)

theorem imgWord_image_zero (x : Ctx) (free : Nat) : imgWord (x.image free) (0x1100 + 0x18) = 0 :=
  imgWord_image_control x free 3 (by decide)

theorem imageOk_image (x : Ctx) (free : Nat) (hip : x.ip < 2 ^ 52) (h8 : x.ip % 8 = 0) (hlen : x.loops.length ≤ 4)
    (h : ∀ l ∈ x.loops, l.start < 2 ^ 52 ∧ l.start % 8 = 0 ∧ l.count < 2 ^ 32) : imageOk (x.image free) = true := by
  have hp : (fldN (BitVec.ofNat 64 (setBit x.p 0 true).toNat) 8 56 == 0) = true := by
    have hlt := (setBit x.p 0 true).isLt
    simp only [fldN_eq_div_mod, BitVec.toNat_ofNat, beq_iff_eq]
    omega
  have hdepth : (BitVec.ofNat 64 x.loops.length).toNat ≤ 4 := (Nat.mod_le ..).trans hlen
  have hlevels : ∀ k ∈ List.range 4, ((fldN (imgWord (x.image free) (0x1100 + (0x20 + 16 * k))) 52 12 == 0 &&
      fldN (imgWord (x.image free) (0x1100 + (0x20 + 16 * k))) 0 3 == 0) &&
      fldN (imgWord (x.image free) (0x1100 + (0x28 + 16 * k))) 32 32 == 0) = true := by
    intro k hk
    obtain ⟨hs, hs8, hc⟩ := x.level_legal free k h
    rw [imgWord_image_levelStart x free k (List.mem_range.mp hk), imgWord_image_levelCount x free k (List.mem_range.mp hk),
      addr_fields hs hs8]
    simp only [fldN_eq_div_mod, BitVec.toNat_ofNat, Bool.true_and, beq_iff_eq]
    omega
  have hzero : ((List.replicate 160 (0 : Byte)).all (· == 0)) = true := by simp
  simp only [imageOk, imgWord_image_ip, imgWord_image_p, imgWord_image_depth, imgWord_image_zero, Ctx.drop_image,
    addr_fields hip h8, hp, hdepth, List.all_eq_true.mpr hlevels, hzero, decide_true, Bool.and_self, BEq.rfl]

/-! ### Loading -/

theorem get_foldl_set (f : Nat → Word) (m : Nat) (t : List (Nat × Word)) (j : Nat) :
    Tab.get 0 ((List.range m).foldl (fun t k => Tab.set 0 k (f k) t) t) j = if j < m then f j else Tab.get 0 t j := by
  induction m with
  | zero => simp
  | succ m ih =>
    rw [List.range_succ, List.foldl_append, List.foldl_cons, List.foldl_nil, Tab.get_set, ih]
    grind

theorem Ctx.foldl_setS_s (f : Nat → Word) (l : List Nat) (x : Ctx) :
    (l.foldl (fun x n => x.setS n (f n)) x).s = l.foldl (fun t n => Tab.set 0 n (f n) t) x.s :=
  (List.foldl_hom Ctx.s fun _ _ => rfl).symm

theorem Ctx.foldl_setT_t (f : Nat → Word) (l : List Nat) (x : Ctx) :
    (l.foldl (fun (x : Ctx) k => { x with t := Tab.set 0 k (f k) x.t }) x).t = l.foldl (fun t n => Tab.set 0 n (f n) t) x.t :=
  (List.foldl_hom Ctx.t fun _ _ => rfl).symm

theorem Ctx.foldl_setT_s (f : Nat → Word) (l : List Nat) (x : Ctx) :
    (l.foldl (fun (x : Ctx) k => { x with t := Tab.set 0 k (f k) x.t }) x).s = x.s := by
  induction l generalizing x with
  | nil => rfl
  | cons k l ih => exact ih _

/-- The registers that a loaded image gives. -/
theorem Ctx.loadImage_s (bs : List Byte) (x : Ctx) (n : Nat) (hn : n < 32) : (Ctx.loadImage bs x).sr n = imgWord bs (8 * n) := by
  simp only [Ctx.loadImage, Ctx.sr, Ctx.foldl_setT_s (fun k => imgWord bs (0x100 + 8 * k)),
    Ctx.foldl_setS_s (fun n => imgWord bs (8 * n)), get_foldl_set (fun n => imgWord bs (8 * n)), if_pos hn]

theorem Ctx.loadImage_t (bs : List Byte) (x : Ctx) (k : Nat) (hk : k < 512) :
    Tab.get 0 (Ctx.loadImage bs x).t k = imgWord bs (0x100 + 8 * k) := by
  simp only [Ctx.loadImage, Ctx.foldl_setT_t (fun k => imgWord bs (0x100 + 8 * k)),
    get_foldl_set (fun k => imgWord bs (0x100 + 8 * k)), if_pos hk]

/-- The loop levels that a loaded image gives are the outermost first. -/
theorem Ctx.loadImage_loops (bs : List Byte) (x : Ctx) :
    (Ctx.loadImage bs x).loops = ((List.range (imgWord bs (0x1100 + 0x10)).toNat).map fun k =>
      ({ start := (imgWord bs (0x1100 + (0x20 + 16 * k))).toNat,
         count := (imgWord bs (0x1100 + (0x28 + 16 * k))).toNat } : LoopLvl)).reverse := by
  simp only [Ctx.loadImage]

/-- The predicates: P0 reads 1. -/
theorem Ctx.loadImage_p (bs : List Byte) (x : Ctx) :
    (Ctx.loadImage bs x).p = setBit (fld (imgWord bs (0x1100 + 8)) 0 8) 0 true := by
  simp only [Ctx.loadImage]

theorem Ctx.loadImage_ip (bs : List Byte) (x : Ctx) : (Ctx.loadImage bs x).ip = (imgWord bs (0x1100 + 0)).toNat := by
  simp only [Ctx.loadImage]

theorem Ctx.loops_of_image (x : Ctx) (free : Nat) (hlen : x.loops.length ≤ 4)
    (h : ∀ l ∈ x.loops, l.start < 2 ^ 52 ∧ l.start % 8 = 0 ∧ l.count < 2 ^ 32) :
    ((List.range x.loops.length).map fun k =>
      ({ start := (imgWord (x.image free) (0x1100 + (0x20 + 16 * k))).toNat,
         count := (imgWord (x.image free) (0x1100 + (0x28 + 16 * k))).toNat } : LoopLvl)) = x.loops.reverse := by
  refine List.ext_getElem (by simp) fun k hk hk' => ?_
  have hk4 : k < 4 := by simp at hk; omega
  obtain ⟨hs, _, hc⟩ := h _ (List.mem_reverse.mp (List.getElem_mem hk'))
  have hstart : x.levelStart free k = x.loops.reverse[k].start := by
    rw [Ctx.levelStart, List.getElem?_eq_getElem hk']
    rfl
  have hcount : x.levelCount free k = x.loops.reverse[k].count := by
    rw [Ctx.levelCount, List.getElem?_eq_getElem hk']
    rfl
  rw [List.getElem_map, List.getElem_range, imgWord_image_levelStart x free k hk4, imgWord_image_levelCount x free k hk4, hstart,
    hcount, BitVec.toNat_ofNat, BitVec.toNat_ofNat, Nat.mod_eq_of_lt (by omega), Nat.mod_eq_of_lt (by omega)]

theorem fld_ofNat_toNat (p : BitVec 8) : fld (BitVec.ofNat 64 p.toNat) 0 8 = p := by
  have hlt := p.isLt
  refine BitVec.eq_of_toNat_eq ?_
  have hf := fldN_eq_div_mod (BitVec.ofNat 64 p.toNat) 0 8
  rw [fldN, BitVec.toNat_ofNat] at hf
  rw [fld, hf]
  omega

theorem setBit_of_bit {n : Nat} (w : BitVec n) (k : Nat) (h : bitB w k = true) : setBit w k true = w := by
  refine BitVec.eq_of_getLsbD_eq fun i hi => ?_
  rw [getLsbD_setBit]
  split
  case isTrue hik =>
    subst hik
    simp only [bitB] at h
    simp [h, hi]
  case isFalse => rfl

/-- Settles O41: every doubleword of the image is read back as it was written. -/
theorem imagesRestore : Obligations.ImagesRestore := by
  intro x y free hip h8 hlen hp0 hloops
  refine ⟨imageOk_image x free hip h8 hlen hloops, ?_⟩
  dsimp only
  refine ⟨?_, ?_, ?_, fun n hn => ?_, fun k hk => ?_⟩
  · rw [Ctx.loadImage_ip, imgWord_image_ip, BitVec.toNat_ofNat, Nat.mod_eq_of_lt (by omega)]
  · rw [Ctx.loadImage_p, imgWord_image_p, setBit_of_bit x.p 0 hp0, fld_ofNat_toNat, setBit_of_bit x.p 0 hp0]
  · rw [Ctx.loadImage_loops, imgWord_image_depth, BitVec.toNat_ofNat, Nat.mod_eq_of_lt (by omega),
      Ctx.loops_of_image x free hlen hloops, List.reverse_reverse]
  · rw [Ctx.loadImage_s _ _ _ hn, imgWord_image_s x free n hn]
  · rw [Ctx.loadImage_t _ _ _ hk, imgWord_image_t x free k hk]

end Sys2Proof.Machine
end

section
/-! Register writes that the port accepts, and invalidations of translations (R337, R345, R533, R538, R589). -/

namespace Sys2Proof.Machine

/-! ### Accepted writes -/

/-- The register port hands a write to its register, GUARD no longer in KEY1. -/
theorem Chip.acceptAny_clocked {s : Chip} (h : s.clocked = true) (body : Chip → Chip) : Chip.acceptAny body s = body s.accepted :=
  if_pos h

@[simp] theorem Chip.accepted_pins (s : Chip) : s.accepted.pins = s.pins := by unfold Chip.accepted; split <;> rfl
@[simp] theorem Chip.accepted_build (s : Chip) : s.accepted.build = s.build := by unfold Chip.accepted; split <;> rfl
@[simp] theorem Chip.accepted_regs (s : Chip) : s.accepted.regs = s.regs := by unfold Chip.accepted; split <;> rfl
@[simp] theorem Chip.accepted_time (s : Chip) : s.accepted.time = s.time := by unfold Chip.accepted; split <;> rfl
@[simp] theorem Chip.accepted_phase (s : Chip) : s.accepted.phase = s.phase := by unfold Chip.accepted; split <;> rfl
@[simp] theorem Chip.accepted_ctx (s : Chip) : s.accepted.ctx = s.ctx := by unfold Chip.accepted; split <;> rfl
@[simp] theorem Chip.accepted_mov (s : Chip) : s.accepted.mov = s.mov := by unfold Chip.accepted; split <;> rfl
@[simp] theorem Chip.accepted_mem (s : Chip) : s.accepted.mem = s.mem := by unfold Chip.accepted; split <;> rfl
@[simp] theorem Chip.accepted_irq (s : Chip) : s.accepted.irq = s.irq := by unfold Chip.accepted; split <;> rfl
@[simp] theorem Chip.accepted_fc (s : Chip) : s.accepted.fc = s.fc := by unfold Chip.accepted; split <;> rfl
@[simp] theorem Chip.accepted_rsq (s : Chip) : s.accepted.rsq = s.rsq := by unfold Chip.accepted; split <;> rfl
@[simp] theorem Chip.accepted_link (s : Chip) : s.accepted.link = s.link := by unfold Chip.accepted; split <;> rfl

/-- A write while RST_DONE is 1 (R533). -/
theorem Chip.accept_takes {s : Chip} (h : s.takesWrites) (body : Chip → Chip) : Chip.accept body s = body s.accepted := by
  obtain ⟨hc, hr⟩ := h
  rw [Chip.accept, Chip.acceptAny_clocked hc, if_pos (by rw [Chip.accepted_pins, hr])]

/-- An accepted write is the register's own. -/
theorem exec_accept {i : Instr} {s : State} {body : Chip → Chip} (h : s.chip.takesWrites)
    (hi : exec i s = .next (s.to (Chip.accept body s.chip))) : exec i s = .next (s.to (body s.chip.accepted)) := by
  rw [hi, Chip.accept_takes h]

/-! ### Writes of TR_INV -/

theorem trInv_idle {s : Chip} (hs : s.takesWrites) (hi : s.accepted.inv = none) {scope p : Nat} (hp : p < s.accepted.build.npart)
    (asid : BitVec 16) : trInv scope p asid s = (s.accepted.invalidate scope p asid).answer .ok := by
  have hok : ¬ (s.accepted.inv.isSome = true ∨ (scope ≠ 0 ∧ s.accepted.build.npart ≤ p)) := by
    rw [hi]
    rintro (h | ⟨_, h⟩)
    · cases h
    · omega
  rw [trInv, Chip.accept_takes hs, if_neg hok]

theorem trInv_all {s : Chip} (hs : s.takesWrites) (hi : s.accepted.inv = none) :
    trInv 0 0 0 s = (s.accepted.invalidate 0 0 0).answer .ok := by
  have hok : ¬ (s.accepted.inv.isSome = true ∨ ((0 : Nat) ≠ 0 ∧ s.accepted.build.npart ≤ 0)) := by
    rw [hi]
    rintro (h | ⟨h, _⟩)
    · cases h
    · exact h rfl
  rw [trInv, Chip.accept_takes hs, if_neg hok]

theorem trInv_busy {s : Chip} (hs : s.takesWrites) (hi : s.accepted.inv.isSome = true) (scope p : Nat) (asid : BitVec 16) :
    trInv scope p asid s = s.accepted.answer .err := by
  rw [trInv, Chip.accept_takes hs, if_pos (.inl hi)]

/-! ### What an invalidation leaves in the TLBs -/

/-- A fold leaves what each of its steps leaves. -/
theorem foldl_keeps {α β σ : Type} (g : σ → β) (f : σ → α → σ) (h : ∀ s a, g (f s a) = g s) (l : List α) (s : σ) :
    g (l.foldl f s) = g s := by
  induction l generalizing s with
  | nil => rfl
  | cons a l ih => exact (ih _).trans (h s a)

theorem Chip.movAt_foldl_filter (p : TlbEnt → Bool) (l : List Nat) (s : Chip) (k : Nat) :
    ((l.foldl (fun s m => s.updMov m (fun x => { x with l1 := x.l1.filter p })) s).movAt k).l1 =
      if k ∈ l then (s.movAt k).l1.filter p else (s.movAt k).l1 := by
  induction l generalizing s with
  | nil => simp
  | cons m l ih =>
    rw [List.foldl_cons, ih, Chip.movAt_updMov]
    by_cases hk : k = m
    · subst hk
      simp
    · simp [hk]

/-- The invalidation that a write starts. -/
def Chip.invOf (s : Chip) (scope part : Nat) (asid : BitVec 16) : InvSt :=
  { scope := scope, part := part, asid := asid, va := (s.reg Reg.trInvVa).toNat, epoch := s.epoch + 1 }

theorem Chip.invalidate_inv (s : Chip) (scope part : Nat) (asid : BitVec 16) :
    (s.invalidate scope part asid).inv = some (s.invOf scope part asid) := rfl

theorem Chip.invalidate_l2 (s : Chip) (scope part : Nat) (asid : BitVec 16) :
    (s.invalidate scope part asid).l2 = s.l2.filter (fun e => !(s.invOf scope part asid).covers e) := by
  refine congrArg (List.filter _) ((foldl_keeps Chip.l2 _ ?_ _ _).trans (foldl_keeps Chip.l2 _ ?_ _ _)) <;>
    exact fun _ _ => rfl

theorem Chip.invalidate_l1 (s : Chip) (scope part : Nat) (asid : BitVec 16) {m : Nat} (hm : m < s.build.nmov) :
    ((s.invalidate scope part asid).movAt m).l1 = (s.movAt m).l1.filter (fun e => !(s.invOf scope part asid).covers e) := by
  refine (congrArg (fun t => (Tab.get {} t m).l1) (foldl_keeps Chip.mov _ ?_ _ _)).trans
    ((Chip.movAt_foldl_filter _ _ s m).trans (if_pos (List.mem_range.mpr hm)))
  exact fun _ _ => rfl

theorem mem_filter_not {α : Type} {p : α → Bool} {l : List α} {e : α} (h : e ∈ l.filter (fun e => !p e)) : e ∈ l ∧ p e = false := by
  simpa using h

/-! ### Completion -/

theorem InvSt.holdsWalk_eq_false {i : InvSt} {w : PWalk}
    (h : w.epoch < i.epoch → ∃ e, w.ans = some (.leaf e) ∧ i.covers e = false) : i.holdsWalk w = false := by
  by_cases he : w.epoch < i.epoch
  · obtain ⟨e, ha, hc⟩ := h he
    simp only [InvSt.holdsWalk, ha, hc, Bool.and_false]
  · simp only [InvSt.holdsWalk, he, decide_false, Bool.false_and]

theorem invalidationComplete_answered {s : Chip} {i : InvSt} (hi : s.inv = some i)
    (hl : ∀ l ∈ s.leavesInUse, l.epoch < i.epoch → i.covers l.e = false)
    (hw : ∀ w ∈ s.walks, w.epoch < i.epoch → ∃ e, w.ans = some (.leaf e) ∧ i.covers e = false) :
    invalidationComplete s = { s with inv := none } := by
  have hleaves : s.leavesInUse.any i.holds = false := by
    rw [List.any_eq_false]
    intro l hin
    simp only [InvSt.holds, Bool.and_eq_true, decide_eq_true_eq, not_and]
    exact fun he => by simp [hl l hin he]
  have hwalks : s.walks.any i.holdsWalk = false := by
    rw [List.any_eq_false]
    exact fun w hin => by simp [InvSt.holdsWalk_eq_false (hw w hin)]
  simp only [invalidationComplete, hi, hleaves, hwalks, Bool.or_self, Bool.false_eq_true, if_false]

theorem mem_leavesInUse_of_request {s : Chip} {r : PortReq} {l : Leaf} (hr : r ∈ s.allRequests) (hl : r.tr = some l) :
    l ∈ s.leavesInUse := by
  have hin : l ∈ (s.allRequests ++ s.ports.fills.map (·.r)).filterMap (·.tr) :=
    List.mem_filterMap.mpr ⟨r, List.mem_append_left _ hr, hl⟩
  simp only [Chip.leavesInUse, List.mem_append]
  exact .inl (.inl (.inl (.inl (.inl (.inl (by simpa using hin))))))

theorem invalidationComplete_waits {s : Chip} {i : InvSt} (hi : s.inv = some i) {r : PortReq} (hr : r ∈ s.allRequests) {l : Leaf}
    (hl : r.tr = some l) (he : l.epoch < i.epoch) (hc : i.covers l.e = true) : invalidationComplete s = s := by
  have hleaves : s.leavesInUse.any i.holds = true :=
    List.any_eq_true.mpr ⟨l, mem_leavesInUse_of_request hr hl, by simp [InvSt.holds, he, hc]⟩
  simp only [invalidationComplete, hi, hleaves, Bool.true_or, if_true]

/-- Settles O44, clause by clause of R337 and R345. -/
theorem invalidations : Obligations.Invalidations := by
  intro s p asid
  refine ⟨fun hs hi hp => ?_, fun hs hi i hmem => ?_, fun scope => ?_, fun i hi => ⟨fun hl hw => ?_, fun r hr l hl he hc => ?_⟩,
    fun q r v hs hq hq16 => ?_⟩
  · have heq : ∀ scope asid, Host.Outcome.next (s.to (trInv scope p asid s.chip)) = Chip.wrote (s.chip.accepted.invalidate scope p asid) s :=
      fun scope asid => congrArg (fun t => Host.Outcome.next (s.to t)) (trInv_idle hs hi hp asid)
    exact ⟨congrArg (fun t => Host.Outcome.next (s.to t)) (trInv_all hs hi), heq 1 0, heq 2 asid, heq 3 asid, heq 4 0⟩
  · have heq : ∀ scope p asid, Host.Outcome.next (s.to (trInv scope p asid s.chip)) = Chip.refusedAs s.chip.accepted s :=
      fun scope p asid => congrArg (fun t => Host.Outcome.next (s.to t)) (trInv_busy hs hi scope p asid)
    simp only [List.mem_cons, List.not_mem_nil, or_false] at hmem
    rcases hmem with rfl | rfl | rfl | rfl | rfl
    · exact heq 0 0 0
    · exact heq 1 p 0
    · exact heq 2 p asid
    · exact heq 3 p asid
    · exact heq 4 p 0
  · refine ⟨_, s.chip.invalidate_inv scope p asid, rfl, rfl, rfl, fun e h => ?_, fun m hm e h => ?_⟩
    · rw [Chip.invalidate_l2] at h
      exact mem_filter_not h
    · rw [Chip.invalidate_l1 _ _ _ _ hm] at h
      exact mem_filter_not h
  · exact congrArg (fun t => Host.Outcome.next (s.to t)) (invalidationComplete_answered hi hl hw)
  · exact congrArg (fun t => Host.Outcome.next (s.to t)) (invalidationComplete_waits hi hr hl he hc)
  · show Host.Outcome.next (s.to (trqEnable q r v s.chip)) = _
    rw [trqEnable, Chip.accept_takes hs, if_pos ⟨hq, hq16⟩]

end Sys2Proof.Machine
end

section
/-! Fault reports: the one accepted next, what a pair's samples show, what the scrubber finds (R439–R441, R453, R460–R462). -/

namespace Sys2Proof.Machine

/-! ### The report accepted next (R453) -/

theorem reportBefore_iff (a b : Report) :
    reportBefore a b = true ↔ a.src < b.src ∨ a.src = b.src ∧ unitCode a.kind a.unit < unitCode b.kind b.unit := by
  simp [reportBefore]

/-- No held report comes before the one that is chosen. -/
theorem nextReport_spec {l : List PendRep} (h : l ≠ []) :
    ∃ p ∈ l, nextReport l = some p ∧ ∀ q ∈ l, reportBefore q.rep p.rep = false := by
  induction l with
  | nil => exact absurd rfl h
  | cons p l ih =>
    have hself : reportBefore p.rep p.rep = false := by
      rw [Bool.eq_false_iff, ne_eq, reportBefore_iff]
      omega
    by_cases hl : l = []
    · subst hl
      exact ⟨p, List.mem_cons_self, rfl, by simpa using hself⟩
    · obtain ⟨q, hq, hnext, hleast⟩ := ih hl
      simp only [Bool.eq_false_iff, ne_eq, reportBefore_iff] at hleast
      by_cases hb : reportBefore q.rep p.rep = true
      · refine ⟨q, List.mem_cons_of_mem _ hq, by simp only [nextReport, hnext, hb, if_true], fun x hx => ?_⟩
        rw [Bool.eq_false_iff, ne_eq, reportBefore_iff]
        rw [reportBefore_iff] at hb
        rcases List.mem_cons.mp hx with rfl | hx
        · omega
        · exact hleast x hx
      · refine ⟨p, List.mem_cons_self, by simp only [nextReport, hnext, if_neg hb], fun x hx => ?_⟩
        rcases List.mem_cons.mp hx with rfl | hx
        · exact hself
        · have hxq := hleast x hx
          rw [reportBefore_iff] at hb
          rw [Bool.eq_false_iff, ne_eq, reportBefore_iff]
          omega

theorem Chip.raiseReports_nil (s : Chip) : s.raiseReports [] = s := by
  unfold Chip.raiseReports
  split <;> rfl

theorem reportAccept_held {s : Chip} {p : PendRep} (hc : s.clocked = true) (h : nextReport s.fc.pend = some p) :
    reportAccept [] s = ({ s with fc := { s.fc with pend := s.fc.pend.erase p } } : Chip).acceptReport p := by
  simp only [reportAccept, Chip.raiseReports_nil, hc, if_true, h]

theorem reportAccept_none {s : Chip} (h : s.fc.pend = []) : reportAccept [] s = s := by
  simp only [reportAccept, Chip.raiseReports_nil, h, nextReport]
  split <;> rfl

/-! ### Pairs (R439, R441) -/

theorem badCode_iff (x : BitVec 2) : badCode x = true ↔ x = 0#2 ∨ x = 3#2 := by
  simp [badCode]

/-- A single bad sample is no event, and two in turn are one. -/
theorem pairShows_bad {x y : BitVec 2} (hx : badCode x = true) (hy : badCode y = true) :
    pairShows 1#2 [x] = [] ∧ pairShows 1#2 [x, 1#2, x] = [] ∧ pairShows 1#2 [x, y] = [.broken] := by
  rcases (badCode_iff x).mp hx with rfl | rfl <;> rcases (badCode_iff y).mp hy with rfl | rfl <;> decide

theorem brokenWire_nothing {samples : List (BitVec 2)} (h : pairShows 1#2 samples = []) (k : UnitKind) (u pair sub : Nat) (s : Chip) :
    brokenWire k u pair sub samples s = s := by
  rw [brokenWire, h]
  rfl

theorem brokenWire_error {s : Chip} {pair : Nat} (hp : s.phase ≠ .porst) (ha : srcAssigned pair = true) (k : UnitKind) (u sub : Nat) :
    brokenWire k u pair sub [2#2] s = s.report { src := pair, kind := k, unit := u } := by
  have hshow : pairShows 1#2 [2#2] = [.error] := by decide
  have hok : ¬ (s.phase = .porst ∨ srcAssigned pair = false) := by simp [hp, ha]
  rw [brokenWire, hshow]
  exact if_neg hok

theorem brokenWire_broken {samples : List (BitVec 2)} (h : pairShows 1#2 samples = [.broken]) (k : UnitKind) (u pair sub : Nat) (s : Chip) :
    brokenWire k u pair sub samples s = s.wireBroken k u pair sub := by
  rw [brokenWire, h]
  rfl

theorem Chip.wireBroken_masked {s : Chip} {k : UnitKind} {u pair : Nat} (h : pair ∈ (s.unitStat k u).masked) (sub : Nat) :
    s.wireBroken k u pair sub = s :=
  if_neg fun hh => hh.2.2.2 (List.contains_iff_mem.mpr h)

/-- A broken pair is masked, named by its unit, and reported. -/
theorem Chip.wireBroken_unmasked {s : Chip} {k : UnitKind} {u pair sub : Nat} (hp : s.phase ≠ .porst) (h1 : 1 ≤ sub) (h23 : sub ≤ 23)
    (h : pair ∉ (s.unitStat k u).masked) :
    s.wireBroken k u pair sub =
      { s.updUnit k u (fun x => { x with pair := pair % 65536, masked := pair :: x.masked }) with
        fc := { (s.updUnit k u (fun x => { x with pair := pair % 65536, masked := pair :: x.masked })).fc with
          pend := foldReport { src := Src.wire sub, kind := k, unit := u, detail := some (at64 0 pair) } s.fc.pend } } :=
  if_pos ⟨hp, h1, h23, fun hh => h (List.contains_iff_mem.mp hh)⟩

theorem Chip.unitStat_updUnit (s : Chip) (k : UnitKind) (u : Nat) (f : UnitStat → UnitStat) :
    (s.updUnit k u f).unitStat k u = f (s.unitStat k u) := by
  rw [Chip.unitStat, Chip.updUnit, Tab.get_upd, if_pos rfl]
  rfl

/-! ### The scrubber (R460–R462) -/

/-- Neither an array that the scrubber reads nor row cache data has an uncorrectable source among those that are counted. -/
theorem eccuOf_scrubbed {a e : Nat} (hs : scrubbed a = true) (he : eccuOf a = some e) : 0x0F < e := by
  simp only [scrubbed, List.contains_iff_mem, List.mem_cons, List.not_mem_nil, or_false] at hs
  rcases hs with rfl | rfl | rfl | rfl | rfl | rfl <;> cases he <;> decide

theorem Chip.scrubReport_uncounted {s : Chip} {r : Report} (h : 0x0F < r.src) (hd : r.detail = none) :
    s.scrubReport r = s.report { r with detail := some (at64 62 1) } := by
  have hno : ¬ (r.src ≤ 0x0F ∧ Report.refetched { r with detail := some (at64 62 1) } = false) := by omega
  have hor : (0 : Word) ||| at64 62 1 = at64 62 1 := BitVec.zero_or
  rw [Chip.scrubReport, hd, Option.getD_none, hor, Chip.countEcc, if_neg hno]

/-- The codeword that stands in the row cache for the 32 bytes at a location. -/
def Chip.storedWord (s : Chip) (loc : Nat) (flip : List Byte) : List Byte :=
  (rsWord (toBytes 32 (fld (s.lineAt (granuleOf loc)).data (8 * (loc % 256 / 32 * 32)) 256).toNat)).zipWith (fun a b => a ^^^ b) flip

theorem Chip.scrubLine_healthy {s : Chip} {loc : Nat} {flip : List Byte} (hr : rsDecode (s.storedWord loc flip) = .ok) :
    s.scrubLine loc flip = s := by
  rw [Chip.storedWord] at hr
  simp only [Chip.scrubLine, hr]

theorem Chip.scrubLine_fixed {s : Chip} {loc pos : Nat} {flip : List Byte} {x : Byte}
    (hr : rsDecode (s.storedWord loc flip) = .fixed pos x) :
    s.scrubLine loc flip = (s.updLine (granuleOf loc) (fun l => { l with
        data := mergeMask (wide (byteMask (loc % 256 / 32 * 32) 32)) l.data
          (granuleBytes (loc % 256 / 32 * 32) ((rsFix (s.storedWord loc flip) (.fixed pos x)).take 32)) })).scrubReport
      { src := Src.eccC 0, kind := .bank, unit := Config.rcBank (granuleOf loc) % 64, detail := some (at64 0 pos) } := by
  rw [Chip.storedWord] at hr
  simp only [Chip.scrubLine, Chip.storedWord, hr]

/-- A dirty line whose word cannot be corrected has lost its data. -/
theorem Chip.scrubLine_bad {s : Chip} {loc : Nat} {flip : List Byte} (hr : rsDecode (s.storedWord loc flip) = .bad)
    (hd : (s.lineAt (granuleOf loc)).dirty ≠ 0) :
    s.scrubLine loc flip = (s.updLine (granuleOf loc) (fun l => { l with lost := true })).report
      { src := Src.eccuRcdata, kind := .bank, unit := Config.rcBank (granuleOf loc) % 64, part := some (s.lineAt (granuleOf loc)).part,
        detail := some (at64 62 1) } := by
  have hrep := (s.updLine (granuleOf loc) (fun l => { l with lost := true })).scrubReport_uncounted
    (r := { src := Src.eccuRcdata, kind := .bank, unit := Config.rcBank (granuleOf loc) % 64,
            part := some (s.lineAt (granuleOf loc)).part }) (show 0x0F < Src.eccuRcdata by decide) rfl
  rw [Chip.storedWord] at hr
  simp only [Chip.scrubLine, hr, if_neg hd]
  exact hrep

section
variable {s : Chip} {a : Nat} (hp : s.phase = .run) (hf : s.regF Reg.fcScrub 0 16 ≠ 0) (ha : scrubbed a = true) (k : UnitKind)
  (u loc : Nat) (flip : BitVec 288)
include hp hf ha

theorem scrubRead_on : scrubRead a k u loc flip s = if a = 0 then s.scrubLine loc (toBytes 36 flip.toNat)
    else match arrayReport a k u (rsDecode (toBytes 36 flip.toNat)) with
      | some r => s.scrubReport r
      | none => s := by
  have hon : ¬ (s.regF Reg.fcScrub 0 16 = 0 ∨ s.phase ≠ .run ∨ scrubbed a = false) := by simp [hp, hf, ha]
  exact if_neg hon

theorem scrubRead_nothing (h0 : a ≠ 0) (hr : rsDecode (toBytes 36 flip.toNat) = .ok) : scrubRead a k u loc flip s = s := by
  rw [scrubRead_on hp hf ha, if_neg h0, hr]
  rfl

theorem scrubRead_found (h0 : a ≠ 0) {r : Report} (hr : arrayReport a k u (rsDecode (toBytes 36 flip.toNat)) = some r) :
    scrubRead a k u loc flip s = s.scrubReport r := by
  rw [scrubRead_on hp hf ha, if_neg h0, hr]

theorem scrubRead_fixed (h0 : a ≠ 0) {pos : Nat} {x : Byte} (hr : rsDecode (toBytes 36 flip.toNat) = .fixed pos x) :
    scrubRead a k u loc flip s = s.scrubReport { src := Src.eccC a, kind := k, unit := u, detail := some (at64 0 pos) } := by
  have hrep : arrayReport a k u (rsDecode (toBytes 36 flip.toNat)) =
      some { src := Src.eccC a, kind := k, unit := u, detail := some (at64 0 pos) } := by
    rw [hr, arrayReport]
  exact scrubRead_found hp hf ha k u loc flip h0 hrep

theorem scrubRead_bad (h0 : a ≠ 0) {e : Nat} (hr : rsDecode (toBytes 36 flip.toNat) = .bad) (he : eccuOf a = some e) :
    scrubRead a k u loc flip s = s.report { src := e, kind := k, unit := u, detail := some (at64 62 1) } := by
  have hrep : arrayReport a k u (rsDecode (toBytes 36 flip.toNat)) = some { src := e, kind := k, unit := u } := by
    simp only [hr, arrayReport, he]
  rw [scrubRead_found hp hf ha k u loc flip h0 hrep]
  exact Chip.scrubReport_uncounted (eccuOf_scrubbed ha he) rfl

end

theorem exec_scrubRead (w : ArrayWord) (flip : BitVec 288) (s : State) :
    exec (.scrubRead w flip) s = .next (s.to (scrubRead w.array w.kind w.unit w.loc flip s.chip)) := rfl

/-- Settles O46: the report that no other comes before, the events of a pair's samples, the decoder's outcomes. -/
theorem faultReports : Obligations.FaultReports := by
  intro s k u pair sub
  refine ⟨fun hc _ hne => ?_, fun hnil => ?_, fun hp ha => ?_, fun x hx => ?_, fun a loc flip hp hf ha => ?_⟩
  · obtain ⟨p, hin, hnext, hleast⟩ := nextReport_spec hne
    exact ⟨p, hin, congrArg (fun t => Host.Outcome.next (s.to t)) (reportAccept_held hc hnext), hleast⟩
  · exact congrArg (fun t => Host.Outcome.next (s.to t)) (reportAccept_none hnil)
  · exact congrArg (fun t => Host.Outcome.next (s.to t)) (brokenWire_error hp ha k u sub)
  · obtain ⟨hone, htwo, _⟩ := pairShows_bad hx hx
    refine ⟨congrArg (fun t => Host.Outcome.next (s.to t)) (brokenWire_nothing hone ..),
      congrArg (fun t => Host.Outcome.next (s.to t)) (brokenWire_nothing htwo ..), fun y hy hp h1 h23 hlt => ?_⟩
    obtain ⟨_, _, hbroken⟩ := pairShows_bad hx hy
    refine ⟨fun hm => congrArg (fun t => Host.Outcome.next (s.to t)) ((brokenWire_broken hbroken ..).trans (Chip.wireBroken_masked hm sub)),
      fun hm => ⟨_, congrArg (fun t => Host.Outcome.next (s.to t)) ((brokenWire_broken hbroken ..).trans
        (Chip.wireBroken_unmasked hp h1 h23 hm)), ?_⟩⟩
    have hstat := s.chip.unitStat_updUnit k u (fun x => { x with pair := pair % 65536, masked := pair :: x.masked })
    refine ⟨?_, ?_, rfl, rfl, rfl, rfl⟩
    · exact (congrArg UnitStat.masked hstat) ▸ List.mem_cons_self
    · exact (congrArg UnitStat.pair hstat).trans (Nat.mod_eq_of_lt hlt)
  · refine ⟨fun h0 => ⟨fun hr => ?_, fun pos x hr => ?_, fun e hr he => ?_⟩, fun h0 => ?_⟩
    · rw [exec_scrubRead, scrubRead_nothing hp hf ha k u loc flip h0 hr]
      rfl
    · rw [exec_scrubRead, scrubRead_fixed hp hf ha k u loc flip h0 hr, Chip.scrubReport, Option.getD_some]
    · rw [exec_scrubRead, scrubRead_bad hp hf ha k u loc flip h0 hr he]
    · subst h0
      intro g j l word
      have hline : exec (.scrubRead ⟨0, k, u, loc⟩ flip) s = .next (s.to (s.chip.scrubLine loc (toBytes 36 flip.toNat))) := by
        rw [exec_scrubRead, scrubRead_on hp hf ha, if_pos rfl]
      refine ⟨fun hr => ?_, fun pos x hr => ?_, fun hr hd => ?_⟩
      · rw [hline, Chip.scrubLine_healthy hr]
        rfl
      · rw [hline, Chip.scrubLine_fixed hr, Chip.scrubReport, Option.getD_some]
        rfl
      · rw [hline, Chip.scrubLine_bad hr hd]

end Sys2Proof.Machine
end

section
/-! Writes of the interrupt controller (R507, R508, R518, R521, R526–R528). -/

namespace Sys2Proof.Machine

/-! ### One change of several sources -/

/-- A change that does the same twice as once, of each source of a list. -/
theorem Chip.srcAt_foldl_updSrc (f : IrqSrc → IrqSrc) (hf : ∀ x, f (f x) = f x) (ns : List Nat) (s : Chip) (n : Nat) :
    (ns.foldl (fun s n => s.updSrc n f) s).srcAt n = if n ∈ ns then f (s.srcAt n) else s.srcAt n := by
  induction ns generalizing s with
  | nil => simp
  | cons m ns ih =>
    rw [List.foldl_cons, ih, Chip.srcAt_updSrc]
    by_cases hn : n = m
    · subst hn
      simp [hf]
    · simp [hn]

theorem Chip.grace_foldl_updSrc (f : IrqSrc → IrqSrc) (ns : List Nat) (s : Chip) :
    (ns.foldl (fun s n => s.updSrc n f) s).irq.grace = s.irq.grace :=
  foldl_keeps (fun s : Chip => s.irq.grace) (fun s n => s.updSrc n f) (fun _ _ => rfl) ns s

/-- Two changes of one source are one. -/
theorem Chip.updSrc_updSrc (s : Chip) (n : Nat) (f g : IrqSrc → IrqSrc) : (s.updSrc n f).updSrc n g = s.updSrc n (fun x => g (f x)) := by
  simp only [Chip.updSrc, Tab.upd_upd]

/-! ### The writes -/

/-- The sources whose bits of IC_EVTCFG a word changes. -/
theorem mem_evtChanged (a : Chip) (v : Word) (i : Nat) :
    i ∈ (List.range 32).filter (fun i => bitB (a.reg Reg.icEvtcfg ^^^ v) i || bitB (a.reg Reg.icEvtcfg ^^^ v) (32 + i)) ↔
      i < 32 ∧ (bitB (a.reg Reg.icEvtcfg ^^^ v) i = true ∨ bitB (a.reg Reg.icEvtcfg ^^^ v) (32 + i) = true) := by
  rw [List.mem_filter, List.mem_range, Bool.or_eq_true]

section
variable {s : State} (hs : s.chip.takesWrites)
include hs

theorem exec_icMset (k : Nat) (v : Word) : ∃ u : Chip, exec (.icMset k v) s = Chip.wrote u s ∧
    (∀ n, u.srcAt n = if n ∈ s.chip.accepted.srcSet k v then { s.chip.accepted.srcAt n with mask := true } else s.chip.accepted.srcAt n) ∧
    (∀ n, n ∈ u.irq.grace ↔ n ∈ s.chip.accepted.irq.grace ∨
      n ∈ s.chip.accepted.srcSet k v ∧ (s.chip.accepted.srcAt n).mask = false) := by
  have hexec : exec (.icMset k v) s = .next (s.to (icMset k v s.chip)) := rfl
  rw [hexec, icMset, Chip.accept_takes hs]
  refine ⟨_, rfl, fun n => ?_, fun n => ?_⟩
  · exact Chip.srcAt_foldl_updSrc (fun x => { x with mask := true }) (fun _ => rfl) ..
  · rw [Chip.grace_foldl_updSrc, List.mem_append, List.mem_filter, Bool.not_eq_true']

theorem exec_icMclr (k : Nat) (v : Word) : ∃ u : Chip, exec (.icMclr k v) s = Chip.wrote u s ∧
    (∀ n, u.srcAt n = if n ∈ s.chip.accepted.srcSet k v then { s.chip.accepted.srcAt n with mask := false } else s.chip.accepted.srcAt n) ∧
    (∀ n, n ∈ u.irq.grace ↔ n ∈ s.chip.accepted.irq.grace ∧ n ∉ s.chip.accepted.srcSet k v) := by
  have hexec : exec (.icMclr k v) s = .next (s.to (icMclr k v s.chip)) := rfl
  rw [hexec, icMclr, Chip.accept_takes hs]
  refine ⟨_, rfl, fun n => ?_, fun n => ?_⟩
  · exact Chip.srcAt_foldl_updSrc (fun x => { x with mask := false }) (fun _ => rfl) ..
  · rw [Chip.grace_foldl_updSrc, List.mem_filter, Bool.not_eq_true', ← Bool.not_eq_true, List.contains_iff_mem]

theorem exec_icEvtcfg_refused (v : Word) {i : Nat} (hi : i < 32)
    (hd : bitB (s.chip.accepted.reg Reg.icEvtcfg ^^^ v) i = true ∨ bitB (s.chip.accepted.reg Reg.icEvtcfg ^^^ v) (32 + i) = true)
    (hbusy : (s.chip.accepted.srcAt (736 + i)).mask = false ∨ (s.chip.accepted.srcAt (736 + i)).active = true) :
    exec (.icEvtcfg v) s = Chip.refusedAs s.chip.accepted s := by
  have hexec : exec (.icEvtcfg v) s = .next (s.to (icEvtcfg v s.chip)) := rfl
  rw [hexec, icEvtcfg, Chip.accept_takes hs, if_neg]
  · rfl
  · intro h
    have hfree := List.all_eq_true.mp h i ((mem_evtChanged _ v i).mpr ⟨hi, hd⟩)
    rcases hbusy with hb | hb <;> simp [hb] at hfree

theorem exec_icEvtcfg_stored (v : Word)
    (h : ∀ i, i < 32 → (s.chip.accepted.srcAt (736 + i)).mask = true ∧ (s.chip.accepted.srcAt (736 + i)).active = false) :
    ∃ u : Chip, exec (.icEvtcfg v) s = Chip.wrote u s ∧ u.reg Reg.icEvtcfg = v := by
  have hexec : exec (.icEvtcfg v) s = .next (s.to (icEvtcfg v s.chip)) := rfl
  rw [hexec, icEvtcfg, Chip.accept_takes hs, if_pos]
  · refine ⟨_, rfl, (foldl_keeps (fun s : Chip => s.reg Reg.icEvtcfg) _ ?_ _ _).trans (Chip.reg_setReg_self ..)⟩
    exact fun _ _ => rfl
  · refine List.all_eq_true.mpr fun i hi => ?_
    obtain ⟨hm, ha⟩ := h i ((mem_evtChanged _ v i).mp hi).1
    simp [hm, ha]

theorem exec_icSrc {n : Nat} (hn : s.chip.accepted.srcPresent n = true) (v : Word)
    (hy : { s.chip.accepted.srcAt n with prio := fldN v 0 8, target := fldN v 8 3, nmi := bitB v 11 } ≠ s.chip.accepted.srcAt n) :
    exec (.icSrc n v) s = if (s.chip.accepted.srcAt n).mask && !(s.chip.accepted.srcAt n).active && !s.chip.accepted.presented n
      then Chip.wrote (s.chip.accepted.updSrc n (fun _ =>
        { s.chip.accepted.srcAt n with prio := fldN v 0 8, target := fldN v 8 3, nmi := bitB v 11 })) s
      else Chip.refusedAs s.chip.accepted s := by
  have hexec : exec (.icSrc n v) s = .next (s.to (icSrc n v s.chip)) := rfl
  have hpres : ¬ (!s.chip.accepted.srcPresent n) = true := by simp [hn]
  rw [hexec, icSrc, Chip.accept_takes hs, if_neg hpres, if_neg hy]
  split <;> rfl

theorem exec_icSst {n : Nat} (hn : s.chip.accepted.srcPresent n = true) (v : Word) :
    exec (.icSst n v) s = Chip.wrote (s.chip.accepted.updSrc n (fun x =>
      { x with phant := fldN v 24 8, cnt := fldN v 16 8, lost := x.lost && !bitB v 6, storm := x.storm && !bitB v 7 })) s := by
  have hexec : exec (.icSst n v) s = .next (s.to (icSst n v s.chip)) := rfl
  rw [hexec, icSst, Chip.accept_takes hs, if_pos hn]
  rfl

/-- An end of interrupt that names an ACTIVE source of its target ends it. -/
theorem exec_icEoi_active {t : Nat} (ht : t < 8) {v : Word} (hn : fldN v 0 10 < 768)
    (ha : s.chip.accepted.activeOn t (fldN v 0 10) = true) :
    exec (.icEoi t v) s = Chip.wrote (if s.chip.accepted.lvlOf (fldN v 0 10) then s.chip.accepted.updSrc (fldN v 0 10)
        (fun x => IrqSrc.again s.chip.accepted.time { x with active := false, actNmi := false })
      else s.chip.accepted.updSrc (fldN v 0 10) (fun x => { x with active := false, actNmi := false })) s := by
  have hexec : exec (.icEoi t v) s = .next (s.to (icEoi t v s.chip)) := rfl
  have hlvl : ∀ f, (s.chip.accepted.updSrc (fldN v 0 10) f).lvlOf (fldN v 0 10) = s.chip.accepted.lvlOf (fldN v 0 10) := fun _ => rfl
  rw [hexec, icEoi, Chip.accept_takes hs, if_neg (by omega), if_pos ⟨hn, ha⟩]
  simp only [hlvl]
  split
  · rw [Chip.updSrc_updSrc]
    rfl
  · rfl

theorem exec_icEoi_error {t : Nat} (ht : t < 8) {v : Word} (h : 768 ≤ fldN v 0 10 ∨ s.chip.accepted.activeOn t (fldN v 0 10) = false) :
    exec (.icEoi t v) s = Chip.wrote (s.chip.accepted.updTgt t (fun x => { x with eoierr := true })) s := by
  have hexec : exec (.icEoi t v) s = .next (s.to (icEoi t v s.chip)) := rfl
  have hnot : ¬ (fldN v 0 10 < 768 ∧ s.chip.accepted.activeOn t (fldN v 0 10) = true) := by
    rintro ⟨hlt, hact⟩
    rcases h with h | h
    · omega
    · rw [h] at hact
      cases hact
  rw [hexec, icEoi, Chip.accept_takes hs, if_neg (by omega), if_neg hnot]
  rfl

theorem exec_icTcfg_stored {t : Nat} (ht : t < 8) {v : Word} (h0 : fldN v 16 16 ≠ 0) (hg : fldN v 8 4 = (s.chip.accepted.tgtAt t).prigroup)
    (h8 : (s.chip.accepted.tgtAt t).prigroup ≤ 8) :
    exec (.icTcfg t v) s = Chip.wrote (s.chip.accepted.updTgt t (fun x =>
      { x with vptmo := fldN v 16 16, prigroup := fldN v 8 4, en := bitB v 0 })) s := by
  have hexec : exec (.icTcfg t v) s = .next (s.to (icTcfg t v s.chip)) := rfl
  rw [hexec, icTcfg, Chip.accept_takes hs, if_neg (by omega), if_neg (by omega), if_neg (fun h => h.1 hg)]
  rfl

theorem exec_icTcfg_refused {t : Nat} (ht : t < 8) {v : Word} (h : fldN v 16 16 = 0 ∨ 8 < fldN v 8 4) :
    exec (.icTcfg t v) s = Chip.refusedAs s.chip.accepted s := by
  have hexec : exec (.icTcfg t v) s = .next (s.to (icTcfg t v s.chip)) := rfl
  rw [hexec, icTcfg, Chip.accept_takes hs, if_neg (by omega), if_pos h]
  rfl

end

/-- Settles O47, register by register. -/
theorem interruptRegisters : Obligations.InterruptRegisters := by
  intro s k n t v hs a
  refine ⟨?_, ?_, exec_icMset hs k v, exec_icMclr hs k v, fun ⟨i, hi, hd, hb⟩ => exec_icEvtcfg_refused hs v hi hd hb,
    exec_icEvtcfg_stored hs v, fun hn => ⟨?_, ?_, exec_icSst hs hn v⟩, fun ht => ⟨?_, ?_, exec_icEoi_error hs ht, ?_,
    exec_icTcfg_refused hs ht⟩⟩
  · show Host.Outcome.next (s.to (icPset k v s.chip)) = _
    rw [icPset, Chip.accept_takes hs]
    rfl
  · show Host.Outcome.next (s.to (icPclr k v s.chip)) = _
    rw [icPclr, Chip.accept_takes hs]
    rfl
  · intro hy hm ha hp
    refine (exec_icSrc hs hn v hy).trans (if_pos ?_)
    simp only [a] at hm ha hp
    simp [hm, ha, hp]
  · intro hy h
    refine (exec_icSrc hs hn v hy).trans (if_neg ?_)
    simp only [a] at h
    rcases h with h | h | h <;> simp [h]
  · intro hlt ha hl
    exact (exec_icEoi_active hs ht hlt ha).trans (congrArg (Chip.wrote · s) (if_neg (Bool.eq_false_iff.mp hl)))
  · intro hlt ha hl
    exact (exec_icEoi_active hs ht hlt ha).trans (congrArg (Chip.wrote · s) (if_pos hl))
  · exact fun h0 hg h8 => exec_icTcfg_stored hs ht h0 hg h8

end Sys2Proof.Machine
end

section
/-! Vectors and event inputs (R502–R506, R512–R519, R522). -/

namespace Sys2Proof.Machine

/-! ### The most urgent candidate (R511, R512) -/

/-- The chosen source has the least PRIO, and the least number among those. -/
theorem Chip.mostUrgent_spec (s : Chip) {l : List Nat} (h : l ≠ []) :
    ∃ m ∈ l, s.mostUrgent l = some m ∧ ∀ j ∈ l, (s.srcAt m).prio < (s.srcAt j).prio ∨ (s.srcAt m).prio = (s.srcAt j).prio ∧ m ≤ j := by
  induction l with
  | nil => exact absurd rfl h
  | cons n l ih =>
    by_cases hl : l = []
    · subst hl
      exact ⟨n, List.mem_cons_self, rfl, by simp⟩
    · obtain ⟨m, hm, hmost, hleast⟩ := ih hl
      by_cases hn : (s.srcAt n).prio < (s.srcAt m).prio ∨ ((s.srcAt n).prio = (s.srcAt m).prio ∧ n ≤ m)
      · refine ⟨n, List.mem_cons_self, by simp only [Chip.mostUrgent, hmost, if_pos hn], fun j hj => ?_⟩
        rcases List.mem_cons.mp hj with rfl | hj
        · exact .inr ⟨rfl, le_refl _⟩
        · have := hleast j hj
          omega
      · refine ⟨m, List.mem_cons_of_mem _ hm, by simp only [Chip.mostUrgent, hmost, if_neg hn], fun j hj => ?_⟩
        rcases List.mem_cons.mp hj with rfl | hj
        · omega
        · exact hleast j hj

/-- The source may be presented: a candidate that is an NMI or pre-empts. -/
def Chip.readyFor (s : Chip) (t j : Nat) : Prop :=
  s.candidate t j = true ∧ ((s.srcAt j).nmireq = true ∨ s.preempts t j = true)

/-- The candidates that are NMIs, and those that pre-empt. -/
def Chip.nmisFor (s : Chip) (t : Nat) : List Nat := (s.srcKeys.filter (s.candidate t)).filter (fun n => (s.srcAt n).nmireq)

def Chip.preemptors (s : Chip) (t : Nat) : List Nat := (s.srcKeys.filter (s.candidate t)).filter (s.preempts t)

theorem Chip.mem_nmisFor (s : Chip) (t j : Nat) :
    j ∈ s.nmisFor t ↔ j ∈ s.srcKeys ∧ s.candidate t j = true ∧ (s.srcAt j).nmireq = true := by
  rw [Chip.nmisFor, List.mem_filter, List.mem_filter, and_assoc]

theorem Chip.mem_preemptors (s : Chip) (t j : Nat) :
    j ∈ s.preemptors t ↔ j ∈ s.srcKeys ∧ s.candidate t j = true ∧ s.preempts t j = true := by
  rw [Chip.preemptors, List.mem_filter, List.mem_filter, and_assoc]

/-- The selection: no vector while an NMI is ACTIVE; the NMIs before every other (R512). -/
theorem Chip.selectVector_eq (s : Chip) (t : Nat) : s.selectVector t =
    if s.nmiActive t then none else if (s.nmisFor t).isEmpty then s.mostUrgent (s.preemptors t) else s.mostUrgent (s.nmisFor t) := rfl

theorem Chip.selectVector_ready {s : Chip} {t : Nat} (hr : ∃ j ∈ s.srcKeys, s.readyFor t j) (ha : s.nmiActive t = false) :
    ∃ m ∈ s.srcKeys, s.readyFor t m ∧ s.selectVector t = some m ∧
      ((s.srcAt m).nmireq = true ∨ ∀ j ∈ s.srcKeys, s.candidate t j = true → (s.srcAt j).nmireq = false) ∧
      ∀ j ∈ s.srcKeys, s.readyFor t j → (s.srcAt j).nmireq = (s.srcAt m).nmireq →
        (s.srcAt m).prio < (s.srcAt j).prio ∨ ((s.srcAt m).prio = (s.srcAt j).prio ∧ m ≤ j) := by
  rw [Chip.selectVector_eq, if_neg (Bool.eq_false_iff.mp ha)]
  by_cases hnmi : s.nmisFor t = []
  · have hno : ∀ j ∈ s.srcKeys, s.candidate t j = true → (s.srcAt j).nmireq = false := by
      intro j hj hc
      by_contra hn
      have hmem := (s.mem_nmisFor t j).mpr ⟨hj, hc, Bool.not_eq_false _ ▸ hn⟩
      rw [hnmi] at hmem
      cases hmem
    have hpre : ∀ j ∈ s.srcKeys, s.readyFor t j → j ∈ s.preemptors t := by
      rintro j hj ⟨hc, hn | hp⟩
      · rw [hno j hj hc] at hn
        cases hn
      · exact (s.mem_preemptors t j).mpr ⟨hj, hc, hp⟩
    obtain ⟨j, hj, hready⟩ := hr
    obtain ⟨m, hm, hmost, hleast⟩ := s.mostUrgent_spec (List.ne_nil_of_mem (hpre j hj hready))
    obtain ⟨hkey, hcand, hp⟩ := (s.mem_preemptors t m).mp hm
    refine ⟨m, hkey, ⟨hcand, .inr hp⟩, ?_, .inr hno, fun j hj hrj _ => hleast j (hpre j hj hrj)⟩
    rw [hnmi]
    exact hmost
  · obtain ⟨m, hm, hmost, hleast⟩ := s.mostUrgent_spec hnmi
    obtain ⟨hkey, hcand, hn⟩ := (s.mem_nmisFor t m).mp hm
    refine ⟨m, hkey, ⟨hcand, .inl hn⟩, ?_, .inl hn, fun j hj hrj heq =>
      hleast j ((s.mem_nmisFor t j).mpr ⟨hj, hrj.1, heq.trans hn⟩)⟩
    rw [if_neg (by simpa using hnmi)]
    exact hmost

theorem Chip.selectVector_none {s : Chip} {t : Nat} (h : s.nmiActive t = true ∨ ∀ j ∈ s.srcKeys, ¬ s.readyFor t j) :
    s.selectVector t = none := by
  rw [Chip.selectVector_eq]
  rcases h with h | h
  · rw [if_pos h]
  · have hnmi : s.nmisFor t = [] := by
      refine List.eq_nil_iff_forall_not_mem.mpr fun j hj => ?_
      obtain ⟨hk, hc, hn⟩ := (s.mem_nmisFor t j).mp hj
      exact h j hk ⟨hc, .inl hn⟩
    have hpre : s.preemptors t = [] := by
      refine List.eq_nil_iff_forall_not_mem.mpr fun j hj => ?_
      obtain ⟨hk, hc, hp⟩ := (s.mem_preemptors t j).mp hj
      exact h j hk ⟨hc, .inr hp⟩
    rw [hnmi, hpre]
    split <;> rfl

/-! ### Presentation, claim, withdrawal -/

theorem vectorPresent_free {s : Chip} {t : Nat} (ht : t < 8) (hen : (s.tgtAt t).en = true) (hp : (s.tgtAt t).pres = none)
    (early : Option Nat) :
    vectorPresent t early s = match s.vectorFor t early with
      | some n => s.updTgt t (fun x => { x with pres := some (n, (s.srcAt n).nmireq), presAt := s.time, ackHigh := none })
      | none => s :=
  if_pos ⟨ht, hen, hp⟩

theorem vectorPresent_some {s : Chip} {t m : Nat} (ht : t < 8) (hen : (s.tgtAt t).en = true) (hp : (s.tgtAt t).pres = none)
    {early : Option Nat} (h : s.vectorFor t early = some m) :
    vectorPresent t early s = s.updTgt t (fun x => { x with pres := some (m, (s.srcAt m).nmireq), presAt := s.time, ackHigh := none }) := by
  rw [vectorPresent_free ht hen hp, h]

theorem vectorPresent_none {s : Chip} {t : Nat} (ht : t < 8) (hen : (s.tgtAt t).en = true) (hp : (s.tgtAt t).pres = none)
    {early : Option Nat} (h : s.vectorFor t early = none) : vectorPresent t early s = s := by
  rw [vectorPresent_free ht hen hp, h]

theorem Chip.vectorFor_late {s : Chip} {t n : Nat} (hg : n ∈ s.irq.grace) (hw : s.wants t n = true) (ha : s.nmiActive t = false)
    (hp : s.preempts t n = true) : s.vectorFor t (some n) = some n := by
  refine if_pos ?_
  simp [hg, hw, ha, hp]

theorem vectorClaim_edge {s : Chip} {t n : Nat} {nmi : Bool} (hp : (s.tgtAt t).pres = some (n, nmi)) (hl : s.isLevel n = false) :
    vectorClaim t s = (s.updTgt t (fun x => { x with pres := none, ackHigh := some s.time })).updSrc n
      (fun x => { x with pend := false, nmireq := false, byLevel := false, active := true, actNmi := nmi }) := by
  simp only [vectorClaim, hp, hl, Bool.false_and, Bool.false_eq_true, if_false]

theorem vpackTimeout_idle {s : Chip} {t : Nat} (hp : (s.tgtAt t).pres = none) (ha : (s.tgtAt t).ackHigh = none) : vpackTimeout t s = s := by
  have hdue : s.vpackDue t = false := by simp only [Chip.vpackDue, hp, ha]
  refine if_neg fun h => ?_
  rw [hdue] at h
  cases h.2

theorem vpackTimeout_due {s : Chip} {t : Nat} (ht : t < 8) (hd : s.vpackDue t = true) :
    vpackTimeout t s = (s.updTgt t (fun x => { x with pres := none, ackHigh := none, en := false })).report
      { src := Src.vpack, kind := .shared, unit := 6, detail := some (at64 0 t) } :=
  if_pos ⟨ht, hd⟩

/-! ### Event inputs -/

theorem evtEdge_enabled {s : Chip} {i : Nat} (hi : i < 32) (he : s.evtEn i = true) (hl : s.evtLevel i = false) (merged : Bool) :
    evtEdge i merged s = (s.raise (736 + i) false).updSrc (736 + i) (fun x => { x with lost := x.lost || merged }) :=
  if_pos ⟨hi, he, Bool.eq_false_iff.mp hl⟩

theorem Chip.isLevel_evt {s : Chip} {i : Nat} (hi : i < 32) (he : s.evtEn i = true) (hl : s.evtLevel i = true) :
    s.isLevel (736 + i) = true := by
  have hsub : 736 + i - 736 = i := by omega
  have hlt : 736 + i < 768 := by omega
  simp [Chip.isLevel, hsub, hlt, he, hl]

theorem evtLevelRise_level {s : Chip} {i : Nat} (hi : i < 32) (he : s.evtEn i = true) (hl : s.evtLevel i = true)
    (hb : bitB s.irq.lvl i = false) :
    evtLevelRise i s = if (s.srcAt (736 + i)).active then { s with irq := { s.irq with lvl := setBit s.irq.lvl i true } }
      else Chip.updSrc (736 + i) (fun x => { x.event s.time false with byLevel := x.byLevel || !x.pend })
        { s with irq := { s.irq with lvl := setBit s.irq.lvl i true } } :=
  if_pos ⟨hi, Chip.isLevel_evt hi he hl, Bool.eq_false_iff.mp hb⟩

theorem evtLevelFall_level {s : Chip} {i : Nat} (hi : i < 32) (hb : bitB s.irq.lvl i = true) :
    evtLevelFall i s = if (s.srcAt (736 + i)).byLevel && !s.presented (736 + i) then
        Chip.updSrc (736 + i) (fun x => { x with pend := false, nmireq := false, byLevel := false })
          { s with irq := { s.irq with lvl := setBit s.irq.lvl i false } }
      else { s with irq := { s.irq with lvl := setBit s.irq.lvl i false } } :=
  if_pos ⟨hi, hb⟩

theorem stormWindow_passed {s : Chip} {n : Nat} (hn : n < 768) (hw : 1024 < (s.srcAt n).winCnt) (hr : (s.srcAt n).winRep = false) :
    stormWindow n s = (s.updSrc n (fun x => { x with storm := true, winRep := true })).report
      { src := Src.irqstorm, kind := .shared, unit := 6, detail := some (at64 0 n) } :=
  if_pos ⟨hn, hw, Bool.eq_false_iff.mp hr⟩

/-- Settles O48, command by command. -/
theorem interruptDelivery : Obligations.InterruptDelivery := by
  intro s t n i
  refine ⟨fun ht hen hp => ⟨fun hr ha => ?_, fun h => ?_, fun hg hw ha hpre => ?_⟩, fun nmi hp hl => ?_, fun _ hp ha => ?_,
    fun ht hd => ?_, fun hi he => ⟨fun hl merged => ?_, fun hl hb hact => ?_, fun hl hb hact => ?_, fun hb hby hpres => ?_, fun hb hby => ?_⟩,
    fun hn hw hr => ?_⟩
  · obtain ⟨m, hkey, hready, hsel, hnmi, hleast⟩ := Chip.selectVector_ready hr ha
    exact ⟨m, hkey, hready, congrArg (fun t => Host.Outcome.next (s.to t)) (vectorPresent_some ht hen hp hsel), hnmi, hleast⟩
  · exact congrArg (fun t => Host.Outcome.next (s.to t)) (vectorPresent_none ht hen hp (early := none) (Chip.selectVector_none h))
  · exact congrArg (fun t => Host.Outcome.next (s.to t)) (vectorPresent_some ht hen hp (Chip.vectorFor_late hg hw ha hpre))
  · exact congrArg (fun t => Host.Outcome.next (s.to t)) (vectorClaim_edge hp hl)
  · exact congrArg (fun t => Host.Outcome.next (s.to t)) (vpackTimeout_idle hp ha)
  · exact congrArg (fun t => Host.Outcome.next (s.to t)) (vpackTimeout_due ht hd)
  · exact congrArg (fun t => Host.Outcome.next (s.to t)) (evtEdge_enabled hi he hl merged)
  · exact congrArg (fun t => Host.Outcome.next (s.to t)) ((evtLevelRise_level hi he hl hb).trans (if_pos hact))
  · exact congrArg (fun t => Host.Outcome.next (s.to t)) ((evtLevelRise_level hi he hl hb).trans (if_neg (Bool.eq_false_iff.mp hact)))
  · exact congrArg (fun t => Host.Outcome.next (s.to t)) ((evtLevelFall_level hi hb).trans (if_pos (by simp [hby, hpres])))
  · exact congrArg (fun t => Host.Outcome.next (s.to t)) ((evtLevelFall_level hi hb).trans (if_neg (by simp [hby])))
  · exact congrArg (fun t => Host.Outcome.next (s.to t)) (stormWindow_passed hn hw hr)

end Sys2Proof.Machine
end

section
/-! Host writes of counters and watch slots, response beats, port timers (R152–R154, R380, R385, R389, R477–R479, R544, R551, R552). -/

namespace Sys2Proof.Machine

/-- Outcomes of a step that leave equal blocks. -/
theorem next_to {s : State} {t u : Chip} (h : t = u) : (.next (s.to t) : Out) = .next (s.to u) := by rw [h]

/-! ### Counters and watch slots -/

theorem ksVal_takes {s : Chip} (hs : s.takesWrites) {n : Nat} (hn : n < 4096) (v : Word) :
    ksVal n v s = (s.accepted.ksHost n true (fld v 0 48)).answer .ok := by
  rw [ksVal, Chip.accept_takes hs, if_pos hn]

theorem ksAdd_takes {s : Chip} (hs : s.takesWrites) {n : Nat} (hn : n < 4096) (v : Word) :
    ksAdd n v s = (s.accepted.ksHost n false (fld v 0 48)).answer .ok := by
  rw [ksAdd, Chip.accept_takes hs, if_pos hn]

/-- The word that a write of KWATCH_CFG leaves before the slot is evaluated. -/
def Chip.watchWord (s : Chip) (n : Nat) (v : Word) : Word :=
  (v &&& (maskBits 15 1 ||| maskBits 0 14)) ||| (s.reg (Reg.kwatchCfg n) &&& maskBits 14 1 &&& ~~~v)

theorem kwatchCfg_takes {s : Chip} (hs : s.takesWrites) {n : Nat} (hn : n < 16) (v : Word) :
    kwatchCfg n v s = ((s.accepted.setReg (Reg.kwatchCfg n) (s.accepted.watchWord n v)).evalWatch n).answer .ok := by
  rw [kwatchCfg, Chip.accept_takes hs, if_pos hn]
  rfl

/-- A slot is evaluated with the configuration just written. -/
theorem Chip.evalWatch_setReg (s : Chip) (n : Nat) (cfg : Word) :
    (s.setReg (Reg.kwatchCfg n) cfg).evalWatch n =
      if bitB cfg 15 && ksCompare (fldN cfg 12 2) (s.ksAt (fldN cfg 0 12)) (fld (s.reg (Reg.kwatchTgt n)) 0 48) then
        (s.setReg (Reg.kwatchCfg n) (setBit (setBit cfg 15 false) 14 true)).raise (720 + n) false
      else s.setReg (Reg.kwatchCfg n) cfg := by
  have hne : Reg.kwatchTgt n ≠ Reg.kwatchCfg n := by simp only [Reg.kwatchTgt, Reg.kwatchCfg]; omega
  have htgt : (s.setReg (Reg.kwatchCfg n) cfg).reg (Reg.kwatchTgt n) = s.reg (Reg.kwatchTgt n) := by
    rw [Chip.reg_setReg, if_neg hne]
  have hks : ∀ k, (s.setReg (Reg.kwatchCfg n) cfg).ksAt k = s.ksAt k := fun _ => rfl
  have hset : ∀ w, (s.setReg (Reg.kwatchCfg n) cfg).setReg (Reg.kwatchCfg n) w = s.setReg (Reg.kwatchCfg n) w := fun w => by
    simp [Chip.setReg]
  simp only [Chip.evalWatch, Chip.reg_setReg_self, htgt, hks, hset]

/-- Settles O34. -/
theorem counterRegisters : Obligations.CounterRegisters := by
  intro s n v hs a cfg holds
  refine ⟨fun hn => ?_, fun hn => ?_, fun hn hh => ?_, fun hn hh => ?_⟩
  · exact next_to (ksVal_takes hs hn v)
  · exact next_to (ksAdd_takes hs hn v)
  · refine next_to ((kwatchCfg_takes hs hn v).trans (congrArg (Chip.answer .ok) ?_))
    exact (Chip.evalWatch_setReg ..).trans (if_neg (Bool.eq_false_iff.mp hh))
  · refine next_to ((kwatchCfg_takes hs hn v).trans (congrArg (Chip.answer .ok) ?_))
    exact (Chip.evalWatch_setReg ..).trans (if_pos hh)

/-! ### Response beats -/

theorem Chip.respond_run {s : Chip} (hp : s.phase = .run) (l : Lane) (b : RspBeat) :
    s.respond l b = match s.outOf l b.tag with
      | none => if (s.portBars l).any (fun x => x.tag == b.tag && decide (s.time < x.till)) then s.bump (portStatReg l) 48 16 1 else s.violate l 0 b.tag
      | some o =>
        if b.ptag ≠ o.r.part.getD 15 then (s.violate l 4 b.tag).failOut o
        else if b.kind ≠ (if o.r.write then 1 else 0) ∨ l ≠ o.r.lane ∨ (o.r.write ∧ ¬ b.last) then (s.violate l 7 b.tag).failOut o
        else if o.r.write then (if b.status = 3 then s.violate l 6 b.tag else s).finish o 0 0 (if b.status = 0 then .ok else .err)
        else (if b.status = 3 then s.violate l 6 b.tag else s).readBeat l o b := by
  simp only [Chip.respond, hp] <;> rfl

/-- A beat that matches its request. -/
theorem Chip.respond_matching {s : Chip} {l : Lane} {b : RspBeat} {o : Outst} (hp : s.phase = .run) (ho : s.outOf l b.tag = some o)
    (ht : b.ptag = o.r.part.getD 15) (hk : b.kind = if o.r.write then 1 else 0) (hl : l = o.r.lane) (hst : b.status ≠ 3)
    (hlast : o.r.write = true → b.last = true) :
    s.respond l b = if o.r.write then s.finish o 0 0 (if b.status = 0 then .ok else .err) else s.readBeat l o b := by
  have hok : ¬ (b.kind ≠ (if o.r.write then 1 else 0) ∨ l ≠ o.r.lane ∨ (o.r.write = true ∧ ¬ b.last = true)) := by
    rintro (h | h | ⟨hw, h⟩)
    · exact h hk
    · exact h hl
    · exact h (hlast hw)
  simp only [Chip.respond_run hp, ho, if_neg (not_not.mpr ht), if_neg hok, if_neg hst]

theorem Chip.respond_unknown {s : Chip} {l : Lane} {b : RspBeat} (hp : s.phase = .run) (ho : s.outOf l b.tag = none)
    (hb : ∀ x ∈ s.portBars l, x.tag ≠ b.tag) : s.respond l b = s.violate l 0 b.tag := by
  have hany : ¬ (s.portBars l).any (fun x => x.tag == b.tag && decide (s.time < x.till)) = true := by
    rw [List.any_eq_true]
    rintro ⟨x, hx, h⟩
    simp only [Bool.and_eq_true, beq_iff_eq] at h
    exact hb x hx h.1
  simp only [Chip.respond_run hp, ho, if_neg hany]

theorem Chip.readBeat_far {s : Chip} {l : Lane} {b : RspBeat} {o : Outst} (hl : l.kind = .farPort) (hb : b.beat < o.r.nb)
    (hg : bitB o.got (o.r.first + b.beat) = false) :
    s.readBeat l o b = s.takeBeat o (BitVec.ofNat 4 (2 ^ (o.r.first + b.beat))) b.beat { b with poison := b.poison % 2 } := by
  rw [Chip.readBeat, if_pos hl, if_neg (by omega), if_neg (Bool.eq_false_iff.mp hg)]

theorem Chip.readBeat_near {s : Chip} {l : Lane} {b : RspBeat} {o : Outst} (hl : l.kind ≠ .farPort) (hb : b.beat = 0) (hg : o.got = 0) :
    s.readBeat l o b = s.takeBeat o o.r.bursts 0 { b with poison := b.poison % 16 / 2 ^ o.r.first } := by
  simp only [Chip.readBeat, if_neg hl, hb, hg, if_true, ne_eq, not_true, if_false]

/-- Settles O36: a beat that matches its request, and one that no request has asked for. -/
theorem portResponses : Obligations.PortResponses := by
  intro s l b o hp
  refine ⟨fun ho ht hk hl hst => ⟨fun hw hlast => ?_, fun hw hf hb hg => ?_, fun hw hf hb hg => ?_⟩, fun ho hb => ?_⟩
  · exact next_to
      ((Chip.respond_matching hp ho ht hk hl hst fun _ => hlast).trans (if_pos hw))
  · exact next_to
      ((Chip.respond_matching hp ho ht hk hl hst (by simp [hw])).trans ((if_neg (Bool.eq_false_iff.mp hw)).trans (Chip.readBeat_far hf hb hg)))
  · exact next_to
      ((Chip.respond_matching hp ho ht hk hl hst (by simp [hw])).trans ((if_neg (Bool.eq_false_iff.mp hw)).trans (Chip.readBeat_near hf hb hg)))
  · have hu : s.chip.respond l b = s.chip.violate l 0 b.tag := Chip.respond_unknown hp ho hb
    exact ⟨next_to hu, next_to hu⟩

/-! ### Credits, timeouts, windows -/

theorem Chip.creditsCount_run {s : Chip} (hp : s.phase = .run) : ¬ (!s.creditsCount) = true := by
  simp [Chip.creditsCount, hp]

theorem portCreditReturn_run {s : Chip} (hp : s.phase = .run) (l : Lane) (wdat : Bool) :
    portCreditReturn l wdat s =
      if wdat then
        if 256 ≤ (s.laneAt l).wd then s.violate l 5 0 else s.updLane l (fun x => ({ x with wd := x.wd + 1 } : LaneSt).drive s.time)
      else if 64 ≤ (s.laneAt l).rq then s.violate l 5 0
      else s.updLane l (fun x => { x with rq := x.rq + 1 }) :=
  if_neg (Chip.creditsCount_run hp)

theorem txnTimeout_out {s : Chip} {l : Lane} {tag : Nat} {o : Outst} (ho : s.outOf l tag = some o) :
    txnTimeout l tag s = if o.at_ + s.txnTicks ≤ s.time
      then ((s.bump (portStatReg l) 16 16 1).barTag o (4 * s.txnTicks)).finish o 0 0 .timeout else s := by
  simp only [txnTimeout, ho]

theorem mem_bars_expired (s : Chip) (l : Lane) (tag : Nat) (b : Bar) :
    b ∈ (tagBarExpiry l tag s).ports.bars ↔ b ∈ s.ports.bars ∧ ¬ (samePort b.lane l = true ∧ b.tag = tag ∧ b.till ≤ s.time) := by
  simp only [tagBarExpiry, List.mem_filter, Bool.not_eq_true', Bool.and_eq_false_iff, beq_eq_false_iff_ne, decide_eq_false_iff_not,
    not_and]
  refine and_congr_right fun _ => ?_
  cases samePort b.lane l <;> simp
  tauto

/-! ### Watchdogs -/

/-- The block once the write that holds a far port has been taken back (R389, R547). -/
def Chip.tookBack (n : Nat) (o : Outst) (s : Chip) : Chip :=
  let s := { s with ports := { s.ports with outs := s.ports.outs.erase o } }.updLane { kind := .farPort, port := n, lane := 0 }
    (fun x => { x with cur := none })
  let s := (s.revertWrite o (fun _ => false)).setReg Reg.govPhstat (phCode n o.r ||| at64 0 ((s.regF Reg.govPhstat 0 32 + 1) % 2 ^ 32))
  if isWb o.r.kind then s.endWb o.r false else s

/-- What PORTHOLD reports of it. -/
def Chip.holdReport (o : Outst) (s : Chip) : Report :=
  { src := Src.porthold, kind := if o.r.req < 64 then .mover else .bank,
    unit := if o.r.req < 64 then o.r.req else Config.rcBank o.r.loc % 64,
    ctx := if o.r.req < 64 then o.r.ctx else none, part := o.r.part,
    iaddr := if o.r.req < 64 ∧ o.r.ctx.isSome then (s.ctxAt (o.r.ctx.getD 0)).iword.map (fun w => ((s.ctxAt (o.r.ctx.getD 0)).ip, w)) else none }

theorem portHoldWatchdog_held {s : Chip} {n : Nat} {o : Outst} (ho : s.holder { kind := .farPort, port := n, lane := 0 } = some o)
    (ht : (s.laneAt { kind := .farPort, port := n, lane := 0 }).beatAt + 200 ≤ s.time) :
    portHoldWatchdog n s = (s.tookBack n o).report ((s.tookBack n o).holdReport o) := by
  simp only [portHoldWatchdog, ho, if_neg (Nat.not_lt.mpr ht)]
  rfl

theorem portHoldWatchdog_none {s : Chip} {n : Nat} (h : s.holder { kind := .farPort, port := n, lane := 0 } = none ∨
    s.time < (s.laneAt { kind := .farPort, port := n, lane := 0 }).beatAt + 200) : portHoldWatchdog n s = s := by
  rcases ho : s.holder { kind := .farPort, port := n, lane := 0 } with _ | o
  · simp only [portHoldWatchdog, ho]
  · rcases h with h | h
    · rw [h] at ho
      cases ho
    · simp only [portHoldWatchdog, ho, if_pos h]

/-- A failed write-back changes the row cache alone. -/
theorem Chip.endWb_failed (s : Chip) (r : PortReq) : s.endWb r false = s.updLine r.loc (fun l => { l with evict := false }) := rfl

theorem Chip.reg_updLine (s : Chip) (g o : Nat) (f : Line → Line) : (s.updLine g f).reg o = s.reg o := rfl

theorem Chip.tookBack_outs (s : Chip) (n : Nat) (o : Outst) :
    (s.tookBack n o).ports.outs.map (fun x => x.tag) = (s.ports.outs.erase o).map (fun x => x.tag) := by
  have hmap : ∀ (l : List Outst) (f : PortReq → PortReq), (l.map fun (x : Outst) => { x with r := f x.r }).map (fun x => x.tag) = l.map (fun x => x.tag) :=
    fun l f => by rw [List.map_map]; rfl
  simp only [Chip.tookBack]
  split <;> exact hmap _ _

theorem Chip.tookBack_phstat (s : Chip) (n : Nat) (o : Outst) :
    (s.tookBack n o).reg Reg.govPhstat = (phCode n o.r ||| at64 0 ((s.regF Reg.govPhstat 0 32 + 1) % 2 ^ 32)) := by
  simp only [Chip.tookBack, Chip.endWb_failed]
  split
  · rw [Chip.reg_updLine]
    exact Chip.reg_setReg_self ..
  · exact Chip.reg_setReg_self ..

theorem Chip.tookBack_memByte (s : Chip) (n : Nat) (o : Outst) (loc : Nat) (h : loc < o.r.loc ∨ o.r.loc + 256 ≤ loc) :
    (s.tookBack n o).memByte loc = s.memByte loc := by
  have hrevert : ∀ u : Chip, (u.revertWrite o (fun _ => false)).memByte loc = u.memByte loc := fun u => by
    rw [Chip.revertWrite, Chip.memByte_commitWrite, if_neg (by omega)]
  simp only [Chip.tookBack]
  split <;> exact hrevert _

theorem progressWatchdog_busy {s : Chip} {c : Nat} (h : (s.ctxAt c).st = .ready ∨ (s.ctxAt c).st = .waiting) :
    progressWatchdog c s = if (s.ctxAt c).progress + 100000 * s.regF Reg.rsqTmo 32 16 ≤ s.time
      then (s.progressed c).report { s.ownReport c Src.progress with ends := false } else s := by
  simp only [progressWatchdog, h, true_and]

/-- Settles O37, timer by timer. -/
theorem portTimers : Obligations.PortTimers := by
  refine ⟨fun s l tag => ⟨fun hp => ⟨fun h => ?_, fun h => ?_, fun h => ?_, fun h => ?_⟩, fun o ho => ⟨fun h => ?_, fun h => ?_⟩,
    ⟨_, rfl, fun b => mem_bars_expired s.chip l tag b, rfl, rfl, rfl, rfl, rfl⟩, ⟨_, rfl, rfl, rfl, rfl, rfl, rfl, rfl, rfl⟩, rfl⟩,
    fun s n c => ⟨fun o ho hreq ht => ?_, fun h => ?_, fun hst => ⟨fun h => ?_, fun h => ?_⟩⟩⟩
  · exact next_to ((portCreditReturn_run hp l false).trans (if_neg (Nat.not_le.mpr h)))
  · exact next_to ((portCreditReturn_run hp l true).trans (if_neg (Nat.not_le.mpr h)))
  · exact next_to ((portCreditReturn_run hp l false).trans (if_pos h))
  · exact next_to ((portCreditReturn_run hp l true).trans (if_pos h))
  · exact next_to ((txnTimeout_out ho).trans (if_pos h))
  · exact next_to ((txnTimeout_out ho).trans (if_neg (by omega)))
  · exact ⟨_, _, next_to (portHoldWatchdog_held ho ht), rfl, if_pos hreq, if_pos hreq, if_pos hreq,
      Chip.tookBack_outs .., Chip.tookBack_phstat .., fun loc hloc => Chip.tookBack_memByte _ n o loc hloc⟩
  · exact next_to (portHoldWatchdog_none h)
  · exact next_to ((progressWatchdog_busy hst).trans (if_pos h))
  · exact next_to ((progressWatchdog_busy hst).trans (if_neg (by omega)))

end Sys2Proof.Machine
end

section
/-! The shadow checker: re-execution, comparison, timeout (R42–R44, R465–R468, R472). -/

namespace Sys2Proof.Machine

/-! ### What a re-execution leaves as it was (R42, R465) -/

/-- Memory, the row cache, the counters, the contexts, the link, the interrupt controller and the fault collector. -/
def Chip.work (s : Chip) : List Host.Cell × Tab Line × Tab (BitVec 48) × List KsOp × Tab Ctx × LinkSt × IrqSt × FaultSt :=
  (s.mem, s.rc, s.ks, s.ksq, s.ctx, s.link, s.irq, s.fc)

@[simp] theorem Chip.work_updMov (s : Chip) (m : Nat) (f : Mover → Mover) : (s.updMov m f).work = s.work := rfl
@[simp] theorem Chip.work_bump (s : Chip) (off lo n k : Nat) : (s.bump off lo n k).work = s.work := rfl
@[simp] theorem Chip.work_updWalk (s : Chip) (id : Nat) (f : PWalk → PWalk) : (s.updWalk id f).work = s.work := rfl
@[simp] theorem Chip.work_updSampleAt (s : Chip) (m id : Nat) (f : Sample → Sample) : (s.updSampleAt m id f).work = s.work := rfl
@[simp] theorem Chip.work_updShadow (s : Chip) (m id : Nat) (f : Xfer → Xfer) : (s.updShadow m id f).work = s.work := rfl
@[simp] theorem Chip.work_shadowStuck (s : Chip) (m id : Nat) : (s.shadowStuck m id).work = s.work := rfl
@[simp] theorem Chip.work_shadowDeliver (s : Chip) (m : Nat) (d : Dest) (g : Granule) : (s.shadowDeliver m d g).work = s.work := rfl
@[simp] theorem Chip.work_useRd (s : Chip) (m : Nat) : (s.useRd m).work = s.work := rfl
@[simp] theorem Chip.work_shadowEnds (s : Chip) (m : Nat) (p : Sample) (t : Xfer) : (s.shadowEnds m p t).work = s.work := rfl

theorem Chip.work_enq (s : Chip) (r : PortReq) (h : r.workOf = none) : (s.enq r).work = s.work := by
  rw [Chip.enq, Chip.progressOf, h]
  rfl

@[simp] theorem Chip.work_walkOut (id n : Nat) (s : Chip) : (s.walkOut id n).work = s.work := by
  induction n generalizing s with
  | zero => rfl
  | succ n ih =>
    simp only [Chip.walkOut]
    split
    · rfl
    · split
      · rfl
      · split
        · rfl
        · split
          · rw [ih, Chip.work_updWalk]
          · split
            · rfl
            · exact Chip.work_enq _ _ rfl

@[simp] theorem Chip.work_nextWalk (s : Chip) : s.nextWalk.work = s.work := by
  unfold Chip.nextWalk
  split
  · rfl
  · split <;> simp

@[simp] theorem Chip.work_needWalk (s : Chip) (f : WalkFor) (mov : Option Nat) (part : Nat) (asid : BitVec 16) (root va cls : Nat) :
    (s.needWalk f mov part asid root va cls).work = s.work := by
  unfold Chip.needWalk
  split
  · rfl
  · exact Chip.work_nextWalk _

@[simp] theorem Chip.work_tlbTouch (s : Chip) (m part : Nat) (asid : BitVec 16) (va : Nat) : (s.tlbTouch m part asid va).work = s.work := by
  simp only [Chip.tlbTouch]
  split
  · rfl
  · split <;> rfl

@[simp] theorem Chip.work_shadowTouch (s : Chip) (m k : Nat) (p : Sample) (va : Nat) : (s.shadowTouch m k p va).work = s.work := by
  simp only [Chip.shadowTouch]
  split <;> simp

@[simp] theorem Chip.work_shadowCount (s : Chip) (k r lo n v : Nat) : (s.shadowCount k r lo n v).work = s.work := by
  unfold Chip.shadowCount
  split <;> rfl

@[simp] theorem Chip.work_shadowAsk (s : Chip) (m k : Nat) (p : Sample) (l : SLine) : (s.shadowAsk m k p l).1.work = s.work := by
  simp only [Chip.shadowAsk]
  split
  · rfl
  · split
    · split <;> simp
    · split
      · split
        · rfl
        · split
          · split <;> simp
          · rw [Chip.work_enq _ _ rfl]
            simp
      · simp

@[simp] theorem Chip.work_shadowRead (s : Chip) (m k : Nat) (p : Sample) (t : Xfer) (v : View) (xi : XI) (l : List Need) :
    (s.shadowRead m k p t v xi l).1.work = s.work := by
  simp only [Chip.shadowRead]
  split
  · split <;> simp
  · split
    · simp
    · split
      · simp
      · split <;> simp

@[simp] theorem Chip.work_shadowUnit (s : Chip) (m k : Nat) (p : Sample) (xi : XI) (o : UOut) (pop : Xfer → Xfer) :
    (s.shadowUnit m k p xi o pop).1.work = s.work := by
  simp [Chip.shadowUnit]

@[simp] theorem Chip.work_shadowNext (s : Chip) (m k : Nat) (p : Sample) (t : Xfer) (v : View) (xi : XI) :
    (s.shadowNext m k p t v xi).1.work = s.work := by
  unfold Chip.shadowNext
  split
  · simp
  · split <;> simp

@[simp] theorem Chip.work_shadowPool (s : Chip) (m k : Nat) (p : Sample) (t : Xfer) (xi : XI) :
    (s.shadowPool m k p t xi).1.work = s.work := by
  simp only [Chip.shadowPool]
  split
  · simp
  · split
    · simp
    · split
      · simp
      · split
        · simp
        · split
          · simp
          · split <;> simp

@[simp] theorem Chip.work_shadowList (s : Chip) (m k : Nat) (p : Sample) (t : Xfer) (xi : XI) (l : List Need) :
    (s.shadowList m k p t xi l).1.work = s.work := by
  simp only [Chip.shadowList]
  split
  · simp
  · split <;> simp

@[simp] theorem Chip.work_shadowMset (s : Chip) (m k : Nat) (p : Sample) (t : Xfer) (xi : XI) :
    (s.shadowMset m k p t xi).1.work = s.work := by
  unfold Chip.shadowMset
  split
  · simp
  · simp
  · split
    · simp
    · split <;> simp

@[simp] theorem Chip.work_shadowStep (s : Chip) (m k id : Nat) : (s.shadowStep m k id).1.work = s.work := by
  simp only [Chip.shadowStep]
  split
  · rfl
  · split
    · rfl
    · split
      · rfl
      · split
        · split <;> simp
        · split <;> simp

@[simp] theorem Chip.work_shadowN (m k id n : Nat) (s : Chip) : (s.shadowN m k id n).work = s.work := by
  induction n generalizing s with
  | zero => rfl
  | succ n ih =>
    have hstep := s.work_shadowStep m k id
    rw [Chip.shadowN]
    split
    · rename_i u hu
      rw [hu] at hstep
      exact (ih u).trans hstep
    · rename_i u _ _ hu
      rw [hu] at hstep
      exact hstep

theorem Chip.work_shadowReexec (s : Chip) (m : Nat) : (shadowReexec m s).work = s.work := by
  unfold shadowReexec
  split
  · split <;> simp
  · rfl

/-! ### A re-execution that has done every unit -/

/-- Only what a change makes of the mover matters. -/
theorem Chip.updMov_congr {s : Chip} {m : Nat} {f g : Mover → Mover} (h : f (s.movAt m) = g (s.movAt m)) : s.updMov m f = s.updMov m g := by
  unfold Chip.updMov Tab.upd
  rw [show f (Tab.get {} s.mov m) = g (Tab.get {} s.mov m) from h]

/-- A change that leaves a mover as it was leaves what every mover reads as. -/
theorem Chip.movAt_updMov_fixed {s : Chip} {m : Nat} {f : Mover → Mover} (h : f (s.movAt m) = s.movAt m) (j : Nat) :
    (s.updMov m f).movAt j = s.movAt j := by
  rw [Chip.movAt_updMov]
  split
  case isTrue hj => rw [hj, h]
  case isFalse => rfl

theorem Chip.freeCredits_of_movers {s t : Chip} (h : ∀ j, t.movAt j = s.movAt j) (hg : ∀ j, t.gangOf j = s.gangOf j)
    (hb : t.build = s.build) (hc : ∀ c, t.ctxAt c = s.ctxAt c) (m : Nat) : t.freeCredits m = s.freeCredits m := by
  simp only [Chip.freeCredits, Chip.teamSize, Chip.heldQueues, Chip.heldCredits, h, hg, hb, hc]

theorem Chip.routesOf_of_movers {s t : Chip} (h : ∀ j, t.movAt j = s.movAt j) (hg : ∀ j, t.gangOf j = s.gangOf j)
    (hb : t.build = s.build) (m n : Nat) : t.routesOf m n = s.routesOf m n := by
  simp only [Chip.routesOf, Chip.teamOf, Chip.routeSlot, h, hg, hb]

theorem find?_of_unique {l : List Sample} {p : Sample} (hp : p ∈ l) (hu : ∀ q ∈ l, q.id = p.id → q = p) :
    l.find? (fun q => q.id == p.id) = some p := by
  rcases hf : l.find? (fun q => q.id == p.id) with _ | q
  · have := List.find?_eq_none.mp hf p hp
    simp at this
  · have hid : q.id = p.id := by simpa using List.find?_some hf
    exact hf ▸ congrArg some (hu q (List.mem_of_find?_eq_some hf) hid)

/-- A walk with no row in flight has none to read again. -/
theorem Sample.begin_of_no_rows {p : Sample} {t : Xfer} (hw : p.walk = some t) (hr : t.rows = []) (xi : XI) : p.begin xi = p := by
  have hretry : t.retry xi = none := by rw [Xfer.retry, hr]; rfl
  simp only [Sample.begin, hw, hretry, Option.getD_none]
  rw [← hw]

/-- The step of a re-execution whose units are all done. -/
theorem Chip.shadowStep_done {s : Chip} {m k : Nat} {p : Sample} {t : Xfer}
    (hf : (s.movAt m).samples.find? (fun q => q.id == p.id) = some p) (hw : p.walk = some t) (hstuck : p.stuck = false)
    (h41 : wOpc p.word ≠ 0x41) (h45 : wOpc p.word ≠ 0x45) (hneed : p.need ≤ s.freeCredits (s.leaderOf k))
    (hdone : (p.xop.xi t.pass (s.routesOf m (rsel p.word - 1))).view.total ≤ t.cursor) :
    s.shadowStep m k p.id = (s.shadowEnds m p t, .stop) := by
  have hcred : ¬ s.freeCredits (s.leaderOf k) < p.need := by omega
  simp only [Chip.shadowStep, hf, hw, hstuck, Bool.false_eq_true, if_false, if_neg hcred]
  exact if_pos hdone

theorem shadowReexec_done {s : Chip} {m k : Nat} {p : Sample} {t : Xfer}
    (hp : (s.movAt m).samples.find? (fun p => p.redo.isNone) = some p) (hk : s.partnerOf m = some k) (hidle : s.shadowIdle m = true)
    (hstuck : p.stuck = false) (hw : p.walk = some t) (hr : t.rows = []) (h41 : wOpc p.word ≠ 0x41) (h45 : wOpc p.word ≠ 0x45)
    (hneed : p.need ≤ s.freeCredits (s.leaderOf k))
    (hdone : (p.xop.xi t.pass (s.routesOf m (rsel p.word - 1))).view.total ≤ t.cursor)
    (hu : ∀ q ∈ (s.movAt m).samples, q.id = p.id → q = p) :
    shadowReexec m s = s.updSampleAt m p.id (fun q => { q with redo := some (t.odig.value, t.vdig, t.torn), walk := none, leaf := none }) := by
  obtain ⟨f, hf⟩ : ∃ f : Sample → Sample, f = fun q => q.begin (p.xop.xi (match p.walk with | some t => t.pass | none => 1) []) := ⟨_, rfl⟩
  have hmem : p ∈ (s.movAt m).samples := List.mem_of_find?_eq_some hp
  have hfp : f p = p := by rw [hf]; exact Sample.begin_of_no_rows hw hr _
  have hfixed : ({ s.movAt m with samples := (s.movAt m).samples.map (fun q => if q.id == p.id then f q else q) } : Mover) = s.movAt m := by
    have hmap : (s.movAt m).samples.map (fun q => if q.id == p.id then f q else q) = (s.movAt m).samples := by
      refine (List.map_congr_left fun q hq => ?_).trans (List.map_id _)
      split
      case isTrue hid => rw [hu q hq (by simpa using hid), hfp]; rfl
      case isFalse => rfl
    rw [hmap]
  have hmov : ∀ j, (s.updSampleAt m p.id f).movAt j = s.movAt j := Chip.movAt_updMov_fixed hfixed
  have hstep : (s.updSampleAt m p.id f).shadowStep m k p.id = ((s.updSampleAt m p.id f).shadowEnds m p t, .stop) := by
    refine Chip.shadowStep_done ?_ hw hstuck h41 h45 ?_ ?_
    · rw [hmov]
      exact find?_of_unique hmem hu
    · rw [Chip.freeCredits_of_movers hmov (fun _ => rfl) rfl (fun _ => rfl)]
      exact hneed
    · rw [Chip.routesOf_of_movers hmov (fun _ => rfl) rfl]
      exact hdone
  have hrun : shadowReexec m s = (s.updSampleAt m p.id f).shadowN m k p.id 65536 := by
    simp only [shadowReexec, hp, hk, hidle, hstuck, Bool.not_false, Bool.and_self, if_true, hf] <;> rfl
  have hsucc : (65536 : Nat) = 65535 + 1 := rfl
  rw [hrun, hsucc, Chip.shadowN, hstep]
  refine (Chip.updMov_updMov ..).trans (Chip.updMov_congr ?_)
  rw [hfixed]

/-! ### Comparison and timeout -/

theorem shadowReexec_waits {s : Chip} {m : Nat} {p : Sample} (hp : (s.movAt m).samples.find? (fun p => p.redo.isNone) = some p)
    (h : s.shadowIdle m = false ∨ p.stuck = true ∨ s.partnerOf m = none) : shadowReexec m s = s := by
  rcases hk : s.partnerOf m with _ | k
  · simp only [shadowReexec, hp, hk]
  · have hno : (s.shadowIdle m && !p.stuck) = false := by
      rcases h with h | h | h
      · rw [h, Bool.false_and]
      · rw [h, Bool.not_true, Bool.and_false]
      · rw [h] at hk
        cases hk
    simp only [shadowReexec, hp, hk, hno, Bool.false_eq_true, if_false]

theorem Chip.partnerOf_dropSample (s : Chip) (m k : Nat) (p : Sample) : (s.dropSample m p).partnerOf k = s.partnerOf k := by
  unfold Chip.dropSample
  split <;> rfl

theorem Chip.partnerOf_setReg_fcInj (s : Chip) (k : Nat) (v : Word) : (s.setReg Reg.fcInj v).partnerOf k = s.partnerOf k := by
  have hreg : (s.setReg Reg.fcInj v).reg Reg.gangForm = s.reg Reg.gangForm := by
    rw [Chip.reg_setReg, if_neg (by decide)]
  have hgang : (s.setReg Reg.fcInj v).gangOf k = s.gangOf k := by rw [Chip.gangOf, hreg]; rfl
  simp only [Chip.partnerOf, hgang, Chip.setReg_build]

section
variable {s : Chip} {m : Nat} {err d r v : Word} {torn : Bool} {p : Sample}
  (hp : (s.movAt m).samples.find? (fun p => p.digest.isSome && p.redo.isSome) = some p) (hd : p.digest = some d)
  (hr : p.redo = some (r, v, torn))
include hp hd hr

theorem shadowCompare_skips (h : torn = true ∨ p.torn = true ∨ v ≠ p.vdigest) : shadowCompare m err s = s.skipSample m p := by
  have hskip : (torn || p.torn || v != p.vdigest) = true := by
    rcases h with h | h | h <;> simp [h]
  simp only [shadowCompare, hp, hd, hr, hskip, if_true]

theorem shadowCompare_compares (ht : torn = false) (hpt : p.torn = false) (hv : v = p.vdigest) :
    shadowCompare m err s =
      if d = r ^^^ err ^^^ (s.injectDigest m).2 then (s.injectDigest m).1.dropSample m p
      else ((s.injectDigest m).1.dropSample m p).reportSdc m ((((s.injectDigest m).1.dropSample m p).partnerOf m).getD 0) p d
        (r ^^^ err ^^^ (s.injectDigest m).2) := by
  have hskip : (torn || p.torn || v != p.vdigest) = false := by simp [ht, hpt, hv]
  simp only [shadowCompare, hp, hd, hr, hskip, Bool.false_eq_true, if_false]

end

theorem Chip.injectDigest_fires {s : Chip} {m : Nat}
    (h : bitB (s.reg Reg.fcInj) 0 = true ∧ fldN (s.reg Reg.fcInj) 24 2 = 3 ∧ fldN (s.reg Reg.fcInj) 32 16 = m) :
    s.injectDigest m = (s.setReg Reg.fcInj (setBit (setBit (s.reg Reg.fcInj) 0 false) 1 true), 1) := if_pos h

theorem Chip.injectDigest_none {s : Chip} {m : Nat}
    (h : ¬ (bitB (s.reg Reg.fcInj) 0 = true ∧ fldN (s.reg Reg.fcInj) 24 2 = 3 ∧ fldN (s.reg Reg.fcInj) 32 16 = m)) :
    s.injectDigest m = (s, 0) := if_neg h

theorem shadowTimeout_one {s : Chip} {m t : Nat} {x : Sample} (hm : (s.movAt m).samples = [x]) (hr : x.redo = none)
    (ht : x.retired = some t) : shadowTimeout m s = if t + s.shadowTicks ≤ s.time then s.skipSample m x else s := by
  by_cases h : t + s.shadowTicks ≤ s.time <;> simp [shadowTimeout, hm, hr, ht, h]

/-- Settles O38: the frame of every step of a re-execution, its end, and the comparison case by case. -/
theorem shadowChecks : Obligations.ShadowChecks := by
  intro s m err p mine
  refine ⟨fun hp => ⟨fun h => next_to (shadowReexec_waits hp h), ⟨shadowReexec m s.chip, rfl, ?_⟩,
    fun k t hk hidle hstuck hw hr h41 h45 hneed hdone hu =>
      next_to (shadowReexec_done hp hk hidle hstuck hw hr h41 h45 hneed hdone hu)⟩,
    fun d r v torn hp hd hr => ⟨fun h => next_to (shadowCompare_skips hp hd hr h), fun ht hpt hv => ?_⟩,
    fun x hm hr t ht => ⟨fun h => next_to ((shadowTimeout_one hm hr ht).trans (if_pos h)),
      fun h => next_to ((shadowTimeout_one hm hr ht).trans (if_neg (Nat.not_le.mpr h)))⟩⟩
  · have hwork := s.chip.work_shadowReexec m
    simp only [Chip.work, Prod.mk.injEq] at hwork
    obtain ⟨hmem, hrc, hks, hksq, hctx, hlink, hirq, hfc⟩ := hwork
    exact ⟨hmem, hrc, hks, hksq, hctx, hlink, hirq, hfc⟩
  · intro inj fires u
    have hcmp := shadowCompare_compares (err := err) hp hd hr ht hpt hv
    refine ⟨fun hno he => next_to ?_, fun hno he => next_to ?_, fun hf he => next_to ?_⟩
    · have hz : r ^^^ err ^^^ (0 : Word) = r ^^^ err := BitVec.xor_zero
      rw [hcmp, Chip.injectDigest_none hno, hz, if_pos he]
    · have hz : r ^^^ err ^^^ (0 : Word) = r ^^^ err := BitVec.xor_zero
      rw [hcmp, Chip.injectDigest_none hno, hz, if_neg he, Chip.partnerOf_dropSample]
    · have hne : d ≠ r ^^^ err ^^^ 1 := by
        rw [he]
        intro h
        have hb := congrArg (fun w : Word => w.getLsbD 0) h
        simp at hb
      rw [hcmp, Chip.injectDigest_fires hf, if_neg hne, Chip.partnerOf_dropSample, Chip.partnerOf_setReg_fcInj]

end Sys2Proof.Machine
end

section
/-! Instruction fetch: a miss and the landing of a line (R48, R62–R64, R381, R382). -/

namespace Sys2Proof.Machine

/-! ### Contexts that go on -/

/-- A context that is woken is READY; movers and memory are as before. -/
theorem Chip.wake_spec (s : Chip) (c : Nat) :
    (s.wake c).mov = s.mov ∧ (s.wake c).mem = s.mem ∧
      ∀ d, (s.wake c).ctxAt d = if d = c then { s.ctxAt c with st := .ready, wait := none } else s.ctxAt d := by
  have hl := s.logged_setSt c .ready none
  have hctx := hl.ctxAt
  obtain ⟨_, _, _, _, ht⟩ := hl
  refine ⟨?_, ?_, fun d => (hctx d).trans (Chip.ctxAt_updCtx ..)⟩ <;> exact (by rw [Chip.wake, ht]; rfl)

theorem Chip.foldl_wake_mov (cs : List Nat) (s : Chip) : (cs.foldl (fun s c => s.wake c) s).mov = s.mov :=
  foldl_keeps Chip.mov (fun s c => s.wake c) (fun s c => (s.wake_spec c).1) cs s

theorem Chip.foldl_wake_mem (cs : List Nat) (s : Chip) : (cs.foldl (fun s c => s.wake c) s).mem = s.mem :=
  foldl_keeps Chip.mem (fun s c => s.wake c) (fun s c => (s.wake_spec c).2.1) cs s

/-- Every context of the list is READY, whichever are woken after it. -/
theorem Chip.foldl_wake_ready (cs : List Nat) (s : Chip) (d : Nat)
    (h : d ∈ cs ∨ (s.ctxAt d).st = .ready ∧ (s.ctxAt d).wait = none) :
    ((cs.foldl (fun s c => s.wake c) s).ctxAt d).st = .ready ∧ ((cs.foldl (fun s c => s.wake c) s).ctxAt d).wait = none := by
  induction cs generalizing s with
  | nil => exact h.resolve_left List.not_mem_nil
  | cons c cs ih =>
    obtain ⟨_, _, hctx⟩ := s.wake_spec c
    refine ih (s.wake c) ?_
    rw [hctx]
    by_cases hd : d = c
    · rw [if_pos hd]
      exact .inr ⟨rfl, rfl⟩
    · rw [if_neg hd]
      exact h.imp_left fun hin => (List.mem_cons.mp hin).resolve_left hd

/-! ### A miss -/

theorem Chip.issue_blocked {c : Nat} {sel enc : Word → Bool} {ctr : Word → Option Nat} {body : Word → Chip → Chip} {s : Chip}
    (h : s.canIssue c = false) : Chip.issue c sel enc ctr body s = s := by
  rw [Chip.issue, h]
  rfl

theorem Chip.issue_unfetched {c : Nat} {sel enc : Word → Bool} {ctr : Word → Option Nat} {body : Word → Chip → Chip} {s : Chip}
    (h : s.canIssue c = true) (hf : s.fetched c = none) :
    Chip.issue c sel enc ctr body s = if s.rdFree (s.slotMover c) then s.fetchMiss c else s := by
  simp only [Chip.issue, h, hf, Bool.not_true, Bool.false_eq_true, if_false]

theorem Chip.fetchMiss_coming {s : Chip} {c : Nat}
    (h : ((s.icFilling (s.slotMover c) (s.ctxAsid c) ((s.ctxAt c).ip / 256)).bind (·.pa)).isSome = true) :
    s.fetchMiss c = s.waitFor c .ifetch := if_pos h

theorem Chip.fetchMiss_translated {s : Chip} {c pa : Nat} {p : Place} {l : Leaf}
    (h : ((s.icFilling (s.slotMover c) (s.ctxAsid c) ((s.ctxAt c).ip / 256)).bind (·.pa)).isSome = false)
    (hl : s.look c .fetch (s.ctxAt c).ip = .ok pa p l) (ht : s.tnWaits p = false) :
    s.fetchMiss c = ((s.lookTouch c (s.ctxAt c).ip).askLine (s.slotMover c)
      { asid := s.ctxAsid c, line := (s.ctxAt c).ip / 256, ctx := c } (pa / 256 * 256) p l).waitFor c .ifetch := by
  simp only [Chip.fetchMiss, h, hl, ht, Bool.false_eq_true, if_false]

theorem Chip.fetchMiss_miss {s : Chip} {c : Nat}
    (h : ((s.icFilling (s.slotMover c) (s.ctxAsid c) ((s.ctxAt c).ip / 256)).bind (·.pa)).isSome = false)
    (hl : s.look c .fetch (s.ctxAt c).ip = .miss) :
    s.fetchMiss c = s.startWalk c { va := (s.ctxAt c).ip, acc := .fetch, walk := .other } := by
  simp only [Chip.fetchMiss, h, hl, Bool.false_eq_true, if_false]

/-! ### The landing of a line -/

section
variable {s : Chip} {c m line : Nat} {x : FillDone} {f : ICFill}
  (hx : s.ports.fills.find? (fun x => x.r.kind == .ifetch && x.r.ctx == some c && x.r.req == m && x.r.va == 256 * line) = some x)
  (hf : (s.movAt m).icFill.find? (fun f => f.pa.isSome && f.ctx == c && f.line == line) = some f)
include hx hf

theorem ifetchFill_found : ifetchFill c m line s =
    if f.redo then (((s.dropFill x.r.id).useRd m).updMov m (fun y =>
      { y with icFill := y.icFill.map (fun g => if g.is f then { g with redo := false } else g) })).enq x.r
    else if x.rsp = .ok then (s.dropFill x.r.id).landLine m f x.data
    else (s.dropFill x.r.id).lineFails m f x := by
  have hf' : ((s.dropFill x.r.id).movAt m).icFill.find? (fun f => f.pa.isSome && f.ctx == c && f.line == line) = some f := hf
  simp only [ifetchFill, hx, hf']

end

theorem Chip.landLine_mover (s : Chip) (m : Nat) (f : ICFill) (d : Granule) :
    ((s.landLine m f d).movAt m).ic = icInsert { asid := f.asid, va := f.line, data := d } (s.movAt m).ic ∧
      ((s.landLine m f d).movAt m).icFill = (s.movAt m).icFill.filter (fun g => !g.is f) := by
  have hmov : ∀ u : Chip, ∀ cs : List Nat, (cs.foldl (fun s c => s.wake c) u).movAt m = u.movAt m :=
    fun u cs => by rw [Chip.movAt, Chip.foldl_wake_mov, Chip.movAt]
  simp only [Chip.landLine, hmov, Chip.dropLine, Chip.updMov_updMov, Chip.movAt_updMov_self, and_self]

theorem Chip.landLine_mem (s : Chip) (m : Nat) (f : ICFill) (d : Granule) : (s.landLine m f d).mem = s.mem :=
  Chip.foldl_wake_mem _ _

theorem Chip.landLine_ready (s : Chip) (m : Nat) (f : ICFill) (d : Granule) (c : Nat) (h : c ∈ s.lineWaiters m f) :
    ((s.landLine m f d).ctxAt c).st = .ready ∧ ((s.landLine m f d).ctxAt c).wait = none :=
  Chip.foldl_wake_ready _ _ c (.inl h)

/-- Settles O8: an instruction that is not in the cache, and the line that comes in. -/
theorem instructionFetch : Obligations.InstructionFetch := by
  refine ⟨fun s i r hr => ?_, fun s c m line x f hx hf => ?_⟩
  · obtain ⟨body, hbody⟩ := issue_row_cases i r hr
    simp only [hbody]
    refine ⟨fun h => next_to (Chip.issue_blocked h), fun h hn => ?_⟩
    have hmiss := Chip.issue_unfetched (sel := r.sel) (enc := r.enc) (ctr := r.ctr) (body := body) h hn
    refine ⟨fun hrd => ?_, fun hrd hc => ?_, fun hrd hc => ⟨fun pa p l hl ht => ?_, fun hl => ?_⟩⟩ <;> rw [hmiss, hrd]
    · rfl
    · exact next_to (Chip.fetchMiss_coming hc)
    · exact next_to (Chip.fetchMiss_translated hc hl ht)
    · exact next_to (Chip.fetchMiss_miss hc hl)
  · have hfound := ifetchFill_found hx hf
    have hexec : exec (.ifetchFill c m line) s = .next (s.to (ifetchFill c m line s.chip)) := rfl
    intro u
    refine ⟨fun hr ho => ?_, fun hr => ?_, fun hr ho => ?_⟩ <;> rw [hexec, hfound, hr]
    · rw [if_neg Bool.false_ne_true, if_pos ho]
      obtain ⟨hic, hfill⟩ := u.landLine_mover m f x.data
      exact ⟨_, rfl, hic, hfill, fun d hd => u.landLine_ready m f x.data d hd, u.landLine_mem m f x.data⟩
    · rfl
    · rw [if_neg Bool.false_ne_true, if_neg ho]

end Sys2Proof.Machine
end

section
/-! Page walks end; permissions and regions of a leaf (R312, R333, R335, R337, R340). -/

namespace Sys2Proof.Machine

/-! ### A walk that leaves its walker changes no TLB -/

/-- What the end of a walk reads and fills: movers, the invalidation in progress, the L2, the gangs, and what it leaves alone. -/
def Chip.tlbs (s : Chip) :
    Build × Tab Mover × Option InvSt × List TlbEnt × Word × List Host.Cell × Tab (BitVec 48) × Tab Line × LinkSt :=
  (s.build, s.mov, s.inv, s.l2, s.reg Reg.gangForm, s.mem, s.ks, s.rc, s.link)

theorem Chip.tlbs_enq (s : Chip) (r : PortReq) (h : r.workOf = none) : (s.enq r).tlbs = s.tlbs := by
  rw [Chip.enq, Chip.progressOf, h]
  rfl

theorem Chip.tlbs_walkOut (id n : Nat) (s : Chip) : (s.walkOut id n).tlbs = s.tlbs := by
  induction n generalizing s with
  | zero => rfl
  | succ n ih =>
    simp only [Chip.walkOut]
    split
    · rfl
    · split
      · rfl
      · split
        · rfl
        · split
          · exact ih _
          · split
            · rfl
            · exact Chip.tlbs_enq _ _ rfl

theorem Chip.tlbs_countWalk (s : Chip) : (s.bump Reg.trWalks 0 48 1).tlbs = s.tlbs := by
  have hreg : (s.bump Reg.trWalks 0 48 1).reg Reg.gangForm = s.reg Reg.gangForm := (Chip.reg_setReg ..).trans (if_neg (by decide))
  rw [Chip.tlbs, hreg]
  rfl

theorem Chip.tlbs_dropWalk (s : Chip) (id : Nat) : (s.dropWalk id).tlbs = s.tlbs := by
  unfold Chip.dropWalk Chip.nextWalk
  split
  · rfl
  · split
    · rfl
    · exact (Chip.tlbs_walkOut ..).trans (Chip.tlbs_countWalk _)

/-! ### What a leaf fills -/

theorem l1Touch_head (e : TlbEnt) (l : List TlbEnt) : (l1Touch e l).head? = some e := rfl

theorem Chip.l2Fill_head (e : TlbEnt) (s : Chip) : (s.l2Fill e).l2.head? = some e := by
  simp only [Chip.l2Fill]
  repeat' split
  all_goals rfl

theorem Chip.l2Fill_rest (e : TlbEnt) (s : Chip) :
    (∀ j, (s.l2Fill e).movAt j = s.movAt j) ∧ (s.l2Fill e).mem = s.mem ∧ (s.l2Fill e).ks = s.ks ∧ (s.l2Fill e).rc = s.rc ∧ (s.l2Fill e).link = s.link := by
  simp only [Chip.l2Fill]
  repeat' split
  all_goals exact ⟨fun _ => rfl, rfl, rfl, rfl, rfl⟩

theorem Chip.endWalk_leaf {s : Chip} {w : PWalk} {e : TlbEnt} (hw : w.ans = some (.leaf e)) :
    s.endWalk w = (s.dropWalk w.id).install w.mov w.va w.epoch e := by
  simp only [Chip.endWalk, hw]

/-- A leaf that no invalidation covers is the most recently used of both TLBs. -/
theorem Chip.install_fills {s : Chip} {e : TlbEnt} {epoch : Nat} (h : s.installs epoch e = true) (mo : Option Nat) (va : Nat) :
    let u := s.install mo va epoch e
    u.l2.head? = some e ∧ (∀ m, mo = some m → (u.movAt (s.tlbMember m va)).l1.head? = some e) ∧ u.mem = s.mem ∧ u.ks = s.ks ∧
      u.rc = s.rc ∧ u.link = s.link := by
  simp only [Chip.install, h, if_true]
  cases mo with
  | none => exact ⟨Chip.l2Fill_head .., (fun _ hm => nomatch hm), (Chip.l2Fill_rest e s).2⟩
  | some m =>
    obtain ⟨hmov, hrest⟩ := Chip.l2Fill_rest e (s.updMov (s.tlbMember m va) (fun x => { x with l1 := l1Touch e x.l1 }))
    refine ⟨Chip.l2Fill_head .., fun k hk => ?_, hrest⟩
    obtain rfl := Option.some.inj hk
    simp only [hmov, Chip.movAt_updMov_self, l1Touch_head]

theorem Chip.endWalk_fills {s : Chip} {w : PWalk} {e : TlbEnt} (hw : w.ans = some (.leaf e)) (h : s.installs w.epoch e = true) :
    let u := s.endWalk w
    u.l2.head? = some e ∧ (∀ m, w.mov = some m → (u.movAt (s.tlbMember m w.va)).l1.head? = some e) ∧ u.mem = s.mem ∧ u.ks = s.ks ∧
      u.rc = s.rc ∧ u.link = s.link := by
  have htlbs := s.tlbs_dropWalk w.id
  simp only [Chip.tlbs, Prod.mk.injEq] at htlbs
  obtain ⟨hbuild, _, hinv, _, hgang, hmem, hks, hrc, hlink⟩ := htlbs
  have hinst : (s.dropWalk w.id).installs w.epoch e = true := by rwa [Chip.installs, hinv]
  have hmember : ∀ m, (s.dropWalk w.id).tlbMember m w.va = s.tlbMember m w.va := fun m => by
    rw [Chip.tlbMember, Chip.tlbMember, Chip.teamSize, Chip.teamSize, Chip.gangOf, Chip.gangOf, hbuild, hgang]
  have hfill := Chip.install_fills hinst w.mov w.va
  simp only [hmember, hmem, hks, hrc, hlink] at hfill
  rw [Chip.endWalk_leaf hw]
  exact hfill

/-! ### What waited goes on -/

theorem pageWalkComplete_found {s : Chip} {id : Nat} {w : PWalk} (h : s.walkAt id = some w) :
    pageWalkComplete id w.part w.va s = if w.ans.isSome then w.who.foldl (Chip.walkServes w) (s.endWalk w) else s := by
  simp only [pageWalkComplete, h, beq_self_eq_true, Bool.and_true]

section
variable {s : Chip} {c : Nat} {req : WalkReq} {w : PWalk} (hreq : (s.ctxAt c).walk = some req)
include hreq

theorem Chip.walkFor_over (h : (s.ctxAt c).st ≠ .waiting ∨ (s.ctxAt c).ended = true) :
    s.walkFor c w = s.updCtx c (fun x => { x with walk := none }) := by
  simp only [Chip.walkFor, hreq, h, if_true]

variable (hst : (s.ctxAt c).st = .waiting) (hend : (s.ctxAt c).ended = false)
include hst hend

theorem Chip.walkFor_leaf {e : TlbEnt} (hw : w.ans = some (.leaf e)) (hi : s.installs w.epoch e = true) :
    s.walkFor c w = (s.updCtx c (fun x => { x with walk := none })).afterWalk c := by
  have hi' : (s.updCtx c (fun x => { x with walk := none })).installs w.epoch e = true := hi
  simp [Chip.walkFor, hreq, hst, hend, hw, hi']

variable (hx : (s.ctxAt c).xfer = none)
include hx

theorem Chip.walkFor_fault {code level : Nat} (hw : w.ans = some (.fault code level)) :
    s.walkFor c w = (((s.updCtx c (fun x => { x with walk := none })).updCtx c (fun x => { x with acc := none })).trFault c req code level).haltStep c := by
  simp [Chip.walkFor, Chip.prefetching, hreq, hst, hend, hw, hx]

theorem Chip.walkFor_failed {rep : Report} (hw : w.ans = some (.failed rep)) :
    s.walkFor c w = ((s.updCtx c (fun x => { x with walk := none })).updCtx c (fun x => { x with acc := none })).portFails c rep := by
  simp [Chip.walkFor, Chip.prefetching, hreq, hst, hend, hw, hx]

end

/-! ### Permissions and the region of a leaf -/

section
variable {s : Chip} {l : Leaf} {acc : Access} {va : Nat} (hw : acc = .write → l.e.w = true) (hx : acc = .fetch → l.e.x = true)
include hw hx

theorem Chip.checkLeaf_absent (hd : s.decodePA (l.e.paOf va) = none) : s.checkLeaf l acc va = .fault 5 (leafLevel l.e.lg) := by
  simp only [Chip.checkLeaf, hd]
  rw [if_neg fun h => h.2 (hw h.1), if_neg fun h => h.2 (hx h.1)]

theorem Chip.checkLeaf_present {p : Place} (hd : s.decodePA (l.e.paOf va) = some p) : s.checkLeaf l acc va = .ok (l.e.paOf va) p l := by
  simp only [Chip.checkLeaf, hd]
  rw [if_neg fun h => h.2 (hw h.1), if_neg fun h => h.2 (hx h.1)]

end

/-- Settles O22: a page walk ends, and what its leaf permits. -/
theorem pageWalks : Obligations.PageWalks := by
  refine ⟨fun s id w hw => ⟨fun hn => ?_, fun hn => ?_, fun e he hi => Chip.endWalk_fills he hi⟩,
    fun s c req w hreq => ⟨fun h => Chip.walkFor_over hreq h, fun hst hend =>
      ⟨fun e he hi => Chip.walkFor_leaf hreq hst hend he hi, fun hx =>
        ⟨fun code level hf => Chip.walkFor_fault hreq hst hend hx hf, fun rep hf => Chip.walkFor_failed hreq hst hend hx hf⟩⟩⟩,
    fun s l acc va => ⟨fun ha hp => ?_, fun ha hp => ?_, fun hpw hpx => ⟨fun hd => ?_, fun p hd => ?_⟩⟩⟩
  · exact next_to ((pageWalkComplete_found hw).trans (if_neg (by simp [hn])))
  · exact next_to ((pageWalkComplete_found hw).trans (if_pos (Option.isSome_iff_ne_none.mpr hn)))
  · exact if_pos ⟨ha, by simp [hp]⟩
  · exact (if_neg fun h => by simp [ha] at h).trans (if_pos ⟨ha, by simp [hp]⟩)
  · exact Chip.checkLeaf_absent hpw hpx hd
  · exact Chip.checkLeaf_present hpw hpx hd

end Sys2Proof.Machine
end

section
/-! Transfer instructions at issue: a fault, credits, or a wait for them (R61, R124, R172, R175, R176, R199). -/

namespace Sys2Proof.Machine

/-! ### What a transfer's start leaves as it was -/

/-- A context without its transfer and its staging. -/
def Ctx.unstaged (x : Ctx) : Ctx := { x with xfer := none, stgHold := 0, stgBuf := [] }

/-- `t` is `s` but for registers, ports, faults, samples, and the transfer and the staging of context `c`. -/
structure Chip.StartFrame (c : Nat) (s t : Chip) : Prop where
  other : ∀ d, d ≠ c → t.ctxAt d = s.ctxAt d
  mem   : t.mem = s.mem
  ks    : t.ks = s.ks
  ksq   : t.ksq = s.ksq
  rc    : t.rc = s.rc
  link  : t.link = s.link
  tier  : t.tier = s.tier
  irq   : t.irq = s.irq
  rsq   : t.rsq = s.rsq
  time  : t.time = s.time
  own   : (t.ctxAt c).unstaged = (s.ctxAt c).unstaged

theorem Chip.StartFrame.trans {c : Nat} {s t u : Chip} (a : s.StartFrame c t) (b : t.StartFrame c u) : s.StartFrame c u where
  other d hd := (b.other d hd).trans (a.other d hd)
  mem := b.mem.trans a.mem
  ks := b.ks.trans a.ks
  ksq := b.ksq.trans a.ksq
  rc := b.rc.trans a.rc
  link := b.link.trans a.link
  tier := b.tier.trans a.tier
  irq := b.irq.trans a.irq
  rsq := b.rsq.trans a.rsq
  time := b.time.trans a.time
  own := b.own.trans a.own

theorem Chip.Logged.startFrame {s t : Chip} (c : Nat) : s.Logged t → s.StartFrame c t := by
  rintro ⟨_, _, _, _, rfl⟩
  exact ⟨fun _ _ => rfl, rfl, rfl, rfl, rfl, rfl, rfl, rfl, rfl, rfl, rfl⟩

theorem Chip.startFrame_updMov (s : Chip) (c m : Nat) (f : Mover → Mover) : s.StartFrame c (s.updMov m f) :=
  ⟨fun _ _ => rfl, rfl, rfl, rfl, rfl, rfl, rfl, rfl, rfl, rfl, rfl⟩

theorem Chip.startFrame_updCtx (s : Chip) (c : Nat) (f : Ctx → Ctx) (h : ∀ x, (f x).unstaged = x.unstaged) :
    s.StartFrame c (s.updCtx c f) :=
  ⟨fun _ hd => (Chip.ctxAt_updCtx ..).trans (if_neg hd), rfl, rfl, rfl, rfl, rfl, rfl, rfl, rfl, rfl,
    (congrArg Ctx.unstaged (Chip.ctxAt_updCtx_self ..)).trans (h _)⟩

theorem Chip.startFrame_unstage (s : Chip) (c n : Nat) : s.StartFrame c (s.updCtx c (fun x => { x with stgHold := n, stgBuf := [] })) :=
  s.startFrame_updCtx c (fun x => { x with stgHold := n, stgBuf := [] }) fun _ => rfl

theorem Chip.startFrame_setXfer (s : Chip) (c : Nat) (o : Option Xfer) : s.StartFrame c (s.updCtx c (fun x => { x with xfer := o })) :=
  s.startFrame_updCtx c (fun x => { x with xfer := o }) fun _ => rfl

theorem Chip.startFrame_updXfer (s : Chip) (c : Nat) (f : Xfer → Xfer) : s.StartFrame c (s.updXfer c f) :=
  s.startFrame_updCtx c (fun x => { x with xfer := x.xfer.map f }) fun _ => rfl

theorem Chip.logged_bump (s : Chip) (o lo n k : Nat) : s.Logged (s.bump o lo n k) := s.logged_setReg ..

theorem Chip.logged_count (s : Chip) (c r lo n k : Nat) : s.Logged (s.count c r lo n k) := by
  unfold Chip.count
  split
  · exact .refl s
  · exact s.logged_setReg ..

theorem Chip.logged_countLap (s : Chip) (c : Nat) (w : Word) : s.Logged (s.countLap c w) := by
  unfold Chip.countLap
  split
  · exact s.logged_count ..
  · exact s.logged_count ..
  · exact .refl s

/-! ### The transfer that stands in the context -/

theorem Chip.xfer_updXfer (s : Chip) (c : Nat) (f : Xfer → Xfer) : ((s.updXfer c f).ctxAt c).xfer = (s.ctxAt c).xfer.map f :=
  congrArg Ctx.xfer (Chip.ctxAt_updCtx_self ..)

theorem Chip.releaseStg_spec (s : Chip) (c : Nat) :
    s.StartFrame c (s.releaseStg c) ∧ ((s.releaseStg c).ctxAt c).xfer = (s.ctxAt c).xfer := by
  simp only [Chip.releaseStg]
  split
  · exact ⟨(Chip.Logged.refl s).startFrame c, rfl⟩
  · exact ⟨(s.startFrame_unstage c 0).trans ((Chip.logged_bump ..).startFrame c),
      by rw [(Chip.logged_bump ..).ctxAt, Chip.ctxAt_updCtx_self]⟩

/-- Taking a staging half changes the lines of the transfer alone. -/
theorem Chip.takeStg_spec (s : Chip) (c : Nat) (w : Word) :
    s.StartFrame c (s.takeStg c w) ∧
      ∃ n, ((s.takeStg c w).ctxAt c).xfer = (s.ctxAt c).xfer.map (fun t => { t with room := n, lines := [] }) := by
  obtain ⟨hframe, hx⟩ := s.releaseStg_spec c
  simp only [Chip.takeStg]
  refine ⟨hframe.trans ((Chip.startFrame_unstage _ c _).trans (Chip.startFrame_updXfer _ c _)), (s.releaseStg c).stgRoom c w, ?_⟩
  rw [Chip.xfer_updXfer, Chip.ctxAt_updCtx_self, hx]

/-- A transfer that is sampled is marked. -/
theorem Chip.sampleIf_spec (s : Chip) (c : Nat) (cand : Bool) {t : Xfer} (ht : (s.ctxAt c).xfer = some t) :
    s.StartFrame c (s.sampleIf c cand) ∧ ∃ b, ((s.sampleIf c cand).ctxAt c).xfer = some { t with sampled := b } := by
  have hsame := (Chip.Logged.refl s).startFrame c
  simp only [Chip.sampleIf, ht]
  split
  · split
    · exact ⟨s.startFrame_updMov c _ _, _, ht⟩
    · split
      · exact ⟨(s.startFrame_updMov c _ _).trans ((Chip.logged_count ..).startFrame c), t.sampled,
          (congrArg Ctx.xfer ((Chip.logged_count ..).ctxAt c)).trans ht⟩
      · refine ⟨?_, true, ?_⟩
        · refine .trans ?_ (Chip.startFrame_updXfer _ c _)
          refine .trans ?_ (Chip.startFrame_updMov _ c _ _)
          refine .trans ?_ ((Chip.logged_count ..).startFrame c)
          exact (s.startFrame_updMov c _ _).trans (Chip.Logged.startFrame c ⟨_, _, _, _, rfl⟩)
        · rw [Chip.xfer_updXfer, Chip.ctxAt_updMov, (Chip.logged_count ..).ctxAt]
          exact congrArg (Option.map _) ht
  · exact ⟨hsame, t.sampled, ht⟩

/-- The block with the issue of `w` traced and counted. -/
def Chip.logsIssue (c : Nat) (w : Word) (s : Chip) : Chip := (s.trace c 1 (wOpc w) (s.ctxAt c).ip 0).countLap c w

theorem Chip.logged_logsIssue (s : Chip) (c : Nat) (w : Word) : s.Logged (s.logsIssue c w) :=
  (Chip.logged_trace ..).trans (Chip.logged_countLap ..)

theorem Chip.newXfer_logsIssue (s : Chip) (c : Nat) (w : Word) :
    (s.logsIssue c w).newXfer c w = { s.newXfer c w with grp := (s.logsIssue c w).uid } := by
  obtain ⟨_, _, _, _, ht⟩ := s.logged_logsIssue c w
  rw [Chip.newXfer, Chip.newXfer, (s.logged_logsIssue c w).ctxAt, ht]
  rfl

theorem Chip.startTransfer_spec (s : Chip) (c : Nat) (w : Word) :
    s.StartFrame c (s.startTransfer c w) ∧ ∃ g room lines b, ((s.startTransfer c w).ctxAt c).xfer =
      some { s.newXfer c w with credits := s.workingSet c w, grp := g, room := room, lines := lines, sampled := b } := by
  let u := s.logsIssue c w
  let v := ({ u with uid := u.uid + 1 }).updCtx c (fun x => { x with xfer := some { u.newXfer c w with credits := s.workingSet c w } })
  let z := if wOpc w = 0x4A ∧ bitB w 0 then v.takeStg c w else v
  have hstart : s.startTransfer c w = z.sampleIf c ((z.ctxAt c).xop w).candidate := rfl
  have hv : s.StartFrame c v := ((s.logged_logsIssue c w).startFrame c).trans
    ((Chip.Logged.startFrame c ⟨_, _, _, _, rfl⟩).trans (Chip.startFrame_setXfer { u with uid := u.uid + 1 } c _))
  have hvx : (v.ctxAt c).xfer = some { s.newXfer c w with credits := s.workingSet c w, grp := u.uid } :=
    (congrArg Ctx.xfer (Chip.ctxAt_updCtx_self ..)).trans (by rw [s.newXfer_logsIssue])
  have hz : s.StartFrame c z ∧ ∃ room lines, (z.ctxAt c).xfer =
      some { s.newXfer c w with credits := s.workingSet c w, grp := u.uid, room := room, lines := lines } := by
    simp only [z]
    split
    · obtain ⟨htake, n, hn⟩ := v.takeStg_spec c w
      exact ⟨hv.trans htake, n, [], hn.trans (congrArg (Option.map _) hvx)⟩
    · exact ⟨hv, _, _, hvx⟩
  obtain ⟨hzf, room, lines, hzx⟩ := hz
  obtain ⟨hs, b, hb⟩ := z.sampleIf_spec c ((z.ctxAt c).xop w).candidate hzx
  rw [hstart]
  exact ⟨hzf.trans hs, u.uid, room, lines, b, hb⟩

/-! ### Issue -/

theorem exec_transfer {s : State} {i : Instr} {c : Nat} {w : Word} {sel enc : Word → Bool} (h : s.chip.issuesAs i c w)
    (hr : issueRow i = some ⟨c, sel, enc, xCtr⟩) (hi : exec i s = .next (s.to (transfer c sel enc s.chip))) :
    exec i s = .next (s.to (Chip.transferBody c w (s.chip.taken c w))) := by
  rw [hi, transfer, Chip.issue_as h hr]

/-- Every transfer instruction is its row with the body of transfers. -/
theorem exec_transfers {s : State} {c : Nat} {w : Word} {i : Instr}
    (hi : i ∈ [Instr.move c, .moveLdrt c, .mset c, .fill c, .window c, .gather c, .pool c,
       .scatter c, .expand c, .pack c, .digest c, .prefetch c, .send c, .deleg c, .cinv c]) (h : s.chip.issuesAs i c w) :
    exec i s = .next (s.to (Chip.transferBody c w (s.chip.taken c w))) := by
  simp only [List.mem_cons, List.not_mem_nil, or_false] at hi
  rcases hi with rfl | rfl | rfl | rfl | rfl | rfl | rfl | rfl | rfl | rfl | rfl | rfl | rfl | rfl | rfl
  all_goals exact exec_transfer h rfl rfl

section
variable {s : Chip} {c : Nat} {w : Word}

theorem Chip.transferBody_fault {code : Nat} (h : s.transferFault c w = some code) : s.transferBody c w = s.ownFault c code := by
  rw [Chip.transferBody, h]

theorem Chip.transferBody_enters (h : s.transferFault c w = none) :
    s.transferBody c w =
      let u := s.yieldStg c (s.slotMover c) (s.creditNeed c w)
      if s.creditNeed c w ≤ u.freeCredits (s.slotMover c) then (u.startTransfer c w).pump c
      else (u.updCtx c (fun x => { x with xfer := some (u.newXfer c w) })).waitFor c .credit := by
  rw [Chip.transferBody, h]
  rfl

end

theorem creditAcquired_waits {s : Chip} {c : Nat} {t : Xfer} (hx : (s.ctxAt c).xfer = some t) (hst : (s.ctxAt c).st = .waiting)
    (hw : (s.ctxAt c).wait = some .credit) (he : (s.ctxAt c).ended = false) (hr : t.resumed = false) :
    creditAcquired c s =
      let u := s.yieldStg c (s.slotMover c) (s.creditNeed c t.word)
      if s.creditNeed c t.word ≤ u.freeCredits (s.slotMover c) then (u.startTransfer c t.word).wake c else u := by
  simp only [creditAcquired, hx, hst, hw, he, hr, Bool.false_eq_true, not_false_eq_true, and_self, if_true, if_false]

/-- Settles O24: transfer instructions at issue. -/
theorem transfersIssue : Obligations.TransfersIssue := by
  refine ⟨fun s c w i hi h => ⟨fun code hf => ?_, fun hf hn => ?_, fun hf hn => ?_⟩,
    fun s c t => ?_, fun s c w => ?_⟩
  · exact (exec_transfers hi h).trans (next_to (Chip.transferBody_fault hf))
  · exact (exec_transfers hi h).trans (next_to ((Chip.transferBody_enters hf).trans (if_pos hn)))
  · exact (exec_transfers hi h).trans (next_to ((Chip.transferBody_enters hf).trans (if_neg (Nat.not_le_of_lt hn))))
  · intro m n u hx hst hw he hr
    have heq := creditAcquired_waits hx hst hw he hr
    exact ⟨fun hn => next_to (heq.trans (if_pos hn)), fun hn => next_to (heq.trans (if_neg (Nat.not_le_of_lt hn)))⟩
  · obtain ⟨f, g, room, lines, b, hx⟩ := s.startTransfer_spec c w
    have hown : ∀ {α : Type} (g : Ctx → α), (∀ x : Ctx, g x.unstaged = g x) → g ((s.startTransfer c w).ctxAt c) = g (s.ctxAt c) :=
      fun g hg => by rw [← hg, f.own, hg]
    refine ⟨⟨_, hx, rfl, rfl, rfl, rfl, rfl, rfl, rfl, rfl, rfl, ?_⟩, f.other, f.mem, f.ks, f.ksq, f.rc, f.link, f.tier, f.irq,
      f.rsq, f.time, hown Ctx.st fun _ => rfl, hown Ctx.s fun _ => rfl, hown Ctx.p fun _ => rfl, hown Ctx.ip fun _ => rfl,
      hown Ctx.t fun _ => rfl⟩
    show (if wOpc w = 0x41 ∨ ((s.ctxAt c).xop w).mode = .stageAll then 0 else 1) = 0 ↔ _
    split <;> simp_all

end Sys2Proof.Machine
end

section
/-! Passes, courses, retirement and translation halts of a transfer in flight (R119, R123, R155, R157, R171, R172, R220, R223, R285, R340). -/

namespace Sys2Proof.Machine

/-! ### The waits of a transfer in flight -/

section
variable {s : Chip} {c : Nat} {t : Xfer} (ht : s.inFlightXfer c = some t)
include ht

theorem stageAllWritePass_flight :
    stageAllWritePass c s =
      if t.pass = 0 ∧ wOpc t.word ≠ 0x41 ∧ (t.nextStaged (s.xiOf c t)).isNone ∧ t.due.isNone ∧ ¬ s.pendingReads c then
        (s.updXfer c (Xfer.nextPass 1)).heard c
      else s := by
  simp only [stageAllWritePass, ht]

theorem msetDataPass_next {l : List XI} (hl : (s.xiOf c t).slices t.env 2 = .ok l)
    (h : t.pass = 2 ∧ wOpc t.word = 0x41 ∧ sliceUnits l ≤ t.cursor ∧ t.out = [] ∧ ¬ s.pendingWrites c) :
    msetDataPass c s = (s.updXfer c (Xfer.nextPass 3)).heard c := by
  simp only [msetDataPass, ht, hl, if_pos h]

theorem msetDataPass_waits (h : t.pass ≠ 2 ∨ s.pendingWrites c = true) : msetDataPass c s = s := by
  simp only [msetDataPass, ht]
  split
  · refine if_neg ?_
    rintro ⟨hp, _, _, _, hw⟩
    exact h.elim (fun h => h hp) (fun h => hw h)
  · rfl

theorem courseComplete_flight :
    courseComplete c s =
      if s.courseDone c t then ((s.courseSignal c t).updXfer c (fun t => { t with courses := t.courses + 1 })).progressed c else s := by
  simp only [courseComplete, ht]

theorem tornRowRetry_retries {u : Xfer} (hu : t.retry (s.xiOf c t) = some u) :
    tornRowRetry c s = (s.updXfer c (fun _ => u)).heard c := by
  simp only [tornRowRetry, ht, hu]

theorem tornRowRetry_waits (hu : t.retry (s.xiOf c t) = none) : tornRowRetry c s = s := by
  simp only [tornRowRetry, ht, hu]

theorem transferRetire_waits (h : s.mayRetire c t = false) : transferRetire c s = s := by
  simp only [transferRetire, ht, h, Bool.false_eq_true, if_false]

variable (hm : s.mayRetire c t = true)
include hm

theorem transferRetire_retires (hf : t.fault = none) (hs : t.shipped = none) : transferRetire c s = s.retireXfer c t := by
  simp only [transferRetire, ht, hm, hf, hs, if_true, Option.isSome_none, Bool.false_eq_true, if_false]

theorem transferRetire_faults {r : Report} (hf : t.fault = some r) :
    transferRetire c s = (s.updCtx c (fun x => { x with ended := true, faddr := x.ip })).report r := by
  simp only [transferRetire, ht, hm, hf, if_true]

theorem transferRetire_guest (hf : t.fault = none) (hs : t.shipped.isSome = true) {d : Deleg}
    (hd : s.link.delegs.find? (fun d => d.guest == some c) = some d) :
    transferRetire c s = ((s.stgAfter c t).guestFree c).delegDone d.src d.mtag 0 t.bytes := by
  simp only [transferRetire, ht, hm, hf, hs, hd, if_true]

end

/-- A course is done once every write of it and of the courses before it is answered. -/
theorem Chip.courseDone_of_answered {s : Chip} {c : Nat} {t : Xfer} (hr : t.remote = false) (hw : wOpc t.word ≠ 0x4C)
    (hh : 131072 * (t.courses + 1) ≤ t.halves) (ho : ∀ o ∈ t.out, t.courses < o.crs)
    (hq : ∀ r ∈ s.bringing, r.ctx = some c → r.write = true → t.courses < r.crs)
    (hs : ∀ g ∈ s.segs, g.ctx = c → t.courses < g.crs) (hg : ∀ g ∈ s.groups, g.ctx = c → t.courses < g.crs) :
    s.courseDone c t = true := by
  have hout : t.out.any (fun o => decide (o.crs ≤ t.courses)) = false := by simpa using ho
  have hports : s.bringing.any (fun r => r.ctx == some c && r.write && decide (r.crs ≤ t.courses)) = false := by simpa using hq
  have hsegs : s.segs.any (fun g => g.ctx == c && decide (g.crs ≤ t.courses)) = false := by simpa using hs
  have hgroups : s.groups.any (fun g => g.ctx == c && decide (g.crs ≤ t.courses)) = false := by simpa using hg
  simp [Chip.courseDone, hr, hw, hh, hout, hports, hsegs, hgroups]

/-- What planning a read leaves: the rows, the instruction, the bytes written, the unit the walk stands at. -/
def Xfer.standing (t : Xfer) : List RowSt × Word × Nat × Nat := (t.rows, t.word, t.halves, t.cursor)

theorem Xfer.standing_planPart (p : Life) (k : NeedKind) (t : Xfer) (g : Nat × Nat × BitVec 256) :
    (t.planPart p k g).standing = t.standing := by
  simp only [Xfer.planPart]
  split
  · rfl
  · split <;> rfl

theorem Xfer.standing_plan (p : Life) (l : List Need) (t : Xfer) : (t.plan p l).standing = t.standing := by
  refine foldl_keeps Xfer.standing _ ?_ l t
  exact fun t n => foldl_keeps Xfer.standing _ (Xfer.standing_planPart p n.kind) n.parts t

/-- The row that waits is read again; nothing else of the transfer's progress changes. -/
theorem Xfer.retry_spec {xi : XI} {t : Xfer} {q : RowSt} (hq : t.rows.find? (fun q => q.phase == .waiting) = some q) :
    ∃ u, t.retry xi = some u ∧ u.rows = t.rows.map (fun r => if r.same q then { q with phase := .reading } else r) ∧
      u.word = t.word ∧ u.halves = t.halves ∧ u.cursor = t.cursor := by
  let planned := t.plan { w := xi.w, lo := q.lo, hi := q.hi } (match xi.rowPlan { t.env with unit := q.lo } q with | .ok l => l | _ => [])
  have hstand : planned.standing = t.standing := Xfer.standing_plan ..
  simp only [Xfer.standing, Prod.mk.injEq] at hstand
  obtain ⟨hrows, hword, hhalves, hcursor⟩ := hstand
  refine ⟨planned.setRow { q with phase := .reading }, ?_, ?_, hword, hhalves, hcursor⟩
  · rw [Xfer.retry, hq]
    rfl
  · rw [Xfer.setRow, hrows]
    rfl

theorem Xfer.retry_none {xi : XI} {t : Xfer} (h : ∀ q ∈ t.rows, q.phase ≠ .waiting) : t.retry xi = none := by
  have hfind : t.rows.find? (fun q => q.phase == .waiting) = none := List.find?_eq_none.mpr fun q hq => by simpa using h q hq
  rw [Xfer.retry, hfind]
  rfl

/-- Settles O25: what a transfer in flight waits for arrives. -/
theorem transferPasses : Obligations.TransferPasses := by
  intro s c t ht xi first
  refine ⟨fun hp hw hn hd hr => ?_, fun h => ?_, fun l hp hw hl hu ho hpw => ?_, fun h => ?_, fun h => ?_,
    fun hr hw hh ho hq hs hg => Chip.courseDone_of_answered hr hw hh ho hq hs hg, fun h => ?_, fun q hq => ?_, fun h => ?_⟩
  · exact next_to ((stageAllWritePass_flight ht).trans (if_pos ⟨hp, hw, Option.isNone_iff_eq_none.mpr hn, Option.isNone_iff_eq_none.mpr hd, by simp [hr]⟩))
  · refine next_to ((stageAllWritePass_flight ht).trans (if_neg ?_))
    rintro ⟨hp, _, _, _, hr⟩
    exact h.elim (fun h => h hp) (fun h => hr h)
  · exact next_to (msetDataPass_next ht hl ⟨hp, hw, hu, ho, by simp [hpw]⟩)
  · exact next_to (msetDataPass_waits ht h)
  · exact next_to ((courseComplete_flight ht).trans (if_pos h))
  · exact next_to ((courseComplete_flight ht).trans (if_neg (by simp [h])))
  · obtain ⟨u, hu, hrows, hword, hhalves, hcursor⟩ := Xfer.retry_spec (xi := s.chip.xiOf c t) hq
    exact ⟨u, hrows, hword, hhalves, hcursor, next_to (tornRowRetry_retries ht hu)⟩
  · exact next_to (tornRowRetry_waits ht (Xfer.retry_none h))

/-! ### Translation halts -/

theorem Chip.haltStep_untransferred {s : Chip} {c : Nat} (h : (s.ctxAt c).xfer = none) : s.haltStep c = s := by
  simp only [Chip.haltStep, h]

theorem Chip.haltStep_saving {s : Chip} {c : Nat} {t : Xfer} (h : (s.ctxAt c).xfer = some t) (hs : t.saving = true) : s.haltStep c = s := by
  simp only [Chip.haltStep, h]
  split
  · exact if_neg fun hc => hc.2.2.1 hs
  · rfl

section
variable {s : Chip} {c : Nat} {h : Halt} (hst : (s.ctxAt c).st = .waiting) (he : (s.ctxAt c).ended = false)
include hst he

theorem translationHalt_access (hh : (s.ctxAt c).halt = some h) (hx : (s.ctxAt c).xfer = none) : translationHalt c s = s.faulted c h := by
  simp only [translationHalt, Chip.haltStep_untransferred hx, hst, he, hh, ne_eq, not_true_eq_false, Bool.false_eq_true, or_false, if_false]

theorem translationHalt_saved {t : Xfer} (hx : (s.ctxAt c).xfer = some t) (hn : (s.ctxAt c).halt = none) (hh : t.halt = some h)
    (hs : t.saving = true) (hr : ∀ r ∈ s.allRequests, ¬ (r.ctx = some c ∧ r.kind = .save)) : translationHalt c s = s.faulted c h := by
  have hany : s.allRequests.any (fun r => r.ctx == some c && r.kind == .save) = false := by simpa using hr
  simp only [translationHalt, Chip.haltStep_saving hx hs, hst, he, hn, hx, hh, hs, hany, ne_eq, not_true_eq_false, Bool.false_eq_true,
    or_false, if_false, Bool.not_false, Bool.and_self, if_true]

end

/-- Settles O26: a transfer retires, or halts on a translation fault. -/
theorem transferEnds : Obligations.TransferEnds := by
  refine ⟨fun s c t ht => ⟨fun h => next_to (transferRetire_waits ht h), fun hm =>
      ⟨fun hf hs => next_to (transferRetire_retires ht hm hf hs), fun r hf => next_to (transferRetire_faults ht hm hf),
        fun hf hs d hd => next_to (transferRetire_guest ht hm hf hs hd)⟩⟩,
    fun s c h hst he => ⟨fun hh hx => next_to (translationHalt_access hst he hh hx),
      fun t hx hn hh hs hr => next_to (translationHalt_saved hst he hx hn hh hs hr)⟩⟩

end Sys2Proof.Machine
end

section
/-! The row cache: ways, fills, writes; combine segments and row updates at its banks
(R179, R198, R273, R274, R277–R279, R282–R284, R348, R376, R377). -/

namespace Sys2Proof.Machine

/-! ### A way for a line (R273, R274) -/

/-- The victim of a set with one way more. -/
theorem victim_cons (f : Bool) (w : Nat × Line) (ws : List (Nat × Line)) :
    (victim f ws = none ∧ victim f (w :: ws) = if w.2.pinned then none else some w) ∨
      ∃ p, victim f ws = some p ∧ (victim f (w :: ws) = some p ∨ victim f (w :: ws) = some w) := by
  simp only [victim]
  split
  · next hv => exact .inl ⟨hv, rfl⟩
  · next hv => exact .inr ⟨_, hv, (ite_eq_or_eq ..).symm⟩

theorem victim_mem {f : Bool} {ws : List (Nat × Line)} {p : Nat × Line} (h : victim f ws = some p) : p ∈ ws := by
  induction ws generalizing p with
  | nil => cases h
  | cons w ws ih =>
    rcases victim_cons f w ws with ⟨_, hc⟩ | ⟨q, hq, hc | hc⟩ <;> rw [hc] at h
    · split at h
      · cases h
      · exact List.mem_cons.mpr (.inl (Option.some.inj h).symm)
    · exact List.mem_cons_of_mem _ (ih (hq.trans h))
    · exact List.mem_cons.mpr (.inl (Option.some.inj h).symm)

/-- There is no victim only where every way is pinned. -/
theorem victim_eq_none {f : Bool} {ws : List (Nat × Line)} : victim f ws = none ↔ ∀ w ∈ ws, w.2.pinned = true := by
  induction ws with
  | nil => simp [victim]
  | cons w ws ih =>
    rw [List.forall_mem_cons, ← ih]
    rcases victim_cons f w ws with ⟨hn, hc⟩ | ⟨q, hq, hc | hc⟩
    · simp [hn, hc]
    · simp [hq, hc]
    · simp [hq, hc]

theorem Chip.lineAt_updLine (s : Chip) (g h : Nat) (f : Line → Line) :
    (s.updLine g f).lineAt h = if h = g then f (s.lineAt g) else s.lineAt h := Tab.get_upd ..

@[simp] theorem Chip.lineAt_updLine_self (s : Chip) (g : Nat) (f : Line → Line) : (s.updLine g f).lineAt g = f (s.lineAt g) :=
  (s.lineAt_updLine ..).trans (if_pos rfl)

/-- `t` keeps memory, the segments and every line but `h` as `s` has them. -/
structure Chip.Evicted (h : Nat) (s t : Chip) : Prop where
  line   : ∀ g, g ≠ h → t.lineAt g = s.lineAt g
  mem    : t.mem = s.mem
  segs   : t.segs = s.segs

theorem Chip.evicted_updLine (s : Chip) (h : Nat) (f : Line → Line) : s.Evicted h (s.updLine h f) :=
  ⟨fun _ hg => (s.lineAt_updLine ..).trans (if_neg hg), rfl, rfl⟩

theorem Chip.Logged.evicted {s t : Chip} (h : Nat) : s.Logged t → s.Evicted h t := by
  rintro ⟨_, _, _, _, rfl⟩
  exact ⟨fun _ _ => rfl, rfl, rfl⟩

theorem Chip.Evicted.trans {h : Nat} {s t u : Chip} (a : s.Evicted h t) (b : t.Evicted h u) : s.Evicted h u :=
  ⟨fun g hg => (b.line g hg).trans (a.line g hg), b.mem.trans a.mem, b.segs.trans a.segs⟩

theorem Chip.evictLine_spec (s : Chip) (h cls : Nat) : s.Evicted h (s.evictLine h cls) := by
  unfold Chip.evictLine
  split
  · exact s.evicted_updLine h _
  · exact ((s.logged_enq _ (PortReq.workOf_of_ctx (by rfl))).evicted h).trans (Chip.evicted_updLine _ h _)

theorem Chip.mem_setWays_ne {s : Chip} {g : Nat} {w : Nat × Line} (h : w ∈ s.setWays g) : w.1 ≠ g := by
  obtain ⟨_, hp⟩ := List.mem_filter.mp h
  simp only [Bool.and_eq_true, bne_iff_ne] at hp
  exact hp.1.1.1

theorem Chip.setWays_length_le (s : Chip) (g : Nat) : (s.setWays g).length ≤ s.rc.length := List.length_filter_le ..

/-- A line that is there needs no way. -/
theorem Chip.rcRoom_here {s : Chip} {g : Nat} (hh : (s.lineAt g).here = true) (he : (s.lineAt g).evict = false) (cls : Nat) :
    s.rcRoom g cls = some s := if_pos (by simp [Line.present, hh, he])

/-- Where a way can be had, the line itself and memory stay. -/
theorem Chip.rcRoom_of_wayFor {s : Chip} {g : Nat} (cls : Nat) (h : s.wayFor g) :
    ∃ t, s.rcRoom g cls = some t ∧ t.lineAt g = s.lineAt g ∧ t.mem = s.mem ∧ t.segs = s.segs := by
  simp only [Chip.rcRoom]
  split
  · exact ⟨s, rfl, rfl, rfl, rfl⟩
  · next hhere =>
    split
    · exact ⟨s, rfl, rfl, rfl, rfl⟩
    · split
      · exact ⟨s, rfl, rfl, rfl, rfl⟩
      · next hways =>
        rcases hv : victim (bitB (s.reg Reg.rcEmbcfg) 0) (s.setWays g) with _ | ⟨k, l⟩
        · have hpinned := victim_eq_none.mp hv
          rcases h with ⟨hh, he⟩ | h | ⟨w, hw, hp⟩
          · exact absurd (by simp [Line.present, hh, he]) hhere
          · exact absurd h hways
          · exact absurd (hpinned w hw) (by simp [hp])
        · obtain ⟨hline, hmem, hsegs⟩ := s.evictLine_spec k cls
          exact ⟨_, rfl, hline g (Chip.mem_setWays_ne (victim_mem hv)).symm, hmem, hsegs⟩

theorem Chip.rcRoom_of_not_wayFor {s : Chip} {g : Nat} (cls : Nat) (h : ¬ s.wayFor g) : s.rcRoom g cls = none := by
  simp only [Chip.wayFor, not_or, not_exists, not_and, Nat.not_lt, Bool.not_eq_false] at h
  obtain ⟨hhere, hways, hpinned⟩ := h
  have hlen : 24 ≤ s.rc.length := hways.trans (s.setWays_length_le g)
  have hvictim : victim (bitB (s.reg Reg.rcEmbcfg) 0) (s.setWays g) = none := victim_eq_none.mpr hpinned
  rw [Chip.rcRoom, if_neg fun hp => by simp [Line.present] at hp; simp [hhere hp.1] at hp, if_neg (Nat.not_lt.mpr hlen)]
  exact (if_neg (Nat.not_lt.mpr hways)).trans (by rw [hvictim]; rfl)

/-! ### Writes and fills of a line (R32, R348) -/

/-- What a line is once bytes have been written into it. -/
def Line.wrote (m : BitVec 256) (d : Granule) (part : Nat) (l v : Line) : Prop :=
  v.here = true ∧ v.part = part ∧ v.dirty = l.dirty ||| m ∧ v.data = mergeMask (wide m) l.data d

/-- The write itself, once the line has its way. -/
def Chip.putLine (g : Nat) (m : BitVec 256) (d : Granule) (part cls : Nat) (hit : Bool) (s : Chip) : Chip :=
  ((s.lineUse g cls hit).staleWb g m).updLine g (fun l =>
    let l := { l with data := mergeMask (wide m) l.data d, dirty := l.dirty ||| m, part := part }
    { l with valid := l.valid ||| l.fullSectors })

theorem Chip.rcWrite_eq (s : Chip) (g : Nat) (m : BitVec 256) (d : Granule) (part cls : Nat) (hit : Bool) :
    s.rcWrite g m d part cls hit = (s.rcRoom g cls).map (Chip.putLine g m d part cls hit) := rfl

theorem Chip.lineAt_lineUse (s : Chip) (g cls : Nat) (hit : Bool) :
    ∃ u f, (s.lineUse g cls hit).lineAt g = { s.lineAt g with here := true, used := u, evict := false, freq := f } :=
  ⟨_, _, Chip.lineAt_updLine_self ..⟩

theorem Chip.putLine_wrote (s : Chip) (g : Nat) (m : BitVec 256) (d : Granule) (part cls : Nat) (hit : Bool) :
    Line.wrote m d part (s.lineAt g) ((s.putLine g m d part cls hit).lineAt g) := by
  obtain ⟨u, f, hl⟩ := s.lineAt_lineUse g cls hit
  have hl' : ((s.lineUse g cls hit).staleWb g m).lineAt g = { s.lineAt g with here := true, used := u, evict := false, freq := f } := hl
  rw [Chip.putLine, Chip.lineAt_updLine_self, hl']
  exact ⟨rfl, rfl, rfl, rfl⟩

/-- A write keeps the pins. -/
theorem Chip.putLine_pinned (s : Chip) (g : Nat) (m : BitVec 256) (d : Granule) (part cls : Nat) (hit : Bool) (h : Nat) :
    ((s.putLine g m d part cls hit).lineAt h).pinned = (s.lineAt h).pinned := by
  by_cases hg : h = g
  · subst hg
    obtain ⟨u, f, hl⟩ := s.lineAt_lineUse h cls hit
    have hl' : ((s.lineUse h cls hit).staleWb h m).lineAt h = { s.lineAt h with here := true, used := u, evict := false, freq := f } := hl
    rw [Chip.putLine, Chip.lineAt_updLine_self, hl']
  · have huse : (s.lineUse g cls hit).lineAt h = s.lineAt h := (Chip.lineAt_updLine { s with uid := s.uid + 1 } g h _).trans (if_neg hg)
    have hstale : ((s.lineUse g cls hit).staleWb g m).lineAt h = s.lineAt h := huse
    rw [Chip.putLine, Chip.lineAt_updLine, if_neg hg, hstale]

theorem Chip.rcWrite_of_wayFor {s : Chip} {g : Nat} (h : s.wayFor g) (m : BitVec 256) (d : Granule) (part cls : Nat) (hit : Bool) :
    ∃ u, s.rcWrite g m d part cls hit = some u ∧ Line.wrote m d part (s.lineAt g) (u.lineAt g) ∧ u.mem = s.mem ∧ u.segs = s.segs := by
  obtain ⟨t, ht, hline, hmem, hsegs⟩ := Chip.rcRoom_of_wayFor cls h
  have hwrote := t.putLine_wrote g m d part cls hit
  rw [hline] at hwrote
  exact ⟨_, by rw [Chip.rcWrite_eq, ht, Option.map_some], hwrote, hmem, hsegs⟩

/-- The bytes that a write of kept bits gives: what is kept comes from what a read of the line sees. -/
theorem mergeKeep (keep d v : Granule) : (if keep = 0 then d else mergeMask keep d v) = mergeMask keep d v := by
  split
  · next h => rw [h, mergeMask_zero]
  · rfl

/-- A write of bytes with the bits of them kept writes the line. -/
theorem Chip.writesLine_of_wrote {s u : Chip} {g part : Nat} {w : BitVec 256 × Granule × Granule}
    (h : Line.wrote w.1 (if w.2.2 = 0 then w.2.1 else mergeMask w.2.2 w.2.1 (s.viewGranule g)) part (s.lineAt g) (u.lineAt g))
    (hm : u.mem = s.mem) : s.writesLine g part w u := by
  obtain ⟨hhere, hpart, hdirty, hdata⟩ := h
  rw [mergeKeep] at hdata
  exact ⟨hhere, hpart, hdirty, hm, hdata⟩

theorem sectorBytes_zero : sectorBytes 0 = 0 := by decide

theorem wide_zero : wide 0 = 0 := by
  unfold wide
  exact foldl_keeps id _ (fun d j => by simp [bitB]) _ _

/-- Ageing the lines of a set changes no bytes. -/
theorem Tab.get_map {α : Type} (d : α) (f : Nat × α → Nat × α) (hf : ∀ p, (f p).1 = p.1) (t : Tab α) (k : Nat) :
    Tab.get d (t.map f) k = Tab.get d t k ∨ ∃ v, Tab.get d t k = v ∧ Tab.get d (t.map f) k = (f (k, v)).2 := by
  induction t with
  | nil => exact .inl rfl
  | cons p t ih =>
    obtain ⟨j, v⟩ := p
    have hj := hf (j, v)
    simp only [List.map_cons, Tab.get]
    by_cases hk : j = k
    · subst hk
      rw [show f (j, v) = (j, (f (j, v)).2) from Prod.ext hj rfl]
      simp
    · rw [show f (j, v) = (j, (f (j, v)).2) from Prod.ext hj rfl]
      simpa [Tab.get, hk] using ih

/-- Counting a fill changes how often lines were used alone. -/
theorem Chip.countFill_spec (s : Chip) (g h : Nat) :
    (∃ f, (s.countFill g).lineAt h = { s.lineAt h with freq := f }) ∧ (s.countFill g).mem = s.mem := by
  simp only [Chip.countFill]
  split
  · refine ⟨?_, rfl⟩
    rcases Tab.get_map ({} : Line) (fun p => if s.rcSetOf p.1 == s.rcSetOf g then (p.1, { p.2 with freq := p.2.freq / 2 }) else p)
      (fun p => by dsimp only; split <;> rfl) s.rc h with hsame | ⟨v, hv, hhalf⟩
    · exact ⟨(s.lineAt h).freq, hsame⟩
    · subst hv
      split at hhalf
      · exact ⟨_, hhalf⟩
      · exact ⟨(s.lineAt h).freq, hhalf⟩
  · exact ⟨⟨(s.lineAt h).freq, rfl⟩, rfl⟩

theorem Chip.rcInstall_of_wayFor {s : Chip} {g : Nat} (h : s.wayFor g) (ok : BitVec 4) (d : Granule) (cls : Nat) :
    ∃ u, s.rcInstall g ok d cls = some u ∧ (u.lineAt g).valid = (s.lineAt g).valid ||| ok ∧ (u.lineAt g).dirty = (s.lineAt g).dirty ∧
      u.mem = s.mem ∧ (u.lineAt g).data = mergeMask (wide (sectorBytes ok &&& ~~~(s.lineAt g).dirty)) (s.lineAt g).data d := by
  obtain ⟨t, ht, hline, hmem, _⟩ := Chip.rcRoom_of_wayFor cls h
  obtain ⟨n, f, hl⟩ := t.lineAt_lineUse g cls false
  let put := (t.lineUse g cls false).updLine g (fun l =>
    { l with data := mergeMask (wide (sectorBytes ok &&& ~~~l.dirty)) l.data d, valid := l.valid ||| ok })
  have hput : put.lineAt g = { s.lineAt g with
      here := true, used := n, evict := false, freq := f, valid := (s.lineAt g).valid ||| ok,
      data := mergeMask (wide (sectorBytes ok &&& ~~~(s.lineAt g).dirty)) (s.lineAt g).data d } := by
    rw [Chip.lineAt_updLine_self, hl, hline]
  obtain ⟨⟨k, hcount⟩, hcmem⟩ := put.countFill_spec g g
  rw [hput] at hcount
  exact ⟨put.countFill g, by rw [Chip.rcInstall, ht]; rfl, by rw [hcount], by rw [hcount], hcmem.trans hmem, by rw [hcount]⟩

section
variable {s : Chip} {x : FillDone}

theorem Chip.installFill_waits (h : ¬ (s.fillNew x = 0 ∨ s.wayFor x.r.loc)) : s.installFill x = none := by
  obtain ⟨hnew, hway⟩ := not_or.mp h
  exact (if_neg hnew).trans (by rw [Chip.rcInstall, Chip.rcRoom_of_not_wayFor _ hway]; rfl)

theorem Chip.installFill_fills (h : s.fillNew x = 0 ∨ s.wayFor x.r.loc) : ∃ u, s.installFill x = some u ∧ s.fillsLine x u := by
  by_cases hnew : s.fillNew x = 0
  · refine ⟨s, if_pos hnew, ?_, rfl, rfl, ?_⟩
    · simp [hnew]
    · rw [hnew, sectorBytes_zero, show (0 : BitVec 256) &&& ~~~(s.lineAt x.r.loc).dirty = 0 from BitVec.zero_and, wide_zero,
        mergeMask_zero]
  · obtain ⟨u, hu, hvalid, hdirty, hmem, hdata⟩ := Chip.rcInstall_of_wayFor (h.resolve_left hnew) (s.fillNew x)
      (if x.r.skip = 0 then x.data else mergeMask (wide x.r.skip) x.data (s.memGranule x.r.loc)) x.r.cls
    refine ⟨u, (if_neg hnew).trans hu, hvalid, hdirty, hmem, ?_⟩
    rw [hdata]
    split
    · next hskip => rw [hskip, wide_zero, mergeMask_zero]
    · rfl

end

/-! ### Fills land (R198, R376, R377) -/

theorem FillDone.not_failed {x : FillDone} (h : x.rsp = .ok) : x.failed = false := by rw [FillDone.failed, h]; rfl

theorem rowCacheFill_waits {s : Chip} {id : Nat} {x : FillDone}
    (hx : s.ports.fills.find? (fun x => x.r.id == id && x.r.kind == .fill) = some x) (h : s.installFill x = none) :
    rowCacheFill id s = s := by
  simp only [rowCacheFill, hx, h]

theorem rowCacheFill_lands {s u : Chip} {id : Nat} {x : FillDone}
    (hx : s.ports.fills.find? (fun x => x.r.id == id && x.r.kind == .fill) = some x) (h : s.installFill x = some u) (ho : x.rsp = .ok) :
    rowCacheFill id s = (((u.dropFill id).landDests x.r).pinFor x.r.loc).pumpList ((x.r.dests.map (·.ctx)).eraseDups) := by
  simp only [rowCacheFill, hx, h, FillDone.not_failed ho, Bool.false_eq_true, if_false]

section
variable {s u : Chip} {c id : Nat} {x : FillDone}
  (hx : s.ports.fills.find? (fun x => x.r.id == id && x.r.ctx == some c &&
    (x.r.kind == .prefetchRc || x.r.kind == .prefetchStg || x.r.kind == .prefetchFill)) = some x)
include hx

theorem prefetchFillLand_waits (hk : x.r.kind ≠ .prefetchStg) (h : ¬ (s.fillNew x = 0 ∨ s.wayFor x.r.loc)) :
    prefetchFillLand c id s = s := by
  have hs : s.installFill x = none := Chip.installFill_waits h
  have hd : (s.dropStg c x.r).installFill x = none := Chip.installFill_waits (s := s.dropStg c x.r) h
  simp only [prefetchFillLand, hx]
  split
  · rfl
  · next hput =>
    split at hput
    · simp [hd] at hput
    · simp [hs] at hput

/-- The share of the detached work that a prefetch's fill was. -/
def Chip.shareEnds (c id : Nat) (x : FillDone) (s : Chip) : Chip :=
  ((s.dropFill id).groupEnd x.r.grp).pumpList ((c :: x.r.dests.map (fun (d : Dest) => d.ctx)).eraseDups)

variable (ho : x.rsp = .ok)
include ho

theorem prefetchFillLand_line (hk : x.r.kind ≠ .prefetchStg) (h : s.installFill x = some u) :
    prefetchFillLand c id s = ((u.landDests x.r).pinFor x.r.loc).shareEnds c id x := by
  simp only [prefetchFillLand, hx, FillDone.not_failed ho, Bool.false_eq_true, if_false, h, Option.map_some]
  rfl

theorem prefetchFillLand_staged (hk : x.r.kind = .prefetchStg) :
    prefetchFillLand c id s = (x.r.dests.foldl (fun u d => u.deliver d x.data) s).shareEnds c id x := by
  simp only [prefetchFillLand, hx, FillDone.not_failed ho, hk, Bool.false_eq_true, if_false]
  rfl

end

end Sys2Proof.Machine
end

section
/-! Combine segments and row update groups at the banks (R179, R277–R279, R282–R284). -/

namespace Sys2Proof.Machine

/-! ### Combine segments (R277–R279) -/

theorem Seg.sameRow_refl (g : Seg) : g.sameRow g = true := by simp [Seg.sameRow]

/-- A row that is ready has the segment itself ready. -/
theorem Chip.segReady_of_rowReady {s : Chip} {g : Seg} (hg : g ∈ s.segs) (h : s.rowReady g = true) : s.segReady g = true :=
  List.all_eq_true.mp h g (List.mem_filter.mpr ⟨hg, g.sameRow_refl⟩)

/-- The combine that a bank applies to the line of a segment, which is cached. -/
theorem Chip.applySeg_writes {s : Chip} {g : Seg} (h : s.wayFor g.loc) :
    ∃ u, s.applySeg g = some u ∧ u.segs = s.segs.filter (fun h => h.id != g.id) ∧
      s.writesLine g.loc g.part (granuleWrite (g.apply (fun j => s.viewByte false (g.loc + j))).1) u ∧
      u.lastPos g.run (g.loc / 64 + g.sector) = some g.pos := by
  rcases hw : g.apply (fun j => s.viewByte false (g.loc + j)) with ⟨ws, sat, nan⟩
  have hway : (s.dropSeg g.id).wayFor g.loc := h
  obtain ⟨u, hu, hwrote, hmem, hsegs⟩ := Chip.rcWrite_of_wayFor hway (granuleWrite ws).1
    (if (granuleWrite ws).2.2 = 0 then (granuleWrite ws).2.1 else mergeMask (granuleWrite ws).2.2 (granuleWrite ws).2.1 (s.viewGranule g.loc))
    g.part g.cls (!g.missed)
  refine ⟨(u.countCasts g.lead sat nan).notePos g.run (g.loc / 64 + g.sector) g.pos, ?_, hsegs, Chip.writesLine_of_wrote hwrote hmem, ?_⟩
  · rw [Chip.applySeg, hw]
    exact congrArg (Option.map _) hu
  · simp [Chip.lastPos, Chip.notePos]

section
variable {s : Chip} {id : Nat} {g : Seg} (hg : s.segs.find? (fun g => g.id == id) = some g)
include hg

theorem combineSegment_waits (ht : s.segTurn g = false) : combineSegment id s = s := by
  simp only [combineSegment, hg, ht, Bool.not_false, Bool.true_or, if_true]

variable (ht : s.segTurn g = true) (hn : g.grp = none)
include ht hn

theorem combineSegment_overtaken (hc : g.cmb = 0) (hs : s.stalePos g.run (g.loc / 64 + g.sector) g.pos = true)
    (hb : s.banking (.combine g.id) = false) : combineSegment id s = (s.dropSeg id).pumpAll := by
  simp [combineSegment, hg, ht, hn, hc, hs, hb]

variable (hc : g.cmb ≠ 0 ∨ s.stalePos g.run (g.loc / 64 + g.sector) g.pos = false)
include hc

theorem combineSegment_through (hl : s.cachedLoc g.loc = false) : combineSegment id s = s.combineThrough g := by
  have hnot : (g.cmb == 0 && s.stalePos g.run (g.loc / 64 + g.sector) g.pos) = false := by
    rcases hc with hc | hc <;> simp [hc]
  simp [combineSegment, hg, ht, hn, hnot, hl]

/-- The row ready and its bytes there, the segment is applied, counted as a hit where it had not missed. -/
theorem combineSegment_ready (hl : s.cachedLoc g.loc = true) (hr : s.rowReady g = true) :
    ∃ counted : Bool, ∀ u, (if counted then s.countRowSectors Reg.rcEmbhit 1 else s).applySeg g = some u → combineSegment id s = u.pumpAll := by
  have hnot : (g.cmb == 0 && s.stalePos g.run (g.loc / 64 + g.sector) g.pos) = false := by
    rcases hc with hc | hc <;> simp [hc]
  have hready := Chip.segReady_of_rowReady (List.mem_of_find?_eq_some hg) hr
  refine ⟨!g.missed && g.needs true != 0, fun u hu => ?_⟩
  simp only [combineSegment, hg, ht, hn, Option.isNone_none, Bool.and_true, hnot, hl, hready, hr, Bool.not_true, Bool.or_false, Bool.false_eq_true,
    if_false, hu]

theorem combineSegment_applies (hl : s.cachedLoc g.loc = true) (hr : s.rowReady g = true) (hw : s.wayFor g.loc) :
    ∃ u : Chip, combineSegment id s = u.pumpAll ∧ u.segs = s.segs.filter (fun h => h.id != g.id) ∧
      s.writesLine g.loc g.part (granuleWrite (g.apply (fun j => s.viewByte false (g.loc + j))).1) u ∧
      u.lastPos g.run (g.loc / 64 + g.sector) = some g.pos := by
  obtain ⟨counted, heq⟩ := combineSegment_ready hg ht hn hc hl hr
  cases counted
  · obtain ⟨u, hu, hspec⟩ := Chip.applySeg_writes hw
    exact ⟨u, heq u hu, hspec⟩
  · obtain ⟨u, hu, hspec⟩ := Chip.applySeg_writes (s := s.countRowSectors Reg.rcEmbhit 1) hw
    exact ⟨u, heq u hu, hspec⟩

end

/-! ### Pins (R284) -/

/-- `t` is `s` with lines pinned for groups. -/
structure Chip.PinnedFrom (s t : Chip) : Prop where
  rest   : t = { s with groups := t.groups, rc := t.rc }
  line   : ∀ l, ∃ p, t.lineAt l = { s.lineAt l with pinned := p } ∧ ((s.lineAt l).pinned = true → p = true)
  groups : ∃ f : RowGroup → RowGroup, t.groups = s.groups.map f ∧ ∀ g, ∃ p, f g = { g with pins := p }

theorem Chip.PinnedFrom.refl (s : Chip) : s.PinnedFrom s :=
  ⟨rfl, fun l => ⟨(s.lineAt l).pinned, rfl, id⟩, id, (List.map_id _).symm, fun g => ⟨g.pins, rfl⟩⟩

theorem Chip.PinnedFrom.trans {s t u : Chip} (a : s.PinnedFrom t) (b : t.PinnedFrom u) : s.PinnedFrom u where
  rest := by rw [b.rest, a.rest]
  line l := by
    obtain ⟨p, hp, hpp⟩ := a.line l
    obtain ⟨q, hq, hqq⟩ := b.line l
    rw [hp] at hq hqq
    exact ⟨q, hq, fun h => hqq (hpp h)⟩
  groups := by
    obtain ⟨f, hf, hff⟩ := a.groups
    obtain ⟨k, hk, hkk⟩ := b.groups
    refine ⟨k ∘ f, by rw [hk, hf, List.map_map], fun g => ?_⟩
    obtain ⟨p, hp⟩ := hff g
    obtain ⟨q, hq⟩ := hkk (f g)
    exact ⟨q, by rw [Function.comp, hq, hp]⟩

/-- The group waits for its lines, which hold the row's sectors in `line`: the line is pinned as it becomes present. -/
def Chip.pinsLine (s : Chip) (line : Nat) (g : RowGroup) : Bool :=
  g.entered.isNone && g.failed.isNone && g.lines.contains line && s.groupTurn g && g.sectors line &&& ~~~(s.lineAt line).valid == 0

theorem Chip.groupTurn_eq (s : Chip) (g : RowGroup) :
    s.groupTurn g = (s.groups.find? (fun h => h.hdr == g.hdr)).any (fun h => h.id == g.id) := by
  unfold Chip.groupTurn
  split
  · next hk => rw [hk]; rfl
  · next hk => rw [hk]; rfl

theorem Chip.pinFor_eq (s : Chip) (line : Nat) :
    s.pinFor line = if s.groups.any (s.pinsLine line) then
        ({ s with groups := s.groups.map (fun g => if s.pinsLine line g && !g.pins.contains line then { g with pins := line :: g.pins } else g) }).updLine
          line (fun l => { l with pinned := true })
      else s := rfl

theorem Chip.pinFor_pinned {s : Chip} {line : Nat} {g : RowGroup} (hg : g ∈ s.groups) (h : s.pinsLine line g = true) :
    ((s.pinFor line).lineAt line).pinned = true := by
  rw [Chip.pinFor_eq, if_pos (List.any_eq_true.mpr ⟨g, hg, h⟩), Chip.lineAt_updLine_self]

theorem Chip.pinFor_from (s : Chip) (line : Nat) : s.PinnedFrom (s.pinFor line) := by
  rw [Chip.pinFor_eq]
  split
  · refine ⟨rfl, fun l => ?_, _, rfl, fun g => ?_⟩
    · rw [Chip.lineAt_updLine]
      split
      · next hl => exact ⟨true, by rw [hl]; rfl, fun _ => rfl⟩
      · exact ⟨(s.lineAt l).pinned, rfl, id⟩
    · split
      · exact ⟨_, rfl⟩
      · exact ⟨g.pins, rfl⟩
  · exact .refl s

section
variable {s t : Chip} (h : s.PinnedFrom t)
include h

theorem Chip.PinnedFrom.mem_groups {g : RowGroup} (hg : g ∈ s.groups) : ∃ p, { g with pins := p } ∈ t.groups := by
  obtain ⟨f, hf, hff⟩ := h.groups
  obtain ⟨p, hp⟩ := hff g
  exact ⟨p, by rw [hf, ← hp]; exact List.mem_map_of_mem hg⟩

theorem Chip.PinnedFrom.groupTurn (g : RowGroup) : t.groupTurn g = s.groupTurn g := by
  obtain ⟨f, hf, hff⟩ := h.groups
  have hhdr : (fun h : RowGroup => h.hdr == g.hdr) ∘ f = fun h => h.hdr == g.hdr := funext fun k => by
    obtain ⟨p, hp⟩ := hff k
    rw [Function.comp, hp]
  have hid : (fun k : RowGroup => (f k).id == g.id) = fun h => h.id == g.id := funext fun k => by
    obtain ⟨p, hp⟩ := hff k
    rw [hp]
  rw [Chip.groupTurn_eq, Chip.groupTurn_eq, hf, List.find?_map, hhdr, Option.any_map, hid]

theorem Chip.PinnedFrom.valid (l : Nat) : (t.lineAt l).valid = (s.lineAt l).valid := by
  obtain ⟨p, hp, _⟩ := h.line l
  rw [hp]

theorem Chip.PinnedFrom.viewByte (vol : Bool) (loc : Nat) : t.viewByte vol loc = s.viewByte vol loc := by
  obtain ⟨p, hp, _⟩ := h.line (granuleOf loc)
  have hmem : t.memByte loc = s.memByte loc := by rw [h.rest]; rfl
  rw [Chip.viewByte, Chip.viewByte, hp, hmem]
  rfl

theorem Chip.PinnedFrom.groupLacks (g : RowGroup) (l : Nat) : t.groupLacks g l = s.groupLacks g l := by
  have hcached : t.cachedLoc l = s.cachedLoc l := by rw [h.rest]; rfl
  rw [Chip.groupLacks, Chip.groupLacks, hcached, h.valid]

theorem Chip.PinnedFrom.pinsLine (g : RowGroup) (l : Nat) : t.pinsLine l g = s.pinsLine l g := by
  rw [Chip.pinsLine, Chip.pinsLine, h.groupTurn, h.valid]

end

/-- Pinning for every line of a list pins those that a group waits for. -/
theorem Chip.pinAll (ls : List Nat) (s : Chip) (g : RowGroup) (hg : g ∈ s.groups) :
    s.PinnedFrom (ls.foldl (fun s l => s.pinFor l) s) ∧
      ∀ l, (l ∈ ls ∧ s.pinsLine l g = true) ∨ (s.lineAt l).pinned = true → ((ls.foldl (fun s l => s.pinFor l) s).lineAt l).pinned = true := by
  induction ls generalizing s g with
  | nil => exact ⟨.refl s, fun l h => h.resolve_left fun hl => List.not_mem_nil hl.1⟩
  | cons k ls ih =>
    have hk := s.pinFor_from k
    obtain ⟨p, hp⟩ := hk.mem_groups hg
    obtain ⟨hfrom, hpins⟩ := ih (s.pinFor k) { g with pins := p } hp
    refine ⟨hk.trans hfrom, fun l h => hpins l ?_⟩
    rcases h with ⟨hl, hw⟩ | hl
    · rcases List.mem_cons.mp hl with rfl | hl
      · exact .inr (Chip.pinFor_pinned hg hw)
      · exact .inl ⟨hl, (hk.pinsLine { g with pins := p } l).trans hw⟩
    · obtain ⟨q, hq, hqq⟩ := hk.line l
      exact .inr (by rw [hq]; exact hqq hl)

/-! ### ENTER and EXIT (R282–R284) -/

theorem Chip.putBytesAt_eq (s : Chip) (line part cls : Nat) (bs : List (Nat × Byte × Byte)) :
    s.putBytesAt line part cls bs = s.rcWrite line (locWrite bs).1
      (if (locWrite bs).2.2 = 0 then (locWrite bs).2.1 else mergeMask (locWrite bs).2.2 (locWrite bs).2.1 (s.viewGranule line)) part cls false := rfl

theorem Chip.putBytesAt_of_wayFor {s : Chip} {line : Nat} (h : s.wayFor line) (part cls : Nat) (bs : List (Nat × Byte × Byte)) :
    ∃ u, s.putBytesAt line part cls bs = some u ∧ s.writesLine line part (locWrite bs) u := by
  obtain ⟨u, hu, hwrote, hmem, _⟩ := Chip.rcWrite_of_wayFor h (locWrite bs).1
    (if (locWrite bs).2.2 = 0 then (locWrite bs).2.1 else mergeMask (locWrite bs).2.2 (locWrite bs).2.1 (s.viewGranule line)) part cls false
  exact ⟨u, (s.putBytesAt_eq ..).trans hu, Chip.writesLine_of_wrote hwrote hmem⟩

/-- A write of a line that is there, once lines have been pinned. -/
theorem Chip.putBytesAt_pinned {s t : Chip} (h : s.PinnedFrom t) {line : Nat} (hh : (s.lineAt line).here = true)
    (he : (s.lineAt line).evict = false) (part cls : Nat) (bs : List (Nat × Byte × Byte)) :
    ∃ u, t.putBytesAt line part cls bs = some u ∧ s.writesLine line part (locWrite bs) u ∧ u.segs = s.segs ∧
      ∀ l, (u.lineAt l).pinned = (t.lineAt l).pinned := by
  obtain ⟨p, hp, _⟩ := h.line line
  have hview : t.viewGranule line = s.viewGranule line := by simp only [Chip.viewGranule, h.viewByte]
  have hmem : t.mem = s.mem := by rw [h.rest]
  have hsegs : t.segs = s.segs := by rw [h.rest]
  have hroom := Chip.rcRoom_here (s := t) (g := line) (by rw [hp]; exact hh) (by rw [hp]; exact he) cls
  let d := if (locWrite bs).2.2 = 0 then (locWrite bs).2.1 else mergeMask (locWrite bs).2.2 (locWrite bs).2.1 (s.viewGranule line)
  have hwrote := t.putLine_wrote line (locWrite bs).1 d part cls false
  rw [hp] at hwrote
  refine ⟨t.putLine line (locWrite bs).1 d part cls false, ?_, Chip.writesLine_of_wrote hwrote hmem, hsegs,
    t.putLine_pinned line (locWrite bs).1 d part cls false⟩
  rw [Chip.putBytesAt_eq, Chip.rcWrite_eq, hroom, hview]
  rfl

section
variable {s : Chip} {id : Nat} {g : RowGroup} (hg : s.groupAt id = some g)
include hg

section
variable (ht : s.groupTurn g = true) (he : g.entered = none) (hf : g.failed = none)
include ht he hf

theorem rowUpdateEnter_overtaken (hs : s.stalePos g.run g.hdr g.pos = true) : rowUpdateEnter id s = s.dropGroup g := by
  simp [rowUpdateEnter, hg, ht, he, hf, hs]

theorem rowUpdateEnter_due (hs : s.stalePos g.run g.hdr g.pos = false) :
    let t := (g.lines.filter s.cachedLoc).foldl (fun s l => s.pinFor l) s
    (∀ l ∈ g.lines, t.groupLacks g l = 0) → t.cachedLoc g.hdr = true → ∀ u,
      t.putBytesAt (granuleOf g.hdr) g.part g.cls (versionBytes g.hdr (enterVersion (t.rowVersion g))) = some u →
      rowUpdateEnter id s = u.entered g (enterVersion (t.rowVersion g)) := by
  intro t hlack hcached u hu
  have hempty : g.lines.filter (fun l => t.groupLacks g l != 0) = [] := List.filter_eq_nil_iff.mpr fun l hl => by simp [hlack l hl]
  simp only [t] at hempty hcached hu
  simp only [rowUpdateEnter, hg, ht, he, hf, hs, hempty, hcached, hu, t, Option.isSome_none, List.isEmpty_nil, Bool.not_true,
    Bool.true_eq_false, Bool.false_eq_true, or_self, if_false]

theorem rowUpdateEnter_enters (hs : s.stalePos g.run g.hdr g.pos = false) (hc : s.cachedLoc g.hdr = true)
    (hl : ∀ l ∈ g.lines, s.groupLacks g l = 0) (hh : (s.lineAt (granuleOf g.hdr)).here = true)
    (hev : (s.lineAt (granuleOf g.hdr)).evict = false) :
    ∃ u : Chip, rowUpdateEnter id s = u.entered g (enterVersion (s.rowVersion g)) ∧
      s.writesLine (granuleOf g.hdr) g.part (locWrite (versionBytes g.hdr (enterVersion (s.rowVersion g)))) u ∧
      (∀ l ∈ g.lines, s.cachedLoc l = true → (u.lineAt l).pinned = true) ∧ u.segs = s.segs := by
  obtain ⟨hfrom, hpins⟩ := Chip.pinAll (g.lines.filter s.cachedLoc) s g (List.mem_of_find?_eq_some hg)
  have hdue := rowUpdateEnter_due hg ht he hf hs
  dsimp only at hdue
  generalize (g.lines.filter s.cachedLoc).foldl (fun s l => s.pinFor l) s = t at hfrom hpins hdue
  have hver : t.rowVersion g = s.rowVersion g := by simp only [Chip.rowVersion, hfrom.viewByte]
  have hcached : t.cachedLoc g.hdr = true := by rw [hfrom.rest]; exact hc
  obtain ⟨u, hu, hwrites, hsegs, hpinned⟩ := Chip.putBytesAt_pinned hfrom hh hev g.part g.cls (versionBytes g.hdr (enterVersion (s.rowVersion g)))
  rw [hver] at hdue
  refine ⟨u, hdue (fun l hin => (hfrom.groupLacks g l).trans (hl l hin)) hcached u hu, hwrites, fun l hin hlc => ?_, hsegs⟩
  have hsec : g.sectors l &&& ~~~(s.lineAt l).valid = 0 := by
    have := hl l hin
    rwa [Chip.groupLacks, if_pos hlc] at this
  rw [hpinned]
  refine hpins l (.inl ⟨List.mem_filter.mpr ⟨hin, hlc⟩, ?_⟩)
  simp [Chip.pinsLine, he, hf, hin, ht, hsec]

end

section
variable {v : Nat} (he : g.entered = some v) (hs : ∀ h ∈ s.segs, h.grp ≠ some id) (hb : s.banking (.header id) = false)
include he hs hb

/-- The bytes that EXIT writes: those of the header's sector, with the even VERSION. -/
def RowGroup.exitBytes (g : RowGroup) (v : Nat) : List (Nat × Byte × Byte) :=
  g.bytes.filter (fun q => q.1 / 64 == g.hdr / 64) ++ versionBytes g.hdr ((v + 1) % 65536)

theorem rowUpdateExit_through (hc : s.cachedLoc g.hdr = false) : rowUpdateExit id s = s.headerWrite g 1 (g.exitBytes v) := by
  have hsegs : s.segs.any (fun h => h.grp == some id) = false := by simpa using hs
  simp only [rowUpdateExit, hg, he, hsegs, hb, hc, Bool.or_self, Bool.false_eq_true, Bool.not_false, if_false, if_true]
  rfl

theorem rowUpdateExit_writes (hc : s.cachedLoc g.hdr = true) (hw : s.wayFor (granuleOf g.hdr)) :
    ∃ u : Chip, rowUpdateExit id s = u.dropGroup g ∧ s.writesLine (granuleOf g.hdr) g.part (locWrite (g.exitBytes v)) u := by
  have hsegs : s.segs.any (fun h => h.grp == some id) = false := by simpa using hs
  obtain ⟨u, hu, hwrites⟩ := Chip.putBytesAt_of_wayFor hw g.part g.cls (g.exitBytes v)
  refine ⟨u, ?_, hwrites⟩
  rw [RowGroup.exitBytes] at hu
  simp only [rowUpdateExit, hg, he, hsegs, hb, hc, hu, Bool.or_self, Bool.false_eq_true, Bool.not_true, if_false]

end

/-- The report of a group that is abandoned. -/
def RowGroup.abandoned (g : RowGroup) (rep : Report) : Report := { rep with unit := Config.rcBank (granuleOf g.hdr) % 64, part := some g.part }

section
variable {rep : Report} (hf : g.failed = some rep)
include hf

theorem rowUpdateAbandon_over (h : (s.dropGroup g).liveRun g.ctx g.run = none) :
    rowUpdateAbandon id s = (s.dropGroup g).report (g.abandoned rep) := by
  simp only [rowUpdateAbandon, hg, hf, h]
  rfl

theorem rowUpdateAbandon_ends {c : Nat} (h : (s.dropGroup g).liveRun g.ctx g.run = some c) :
    rowUpdateAbandon id s = ((s.dropGroup g).updCtx c (fun x => { x with ended := true, faddr := x.ip })).report
      { g.abandoned rep with
        ctx := some c, ends := true, iaddr := ((s.dropGroup g).ctxAt c).iword.map (fun w => (((s.dropGroup g).ctxAt c).ip, w)) } := by
  simp only [rowUpdateAbandon, hg, hf, h]
  rfl

end

end

/-- Settles O28: fills, combine segments and row updates at the row cache. -/
theorem rowCacheUpdates : Obligations.RowCacheUpdates := by
  refine ⟨fun s id c x => ⟨fun hx => ⟨fun hr => ?_, fun hr ho => ?_⟩, fun hx => ⟨fun hk hr => ?_, fun hk hr ho => ?_, fun hk ho => ?_⟩⟩,
    fun s id g hg => ⟨fun ht => ?_, fun ht hn => ⟨fun hc hs hb => ?_, fun hc => ⟨fun hl => ?_, fun hl hr hw => ?_⟩⟩⟩,
    fun s id g hg => ⟨fun ht he hf hs hc hl hh hev => ?_, fun ht he hf hs => ?_, fun v he hs hb => ⟨fun hc => ?_, fun hc hw => ?_⟩,
      fun rep hf => ⟨fun h => ?_, fun c h => ?_⟩⟩⟩
  · exact next_to (rowCacheFill_waits hx (Chip.installFill_waits hr))
  · obtain ⟨u, hu, hfills⟩ := Chip.installFill_fills hr
    exact ⟨u, hfills, next_to (rowCacheFill_lands hx hu ho)⟩
  · exact next_to (prefetchFillLand_waits hx hk hr)
  · obtain ⟨u, hu, hfills⟩ := Chip.installFill_fills hr
    exact ⟨u, hfills, next_to (prefetchFillLand_line hx ho hk hu)⟩
  · exact next_to (prefetchFillLand_staged hx ho hk)
  · exact next_to (combineSegment_waits hg ht)
  · exact next_to (combineSegment_overtaken hg ht hn hc hs hb)
  · exact next_to (combineSegment_through hg ht hn hc hl)
  · obtain ⟨u, hu, hspec⟩ := combineSegment_applies hg ht hn hc hl hr hw
    exact ⟨u, next_to hu, hspec⟩
  · obtain ⟨u, hu, hspec⟩ := rowUpdateEnter_enters hg ht he hf hs hc hl hh hev
    exact ⟨u, next_to hu, hspec⟩
  · exact next_to (rowUpdateEnter_overtaken hg ht he hf hs)
  · exact next_to (rowUpdateExit_through hg he hs hb hc)
  · obtain ⟨u, hu, hwrites⟩ := rowUpdateExit_writes hg he hs hb hc hw
    exact ⟨u, next_to hu, hwrites⟩
  · exact next_to (rowUpdateAbandon_over hg hf h)
  · exact next_to (rowUpdateAbandon_ends hg hf h)

end Sys2Proof.Machine
end

section
/-! The commands of CTX_CMD and their ends (R48–R52, R54, R69–R72, R74, R312, R483, R485). -/

namespace Sys2Proof.Machine

/-! ### What a command of a context does -/

section
variable {s : Chip} {c : Nat} (hs : s.takesWrites) (hc : c < s.accepted.build.nctx)
include hs hc

theorem Chip.command_runs {ok : Ctx → Bool} (body : Chip → Chip) (hb : (s.accepted.ctxAt c).busy = none) (hcov : s.accepted.ctxCovered c = false)
    (hok : ok (s.accepted.ctxAt c) = true) : Chip.command c ok body s = body s.accepted := by
  rw [Chip.command, Chip.accept_takes hs, if_neg (Nat.not_le.mpr hc)]
  exact if_neg (by simp [hb, hcov, hok])

theorem Chip.command_refused (ok : Ctx → Bool) (body : Chip → Chip)
    (h : (s.accepted.ctxAt c).busy.isSome = true ∨ s.accepted.ctxCovered c = true) :
    Chip.command c ok body s = s.accepted.refuse Src.ctxcmd := by
  rw [Chip.command, Chip.accept_takes hs, if_neg (Nat.not_le.mpr hc)]
  exact if_pos (by rcases h with h | h <;> simp [h])

theorem abort_eq :
    abort c s = if s.accepted.ctxCovered c then s.accepted.refuse Src.ctxcmd
      else if (s.accepted.ctxAt c).busy.isSome then (s.accepted.updCtx c (fun x => { x with abortReq := true })).ctxOk c
      else if (s.accepted.ctxAt c).st.abortable then (s.accepted.hostAbort c).ctxOk c
      else s.accepted.refuse Src.ctxcmd := by
  rw [abort, Chip.accept_takes hs, if_neg (Nat.not_le.mpr hc)]

end

theorem Chip.ctxAt_ctxOk (s : Chip) (c : Nat) : (s.ctxOk c).ctxAt c = { s.ctxAt c with cmderr := false } :=
  Chip.ctxAt_updCtx_self (s := s) c (fun x => { x with cmderr := false })

/-! ### BIND (R52) -/

/-- What BIND becomes with what its check says. -/
def Chip.bindAs (c : Nat) (r : Except Nat (Nat × Nat)) (s : Chip) : Chip :=
  match r with
  | .error code => s.refuse code
  | .ok (m, w) => ((s.takeSlot c m w).updCtx c (fun x => { x with busy := some .bind })).ctxOk c

/-- A mover and the rest of its gang can take a context: none of them failed its test, nor a shared array. -/
def Chip.tested (s : Chip) (ms : List Nat) : Prop := s.sharedFailed = false ∧ ∀ n ∈ ms, s.movFailed n = false

theorem Chip.tested_iff (s : Chip) (ms : List Nat) : s.tested ms ↔ (ms.any s.movFailed || s.sharedFailed) = false := by
  simp [Chip.tested, and_comm]

theorem freeSlots_isEmpty (mv : Mover) : (freeSlots mv).isEmpty = true ↔ ¬ ∃ k, k < 8 ∧ Tab.get none mv.slots k = none := by
  simp [freeSlots, List.isEmpty_iff]

section
variable {s : Chip} {c : Nat}

theorem Chip.bindCheck_targetless (h : s.bindMovers c = none) : s.bindCheck c = .error Src.bindtgt := by rw [Chip.bindCheck, h]

variable {m : Nat} {ms : List Nat} (hm : s.bindMovers c = some (m :: ms))
include hm

/-- The checks of BIND in order. -/
theorem Chip.bindCheck_eq :
    s.bindCheck c =
      if (m :: ms).any s.movFailed || s.sharedFailed then .error Src.bindtgt
      else if s.movPart m ≠ s.ctxPart c then .error Src.xpart
      else if s.movCovered m then .error Src.ctxcmd
      else if (freeSlots (s.movAt m)).isEmpty then .error Src.noslot
      else if !bitB (s.reg (Reg.ctx c 0x18)) 0 then .error Src.nosave
      else if 2 ^ s.ctxSavew c < ms.length + 1 then .error Src.savesz
      else .ok (m, ms.length + 1) := by
  rw [Chip.bindCheck, hm]
  rfl

theorem Chip.bindCheck_untested (h : ¬ s.tested (m :: ms)) : s.bindCheck c = .error Src.bindtgt :=
  (Chip.bindCheck_eq hm).trans (if_pos (Bool.not_eq_false _ ▸ mt (s.tested_iff (m :: ms)).mpr h))

variable (ht : s.tested (m :: ms))
include ht

theorem Chip.bindCheck_foreign (h : ¬ s.movPart m = s.ctxPart c) : s.bindCheck c = .error Src.xpart := by
  rw [Chip.bindCheck_eq hm, (s.tested_iff _).mp ht, if_neg Bool.false_ne_true, if_pos h]

variable (hp : s.movPart m = s.ctxPart c)
include hp

theorem Chip.bindCheck_covered (h : s.movCovered m = true) : s.bindCheck c = .error Src.ctxcmd := by
  rw [Chip.bindCheck_eq hm, (s.tested_iff _).mp ht, h, if_neg Bool.false_ne_true, if_neg fun hne => hne hp, if_pos rfl]

variable (hv : s.movCovered m = false)
include hv

/-- Where the target can take the context, what is left is its slot and the save area. -/
theorem Chip.bindCheck_target :
    s.bindCheck c =
      if (freeSlots (s.movAt m)).isEmpty then .error Src.noslot
      else if !bitB (s.reg (Reg.ctx c 0x18)) 0 then .error Src.nosave
      else if 2 ^ s.ctxSavew c < ms.length + 1 then .error Src.savesz
      else .ok (m, ms.length + 1) := by
  rw [Chip.bindCheck_eq hm, (s.tested_iff _).mp ht, hv, if_neg Bool.false_ne_true, if_neg fun hne => hne hp, if_neg Bool.false_ne_true]

end

section
variable {s : Chip} {c : Nat} (hs : s.takesWrites) (hc : c < s.accepted.build.nctx) (hb : (s.accepted.ctxAt c).busy = none)
  (hcov : s.accepted.ctxCovered c = false)
include hs hc hb hcov

theorem bind_runs (hst : (s.accepted.ctxAt c).st = .idle ∨ ((s.accepted.ctxAt c).st = .faulted ∧ (s.accepted.ctxAt c).slotOf = none)) :
    bind c s = s.accepted.bindAs c (s.accepted.bindCheck c) :=
  Chip.command_runs hs hc _ hb hcov (by rcases hst with h | ⟨h, h'⟩ <;> simp [*])

theorem unbind_runs (hst : (s.accepted.ctxAt c).st = .bound ∨ ((s.accepted.ctxAt c).st = .faulted ∧ (s.accepted.ctxAt c).slotOf.isSome = true)) :
    unbind c s = (s.accepted.updCtx c (fun x => { x with busy := some .unbind })).ctxOk c :=
  Chip.command_runs hs hc _ hb hcov (by rcases hst with h | ⟨h, h'⟩ <;> simp [*])

theorem start_runs (hst : (s.accepted.ctxAt c).st = .bound) (hg : s.ctxGuest c = false) :
    start c s = ((s.accepted.updCtx c (fun x =>
      { x with exit := 0, fclass := 0, fcode := 0, ended := false, progress := s.accepted.time, promoted := false })).setSt c .ready none).ctxOk c :=
  Chip.command_runs hs hc _ hb hcov (by simp [hst, hg])

/-- A STOP that waits until the context comes between two instructions. -/
def Chip.stopLater (c : Nat) (s : Chip) : Chip := (s.updCtx c (fun x => { x with stopReq := true })).ctxOk c

theorem stop_unwaiting (hst : (s.accepted.ctxAt c).st = .ready) (hw : (s.accepted.ctxAt c).wait = none) (hg : s.ctxGuest c = false) :
    stop c s = s.accepted.stopLater c :=
  (Chip.command_runs hs hc _ hb hcov (by simp [hst, hg])).trans (by simp only [hw]; rfl)

section
variable (hst : (s.accepted.ctxAt c).st = .waiting) (hg : s.ctxGuest c = false) {w : WaitCause} (hw : (s.accepted.ctxAt c).wait = some w)
include hst hg hw

theorem stop_later (hn : w.stopsAtOnce = false) : stop c s = s.accepted.stopLater c :=
  (Chip.command_runs hs hc _ hb hcov (by simp [hst, hg])).trans (by simp only [hw, hn]; rfl)

theorem stop_now (hn : w.stopsAtOnce = true) (he : (s.accepted.ctxAt c).ended = false)
    (hr : ∀ t, (s.accepted.ctxAt c).xfer = some t → t.resumed = false) :
    stop c s = ((s.accepted.disown c).stopNow c).ctxOk c := by
  refine (Chip.command_runs hs hc _ hb hcov (by simp [hst, hg])).trans ?_
  rcases hx : (s.accepted.ctxAt c).xfer with _ | t
  · simp only [hw, hn, he, hx]
    rfl
  · simp only [hw, hn, he, hx, hr t hx]
    rfl

end

section
variable (hst : (s.accepted.ctxAt c).st = .faulted) (hslot : (s.accepted.ctxAt c).slotOf.isSome = true)
include hst hslot

theorem resume_resized (h : (s.accepted.ctxAt c).size ≠ (s.accepted.ctxAt c).faultSize) : resume c s = s.accepted.refuse Src.savesz :=
  (Chip.command_runs hs hc _ hb hcov (by simp [hst, hslot])).trans (if_pos h)

theorem resume_access (h : (s.accepted.ctxAt c).size = (s.accepted.ctxAt c).faultSize) (hx : (s.accepted.ctxAt c).xfer = none) :
    resume c s = ((s.accepted.ctxOk c).updCtx c (fun x => { x with halt := none, progress := s.accepted.time })).setSt c .ready none := by
  have hx' : ((s.accepted.ctxOk c).ctxAt c).xfer = none := (congrArg Ctx.xfer (Chip.ctxAt_ctxOk ..)).trans hx
  refine (Chip.command_runs hs hc _ hb hcov (by simp [hst, hslot])).trans ?_
  simp only [h, hx, ne_eq, not_true_eq_false, if_false, Option.isSome_none, Bool.false_eq_true]
  exact congrArg (fun t => Chip.setSt c .ready none t) (Chip.updCtx_congr (by rw [hx']; rfl))

theorem resume_transfer (h : (s.accepted.ctxAt c).size = (s.accepted.ctxAt c).faultSize) {t : Xfer} (hx : (s.accepted.ctxAt c).xfer = some t) :
    resume c s = ((s.accepted.ctxOk c).updCtx c (fun x =>
      { x with halt := none, progress := s.accepted.time, xfer := some { t with halt := none, resumed := true } })).resumeTransfer c := by
  have hx' : ((s.accepted.ctxOk c).ctxAt c).xfer = some t := (congrArg Ctx.xfer (Chip.ctxAt_ctxOk ..)).trans hx
  refine (Chip.command_runs hs hc _ hb hcov (by simp [hst, hslot])).trans ?_
  simp only [h, hx, ne_eq, not_true_eq_false, if_false, Option.isSome_some, if_true]
  exact congrArg (fun t => Chip.resumeTransfer c t) (Chip.updCtx_congr (by rw [hx']; rfl))

end

theorem abort_now (hst : (s.accepted.ctxAt c).st.abortable = true) : abort c s = (s.accepted.hostAbort c).ctxOk c := by
  rw [abort_eq hs hc, hcov, hb, hst]
  rfl

theorem clear_runs (hst : (s.accepted.ctxAt c).st = .aborted) : clear c s = (s.accepted.setSt c .idle none).ctxOk c :=
  Chip.command_runs hs hc _ hb hcov (by simp [hst])

end

/-! ### Register images (R70, R72, R312) -/

/-- The request that moves the `k`-th 256 bytes of an image. -/
def Chip.imageReq (c : Nat) (write : Bool) (bs : List Byte) (s : Chip) (k : Nat) (p : Place) : PortReq :=
  { id := 0, kind := .image, write := write, lane := p.lane, loc := granuleOf p.loc, mask := BitVec.allOnes 256,
    data := if write then granuleBytes 0 ((bs.drop (256 * k)).take 256) else 0, va := 256 * k, ctx := some c,
    part := some (s.ctxPart c), cls := s.ctxClass c, req := 64 }

/-- The block with the next request of an image at its arbiter. -/
def Chip.imageStep (c : Nat) (write : Bool) (bs : List Byte) (o : Option Chip) (k : Nat) : Option Chip :=
  o.bind (fun s => (s.decodePA (s.ctxSaveBase c + 256 * k)).map (fun p => s.enq (s.imageReq c write bs k p)))

theorem Chip.imageReqs_eq (c : Nat) (write : Bool) (bs : List Byte) (s : Chip) :
    s.imageReqs c write bs = (List.range 18).foldl (Chip.imageStep c write bs) (some s) := rfl

/-- Requests of an image in a queue: they carry the numbers from `uid` on. -/
def Chip.imageQueue (c : Nat) (write : Bool) (bs : List Byte) (s : Chip) : Nat → List (Nat × Place) → List PortReq
  | _, [] => []
  | uid, (k, p) :: r => { s.imageReq c write bs k p with id := uid } :: s.imageQueue c write bs (uid + 1) r

/-- The block with requests of an image at their arbiters. -/
def Chip.withImage (c : Nat) (write : Bool) (bs : List Byte) (ps : List (Nat × Place)) (s : Chip) : Chip :=
  { s with uid := s.uid + ps.length, ports := { s.ports with queue := s.ports.queue ++ s.imageQueue c write bs s.uid ps } }

section
variable {c : Nat} {write : Bool} {bs : List Byte}

theorem Chip.imageQueue_enq (s : Chip) (r : PortReq) (h : r.workOf = none) (uid : Nat) (ps : List (Nat × Place)) :
    (s.enq r).imageQueue c write bs uid ps = s.imageQueue c write bs uid ps := by
  induction ps generalizing uid with
  | nil => rfl
  | cons p ps ih =>
    rw [Chip.imageQueue, Chip.imageQueue, ih]
    rw [Chip.enq, Chip.progressOf, h]
    rfl

theorem Chip.imageSteps_none (ks : List Nat) : ks.foldl (Chip.imageStep c write bs) none = none :=
  List.foldlRecOn ks _ rfl (motive := fun o => o = none) (fun o ho _ _ => by rw [ho]; rfl)

theorem Chip.imageSteps_some (s : Chip) (ps : List (Nat × Place)) (h : ∀ q ∈ ps, s.decodePA (s.ctxSaveBase c + 256 * q.1) = some q.2) :
    (ps.map Prod.fst).foldl (Chip.imageStep c write bs) (some s) = some (s.withImage c write bs ps) := by
  induction ps generalizing s with
  | nil => simp [Chip.withImage, Chip.imageQueue]
  | cons q ps ih =>
    have hq := h q List.mem_cons_self
    let t := s.enq (s.imageReq c write bs q.1 q.2)
    have hstep : Chip.imageStep c write bs (some s) q.1 = some t := by rw [Chip.imageStep, Option.bind_some, hq]; rfl
    have hqueue : t.imageQueue c write bs (s.uid + 1) ps = s.imageQueue c write bs (s.uid + 1) ps := Chip.imageQueue_enq s _ rfl _ _
    rw [List.map_cons, List.foldl_cons, hstep, ih t fun r hr => h r (List.mem_cons_of_mem _ hr)]
    refine congrArg some ?_
    show { t with uid := s.uid + 1 + ps.length, ports := { t.ports with queue := t.ports.queue ++ t.imageQueue c write bs (s.uid + 1) ps } } = _
    rw [hqueue, Chip.withImage, List.length_cons, Chip.imageQueue, show s.uid + (ps.length + 1) = s.uid + 1 + ps.length by omega]
    show ({ s with uid := _, ports := { s.ports with queue := (s.ports.queue ++ [_]) ++ _ } } : Chip) = _
    rw [List.append_assoc]
    rfl

theorem Chip.imageSteps_lost (s : Chip) (ks : List Nat) (h : ∃ k ∈ ks, s.decodePA (s.ctxSaveBase c + 256 * k) = none) :
    ks.foldl (Chip.imageStep c write bs) (some s) = none := by
  induction ks generalizing s with
  | nil => exact absurd h (by simp)
  | cons k ks ih =>
    rw [List.foldl_cons]
    rcases hk : s.decodePA (s.ctxSaveBase c + 256 * k) with _ | p
    · have hstep : Chip.imageStep c write bs (some s) k = none := by rw [Chip.imageStep, Option.bind_some, hk]; rfl
      rw [hstep, Chip.imageSteps_none]
    · have hstep : Chip.imageStep c write bs (some s) k = some (s.enq (s.imageReq c write bs k p)) := by
        rw [Chip.imageStep, Option.bind_some, hk]
        rfl
      obtain ⟨j, hj, hnone⟩ := h
      rcases List.mem_cons.mp hj with rfl | hj
      · exact nomatch hk.symm.trans hnone
      · rw [hstep]
        exact ih _ ⟨j, hj, hnone⟩

theorem Chip.imageQueue_getElem (s : Chip) (uid : Nat) (ps : List (Nat × Place)) (j : Nat) (h : j < ps.length) :
    (s.imageQueue c write bs uid ps)[j]? = some { s.imageReq c write bs ps[j].1 ps[j].2 with id := uid + j } := by
  induction ps generalizing uid j with
  | nil => exact absurd h (Nat.not_lt_zero _)
  | cons p ps ih =>
    cases j with
    | zero => rfl
    | succ j =>
      rw [Chip.imageQueue, List.getElem?_cons_succ, ih _ j (Nat.lt_of_succ_lt_succ h), List.getElem_cons_succ, Nat.add_assoc, Nat.add_comm 1]

theorem Chip.imageQueue_length (s : Chip) (uid : Nat) (ps : List (Nat × Place)) : (s.imageQueue c write bs uid ps).length = ps.length := by
  induction ps generalizing uid with
  | nil => rfl
  | cons p ps ih => rw [Chip.imageQueue, List.length_cons, ih, List.length_cons]

/-- The places of a register image, all of which lie in a region. -/
theorem Chip.imagePlaces (s : Chip) (c : Nat) (ks : List Nat) (h : ∀ k ∈ ks, (s.decodePA (s.ctxSaveBase c + 256 * k)).isSome = true) :
    ∃ ps : List (Nat × Place), ps.map Prod.fst = ks ∧ ∀ q ∈ ps, s.decodePA (s.ctxSaveBase c + 256 * q.1) = some q.2 := by
  induction ks with
  | nil => exact ⟨[], rfl, fun _ hq => absurd hq List.not_mem_nil⟩
  | cons k ks ih =>
    obtain ⟨p, hp⟩ := Option.isSome_iff_exists.mp (h k List.mem_cons_self)
    obtain ⟨ps, hks, hps⟩ := ih fun j hj => h j (List.mem_cons_of_mem _ hj)
    exact ⟨(k, p) :: ps, congrArg (k :: ·) hks, List.forall_mem_cons.mpr ⟨hp, hps⟩⟩

theorem Chip.unblocked {v : Chip} (hb : v.tier.busy = false) (c : Nat) :
    (match v.decodePA (v.ctxSaveBase c) with | some p => v.tnWaits p | none => false) = false := by
  split
  · simp [Chip.tnWaits, hb]
  · rfl

theorem Chip.moveImage_some {v u : Chip} (hb : v.tier.busy = false) (h : v.imageReqs c write bs = some u) : v.moveImage c write bs = u := by
  refine (if_neg (Bool.eq_false_iff.mp (Chip.unblocked hb c))).trans ?_
  rw [h]

theorem Chip.moveImage_none {v : Chip} (hb : v.tier.busy = false) (h : v.imageReqs c write bs = none) :
    v.moveImage c write bs = (v.cmdFailed c).report (v.ownReport c Src.paddr) := by
  refine (if_neg (Bool.eq_false_iff.mp (Chip.unblocked hb c))).trans ?_
  rw [h]

theorem Chip.moveImage_moves {v : Chip} (hb : v.tier.busy = false) {ps : List (Nat × Place)} (hks : ps.map Prod.fst = List.range 18)
    (hps : ∀ q ∈ ps, v.decodePA (v.ctxSaveBase c + 256 * q.1) = some q.2) : v.moveImage c write bs = v.withImage c write bs ps := by
  exact Chip.moveImage_some hb (by rw [Chip.imageReqs_eq, ← hks, Chip.imageSteps_some v ps hps])

theorem Chip.moveImage_lost {v : Chip} (hb : v.tier.busy = false) (h : ∃ k, k < 18 ∧ v.decodePA (v.ctxSaveBase c + 256 * k) = none) :
    v.moveImage c write bs = (v.cmdFailed c).report (v.ownReport c Src.paddr) := by
  obtain ⟨k, hk, hn⟩ := h
  exact Chip.moveImage_none hb (by rw [Chip.imageReqs_eq, Chip.imageSteps_lost v _ ⟨k, List.mem_range.mpr hk, hn⟩])

end

/-- The context once LOADREGS, or SAVEREGS (`save`), is in progress. -/
def Chip.imageBusy (c : Nat) (save : Bool) (a : Chip) : Chip :=
  let u := (a.ctxOk c).updCtx c (fun x => { x with busy := some (if save then .saveregs else .loadregs) })
  if save then { u with free := u.free + 8 } else u

/-- The region of an address is a matter of the registers and the tier tables. -/
theorem Chip.decodePA_congr {s t : Chip} (hb : t.build = s.build) (hr : t.regs = s.regs) (ht : t.tier = s.tier) (pa : Nat) :
    t.decodePA pa = s.decodePA pa := by
  cases s
  cases t
  cases hb
  cases hr
  cases ht
  rfl

/-- Beginning to move an image changes neither the memory map nor the save area. -/
theorem Chip.imageBusy_spec (c : Nat) (save : Bool) (a : Chip) :
    (a.imageBusy c save).build = a.build ∧ (a.imageBusy c save).regs = a.regs ∧ (a.imageBusy c save).tier = a.tier := by
  unfold Chip.imageBusy
  split <;> exact ⟨rfl, rfl, rfl⟩

theorem Chip.reg_congr {s t : Chip} (hb : t.build = s.build) (hr : t.regs = s.regs) (o : Nat) : t.reg o = s.reg o := by
  rw [Chip.reg, Chip.reg, hb, hr]

/-- An image whose save area lies in regions is moved by 18 requests, in order. -/
theorem Chip.moveImage_queues {a v : Chip} {c : Nat} {b : Bool} {bs : List Byte} (hbuild : v.build = a.build) (hregs : v.regs = a.regs)
    (htier : v.tier = a.tier) (hbusy : v.tier.busy = false)
    (hall : ∀ k, k < 18 → (a.decodePA (a.ctxSaveBase c + 256 * k)).isSome = true) :
    ∃ l : List PortReq, l.length = 18 ∧
      (∀ k, k < 18 → ∃ r p, l[k]? = some r ∧ a.decodePA (a.ctxSaveBase c + 256 * k) = some p ∧ r.kind = .image ∧ r.write = b ∧
        r.lane = p.lane ∧ r.loc = granuleOf p.loc ∧ r.mask = BitVec.allOnes 256 ∧ r.va = 256 * k ∧ r.ctx = some c ∧
        r.part = some (a.ctxPart c) ∧ (b = true → r.data = granuleBytes 0 ((bs.drop (256 * k)).take 256))) ∧
      v.moveImage c b bs = { v with uid := v.uid + 18, ports := { v.ports with queue := v.ports.queue ++ l } } := by
  have hreg := Chip.reg_congr hbuild hregs
  have hdec := Chip.decodePA_congr hbuild hregs htier
  have hbase : v.ctxSaveBase c = a.ctxSaveBase c := by rw [Chip.ctxSaveBase, Chip.regF, hreg, Chip.ctxSaveBase, Chip.regF]
  have hpart : v.ctxPart c = a.ctxPart c := by rw [Chip.ctxPart, Chip.regF, hreg, Chip.ctxPart, Chip.regF]
  obtain ⟨ps, hks, hps⟩ := v.imagePlaces c (List.range 18) fun k hk => by rw [hdec, hbase]; exact hall k (List.mem_range.mp hk)
  have hlen : ps.length = 18 := by rw [← List.length_map (f := Prod.fst), hks, List.length_range]
  refine ⟨v.imageQueue c b bs v.uid ps, by rw [Chip.imageQueue_length, hlen], fun k hk => ?_, ?_⟩
  · have hget := Chip.imageQueue_getElem (c := c) (write := b) (bs := bs) v v.uid ps k (hlen ▸ hk)
    have hfst : ps[k].1 = k := by
      have := congrArg (·[k]?) hks
      simpa [hlen, hk] using this
    have hdk := hps ps[k] (List.getElem_mem _)
    rw [hfst] at hget hdk
    rw [hdec, hbase] at hdk
    exact ⟨_, _, hget, hdk, rfl, rfl, rfl, rfl, rfl, rfl, rfl, congrArg some hpart, fun hb => if_pos hb⟩
  · rw [Chip.moveImage_moves hbusy hks hps, Chip.withImage, hlen]

section
variable {s : Chip} {c : Nat} (hs : s.takesWrites) (hc : c < s.accepted.build.nctx) (hb : (s.accepted.ctxAt c).busy = none)
  (hcov : s.accepted.ctxCovered c = false) (hst : (s.accepted.ctxAt c).st = .idle ∨ (s.accepted.ctxAt c).st = .bound)
include hs hc hb hcov hst

theorem loadregs_runs : loadregs c s = (s.accepted.imageBusy c false).moveImage c false [] :=
  Chip.command_runs hs hc _ hb hcov (by rcases hst with h | h <;> simp [idleOrBound, h])

theorem saveregs_runs : saveregs c s = (s.accepted.imageBusy c true).moveImage c true ((s.accepted.ctxAt c).image s.accepted.free) :=
  Chip.command_runs hs hc _ hb hcov (by rcases hst with h | h <;> simp [idleOrBound, h])

end

/-- Settles O39: the commands of CTX_CMD. -/
theorem contextCommands : Obligations.ContextCommands := by
  refine ⟨fun s c hs => ?_, fun s c b hs => ?_, fun s c hs => ?_⟩
  · intro a x hc hb hcov
    refine ⟨fun hst => ?_, fun hst => ?_, fun hst hg => ?_, fun hst hw hg => ?_, fun w hst hw hg => ⟨fun hn he hr => ?_, fun hn => ?_⟩,
      fun hst hslot => ⟨fun hsz hx => ?_, fun t hsz hx => ?_, fun hsz => ?_⟩, fun hst => ?_, fun hst => ?_⟩
    · have hbind := bind_runs hs hc hb hcov hst
      refine ⟨fun hn => next_to (hbind.trans (by rw [Chip.bindCheck_targetless hn]; rfl)), fun m ms hm => ?_⟩
      refine ⟨fun ht => ?_, fun ht hp => ?_, fun ht hp hv => ?_, fun ht hp hv hr => ?_, fun ht hp hv hr hval => ?_,
        fun ht hp hv hr hval hl => ?_, fun ht hp hv hr hval hl => ?_⟩ <;> refine next_to (hbind.trans ?_)
      · rw [Chip.bindCheck_untested hm ht]
        rfl
      · rw [Chip.bindCheck_foreign hm ht hp]
        rfl
      · rw [Chip.bindCheck_covered hm ht hp hv]
        rfl
      all_goals rw [Chip.bindCheck_target hm ht hp hv]
      · rw [if_pos ((freeSlots_isEmpty _).mpr hr)]
        rfl
      all_goals rw [if_neg fun he => (freeSlots_isEmpty _).mp he hr]
      · rw [if_pos (by simpa using hval)]
        rfl
      · rw [if_neg (by simpa using hval), if_pos (Nat.lt_of_not_le hl)]
        rfl
      · rw [if_neg (by simpa using hval), if_neg (Nat.not_lt_of_le hl)]
        rfl
    · exact next_to (unbind_runs hs hc hb hcov hst)
    · exact next_to (start_runs hs hc hb hcov hst hg)
    · exact next_to (stop_unwaiting hs hc hb hcov hst hw hg)
    · exact next_to (stop_now hs hc hb hcov hst hg hw hn he hr)
    · exact next_to (stop_later hs hc hb hcov hst hg hw hn)
    · exact next_to (resume_access hs hc hb hcov hst hslot hsz hx)
    · exact next_to (resume_transfer hs hc hb hcov hst hslot hsz hx)
    · exact next_to (resume_resized hs hc hb hcov hst hslot hsz)
    · exact next_to (abort_now hs hc hb hcov hst)
    · exact next_to (clear_runs hs hc hb hcov hst)
  · intro a x i u v bs hc hb hcov hst hbusy
    have hexec : exec i s = .next (s.to ((s.chip.accepted.imageBusy c b).moveImage c b bs)) := by
      cases b
      · exact next_to (loadregs_runs hs hc hb hcov hst)
      · exact next_to (saveregs_runs hs hc hb hcov hst)
    obtain ⟨hbuild, hregs, htier⟩ := a.imageBusy_spec c b
    have hvb : (a.imageBusy c b).tier.busy = false := (congrArg _ htier).trans hbusy
    have hdec := Chip.decodePA_congr hbuild hregs htier
    have hbase : (a.imageBusy c b).ctxSaveBase c = a.ctxSaveBase c := by
      rw [Chip.ctxSaveBase, Chip.regF, Chip.reg_congr hbuild hregs, Chip.ctxSaveBase, Chip.regF]
    rw [hexec]
    refine ⟨fun hall => ?_, fun hlost => ?_⟩
    · obtain ⟨l, hlen, hl, heq⟩ := Chip.moveImage_queues hbuild hregs htier hvb (bs := bs) hall
      exact ⟨l, hlen, hl, next_to heq⟩
    · obtain ⟨k, hk, hn⟩ := hlost
      exact next_to (Chip.moveImage_lost hvb ⟨k, hk, by rw [hdec, hbase]; exact hn⟩)
  · intro a hc h
    refine ⟨fun i hi => ?_, fun hcov => ?_⟩
    · simp only [List.mem_cons, List.not_mem_nil, or_false] at hi
      rcases hi with rfl | rfl | rfl | rfl | rfl | rfl | rfl | rfl
      all_goals exact next_to (Chip.command_refused hs hc _ _ h)
    · have hb : (s.chip.accepted.ctxAt c).busy.isSome = true := h.resolve_right fun ht => Bool.false_ne_true (hcov.symm.trans ht)
      refine next_to ((abort_eq hs hc).trans ?_)
      rw [show s.chip.accepted.ctxCovered c = false from hcov, hb]
      rfl

end Sys2Proof.Machine
end

section
/-! Commands of CTX_CMD in progress end (R48, R51, R52, R69–R72, R485). -/

namespace Sys2Proof.Machine

theorem bindComplete_idle {s : Chip} {c : Nat} (hb : (s.ctxAt c).busy = some .bind) (hst : (s.ctxAt c).st = .idle) :
    bindComplete c s = (s.setSt c .bound none).busyEnd c := by
  simp only [bindComplete, hb, hst, if_true]

/-- The context's staging and slot are released by UNBIND, which is about to change its state. -/
theorem unbindComplete_bound {s : Chip} {c : Nat} (hb : (s.ctxAt c).busy = some .unbind) (hst : (s.ctxAt c).st = .bound) :
    unbindComplete c s = (((s.releaseStg c).freeSlotOf c).setSt c .idle none).busyEnd c := by
  simp only [unbindComplete, hb, hst, if_true]

/-! ### Register images (R69–R72) -/

/-- The answers of a register image's requests, and the block without them. -/
def Chip.imageFills (s : Chip) (c p : Nat) : List FillDone :=
  s.ports.fills.filter (fun y => y.r.kind == .image && y.r.ctx == some c && y.r.part == some p)

def Chip.tookImage (c p : Nat) (s : Chip) : Chip :=
  { s with ports := { s.ports with fills := s.ports.fills.filter (fun y => !(y.r.kind == .image && y.r.ctx == some c && y.r.part == some p)) } }

/-- The image that answers hold. -/
def imageOf (xs : List FillDone) : List Byte :=
  (List.range 18).flatMap (fun k => match xs.find? (fun y => y.r.va == 256 * k) with | some y => toBytes 256 y.data.toNat | none => [])

theorem allOk_iff (xs : List FillDone) : xs.all (fun y => y.rsp == .ok) = true ↔ ∀ y ∈ xs, y.rsp = .ok := by simp

section
variable {s : Chip} {c p : Nat}

theorem regimageComplete_waits (save : Bool) (h : (s.imageFills c p).length < 18) : regimageComplete c p save s = s := if_pos h

variable (h : 18 ≤ (s.imageFills c p).length)
include h

theorem regimageComplete_load (hb : (s.ctxAt c).busy = some .loadregs) :
    regimageComplete c p false s =
      if (s.imageFills c p).all (fun y => y.rsp == .ok) = true ∧ imageOk (imageOf (s.imageFills c p)) = true then
        ((s.tookImage c p).updCtx c (Ctx.loadImage (imageOf (s.imageFills c p)))).busyEnd c
      else (s.tookImage c p).cmdFailed c := by
  refine (if_neg (Nat.not_lt_of_le h)).trans ?_
  simp only [hb, Bool.false_eq_true, if_false]
  rfl

theorem regimageComplete_save (hb : (s.ctxAt c).busy = some .saveregs) :
    regimageComplete c p true s =
      if (s.imageFills c p).all (fun y => y.rsp == .ok) = true then (s.tookImage c p).busyEnd c else (s.tookImage c p).cmdFailed c := by
  refine (if_neg (Nat.not_lt_of_le h)).trans ?_
  simp only [hb, Bool.not_true, Bool.false_eq_true, if_false]
  rfl

end

theorem abortComplete_done {s : Chip} {c : Nat} (hq : s.sequencer = true) (hst : (s.ctxAt c).st = .aborting)
    (hr : s.rsq.rungs.any (isRung .ctxAbort c) = true) (hd : s.abortDrained c = true) :
    ∃ d, abortComplete c s = ((((({ s with free := s.free + 1 } : Chip).enterAborted c false).raise (256 + c) false).dropRungs
      (isRung .ctxAbort c)).rungDone 1 d).pumpAll :=
  ⟨_, if_pos ⟨hq, hst, hr, hd⟩⟩

/-- Settles O40: the ends of BIND, UNBIND, register images and aborts. -/
theorem contextCompletions : Obligations.ContextCompletions := by
  intro s c p x mine xs u bs
  refine ⟨fun hb hst => next_to (bindComplete_idle hb hst), fun hb hst => next_to (unbindComplete_bound hb hst),
    fun save h => next_to (regimageComplete_waits save h), fun h hb => ⟨fun hok himg => ?_, fun hbad => ?_⟩, fun h hb => ⟨fun hok => ?_, fun hbad => ?_⟩,
    fun hq hst hr hd => ?_⟩
  · exact next_to ((regimageComplete_load h hb).trans (if_pos ⟨(allOk_iff _).mpr hok, himg⟩))
  · refine next_to ((regimageComplete_load h hb).trans (if_neg ?_))
    rintro ⟨hok, himg⟩
    rcases hbad with hbad | ⟨y, hy, hne⟩
    · exact Bool.false_ne_true (hbad.symm.trans himg)
    · exact hne ((allOk_iff _).mp hok y hy)
  · exact next_to ((regimageComplete_save h hb).trans (if_pos ((allOk_iff _).mpr hok)))
  · obtain ⟨y, hy, hne⟩ := hbad
    exact next_to ((regimageComplete_save h hb).trans (if_neg fun hok => hne ((allOk_iff _).mp hok y hy)))
  · obtain ⟨d, hd⟩ := abortComplete_done hq hst hr hd
    exact ⟨d, next_to hd⟩

end Sys2Proof.Machine
end

section
/-! Writes that form gangs and partitions, and those of the memory map (R20–R28, R63, R313, R315, R318, R319). -/

namespace Sys2Proof.Machine

/-! ### Gangs and partitions (R20–R28) -/

theorem Chip.whenMapped_idle {s : Chip} (h : s.allIdle = true) (body : Chip → Chip) : s.whenMapped body = body s := if_pos h

section
variable {s : Chip} (hs : s.takesWrites)
include hs

section
variable {v w : Word} (hw : w = v &&& maskBits 1 (s.accepted.build.nmov - 1))
  (hc : ((List.range s.accepted.build.nmov).filter (fun m =>
    gangIn s.accepted.build w m != gangIn s.accepted.build (s.accepted.reg Reg.gangForm) m)).any s.accepted.movCovered = false)
include hw hc

theorem gangForm_clash (hg : gangClash s.accepted.build w = true) : gangForm v s = (s.accepted.logCtl Src.gangcfg 1).answer .err := by
  subst hw
  rw [gangForm, Chip.accept_takes hs]
  simp only [hc, hg, Bool.true_or, Bool.false_eq_true, if_false, if_true]

theorem gangForm_formed (hg : gangClash s.accepted.build w = false)
    (ht : ((List.range s.accepted.build.nmov).filter (fun m =>
      gangIn s.accepted.build w m != gangIn s.accepted.build (s.accepted.reg Reg.gangForm) m)).any s.accepted.teamHolds = false)
    (hn : ((formedIn s.accepted.build w).filter (fun n => !(formedIn s.accepted.build (s.accepted.reg Reg.gangForm)).contains n)).any (fun n =>
      (gangMovers s.accepted.build n).any (fun m =>
        s.accepted.movPart m != s.accepted.movPart (gangBase s.accepted.build n) || s.accepted.movFailed m)) = false) :
    gangForm v s = (s.accepted.setReg Reg.gangForm w).answer .ok := by
  subst hw
  rw [gangForm, Chip.accept_takes hs]
  simp only [hc, hg, ht, hn, Bool.or_self, Bool.false_eq_true, if_false]

end

section
variable {k : Nat} (hk : k < 4) (hi : s.accepted.allIdle = true) (v : Word)
include hk hi

/-- The movers whose partitions PART_MOVk holds. -/
theorem partMov_idle (hn : min 16 (s.accepted.build.nmov - 16 * k) ≠ 0) :
    partMov k v s =
      let n := min 16 (s.accepted.build.nmov - 16 * k)
      if (List.range n).any (fun j => decide (s.accepted.build.npart ≤ fldN v (4 * j) 3)) then s.accepted.answer .err
      else if ((List.range n).filter (fun j => fldN v (4 * j) 3 != s.accepted.movPart (16 * k + j))).any
          (fun j => s.accepted.movCovered (16 * k + j)) then s.accepted.answer .err
      else (s.accepted.setReg (Reg.partMov k) (v &&& partMask n)).answer .ok := by
  rw [partMov, Chip.accept_takes hs]
  simp only [if_pos hk, if_neg hn, Chip.whenMapped_idle hi, hi, Bool.not_true, Bool.false_and, Bool.or_false]

theorem ksPart_idle :
    ksPart k v s = if (partFields v).any (fun p => decide (s.accepted.build.npart ≤ p)) then s.accepted.answer .err
      else (s.accepted.setReg (Reg.ksPart k) (v &&& partMask 16)).answer .ok := by
  rw [ksPart, Chip.accept_takes hs, if_neg (Nat.not_le.mpr hk), Chip.whenMapped_idle hi]

end

theorem invall_present {m : Nat} (hm : m < s.accepted.build.nmov) :
    invall m s = (s.accepted.icInvalidate m (fun _ => true)).answer .ok := by
  rw [invall, Chip.accept_takes hs, if_pos hm]

theorem invasid_present {m : Nat} (hm : m < s.accepted.build.nmov) (asid : BitVec 16) :
    invasid m asid s = (s.accepted.icInvalidate m (fun a => a == asid)).answer .ok := by
  rw [invasid, Chip.accept_takes hs, if_pos hm]

end

theorem any_absent_iff (n : Nat) (v : Word) (np : Nat) :
    (List.range n).any (fun j => decide (np ≤ fldN v (4 * j) 3)) = true ↔ ∃ j, j < n ∧ np ≤ fldN v (4 * j) 3 := by simp

theorem partFields_absent_iff (v : Word) (np : Nat) :
    (partFields v).any (fun p => decide (np ≤ p)) = true ↔ ∃ j, j < 16 ∧ np ≤ fldN v (4 * j) 3 := by
  rw [← any_absent_iff, partFields, List.any_map]
  rfl

/-- Settles O42: writes that form gangs and partitions. -/
theorem gangAndPartitionWrites : Obligations.GangAndPartitionWrites := by
  intro s k m v asid hs a w moved n
  refine ⟨fun hc hg ht hn => next_to (gangForm_formed hs rfl hc hg ht hn), fun hc hg => next_to (gangForm_clash hs rfl hc hg),
    fun hk hn hi => ⟨fun hp hc => ?_, fun hp => ?_⟩, fun hk hi => ⟨fun hp => ?_, fun hp => ?_⟩, fun hm => ⟨?_, ?_⟩⟩
  · have hpresent : ¬ _ := mt (any_absent_iff n v a.build.npart).mp fun ⟨j, hj, hle⟩ => Nat.not_le_of_lt (hp j hj) hle
    have hfree : ¬ ((List.range n).filter (fun j => fldN v (4 * j) 3 != a.movPart (16 * k + j))).any (fun j => a.movCovered (16 * k + j)) = true := by
      simpa using hc
    exact next_to ((partMov_idle hs hk hi v hn).trans ((if_neg hpresent).trans (if_neg hfree)))
  · exact next_to ((partMov_idle hs hk hi v hn).trans (if_pos ((any_absent_iff ..).mpr hp)))
  · have hpresent : ¬ _ := mt (partFields_absent_iff v a.build.npart).mp fun ⟨j, hj, hle⟩ => Nat.not_le_of_lt (hp j hj) hle
    exact next_to ((ksPart_idle hs hk hi v).trans (if_neg hpresent))
  · exact next_to ((ksPart_idle hs hk hi v).trans (if_pos ((partFields_absent_iff ..).mpr hp)))
  · refine next_to ((invall_present hs hm).trans (congrArg (Chip.answer .ok) (Chip.updMov_congr ?_)))
    simp
  · exact next_to (invasid_present hs hm asid)

/-! ### The memory map (R313, R315, R318, R319) -/

section
variable {s : Chip} (hs : s.takesWrites)
include hs

section
variable {off : Nat} (hr : s.accepted.regionReg off = 2) (v : Word)
include hr

theorem regionConfigWrite_unidle (hi : s.accepted.allIdle = false) : regionConfigWrite off v s = s.accepted.answer .err := by
  rw [regionConfigWrite, Chip.accept_takes hs]
  simp only [hr, hi, Bool.not_false, if_true]

theorem regionConfigWrite_idle (hi : s.accepted.allIdle = true) :
    regionConfigWrite off v s =
      let a := s.accepted
      let t := a.setReg off (v &&& regionMask off)
      if regionRange off v && t.regionsOk off && !(off == Reg.tnCfg && bitB (a.reg off) 0 && bitB (a.reg off) 1 != bitB v 1) then
        ((if off = Reg.tnCfg then t.legacyStart (a.reg off) else t).answer .ok)
      else (a.logCtl Src.mapovl 9).answer .err := by
  rw [regionConfigWrite, Chip.accept_takes hs]
  simp only [hr, hi, Bool.not_true, Bool.false_eq_true, if_false]

end

theorem cmtCtl_autofill {v : Word} (hc : bitB v 0 = false) (hf : bitB v 1 = true) :
    cmtCtl v s = (s.accepted.setReg Reg.cmtCtl (v &&& maskBits 2 1)).fillShadow.1.answer .ok := by
  rw [cmtCtl, Chip.accept_takes hs]
  simp only [hc, hf, Bool.false_and, Bool.false_eq_true, if_false, Chip.cmtOps, if_true]

theorem cmtCtl_commit {v : Word} (hc : bitB v 0 = true) (hf : bitB v 1 = false) (hb : s.accepted.tier.busy = false) (hi : s.accepted.allIdle = true) :
    cmtCtl v s = ((s.accepted.setReg Reg.cmtCtl (v &&& maskBits 2 1)).updTier (fun t => { t with busy := true })).answer .ok := by
  rw [cmtCtl, Chip.accept_takes hs]
  simp only [hc, hf, hb, Bool.true_and, Bool.false_eq_true, if_false, Chip.whenMapped_idle hi, Chip.cmtOps, if_true]

end

theorem insertChan_perm (c : Nat) (l : List Nat) : (insertChan c l).Perm (c :: l) := by
  induction l with
  | nil => exact .refl _
  | cons d l ih =>
    rw [insertChan]
    split
    · exact .refl _
    · exact (ih.cons d).trans (.swap c d l)

/-- AUTOFILL lists every channel, in its order. -/
theorem sortChans_perm (l : List Nat) : (sortChans l).Perm l := by
  induction l with
  | nil => exact .refl _
  | cons c l ih => exact (insertChan_perm c _).trans (ih.cons c)

theorem Chip.fillShadow_none {a : Chip} (h : a.channels = []) : a.fillShadow.1 = a.cmtFail 3 := by
  rw [Chip.fillShadow, h]
  rfl

theorem Chip.fillShadow_some {a : Chip} (h : a.channels ≠ []) :
    a.fillShadow.1 = a.updTier (fun t => { t with shadow := filled (sortChans a.channels), err := 0 }) := by
  have hne : ¬ (sortChans a.channels).isEmpty = true := fun he =>
    h (List.nil_perm.mp (List.isEmpty_iff.mp he ▸ sortChans_perm a.channels))
  exact congrArg Prod.fst (if_neg hne)

/-- The table that a commit puts in force, with the stacks as they are. -/
def Chip.commitTable (u : Chip) : Chip :=
  u.updTier (fun t =>
    { t with active := t.shadow, depth := u.shadowDepth, nch := u.channels.length, err := 0,
             cap := (List.range u.build.nsp).foldl (fun t k => Tab.set 0 k (u.caplg k) t) [],
             chen := (List.range u.build.nsp).foldl (fun t k => Tab.set 0 k (u.reg (Reg.tnChen k)) t) [] })

section
variable {s : Chip} (hb : s.tier.busy = true)
include hb

theorem commitComplete_passes (h : (s.updTier (fun t => { t with busy := false })).commitCheck = 0) :
    commitComplete s = (s.updTier (fun t => { t with busy := false })).commitTable.commitResumes := by
  rw [commitComplete, if_pos hb]
  refine congrArg Chip.commitResumes ?_
  split
  · rfl
  · next hne => exact absurd h hne

theorem commitComplete_fails (h : (s.updTier (fun t => { t with busy := false })).commitCheck ≠ 0) :
    commitComplete s = ((s.updTier (fun t => { t with busy := false })).cmtFail
      (s.updTier (fun t => { t with busy := false })).commitCheck).commitResumes := by
  rw [commitComplete, if_pos hb]
  refine congrArg Chip.commitResumes ?_
  split
  · next h0 => exact absurd h0 h
  · rfl

end

/-- Settles O43: writes of the memory map. -/
theorem memoryMap : Obligations.MemoryMap := by
  intro s off v
  refine ⟨fun hs hr hi => ⟨fun hok hne => ?_, fun hok he => ?_, fun hok => ?_⟩, fun hs hr hi => next_to (regionConfigWrite_unidle hs hr v hi),
    fun hs hc hf => ⟨fun hch => ?_, fun hch => ?_⟩, fun hs hc hf hb hi => next_to (cmtCtl_commit hs hc hf hb hi),
    fun hb => ⟨fun h => next_to (commitComplete_passes hb h), fun h => next_to (commitComplete_fails hb h)⟩, fun hb => next_to (if_neg (by simp [hb]))⟩
  · exact next_to ((regionConfigWrite_idle hs hr v hi).trans ((if_pos hok).trans (congrArg (Chip.answer .ok) (if_neg hne))))
  · exact next_to ((regionConfigWrite_idle hs hr v hi).trans ((if_pos hok).trans (congrArg (Chip.answer .ok) (if_pos he))))
  · exact next_to ((regionConfigWrite_idle hs hr v hi).trans (if_neg (Bool.eq_false_iff.mp hok)))
  · have hperm := sortChans_perm (s.chip.accepted.setReg Reg.cmtCtl (v &&& maskBits 2 1)).channels
    exact ⟨_, hperm.length_eq, fun ch => hperm.mem_iff, next_to ((cmtCtl_autofill hs hc hf).trans (congrArg (Chip.answer .ok) (Chip.fillShadow_some hch)))⟩
  · exact next_to ((cmtCtl_autofill hs hc hf).trans (congrArg (Chip.answer .ok) (Chip.fillShadow_none hch)))

end Sys2Proof.Machine
end

section
/-! Writes of the fault registers and of GUARD; injections (R455, R463, R470–R472, R475, R589–R591). -/

namespace Sys2Proof.Machine

/-! ### FC_ACK frees records (R455) -/

/-- A record is free to be overwritten. -/
def FRec.freed (x : FRec) : FRec := { x with valid := false }

def Chip.freeRec (s : Chip) (r : Nat) : Chip :=
  match s.recAt r with | some x => s.setRec r x.freed | none => s

theorem Chip.recAt_freeRec (s : Chip) (r k : Nat) : (s.freeRec r).recAt k = if k = r then (s.recAt k).map FRec.freed else s.recAt k := by
  unfold Chip.freeRec
  split
  · next x hx =>
    rw [Chip.recAt, Chip.setRec, Tab.get_set]
    split
    · next hk => rw [hk, hx]; rfl
    · rfl
  · next hx =>
    split
    · next hk => rw [hk, hx]; rfl
    · rfl

theorem Chip.recAt_freeRecs (rs : List Nat) (s : Chip) (k : Nat) :
    (rs.foldl Chip.freeRec s).recAt k = if k ∈ rs then (s.recAt k).map FRec.freed else s.recAt k := by
  induction rs generalizing s with
  | nil => simp
  | cons r rs ih =>
    rw [List.foldl_cons, ih, Chip.recAt_freeRec]
    have htwice : ((s.recAt k).map FRec.freed).map FRec.freed = (s.recAt k).map FRec.freed := by rw [Option.map_map]; rfl
    by_cases hr : k = r
    · rw [if_pos hr, htwice, ite_self, if_pos (List.mem_cons.mpr (.inl hr))]
    · rw [if_neg hr]
      exact if_congr (by simp [hr]) rfl rfl

/-- Freeing records changes the fault collector alone. -/
theorem Chip.freeRecs_rest (rs : List Nat) (s : Chip) :
    (rs.foldl Chip.freeRec s).mem = s.mem ∧ (rs.foldl Chip.freeRec s).ctx = s.ctx ∧ (rs.foldl Chip.freeRec s).regs = s.regs := by
  have hstep : ∀ (s : Chip) r, ((s.freeRec r).mem, (s.freeRec r).ctx, (s.freeRec r).regs) = (s.mem, s.ctx, s.regs) := fun s r => by
    unfold Chip.freeRec
    split <;> rfl
  simpa using foldl_keeps (fun s : Chip => (s.mem, s.ctx, s.regs)) Chip.freeRec hstep rs s

theorem fcAck_eq {s : Chip} (h : s.clocked = true) (v : Word) :
    fcAck v s = (((List.range 16).filter (bitB v)).foldl Chip.freeRec s.accepted).answer .ok := by
  rw [fcAck, Chip.acceptAny_clocked h]
  rfl

/-! ### Injections (R470–R472) -/

section
variable {s : Chip} (hs : s.takesWrites)
include hs

theorem fcInjArm_unarmed {v : Word} (h : bitB v 0 = false) : fcInjArm v s = fcInjStore v s.accepted := by
  rw [fcInjArm, Chip.accept_takes hs, h]
  rfl

theorem fcInjArm_locked {v : Word} (h : bitB v 0 = true) (hu : s.accepted.unlocked = false) :
    fcInjArm v s = (s.accepted.logCtl Src.guardref 0).answer .err := by
  rw [fcInjArm, Chip.accept_takes hs, h, if_pos rfl, Chip.guarded, hu]
  rfl

theorem fcInjArm_unlocked {v : Word} (h : bitB v 0 = true) (hu : s.accepted.unlocked = true) (hf : s.accepted.pins.ftm = true) :
    fcInjArm v s = if injMatches v then fcInjStore v { s.accepted with guard := .closed } else ({ s.accepted with guard := .closed } : Chip).answer .err := by
  rw [fcInjArm, Chip.accept_takes hs, h, if_pos rfl, Chip.guarded, hu, if_pos rfl, hf]
  rfl

end

/-- Every unit is of a subsystem that has reports of broken pairs. -/
theorem unitSubsystem_range (k : UnitKind) (u : Nat) : 1 ≤ unitSubsystem k u ∧ unitSubsystem k u ≤ 23 := by
  cases k
  case shared =>
    unfold unitSubsystem
    dsimp only
    repeat refine iteInduction (motive := fun n => 1 ≤ n ∧ n ≤ 23) (fun _ => by decide) fun _ => ?_
    decide
  all_goals exact ⟨Nat.le_of_ble_eq_true rfl, Nat.le_of_ble_eq_true rfl⟩

/-- The block once an injection has fired. -/
def Chip.injFired (s : Chip) : Chip := s.setReg Reg.fcInj (setBit (setBit (s.reg Reg.fcInj) 0 false) 1 true)

section
variable {s : Chip} (ha : bitB (s.reg Reg.fcInj) 0 = true) {k : UnitKind} (hk : unitKindOf (fldN (s.reg Reg.fcInj) 40 8) = some k)
include ha hk

theorem injectionFire_report (hm : fldN (s.reg Reg.fcInj) 24 2 = 0) (hp : s.phase ≠ .porst)
    (hsrc : srcAssigned (fldN (s.reg Reg.fcInj) 48 8) = true) :
    injectionFire s = s.injFired.report { src := fldN (s.reg Reg.fcInj) 48 8, kind := k, unit := fldN (s.reg Reg.fcInj) 32 8 } := by
  simp only [injectionFire, ha, if_true, hk, hm]
  exact brokenWire_error (s := s.injFired) hp hsrc k _ _

theorem injectionFire_broken (hm : fldN (s.reg Reg.fcInj) 24 2 = 1) :
    injectionFire s =
      s.injFired.wireBroken k (fldN (s.reg Reg.fcInj) 32 8) (fldN (s.reg Reg.fcInj) 48 8) (unitSubsystem k (fldN (s.reg Reg.fcInj) 32 8)) := by
  simp only [injectionFire, ha, if_true, hk, hm]
  exact brokenWire_broken (by decide) ..

theorem injectionFire_symbol (hm : fldN (s.reg Reg.fcInj) 24 2 = 2) (hsyms : fldN (s.reg Reg.fcInj) 26 2 = 1)
    (hsrc : fldN (s.reg Reg.fcInj) 48 8 ≤ 0x0F) :
    ∃ pos, pos < 36 ∧ injectionFire s =
      (({ s.injFired with free := s.injFired.free + 1 } : Chip).countEcc
        { src := Src.eccC (fldN (s.reg Reg.fcInj) 48 8), kind := k, unit := fldN (s.reg Reg.fcInj) 32 8, detail := some (at64 0 pos) }).report
        { src := Src.eccC (fldN (s.reg Reg.fcInj) 48 8), kind := k, unit := fldN (s.reg Reg.fcInj) 32 8, detail := some (at64 0 pos) } := by
  refine ⟨(Config.freeWord s.free).toNat % 36, Nat.mod_lt _ (by decide), ?_⟩
  have harr : arrayOf (fldN (s.reg Reg.fcInj) 48 8) = fldN (s.reg Reg.fcInj) 48 8 := if_pos hsrc
  simp only [injectionFire, ha, if_true, hk, hm, Chip.injectWord, hsyms, harr, Nat.le_refl, arrayReport]
  rfl

end

theorem shdConfigWrite_cfg {s : Chip} (hs : s.takesWrites) (v : Word) :
    shdConfigWrite Reg.shdCfg v s = if 20 < fldN v 0 5 ∨ fldN v 24 16 = 0 then s.accepted.answer .err
      else ((s.accepted.setReg Reg.shdCfg (v &&& (maskBits 24 16 ||| maskBits 8 1 ||| maskBits 0 5))).loadLfsrs).answer .ok := by
  rw [shdConfigWrite, Chip.accept_takes hs, if_pos rfl]

theorem shdConfigWrite_seed {s : Chip} (hs : s.takesWrites) (v : Word) :
    shdConfigWrite Reg.shdSeed v s = if fldN v 0 32 = 0 then s.accepted.answer .err
      else ((s.accepted.setReg Reg.shdSeed (v &&& maskBits 0 32)).loadLfsrs).answer .ok := by
  rw [shdConfigWrite, Chip.accept_takes hs, if_neg (by decide), if_pos rfl]

/-- Settles O45: writes of the fault registers. -/
theorem faultRegisters : Obligations.FaultRegisters := by
  intro s off v a
  refine ⟨fun hc => ?_, fun hs => ?_, fun hs h => next_to (fcInjArm_unarmed hs h), fun hs h hu => next_to (fcInjArm_locked hs h hu),
    fun hs h hu hf => ⟨fun hm => next_to ((fcInjArm_unlocked hs h hu hf).trans (if_pos hm)),
      fun hm => next_to ((fcInjArm_unlocked hs h hu hf).trans (if_neg (Bool.eq_false_iff.mp hm)))⟩,
    fun k ha hk hp => ⟨fun hm hsrc => next_to (injectionFire_report ha hk hm hp hsrc), fun hm hmask => ?_, fun hm hsyms hsrc => ?_⟩,
    fun h => next_to (if_neg (Bool.eq_false_iff.mp h)), fun hs ho => ?_, fun hs ho => ?_⟩
  · obtain ⟨hmem, hctx, hregs⟩ := Chip.freeRecs_rest ((List.range 16).filter (bitB v)) s.chip.accepted
    refine ⟨_, next_to (fcAck_eq hc v), hmem.trans (Chip.accepted_mem _), hctx.trans (Chip.accepted_ctx _), hregs.trans (Chip.accepted_regs _),
      fun r hr => ?_⟩
    have hacc : s.chip.accepted.recAt r = s.chip.recAt r := by rw [Chip.recAt, Chip.accepted_fc, Chip.recAt]
    have hmem : r ∈ (List.range 16).filter (bitB v) ↔ bitB v r = true := by simp [hr]
    exact (Chip.recAt_freeRecs ..).trans (hacc ▸ if_congr hmem rfl rfl)
  · exact next_to (show fcSwrep v s.chip = _ from Chip.accept_takes hs _)
  · obtain ⟨h1, h23⟩ := unitSubsystem_range k (fldN (s.chip.reg Reg.fcInj) 32 8)
    exact ⟨_, next_to ((injectionFire_broken ha hk hm).trans (Chip.wireBroken_unmasked hp h1 h23 hmask)), rfl, rfl⟩
  · obtain ⟨pos, hpos, heq⟩ := injectionFire_symbol ha hk hm hsyms hsrc
    exact ⟨pos, hpos, next_to heq⟩
  · subst ho
    exact ⟨fun h20 hz => next_to ((shdConfigWrite_cfg hs v).trans (if_neg (by omega))), fun h => next_to ((shdConfigWrite_cfg hs v).trans (if_pos h))⟩
  · subst ho
    exact ⟨fun h => next_to ((shdConfigWrite_seed hs v).trans (if_neg h)), fun h => next_to ((shdConfigWrite_seed hs v).trans (if_pos h))⟩

/-! ### GUARD (R589–R591) -/

/-- What a write of GUARD makes of the state it comes to. -/
def Chip.guardAfter (s : Chip) : Option GuardSt → Chip
  | some g => ({ s with guard := g } : Chip).answer .ok
  | none => (({ s with guard := .closed } : Chip).logCtl Src.guardref 0).answer .err

theorem guard_eq {s : Chip} (hs : s.takesWrites) (v : Word) :
    guard v s = s.guardAfter (guardStep (fldN v 0 16) (!s.pins.presenceN) s.time s.guardNow) := by
  obtain ⟨hc, hr⟩ := hs
  simp only [guard, hc, hr, Bool.not_true, Bool.false_eq_true, if_false]
  rfl

/-- With the strap not asserted no key is taken. -/
theorem guardStep_absent (key time : Nat) (g : GuardSt) : guardStep key false time g = none := by
  cases g
  · exact if_neg fun h => Bool.false_ne_true h.2
  · exact if_neg fun h => Bool.false_ne_true h.2
  · rfl

/-- Settles O50: the two keys of GUARD. -/
theorem guardUnlocks : Obligations.GuardUnlocks := by
  intro s v
  refine ⟨fun hs hp => ?_, fun hs hp => ?_, fun till ht => ⟨fun h => ?_, fun h => ?_⟩⟩
  · have hguard : guard v s.chip = s.chip.guardAfter (guardStep (fldN v 0 16) true s.chip.time s.chip.guardNow) := by
      rw [guard_eq hs, hp]
      rfl
    refine ⟨fun hg hk => ?_, fun hg hk => ?_, fun hg hk => ?_, fun hg hk => ?_⟩ <;> rw [hg] at hguard
    · exact next_to (hguard.trans (congrArg s.chip.guardAfter (if_pos ⟨hk, rfl⟩)))
    · exact next_to (hguard.trans (congrArg s.chip.guardAfter (if_pos ⟨hk, rfl⟩)))
    · exact next_to (hguard.trans (congrArg s.chip.guardAfter (if_neg fun h => hk h.1)))
    · exact next_to (hguard.trans (congrArg s.chip.guardAfter (if_neg fun h => hk h.1)))
  · have hguard := guard_eq hs v
    rw [hp, Bool.not_true, guardStep_absent] at hguard
    exact next_to hguard
  · have hnow : s.chip.guardNow = .closed := by
      rw [Chip.guardNow, ht]
      exact if_neg (Nat.not_lt_of_le h)
    exact next_to (by rw [guardExpiry, hnow])
  · have hnow : s.chip.guardNow = s.chip.guard := by
      rw [Chip.guardNow, ht]
      exact if_pos h
    exact next_to (by rw [guardExpiry, hnow])

end Sys2Proof.Machine
end

section
/-! Writes of the configuration registers and of the link engine's (R276, R397, R434–R437, R477, R500, R501, R582, R585, R595, R605, R608). -/

namespace Sys2Proof.Machine

/-! ### Configuration registers -/

theorem snsOf_snsReg {i : Nat} (h : i < 20) : snsOf (snsReg i) = some i := by
  have hall : ∀ j < 20, snsOf (snsReg j) = some j := by decide
  exact hall i h

section
variable {s : Chip} (hs : s.takesWrites)
include hs

theorem snsUseroff_sensor {i : Nat} (hi : i < 20) (v : Word) :
    snsUseroff (snsReg i) v s =
      let u := sextN 16 (fldN v 32 16)
      let m : Int := if i < 16 then 64 else 32
      if u < -m ∨ m < u then s.accepted.answer .err
      else (s.accepted.setReg (snsReg i) (mergeMask (maskBits 32 16) (s.accepted.reg (snsReg i)) v)).answer .ok := by
  rw [snsUseroff, Chip.accept_takes hs, snsOf_snsReg hi]

theorem snsThreshold_temperature (v : Word) :
    snsThreshold Reg.snsTthr v s =
      if decide (sextN 16 (fldN v 0 16) < sextN 16 (fldN v 16 16)) && decide (sextN 16 (fldN v 16 16) ≤ 500) then
        (s.accepted.setReg Reg.snsTthr (v &&& maskBits 0 32)).answer .ok
      else s.accepted.answer .err := by
  rw [snsThreshold, Chip.accept_takes hs, if_pos (.inl rfl), thresholdsOk, if_pos rfl, if_pos rfl]

theorem trcCfg_own {v : Word} (h : tracesOthers v = false) : trcCfg v s = trcStore v s.accepted := by
  rw [trcCfg, Chip.accept_takes hs, h]
  rfl

theorem trcCfg_locked {v : Word} (h : tracesOthers v = true) (hu : s.accepted.unlocked = false) :
    trcCfg v s = (s.accepted.logCtl Src.guardref 0).answer .err := by
  rw [trcCfg, Chip.accept_takes hs, h, if_pos rfl, Chip.guarded, hu]
  rfl

theorem rsqTmo_refused {v : Word} (h : fldN v 32 16 = 0 ∨ fldN v 0 10 = 0 ∨ 1000 < fldN v 0 10) : rsqTmo v s = s.accepted.answer .err := by
  rw [rsqTmo, Chip.accept_takes hs]
  exact if_pos h

theorem rsqTmo_idle {v : Word} (h : ¬ (fldN v 32 16 = 0 ∨ fldN v 0 10 = 0 ∨ 1000 < fldN v 0 10)) (hi : s.accepted.allIdle = true) :
    rsqTmo v s = (s.accepted.setReg Reg.rsqTmo (v &&& (maskBits 32 16 ||| maskBits 0 10))).answer .ok := by
  rw [rsqTmo, Chip.accept_takes hs]
  exact (if_neg h).trans (if_neg fun hb => hb.2 hi)

theorem rsqDump_unarmed {v : Word} (h : bitB (s.accepted.reg Reg.rsqDump) 0 = false ∨ bitB v 0 = false) :
    rsqDump v s = (s.accepted.setReg Reg.rsqDump
      (mergeMask (maskBits 20 28 ||| maskBits 8 4 ||| maskBits 0 1) (s.accepted.reg Reg.rsqDump) v)).answer .ok := by
  rw [rsqDump, Chip.accept_takes hs]
  exact if_neg (by rcases h with h | h <;> simp [h])

theorem rsqMoverReset_eq (t : Nat) :
    rsqMoverReset t s = if s.accepted.build.nmov ≤ t ∨ s.accepted.movCovered t = true then s.accepted.answer .err
      else (s.accepted.request { kind := .mover, obj := t, origin := .host }).answer .ok := by
  rw [rsqMoverReset, Chip.accept_takes hs]

theorem rsqPartitionReset_eq (t : Nat) :
    rsqPartitionReset t s = if s.accepted.build.npart ≤ t ∨ s.accepted.inReset t = true then s.accepted.answer .err
      else (s.accepted.request { kind := .partition, obj := t, origin := .host }).answer .ok := by
  rw [rsqPartitionReset, Chip.accept_takes hs]

theorem glbRst_keyed {v : Word} (h : bitB v 0 = true) :
    glbRst v s = if fldN v 8 8 ≠ 0xC3 then s.accepted.answer .err
      else (s.accepted.request { kind := .block, obj := 0, origin := .glbRst }).answer .ok := by
  rw [glbRst, Chip.accept_takes hs, h]
  rfl

theorem govConfigWrite_eq {off : Nat} (ho : off = Reg.govSplit ∨ off = Reg.govCred ∨ off = Reg.govArb) (v : Word) :
    govConfigWrite off v s = if s.accepted.allIdle && govRange s.accepted.build off v then (s.accepted.setReg off (v &&& govMask off)).answer .ok
      else (s.accepted.logCtl Src.govcfg 4).answer .err := by
  rw [govConfigWrite, Chip.accept_takes hs, if_pos ho]

theorem rcEmbcfg_built (h : s.accepted.build.rcache ≠ 0) (v : Word) :
    rcEmbcfg v s = if fldN v 8 8 < 8 then s.accepted.answer .err
      else (s.accepted.setReg Reg.rcEmbcfg (v &&& (maskBits 8 8 ||| maskBits 0 2))).answer .ok := by
  rw [rcEmbcfg, Chip.accept_takes hs, if_neg h]

end

/-- Settles O51: writes of the configuration registers. -/
theorem configurationWrites : Obligations.ConfigurationWrites := by
  intro s off i t v hs a
  refine ⟨next_to (show clkGate v s.chip = _ from Chip.accept_takes hs _), fun hi ho => ?_, fun ho => ?_,
    fun h => next_to (trcCfg_own hs h), fun h hu => next_to (trcCfg_locked hs h hu),
    fun h32 h0 hle hi => next_to (rsqTmo_idle hs (by omega) hi), fun h => next_to (rsqTmo_refused hs h),
    fun h => next_to (rsqDump_unarmed hs h), fun ht hc => ?_, fun h => next_to ((rsqMoverReset_eq hs t).trans (if_pos h)),
    fun ht hc => ?_, fun h => next_to ((rsqPartitionReset_eq hs t).trans (if_pos h)),
    fun h hk => next_to ((glbRst_keyed hs h).trans (if_neg (not_not_intro hk))), fun h hk => next_to ((glbRst_keyed hs h).trans (if_pos hk)),
    fun ho => ⟨fun hi hr => ?_, fun h => ?_⟩, fun hb => ⟨fun h => ?_, fun h => ?_⟩⟩
  · subst ho
    exact ⟨fun hlo hhi => next_to ((snsUseroff_sensor hs hi v).trans (if_neg (not_or.mpr ⟨Int.not_lt.mpr hlo, Int.not_lt.mpr hhi⟩))),
      fun h => next_to ((snsUseroff_sensor hs hi v).trans (if_pos h))⟩
  · subst ho
    refine ⟨fun hlt hle => next_to ((snsThreshold_temperature hs v).trans (if_pos (by simp [hlt, hle]))), fun h => ?_⟩
    refine next_to ((snsThreshold_temperature hs v).trans (if_neg ?_))
    simp only [Bool.and_eq_true, decide_eq_true_eq]
    omega
  · refine next_to ((rsqMoverReset_eq hs t).trans (if_neg (not_or.mpr ⟨Nat.not_le_of_lt ht, ?_⟩)))
    exact Bool.eq_false_iff.mp hc
  · refine next_to ((rsqPartitionReset_eq hs t).trans (if_neg (not_or.mpr ⟨Nat.not_le_of_lt ht, ?_⟩)))
    exact Bool.eq_false_iff.mp hc
  · exact next_to ((govConfigWrite_eq hs ho v).trans (if_pos (Bool.and_eq_true_iff.mpr ⟨hi, hr⟩)))
  · refine next_to ((govConfigWrite_eq hs ho v).trans (if_neg fun hb => ?_))
    obtain ⟨hi, hr⟩ := Bool.and_eq_true_iff.mp hb
    exact h.elim (fun h => Bool.false_ne_true (h.symm.trans hi)) (fun h => Bool.false_ne_true (h.symm.trans hr))
  · exact next_to ((rcEmbcfg_built hs hb v).trans (if_neg (Nat.not_lt_of_le h)))
  · exact next_to ((rcEmbcfg_built hs hb v).trans (if_pos h))

/-! ### The link engine's registers -/

section
variable {s : Chip} (hs : s.takesWrites)
include hs

theorem lkCfg_ranged (hl : s.accepted.build.nlp ≠ 0) {v : Word} (h0 : fldN v 32 16 ≠ 0) (h1000 : fldN v 32 16 ≤ 1000) :
    lkCfg v s = if fldN v 0 14 ≠ fldN (s.accepted.reg Reg.lkCfg) 0 14 ∧ s.accepted.noPortEn = false then s.accepted.answer .err
      else (s.accepted.setReg Reg.lkCfg (v &&& (maskBits 32 16 ||| maskBits 0 14))).answer .ok := by
  rw [lkCfg, Chip.accept_takes hs, if_neg hl, if_neg (by omega)]

/-- The fields of LK_PCTL but EN. -/
def pctlRest : Word := maskBits 11 5 ||| maskBits 4 3 ||| maskBits 2 2

theorem lkPctl_ranged {n : Nat} (hn : n < s.accepted.build.nlp) {v : Word} (h0 : fldN v 2 2 ≠ 0) (h3 : fldN v 2 2 ≠ 3)
    (hp : fldN v 12 4 < s.accepted.build.nlp) :
    lkPctl n v s =
      let a := s.accepted
      let old := a.reg (Reg.lk n 0)
      let set := fun (s : Chip) => s.setReg (Reg.lk n 0) (v &&& (pctlRest ||| maskBits 0 1))
      if bitB old 0 = true ∧ v &&& pctlRest ≠ old &&& pctlRest then a.answer .err
      else if bitB v 0 && !bitB old 0 then ((set a).updPort n (fun p => { p with st := .waitPcs, downs := [] })).answer .ok
      else if !bitB v 0 && bitB old 0 then ((set (a.linkDown n)).updPort n (fun p => { p with st := .disabled })).answer .ok
      else (set a).answer .ok := by
  rw [lkPctl, Chip.accept_takes hs, if_neg (Nat.not_le_of_lt hn), if_neg (by omega)]
  rfl

section
variable (hl : s.accepted.build.nlp ≠ 0) {p e : Nat} (hp : p < s.accepted.build.npart) (he : e < 64)
include hl hp he

/-- A write of a target entry of the build. -/
theorem rtEntryWrite_entry (v : Word) :
    (rtEntryWrite p e 0x00 v s =
      if s.accepted.rtEn p e = true ∧ bitB v 63 = true then s.accepted.answer .err
      else if bitB v 63 = true ∧ (routeValid s.accepted.build.nlp (s.accepted.rtRoute p e) = false ∨
          routeValid s.accepted.build.nlp (s.accepted.rtRroute p e) = false ∨ s.accepted.rtSize p e = 0) then
        (s.accepted.logCtl Src.rtcfg 42).answer .err
      else (s.accepted.setReg (Reg.rt p e 0x00) (v &&& (maskBits 62 2 ||| maskBits 52 7 ||| maskBits 32 16 ||| maskBits 0 12))).answer .ok) ∧
    (rtEntryWrite p e 0x18 v s = if s.accepted.rtEn p e then s.accepted.answer .err
      else (s.accepted.setReg (Reg.rt p e 0x18) (v &&& maskBits 0 52)).answer .ok) ∧
    (rtEntryWrite p e 0x08 v s = if s.accepted.rtEn p e then s.accepted.answer .err
      else (s.accepted.setReg (Reg.rt p e 0x08) (v &&& maskBits 0 48)).answer .ok) ∧
    (rtEntryWrite p e 0x10 v s = if s.accepted.rtEn p e then s.accepted.answer .err
      else (s.accepted.setReg (Reg.rt p e 0x10) (v &&& maskBits 0 48)).answer .ok) := by
  have hin : ¬ (s.accepted.build.nlp = 0 ∨ s.accepted.build.npart ≤ p ∨ 64 ≤ e) := by omega
  refine ⟨?_, ?_, ?_, ?_⟩ <;> rw [rtEntryWrite, Chip.accept_takes hs] <;> exact if_neg hin

end

section
variable (hl : s.accepted.build.nlp ≠ 0) {w : Nat} (hw : w < 256)
include hl hw

/-- A write of a landing window. -/
theorem lwWrite_window (v : Word) :
    (lwWrite w 0x00 v s =
      if s.accepted.lwEn w = true ∧ bitB v 63 = true then s.accepted.answer .err
      else if s.accepted.build.npart ≤ fldN v 59 3 then s.accepted.answer .err
      else if bitB v 63 = true ∧ 4096 < s.accepted.slotsBut w + fldN v 53 6 + 1 then s.accepted.answer .err
      else (s.accepted.setReg (Reg.lw w 0x00) (v &&& (maskBits 53 11 ||| maskBits 0 40))).answer .ok) ∧
    (lwWrite w 0x08 v s = if s.accepted.lwEn w then s.accepted.answer .err
      else (s.accepted.setReg (Reg.lw w 0x08) (v &&& maskBits 12 36)).answer .ok) ∧
    (lwWrite w 0x10 v s = if s.accepted.lwEn w then s.accepted.answer .err
      else (s.accepted.setReg (Reg.lw w 0x10) (v &&& maskBits 0 52)).answer .ok) ∧
    (lwWrite w 0x18 v s = if s.accepted.lwEn w then s.accepted.answer .err else (s.accepted.setReg (Reg.lw w 0x18) v).answer .ok) := by
  have hin : ¬ (s.accepted.build.nlp = 0 ∨ 256 ≤ w) := by omega
  refine ⟨?_, ?_, ?_, ?_⟩ <;> rw [lwWrite, Chip.accept_takes hs] <;> exact if_neg hin

end

end

/-- Settles O52: writes of the link engine's registers. -/
theorem linkRegisters : Obligations.LinkRegisters := by
  intro s n p e w v hs hl a rest
  refine ⟨fun h0 h1000 => ⟨fun h => ?_, fun h hn => ?_⟩, fun hn h0 h3 hp => ⟨fun ho hv => ?_, fun ho hv => ?_, fun ho hne => ?_⟩,
    fun hp he => ?_, fun hw => ?_⟩
  · refine next_to ((lkCfg_ranged hs hl h0 h1000).trans (if_neg ?_))
    rintro ⟨hne, hno⟩
    exact h.elim hne fun h => Bool.false_ne_true (hno.symm.trans h)
  · exact next_to ((lkCfg_ranged hs hl h0 h1000).trans (if_pos ⟨h, hn⟩))
  · refine next_to ((lkPctl_ranged hs hn h0 h3 hp).trans ((if_neg fun h => ?_).trans (if_pos ?_)))
    · exact Bool.false_ne_true (ho.symm.trans h.1)
    · rw [hv, ho]
      rfl
  · refine next_to ((lkPctl_ranged hs hn h0 h3 hp).trans ((if_neg fun h => ?_).trans ((if_neg ?_).trans (if_neg ?_))))
    · exact Bool.false_ne_true (ho.symm.trans h.1)
    · simp [hv]
    · rw [ho, Bool.and_false]
      exact Bool.false_ne_true
  · exact next_to ((lkPctl_ranged hs hn h0 h3 hp).trans (if_pos ⟨ho, hne⟩))
  · obtain ⟨h0, h18, h8, h10⟩ := rtEntryWrite_entry hs hl hp he v
    refine ⟨fun hen => ⟨next_to (h18.trans (if_pos hen)), next_to (h8.trans (if_pos hen)), next_to (h10.trans (if_pos hen)),
      fun hv => next_to (h0.trans (if_pos ⟨hen, hv⟩))⟩, fun hen => ?_⟩
    have hoff : ¬ a.rtEn p e = true := Bool.eq_false_iff.mp hen
    refine ⟨next_to (h18.trans (if_neg hoff)), next_to (h8.trans (if_neg hoff)), next_to (h10.trans (if_neg hoff)), fun hv hbad => ?_,
      fun hv hr hrr hsz => ?_⟩
    · exact next_to (h0.trans ((if_neg fun h => hoff h.1).trans (if_pos ⟨hv, hbad⟩)))
    · refine next_to (h0.trans ((if_neg fun h => hoff h.1).trans (if_neg ?_)))
      rintro ⟨_, h | h | h⟩
      · exact Bool.false_ne_true (h.symm.trans hr)
      · exact Bool.false_ne_true (h.symm.trans hrr)
      · exact hsz h
  · obtain ⟨h0, h8, h10, h18⟩ := lwWrite_window hs hl hw v
    refine ⟨fun hen => ⟨next_to (h8.trans (if_pos hen)), next_to (h10.trans (if_pos hen)), next_to (h18.trans (if_pos hen)),
      fun hv => next_to (h0.trans (if_pos ⟨hen, hv⟩))⟩, fun hen => ?_, fun hv hp => ?_⟩
    · have hoff : ¬ a.lwEn w = true := Bool.eq_false_iff.mp hen
      exact ⟨next_to (h8.trans (if_neg hoff)), next_to (h10.trans (if_neg hoff)), next_to (h18.trans (if_neg hoff))⟩
    · have hclear : ¬ bitB v 63 = true := Bool.eq_false_iff.mp hv
      exact next_to (h0.trans ((if_neg fun h => hclear h.2).trans ((if_neg (Nat.not_le_of_lt hp)).trans (if_neg fun h => hclear h.1))))

end Sys2Proof.Machine
end

section
/-! The power-on sequence, clocks, straps, sensors (R37, R473, R532, R536, R570–R576, R580–R584, R592, R607). -/

namespace Sys2Proof.Machine

/-! ### The power-on sequence -/

theorem bitB_flag64 (b : Bool) : bitB (flag64 4 b) 4 = b := by cases b <;> decide

/-- The block with the next fuse word taken, whether or not it is the last. -/
def Chip.tookFuse (w : BitVec 32) (s : Chip) : Chip :=
  { s.setReg (Reg.fuseShd s.fuseIdx) (w.setWidth 64) with fuseIdx := s.fuseIdx + 1 }

theorem Chip.takeFuse_next {s : Chip} (h : s.fuseIdx < 63) (w : BitVec 32) : s.takeFuse w = s.tookFuse w :=
  if_pos (show s.fuseIdx + 1 < 64 by omega)

theorem Chip.takeFuse_last {s : Chip} (h : s.fuseIdx = 63) (w : BitVec 32) :
    s.takeFuse w = ({ s.setReg (Reg.fuseShd 63) (w.setWidth 64) with fuseIdx := 64 } : Chip).fusesRead := by
  refine (if_neg (show ¬ s.fuseIdx + 1 < 64 by omega)).trans ?_
  rw [h]

section
variable {s : Chip} (hr : s.pins.refclk = true)
include hr

theorem Chip.readsFuses_of (hp : s.phase = .fuses) (hi : s.fuseIdx < 64) : s.readsFuses = true := by
  simp [Chip.readsFuses, hp, hr, hi]

theorem fuseWordAck_reads (hp : s.phase = .fuses) (hi : s.fuseIdx < 64) (w : BitVec 32) : fuseWordAck w s = s.takeFuse w :=
  if_pos (Chip.readsFuses_of hr hp hi)

theorem fuseTimeout_reads (hp : s.phase = .fuses) (hi : s.fuseIdx < 64) :
    fuseTimeout s = (({ s with fuseTmo := true } : Chip).fuseReport).takeFuse 0 := if_pos (Chip.readsFuses_of hr hp hi)

theorem selfTestDone_ends (hp : s.phase = .selfTest) (pass : Bool) :
    selfTestDone pass s = if pass then { s with phase := .fuses, pins := { s.pins with alive := true, aliveLvl := true } }
      else ({ s.pinStop with phase := .selfTestFailed } : Chip).report { src := Src.selftest, kind := .sequencer, unit := 0 } :=
  if_pos ⟨hp, hr⟩

theorem clockStart_waited (hp : s.phase = .clockWait) : clockStart s = { s with phase := .march, pins := { s.pins with rclkOk := true } } :=
  (if_pos hr).trans (if_pos hp)

/-- Step 5 with no failure but those of movers. -/
theorem marchTestDone_ends (hp : s.phase = .march) (mf : Word) :
    marchTestDone mf false [] s =
      { (s.setReg Reg.stupMovfail (mf &&& maskBits 0 s.build.nmov)).loadLfsrs with phase := .readyPor, snsRef := s.time } :=
  if_pos ⟨hp, hr⟩

theorem readyPhaseDone_ends (hp : s.phase = .readyPor ∨ s.phase = .readyBlk) :
    readyPhaseDone s = ({ s.setTaps with phase := .run, pins := { s.setTaps.pins with rstDone := true } } : Chip).setF Reg.stupStat 0 1 1 :=
  if_pos ⟨hp, hr⟩

end

/-- Loading the LFSRs changes the movers alone. -/
theorem Chip.loadLfsrs_rest (s : Chip) : s.loadLfsrs.build = s.build ∧ s.loadLfsrs.regs = s.regs ∧ s.loadLfsrs.mem = s.mem := by
  have hstep : ∀ (s : Chip) m, ((s.loadLfsr m).build, (s.loadLfsr m).regs, (s.loadLfsr m).mem) = (s.build, s.regs, s.mem) := fun _ _ => rfl
  simpa [Chip.loadLfsrs] using foldl_keeps (fun s : Chip => (s.build, s.regs, s.mem)) (fun s m => s.loadLfsr m) hstep (List.range s.build.nmov) s

/-- Settles O53: the power-on sequence step by step. -/
theorem powerOnSequence : Obligations.PowerOnSequence := by
  intro s
  refine ⟨⟨porstAssert s.chip, rfl, rfl, rfl, rfl, rfl, rfl, rfl, rfl, rfl, rfl⟩, fun presenceN ftmN rclk hp => ?_,
    fun hp hr => ⟨next_to (selfTestDone_ends hr hp true), next_to (selfTestDone_ends hr hp false)⟩,
    fun w hp hr hi => next_to ((fuseWordAck_reads hr hp (by omega) w).trans (Chip.takeFuse_next hi w)),
    fun w hp hr hi => next_to ((fuseWordAck_reads hr hp (by omega) w).trans (Chip.takeFuse_last hi w)),
    fun hp hr hi => next_to (fuseTimeout_reads hr hp hi), fun hp hr => next_to (clockStart_waited hr hp), fun hp hr mf => ?_, fun hp hr => ?_⟩
  · refine ⟨_, next_to (if_pos hp), rfl, rfl, rfl, ?_⟩
    rw [Chip.reg_setReg_self, bitB_flag64]
  · obtain ⟨hbuild, hregs, hmem⟩ := (s.chip.setReg Reg.stupMovfail (mf &&& maskBits 0 s.chip.build.nmov)).loadLfsrs_rest
    refine ⟨_, next_to (marchTestDone_ends hr hp mf), rfl, ?_, hmem⟩
    exact (Chip.reg_congr hbuild hregs _).trans (Chip.reg_setReg_self ..)
  · refine ⟨_, next_to (readyPhaseDone_ends hr hp), rfl, rfl, ?_, rfl, rfl⟩
    rw [Chip.setF, Chip.reg_setReg_self, bitB, getLsbD_mergeMask]
    rfl

/-! ### Clocks and straps -/

section
variable {s : Chip} (hr : s.pins.refclk = true)
include hr

theorem clockMonitorWindow_good (hc : s.clocked = true) {n : Nat} (hlo : 97 ≤ n) (hhi : n ≤ 103) :
    clockMonitorWindow n s = { (s.setF Reg.clkStat 8 8 n).setF Reg.clkStat 1 1 1 with clkBad := false } := by
  have hbad : (decide (n < 97) || decide (103 < n)) = false := by simp; omega
  refine (if_pos ⟨hc, hr⟩).trans ?_
  simp only [hbad]
  rfl

/-- The block after a bad window. -/
def Chip.badWindow (n : Nat) (s : Chip) : Chip :=
  { ((s.setF Reg.clkStat 8 8 n).setF Reg.clkStat 1 1 0).bump Reg.clkStat 16 16 1 with clkBad := true }

theorem clockMonitorWindow_bad (hc : s.clocked = true) {n : Nat} (hn : n < 97 ∨ 103 < n) (hf : s.pins.ftm = false) :
    clockMonitorWindow n s = if s.clkBad then (s.badWindow n).report { src := Src.clkmon, kind := .sequencer, unit := 0 } else s.badWindow n := by
  have hbad : (decide (n < 97) || decide (103 < n)) = true := by simpa using hn
  have hmon : (s.badWindow n).clkmon = (s.badWindow n).report { src := Src.clkmon, kind := .sequencer, unit := 0 } :=
    if_neg (Bool.eq_false_iff.mp hf)
  refine (if_pos ⟨hc, hr⟩).trans ?_
  simp only [hbad]
  rw [← hmon]
  simp only [hf, Bool.not_false, Bool.and_self, if_true, Bool.true_and]
  rfl

theorem rclkOkLoss_clocked (hc : s.clocked = true) (hf : s.pins.ftm = false) :
    rclkOkLoss s = ({ s with pins := { s.pins with rclkOk := false } } : Chip).report { src := Src.clkmon, kind := .sequencer, unit := 0 } :=
  (if_pos hr).trans ((if_pos hc).trans (if_neg (Bool.eq_false_iff.mp hf)))

theorem hrst_armed (ha : s.pins.hrstArmed = true) (hd : bitB (s.reg Reg.stupStat) 0 = true) :
    hrst s = ({ s with pins := { s.pins with hrstArmed := false } } : Chip).request { kind := .block, obj := 0, origin := .hrst } :=
  if_pos ⟨ha, hr, hd⟩

end

theorem hrst_ignored {s : Chip} (h : s.pins.hrstArmed = false ∨ bitB (s.reg Reg.stupStat) 0 = false) : hrst s = s := by
  refine if_neg ?_
  rintro ⟨ha, _, hd⟩
  exact h.elim (fun h => Bool.false_ne_true (h.symm.trans ha)) (fun h => Bool.false_ne_true (h.symm.trans hd))

/-! ### Sensors -/

/-- VALUE is saturated to 16 bits. -/
theorem snsReading_range (trim : Nat) (u raw : Int) : -32768 ≤ snsReading trim u raw ∧ snsReading trim u raw ≤ 32767 := by
  simp only [snsReading]
  generalize (raw * (1024 + sextN 6 (trim / 1024)) + 512) / 1024 + sextN 10 trim + u = v
  split
  · decide
  · split
    · decide
    · omega

section
variable {s : Chip} (hp : s.phase = .run) {i : Nat} (hi : i < 20)
include hp hi

/-- The block with a conversion of a sensor written. -/
def Chip.converted (i : Nat) (raw : BitVec 16) (s : Chip) : Chip :=
  { (s.setF (snsReg i) 16 16 raw.toNat).setF (snsReg i) 0 16
      (BitVec.ofInt 16 (snsReading (s.trim i) (sextN 16 (s.regF (snsReg i) 32 16)) (sextN 16 raw.toNat))).toNat with
    snsAt := Tab.set 0 i (s.time + 1) s.snsAt }

omit hi in
theorem Chip.clocked_of_run : s.clocked = true ∧ s.phase ≠ .march ∧ s.phase ≠ .blkReset := by simp [Chip.clocked, hp]

theorem sensorConversion_run (raw : BitVec 16) :
    sensorConversion i raw s = (if rawOk i (sextN 16 raw.toNat) then s.converted i raw else (s.converted i raw).snsFail i).evalEnv i := by
  obtain ⟨hc, hm, hb⟩ := Chip.clocked_of_run hp
  exact if_pos ⟨hc, hm, hb, hi⟩

theorem sensorStale_run : sensorStale i s = if s.snsStale i then (s.snsFail i).evalEnv i else s := by
  obtain ⟨hc, hm, hb⟩ := Chip.clocked_of_run hp
  exact if_congr (by simp [hc, hm, hb, hi]) rfl rfl

end

/-- Settles O54: clocks, straps, ALIVE_O, HRST_N and sensors. -/
theorem clocksAndSensors : Obligations.ClocksAndSensors := by
  refine ⟨fun s n level hr => ⟨fun hc hlo hhi => next_to (clockMonitorWindow_good hr hc hlo hhi), fun hc hn hf => ⟨fun hb => ?_, fun hb => ?_⟩,
      fun hc hf => next_to (rclkOkLoss_clocked hr hc hf), ⟨_, next_to (if_pos hr), rfl, rfl, rfl, rfl, rfl⟩, fun ha => next_to (if_pos ⟨ha, hr⟩),
      fun ha => next_to (if_neg fun h => Bool.false_ne_true (ha.symm.trans h.1)), rfl, fun ha hd => next_to (hrst_armed hr ha hd),
      fun h => next_to (hrst_ignored h), next_to (if_pos hr)⟩,
    snsReading_range, fun s i raw hp hi => ⟨fun h => ?_, fun h => ?_, fun h => ?_, fun h => ?_, fun h => if_pos h⟩⟩
  · exact next_to ((clockMonitorWindow_bad hr hc hn hf).trans (if_neg (Bool.eq_false_iff.mp hb)))
  · exact next_to ((clockMonitorWindow_bad hr hc hn hf).trans (if_pos hb))
  · exact next_to ((sensorConversion_run hp hi raw).trans (congrArg (Chip.evalEnv i) (if_pos h)))
  · exact next_to ((sensorConversion_run hp hi raw).trans (congrArg (Chip.evalEnv i) (if_neg (Bool.eq_false_iff.mp h))))
  · exact next_to ((sensorStale_run hp hi).trans (if_pos h))
  · exact next_to ((sensorStale_run hp hi).trans (if_neg (Bool.eq_false_iff.mp h)))

end Sys2Proof.Machine
end

section
/-! The report of a missed deadline (R481): the mover that it names, and a counterexample to the statement about the rungs. -/

namespace Sys2Proof.Machine

/-- A report folded into held ones is never held alone as another report, unfolded. -/
theorem foldReport_eq_singleton {r q : Report} {l : List PendRep} (h : foldReport r l = [{ rep := q }]) : r = q := by
  cases l with
  | nil => exact congrArg PendRep.rep (List.cons.inj h).1
  | cons p l =>
    rw [foldReport] at h
    split at h
    · exact absurd (congrArg PendRep.folded (List.cons.inj h).1) (Nat.succ_ne_zero _)
    · cases l with
      | nil => exact absurd (List.cons.inj h).2 (List.cons_ne_nil _ _)
      | cons p' l =>
        rw [foldReport] at h
        split at h <;> exact absurd (List.cons.inj h).2 (List.cons_ne_nil _ _)

/-- A report that is the only one held, unfolded, while nothing is masked, was reported as it stands. -/
theorem Chip.eq_of_report_held {t : Chip} {r q : Report} (hk : r.kind ≠ .mover) (hu : (t.report r).fc.units = [])
    (hp : (t.report r).fc.pend = [{ rep := q }]) : r = q := by
  have hunits : (t.report r).fc.units = t.fc.units := by
    rw [Chip.report]
    split <;> rfl
  have hmask : t.pairMasked r = false := by
    rw [Chip.pairMasked, Chip.unitStat, ← hunits, hu]
    rfl
  have hnamed : t.named r = r := if_neg fun h => hk h.2
  rw [Chip.report, if_neg (Bool.eq_false_iff.mp hmask), hnamed] at hp
  exact foldReport_eq_singleton hp

/-- The number of a mover whose field among those of PART_MOV is bits [34:32] of RSQ_STAT. -/
def farMover : Nat := 2 ^ 20 + 8

/-- A block with a rung for that mover. -/
def farRungState : State :=
  { State.reset with chip := { State.reset.chip with rsq := { State.reset.chip.rsq with
      rungs := [{ kind := .mover, obj := farMover, origin := .host }] } } }

/-- Refutes O55: the rung of mover 2^20 + 8 misses its deadline. The count of missed deadlines in RSQ_STAT is where that mover's
partition would stand, so that the report before the count names partition 0, and the one after it partition 1. -/
theorem not_recoveryRungs : ¬ Obligations.RecoveryRungs := by
  intro h
  obtain ⟨-, -, hdeadline, -⟩ := h farRungState
  obtain ⟨t, hexec, -⟩ := hdeadline (.mover farMover) rfl (by decide)
  have hto : rungDeadline (.mover farMover) farRungState.chip = t.report (t.deadlineReport (.mover farMover)) :=
    congrArg State.chip (Host.Outcome.next.inj hexec)
  have hregs : t.reg (Reg.partMov (farMover / 16)) =
      (rungDeadline (.mover farMover) farRungState.chip).reg (Reg.partMov (farMover / 16)) := by
    rw [hto, Chip.report]
    split <;> rfl
  have hafter : t.movPart farMover = 1 := by
    rw [Chip.movPart, Chip.regF, hregs]
    decide
  have hunits : (rungDeadline (.mover farMover) farRungState.chip).fc.units = [] := by decide
  have hpend : (rungDeadline (.mover farMover) farRungState.chip).fc.pend =
      [{ rep := farRungState.chip.deadlineReport (.mover farMover) }] := by decide
  have hheld : t.deadlineReport (.mover farMover) = farRungState.chip.deadlineReport (.mover farMover) :=
    Chip.eq_of_report_held (fun hk => nomatch hk) (hto ▸ hunits) (hto ▸ hpend)
  have hpart : some (t.movPart farMover) = some (farRungState.chip.movPart farMover) := congrArg Report.part hheld
  have hbefore : farRungState.chip.movPart farMover = 0 := by decide
  rw [hafter, hbefore] at hpart
  exact absurd hpart (by decide)

end Sys2Proof.Machine
end

section
/-! A link port trains, comes UP and goes down (R401, R406, R414–R416, R561). -/

namespace Sys2Proof.Machine

/-! ### One port -/

@[simp] theorem Chip.portAt_updPort_self (s : Chip) (n : Nat) (f : LinkPort → LinkPort) : (s.updPort n f).portAt n = f (s.portAt n) :=
  (Tab.get_upd ..).trans (if_pos rfl)

theorem Chip.portUp_iff {s : Chip} {n : Nat} : s.portUp n = true ↔ (s.portAt n).st = .up := by
  rw [Chip.portUp, beq_iff_eq]

theorem Chip.trains_iff {s : Chip} {n : Nat} : s.trains n = true ↔ (s.portAt n).st = .training ∧ (s.portAt n).retryAt = none := by
  rw [Chip.trains, Bool.and_eq_true, beq_iff_eq, Option.isNone_iff_eq_none]

/-! ### The epoch of two ends -/

/-- R415: of two different 16-bit numbers that are not 2^15 apart exactly one is later; both ends see the same. -/
theorem agreeEpoch_comm {e f : Nat} (freshE freshF : Bool) {chipE chipF : Nat} (_ : e < 65536) (_ : f < 65536) (hne : chipE ≠ chipF) :
    agreeEpoch e f freshE freshF chipE chipF = agreeEpoch f e freshF freshE chipF chipE := by
  have hequal : ∀ fresh : Bool, agreeEpoch e f fresh fresh chipE chipF = agreeEpoch f e fresh fresh chipF chipE := by
    intro fresh
    simp only [agreeEpoch, Bool.and_not_self, Bool.false_eq_true, if_false, Bool.and_eq_true, decide_eq_true_eq]
    split <;> split <;> grind
  cases freshE <;> cases freshF
  case false.false => exact hequal false
  case true.true => exact hequal true
  case false.true => simp [agreeEpoch]
  case true.false => simp [agreeEpoch]

/-! ### Training -/

theorem pcsLock_waits {s : Chip} {n : Nat} (hn : n < s.build.nlp) (hen : s.lkEn n = true) (hst : (s.portAt n).st = .waitPcs)
    (lanes : BitVec 8) : pcsLock n lanes s =
      if ((s.updPort n fun p => { p with lanes := lanes }).widths n).isEmpty then s.updPort n fun p => { p with lanes := lanes }
      else (s.updPort n fun p => { p with lanes := lanes }).beginTraining n := by
  have hlives : ¬ (s.build.nlp ≤ n ∨ s.lkEn n = false) := by simp [hn, hen]
  simp only [pcsLock, if_neg hlives, hst]

theorem trainRetry_at {s : Chip} {n t : Nat} (hr : (s.portAt n).retryAt = some t) :
    trainRetry n s = if (s.portAt n).st = .training ∧ t ≤ s.time then s.beginTraining n else s := by
  simp only [trainRetry, hr]

theorem train_trains {s : Chip} {n : Nat} (ht : s.trains n = true) {f : Frame} (hty : hType f.hdr = 15) (hop : hOp f.hdr = 2)
    (hok : Frame.checks f 0 = true) (hz : fldN f.hdr 24 55 = 0) (hstep : fldN f.hdr 80 2 < 2) : train n f s = s.trainFrame n f.hdr := by
  have hst := (Chip.trains_iff.mp ht).1
  have hgood : ¬ (hType f.hdr ≠ 15 ∨ hOp f.hdr ≠ 2 ∨ Frame.checks f 0 = false) := by simp [hty, hop, hok]
  have hform : ¬ (fldN f.hdr 24 55 ≠ 0 ∨ 2 ≤ fldN f.hdr 80 2) := by omega
  simp only [train, if_neg hgood, hst, ht, Bool.true_eq_false, if_false, if_neg hform]

theorem Chip.trainFrame_fails {s : Chip} {n : Nat} {h : BitVec 128}
    (hbad : s.commonWidth n (fldN h 88 2) = none ∨ fldN h 108 12 = s.chipId ∨ fldN h 90 2 ≠ s.lkGen n) :
    s.trainFrame n h = s.trainFails n := by
  cases hw : s.commonWidth n (fldN h 88 2) with
  | none => simp only [Chip.trainFrame, hw]
  | some w => simp only [Chip.trainFrame, hw, if_pos (hbad.resolve_left (by simp [hw]))]

/-- What a port learns of its peer from a TRAIN frame. -/
def Chip.meets (n : Nat) (h : BitVec 128) (w : Nat) (s : Chip) : Chip :=
  s.updPort n fun p => { p with peerChip := fldN h 108 12, peerPort := fldN h 84 4, peerZc := bitB h 83, peerDel := bitB h 82,
                                genUp := s.lkGen n, wUp := w }

theorem Chip.trainFrame_proposal {s : Chip} {n w : Nat} {h : BitVec 128} (hw : s.commonWidth n (fldN h 88 2) = some w)
    (hchip : fldN h 108 12 ≠ s.chipId) (hgen : fldN h 90 2 = s.lkGen n) (hstep : fldN h 80 2 = 0) :
    s.trainFrame n h =
      (((s.meets n h w).sendTrain n 1 (agreeEpoch (s.portAt n).proposal (fldN h 92 16) (s.portAt n).fresh (bitB h 79) s.chipId (fldN h 108 12))).updPort n
        fun p => { p with sent1 := some (agreeEpoch (s.portAt n).proposal (fldN h 92 16) (s.portAt n).fresh (bitB h 79) s.chipId (fldN h 108 12)) }).goUp n := by
  have hpeer : ¬ (fldN h 108 12 = s.chipId ∨ fldN h 90 2 ≠ s.lkGen n) := by simp [hchip, hgen]
  simp only [Chip.trainFrame, hw, if_neg hpeer, hstep, Chip.portAt_updPort_self]
  rfl

theorem Chip.trainFrame_agreed {s : Chip} {n w : Nat} {h : BitVec 128} (hw : s.commonWidth n (fldN h 88 2) = some w)
    (hchip : fldN h 108 12 ≠ s.chipId) (hgen : fldN h 90 2 = s.lkGen n) (hstep : fldN h 80 2 = 1) :
    s.trainFrame n h = ((s.meets n h w).updPort n fun p => { p with got1 := some (fldN h 92 16) }).goUp n := by
  have hpeer : ¬ (fldN h 108 12 = s.chipId ∨ fldN h 90 2 ≠ s.lkGen n) := by simp [hchip, hgen]
  simp only [Chip.trainFrame, hw, if_neg hpeer, hstep]
  rfl

/-- A port whose ends agree on E is UP with E. -/
theorem Chip.portAt_goUp {s : Chip} {n e : Nat} (hsent : (s.portAt n).sent1 = some e) (hgot : (s.portAt n).got1 = some e) :
    (s.goUp n).portAt n = { s.portAt n with
      st := .up, oldEpoch := if (s.portAt n).fresh then none else some (s.portAt n).epoch, epoch := e, fresh := false, txSeq := 0, rxSeq := 0,
      nacked := false, cred0 := 128, cred1 := 128, freed0 := 0, freed1 := 0, since := 0, retries := 0, lastRx := s.time,
      lastSent := s.time, laneTx0 := s.time, laneTx1 := s.time } := by
  have hboth : (s.portAt n).sent1.isSome ∧ (s.portAt n).sent1 = (s.portAt n).got1 := by simp [hsent, hgot]
  have hraise : ∀ t : Chip, (t.raise (608 + n) false).portAt n = t.portAt n := fun _ => rfl
  rw [Chip.goUp]
  simp only [if_pos hboth, hraise, Chip.portAt_updPort_self]
  rw [hsent, Option.getD_some]

/-! ### Ports that go down -/

theorem laneLockLoss_kept {s : Chip} {n : Nat} {lanes : BitVec 8} (h : (s.portAt n).lanes &&& ~~~lanes = 0) : laneLockLoss n lanes s = s :=
  if_pos h

theorem laneLockLoss_up {s : Chip} {n : Nat} {lanes : BitVec 8} (hst : (s.portAt n).st = .up) (h : (s.portAt n).lanes &&& ~~~lanes ≠ 0) :
    laneLockLoss n lanes s = ((s.updPort n fun p => { p with lanes := p.lanes &&& lanes }).linkDown n).linkReport n Src.lanedeg := by
  simp only [laneLockLoss, if_neg h, hst]

theorem laneLockLoss_training {s : Chip} {n : Nat} {lanes : BitVec 8} (hst : (s.portAt n).st = .training)
    (h : (s.portAt n).lanes &&& ~~~lanes ≠ 0) (hw : (s.updPort n fun p => { p with lanes := p.lanes &&& lanes }).widths n = []) :
    laneLockLoss n lanes s = (s.updPort n fun p => { p with lanes := p.lanes &&& lanes }).updPort n fun p => { p with st := .waitPcs } := by
  simp only [laneLockLoss, if_neg h, hst, hw, List.isEmpty_nil, if_true]

theorem Chip.pcsDown_up {s : Chip} {n : Nat} (hst : (s.portAt n).st = .up) (src : Nat) :
    s.pcsDown n src = (s.linkDown n).linkReport n src := by
  simp only [Chip.pcsDown, hst]

theorem Chip.pcsDown_training {s : Chip} {n : Nat} (hst : (s.portAt n).st = .training) (src : Nat) :
    s.pcsDown n src = (s.updPort n fun p => { p with st := .waitPcs }).linkReport n src := by
  simp only [Chip.pcsDown, hst]

/-- Settles O56: the epochs that two ends compute, training by the frame's step, and the four ways down. -/
theorem linkStates : Obligations.LinkStates := by
  refine ⟨⟨fun e f a b c d => agreeEpoch_comm a b, fun s n lanes f => ?_⟩, fun s n lanes => ?_⟩
  · intro p
    refine ⟨fun hn hen hst => ⟨fun hw => ?_, fun hw => ?_⟩, fun hst hr => ⟨?_, fun ht => ?_, fun ht => ?_⟩,
      fun t hst hr => ⟨fun ht => ?_, fun ht => ?_⟩, fun hst hr hty hop hok hz => ?_, fun e hsent hgot t ht => ?_⟩
    · exact next_to ((pcsLock_waits hn hen hst lanes).trans (if_pos (List.isEmpty_iff.mpr hw)))
    · exact next_to ((pcsLock_waits hn hen hst lanes).trans (if_neg (mt List.isEmpty_iff.mp hw)))
    · exact next_to (if_pos (Chip.trains_iff.mpr ⟨hst, hr⟩))
    · exact next_to (if_pos ⟨Chip.trains_iff.mpr ⟨hst, hr⟩, ht⟩)
    · exact next_to (if_neg fun h => Nat.not_le.mpr ht h.2)
    · exact next_to ((trainRetry_at hr).trans (if_pos ⟨hst, ht⟩))
    · exact next_to ((trainRetry_at hr).trans (if_neg fun h => Nat.not_le.mpr ht h.2))
    · have htrain := fun hstep => train_trains (Chip.trains_iff.mpr ⟨hst, hr⟩) hty hop hok hz hstep
      refine ⟨fun hstep hbad => ?_, fun w hw hchip hgen => ⟨fun hstep => ?_, fun hstep => ?_⟩⟩
      · exact next_to ((htrain hstep).trans (Chip.trainFrame_fails hbad))
      · exact next_to ((htrain (by omega)).trans (Chip.trainFrame_proposal hw hchip hgen hstep))
      · exact next_to ((htrain (by omega)).trans (Chip.trainFrame_agreed hw hchip hgen hstep))
    · subst ht
      rw [Chip.portAt_goUp hsent hgot]
      exact ⟨rfl, rfl, rfl, rfl, rfl, rfl, rfl⟩
  · intro p t
    refine ⟨fun hst => ⟨fun ht => ?_, fun ht => ?_, fun hl => ?_, ?_, ?_, ?_⟩, fun hl => ?_, fun hst => ⟨fun hl hw => ?_, ?_, ?_⟩⟩
    · exact next_to (if_pos ⟨Chip.portUp_iff.mpr hst, ht⟩)
    · exact next_to (if_neg fun h => Nat.not_le.mpr ht h.2)
    · exact next_to (laneLockLoss_up hst hl)
    · exact next_to (Chip.pcsDown_up hst _)
    · exact next_to (Chip.pcsDown_up hst _)
    · exact if_pos (Chip.portUp_iff.mpr hst)
    · exact next_to (laneLockLoss_kept hl)
    · exact next_to (laneLockLoss_training hst hl hw)
    · exact next_to (Chip.pcsDown_training hst _)
    · exact next_to (Chip.pcsDown_training hst _)

end Sys2Proof.Machine
end

section
/-! Data frames, hop control and the forward watchdog of a port (R405, R411–R414, R416). -/

namespace Sys2Proof.Machine

/-- A frame that passes its checks has been heard. -/
def Chip.hearsFrame (n : Nat) (s : Chip) : Chip := s.updPort n fun p => { p with lastRx := s.time }

theorem Chip.portAt_hearsFrame (s : Chip) (n : Nat) : (s.hearsFrame n).portAt n = { s.portAt n with lastRx := s.time } := Chip.portAt_updPort_self ..

/-! ### The checks of a frame -/

theorem Chip.frameCheck_good {s : Chip} {n : Nat} {f : Frame} (hw : Frame.whole f = true) (hc : Frame.checks f (s.portAt n).epoch = true) :
    s.frameCheck n f = (s.hearsFrame n, true) := by
  simp only [Chip.frameCheck, hw, hc, Bool.and_self, if_true]
  rfl

theorem Chip.frameCheck_cut {s : Chip} {n : Nat} {f : Frame} (hw : Frame.whole f = false) : s.frameCheck n f = (s.crcFail n, false) := by
  simp only [Chip.frameCheck, hw, Bool.false_and, Bool.false_eq_true, if_false]

theorem Chip.frameCheck_old {s : Chip} {n e : Nat} {f : Frame} (hw : Frame.whole f = true)
    (hc : Frame.checks f (s.portAt n).epoch = false) (he : (s.portAt n).oldEpoch = some e) (hold : Frame.checks f e = true) :
    s.frameCheck n f = (s.bump (Reg.lk n 0x10) 32 16 1, false) := by
  simp only [Chip.frameCheck, hw, hc, he, hold, Bool.and_false, Bool.and_true, Bool.false_eq_true, if_false, if_true]

theorem Chip.frameCheck_bad {s : Chip} {n : Nat} {f : Frame} (hw : Frame.whole f = true) (hc : Frame.checks f (s.portAt n).epoch = false)
    (hold : ∀ e, (s.portAt n).oldEpoch = some e → Frame.checks f e = false) : s.frameCheck n f = (s.crcFail n, false) := by
  cases he : (s.portAt n).oldEpoch with
  | none => simp only [Chip.frameCheck, hw, hc, he, Bool.and_false, Bool.false_eq_true, if_false]
  | some e => simp only [Chip.frameCheck, hw, hc, he, hold e he, Bool.and_false, Bool.false_eq_true, if_false]

/-! ### Data frames -/

section
variable {s : Chip} {n : Nat} {f : Frame}

theorem frameForward_refused {t : Chip} (hup : (s.portAt n).st = .up) (hlo : 1 ≤ hType f.hdr) (hhi : hType f.hdr ≤ 7)
    (hc : s.frameCheck n f = (t, false)) : frameForward n f s = t := by
  have hdata : ¬ (s.portUp n = false ∨ hType f.hdr = 15) := by simp [Chip.portUp_iff.mpr hup]; omega
  have htype : ¬ (hType f.hdr = 0 ∨ 8 ≤ hType f.hdr) := by omega
  simp only [frameForward, if_neg hdata, if_neg htype, hc]

theorem frameForward_passed {t : Chip} (hup : (s.portAt n).st = .up) (hlo : 1 ≤ hType f.hdr) (hhi : hType f.hdr ≤ 7)
    (hc : s.frameCheck n f = (t, true)) : frameForward n f s = t.takeFrame n f := by
  have hdata : ¬ (s.portUp n = false ∨ hType f.hdr = 15) := by simp [Chip.portUp_iff.mpr hup]; omega
  have htype : ¬ (hType f.hdr = 0 ∨ 8 ≤ hType f.hdr) := by omega
  simp only [frameForward, if_neg hdata, if_neg htype, hc]

/-- How far a frame's number is ahead of the expected one. -/
def LinkPort.ahead (p : LinkPort) (f : Frame) : Nat := (hSeq f.hdr + 512 - p.rxSeq) % 512

/-- The frame that is next is counted, and goes on its way. -/
def Chip.acceptFrame (n : Nat) (f : Frame) (s : Chip) : Chip :=
  ((s.updPort n fun p => { p with rxSeq := (p.rxSeq + 1) % 512, nacked := false, since := p.since + 1 }).bump (Reg.lk n 0x18) 32 32 1).routeFrame n f

theorem Chip.takeFrame_next (hd : (s.portAt n).ahead f = 0) (hroom : (s.portAt n).taken (hVl f.hdr) < 128) :
    s.takeFrame n f =
      if 32 ≤ ((s.acceptFrame n f).portAt n).since ∧ (s.acceptFrame n f).portUp n = true then (s.acceptFrame n f).sendCredit n else s.acceptFrame n f := by
  have hback : ¬ 256 ≤ (s.portAt n).ahead f := by omega
  have hfull : ¬ 128 ≤ (s.portAt n).taken (hVl f.hdr) := by omega
  exact (if_neg hback).trans ((if_neg fun h => h hd).trans (if_neg hfull))

theorem Chip.takeFrame_again (hd : 256 ≤ (s.portAt n).ahead f) : s.takeFrame n f = s.sendCredit n := if_pos hd

theorem Chip.takeFrame_skips (hd : (s.portAt n).ahead f ≠ 0) (hlt : (s.portAt n).ahead f < 256) : s.takeFrame n f = s.crcFail n :=
  (if_neg (Nat.not_le.mpr hlt)).trans (if_pos hd)

/-! ### Hop control -/

theorem Chip.ctlFrame_runs {mask : Nat} (body : Chip → Chip) {op : Nat} (hop : op < 2) (hup : (s.portAt n).st = .up) (hty : hType f.hdr = 15)
    (hw : Frame.whole f = true) (hc : Frame.checks f (s.portAt n).epoch = true) (ho : hOp f.hdr = op)
    (hform : f.hdr &&& BitVec.ofNat 128 (2 ^ 120 - 2 ^ 24) &&& ~~~(BitVec.ofNat 128 mask) = 0) :
    s.ctlFrame n op mask f body = body (s.hearsFrame n) := by
  have hctl : ¬ (s.portUp n = false ∨ hType f.hdr ≠ 15 ∨ (hOp f.hdr = 2 ∧ op ≠ 2)) := by
    simp [Chip.portUp_iff.mpr hup, hty, ho]
  have hknown : ¬ 3 ≤ hOp f.hdr := by omega
  rw [Chip.ctlFrame, if_neg hctl, Chip.frameCheck_good hw hc]
  exact (if_neg hknown).trans ((if_neg fun h => h ho).trans (if_neg fun h => h hform))

theorem LinkPort.outstanding_heard (p : LinkPort) (t q : Nat) : ({ p with lastRx := t } : LinkPort).outstanding q = p.outstanding q := rfl

theorem replayTimer_head {e : EgFrame} (hup : (s.portAt n).st = .up) (he : (s.portAt n).unacked.head? = some e) :
    replayTimer n s = if e.at_ + 100 ≤ s.time then s.resend n (s.portAt n).una else s := by
  simp only [replayTimer, if_pos (Chip.portUp_iff.mpr hup), he]

end

/-! ### The forward watchdog -/

/-- The frames that wait at a lane. -/
def LinkPort.waiting (p : LinkPort) (vl : Nat) : List EgFrame := p.egress.filter fun e => e.waits && e.vl == vl

/-- The lane has sent nothing, and one of its frames has waited, for 1 ms. -/
def Chip.stalled (s : Chip) (n vl : Nat) : Bool :=
  s.portUp n && !((s.portAt n).waiting vl).isEmpty && ((s.portAt n).waiting vl).any (fun e => decide (e.at_ + 100000 ≤ s.time)) &&
    decide ((if vl = 0 then (s.portAt n).laneTx0 else (s.portAt n).laneTx1) + 100000 ≤ s.time)

theorem Chip.stalled_of {s : Chip} {n vl : Nat} (hup : (s.portAt n).st = .up)
    (hold : ∃ e ∈ (s.portAt n).waiting vl, e.at_ + 100000 ≤ s.time)
    (htx : (if vl = 0 then (s.portAt n).laneTx0 else (s.portAt n).laneTx1) + 100000 ≤ s.time) : s.stalled n vl = true := by
  obtain ⟨e, he, ht⟩ := hold
  have hany : ((s.portAt n).waiting vl).any (fun e => decide (e.at_ + 100000 ≤ s.time)) = true :=
    List.any_eq_true.mpr ⟨e, he, decide_eq_true ht⟩
  have hne : ((s.portAt n).waiting vl).isEmpty = false := List.isEmpty_eq_false_iff.mpr (List.ne_nil_of_mem he)
  rw [Chip.stalled, Chip.portUp_iff.mpr hup, hne, hany, decide_eq_true htx]
  rfl

theorem Chip.not_stalled_of {s : Chip} {n vl : Nat} (hnew : ∀ e ∈ (s.portAt n).waiting vl, s.time < e.at_ + 100000) :
    s.stalled n vl = false := by
  have hany : ((s.portAt n).waiting vl).any (fun e => decide (e.at_ + 100000 ≤ s.time)) = false :=
    List.any_eq_false.mpr fun e he => by simpa using hnew e he
  rw [Chip.stalled, hany, Bool.and_false, Bool.false_and]

/-- Settles O58: a data frame by its check and its number, CREDIT and NACK frames, the timers and the watchdog of a port that is UP. -/
theorem hopFrames : Obligations.HopFrames := by
  refine ⟨fun s n f => ?_, fun s n vl f => ?_⟩
  · intro p d hup hlo hhi
    refine ⟨fun hw => ?_, fun hw hc => ?_, fun hw hc => ⟨fun e he hold => ?_, fun he => ?_, fun e he hold => ?_⟩⟩
    · exact next_to (frameForward_refused hup hlo hhi (Chip.frameCheck_cut hw))
    · have hpass := frameForward_passed hup hlo hhi (Chip.frameCheck_good hw hc)
      intro a
      have hahead : (a.portAt n).ahead f = d := (Chip.portAt_hearsFrame s.chip n).symm ▸ rfl
      have htaken : (a.portAt n).taken (hVl f.hdr) = p.taken (hVl f.hdr) := (Chip.portAt_hearsFrame s.chip n).symm ▸ rfl
      refine ⟨fun hd hroom => ?_, fun hd => ?_, fun hd hlt => ?_⟩
      · exact next_to (hpass.trans (Chip.takeFrame_next (hahead.trans hd) (htaken.trans_lt hroom)))
      · exact next_to (hpass.trans (Chip.takeFrame_again (hd.trans_eq hahead.symm)))
      · exact next_to (hpass.trans (Chip.takeFrame_skips (fun h => hd (hahead.symm.trans h)) (hahead.trans_lt hlt)))
    · exact next_to (frameForward_refused hup hlo hhi (Chip.frameCheck_old hw hc he hold))
    · exact next_to (frameForward_refused hup hlo hhi (Chip.frameCheck_bad hw hc fun e h => nomatch he.symm.trans h))
    · exact next_to (frameForward_refused hup hlo hhi (Chip.frameCheck_bad hw hc fun e' h => Option.some.inj (he.symm.trans h) ▸ hold))
  · intro p hup a out
    have hheard : ∀ q, ((s.chip.hearsFrame n).portAt n).outstanding q = p.outstanding q := fun q => by
      rw [Chip.portAt_hearsFrame, LinkPort.outstanding_heard]
    refine ⟨fun hty hw hc => ⟨fun hop hform hq => ?_, fun hop hform hq => ?_⟩, fun e he => ⟨fun ht => ?_, fun ht => ?_⟩, ?_, ?_,
      fun hold htx => ?_, fun hnew => ?_⟩
    · refine next_to ((Chip.ctlFrame_runs _ (by omega) hup hty hw hc hop hform).trans ?_)
      refine (if_neg (Bool.eq_false_iff.not_left.mpr ((hheard _).trans hq))).trans ?_
      rw [Chip.portAt_hearsFrame]
      rfl
    · refine next_to ((Chip.ctlFrame_runs _ (by omega) hup hty hw hc hop hform).trans ?_)
      exact if_pos ((hheard _).trans hq)
    · exact next_to ((replayTimer_head hup he).trans (if_pos ht))
    · exact next_to ((replayTimer_head hup he).trans (if_neg (Nat.not_le.mpr ht)))
    · exact next_to (if_pos (Chip.portUp_iff.mpr hup))
    · exact next_to (if_pos (Chip.portUp_iff.mpr hup))
    · exact next_to (if_pos (Chip.stalled_of hup hold htx))
    · exact next_to (if_neg (Bool.eq_false_iff.mp (Chip.not_stalled_of hnew)))

end Sys2Proof.Machine
end

section
/-! Messages that land, completions at their sender, delegated requests at their owner (R348, R411, R420–R430). -/

namespace Sys2Proof.Machine

/-! ### A delivered frame is handed over (R411) -/

/-- A frame leaves its ingress slot. -/
def Chip.handedOver (n : Nat) (i : InFrame) (s : Chip) : Chip :=
  (s.updPort n fun p => { p with ingress := p.ingress.erase i }).freeIngress n i.vl

theorem Chip.onFrame_delivered {s : Chip} {n ty : Nat} {i : InFrame} (hi : (s.portAt n).ingress.find? (fun i => i.egress.isNone) = some i)
    (hty : hType i.f.hdr = ty) (body : Frame → Chip → Chip) : s.onFrame n ty body = body i.f (s.handedOver n i) := by
  simp only [Chip.onFrame, Chip.takeDelivered, hi, hty, if_true]
  rfl

section
variable (s : Chip) (n : Nat) (i : InFrame)

theorem Chip.handedOver_build : (s.handedOver n i).build = s.build := rfl
theorem Chip.handedOver_regs : (s.handedOver n i).regs = s.regs := rfl
theorem Chip.handedOver_time : (s.handedOver n i).time = s.time := rfl
theorem Chip.handedOver_lands : (s.handedOver n i).link.lands = s.link.lands := rfl
theorem Chip.handedOver_delegs : (s.handedOver n i).link.delegs = s.link.delegs := rfl
theorem Chip.handedOver_msgs : (s.handedOver n i).link.msgs = s.link.msgs := rfl

theorem Chip.reg_handedOver (r : Nat) : (s.handedOver n i).reg r = s.reg r := by
  rw [Chip.reg, Chip.handedOver_build, Chip.handedOver_regs, ← Chip.reg]

theorem Chip.delegOut_handedOver (tag : Nat) : (s.handedOver n i).delegOut tag = s.delegOut tag := by
  rw [Chip.delegOut, Chip.handedOver_msgs, ← Chip.delegOut]

theorem Chip.lwUsed_handedOver (w : Nat) : (s.handedOver n i).lwUsed w = s.lwUsed w := by
  rw [Chip.lwUsed, Chip.handedOver_lands, Chip.handedOver_delegs, ← Chip.lwUsed]

theorem Chip.landAt_handedOver (src tag : Nat) : (s.handedOver n i).landAt src tag = s.landAt src tag := by
  rw [Chip.landAt, Chip.handedOver_lands, ← Chip.landAt]

theorem Chip.msgOfTag_handedOver (tag : Nat) : (s.handedOver n i).msgOfTag tag = s.msgOfTag tag := by
  rw [Chip.msgOfTag, Chip.handedOver_msgs, ← Chip.msgOfTag]

theorem Chip.delegOfTag_handedOver (tag : Nat) :
    (s.handedOver n i).link.msgs.find? (fun m => m.deleg && m.mtag == tag) = s.link.msgs.find? (fun m => m.deleg && m.mtag == tag) := by
  rw [Chip.handedOver_msgs]

theorem Chip.msgAt_handedOver (id : Nat) : (s.handedOver n i).msgAt id = s.msgAt id := by
  rw [Chip.msgAt, Chip.handedOver_msgs, ← Chip.msgAt]

end

/-! ### SHEAD (R420, R421) -/

section
variable {s : Chip} {n : Nat} {f : Frame}

/-- The fields of a SHEAD that no rule gives a use are 0, and its return route is valid. -/
def Frame.wholeHead (f : Frame) : Prop :=
  fldN (Frame.word f 28) 48 16 = 0 ∧ fldN (Frame.word f 29) 48 15 = 0 ∧ fldN (Frame.word f 30) 19 45 = 0 ∧ fldN (Frame.word f 31) 13 51 = 0 ∧
    routeValid 16 (fldN (Frame.word f 28) 0 48) = true

/-- The landing's DELEG is not outstanding. -/
def Chip.strays (s : Chip) (l : Land) : Prop := l.dres = true ∧ s.delegOut l.dmtag = false

/-- The landing is listed, in the place of an earlier one of its source and tag. -/
def Chip.opens (l : Land) (s : Chip) : Chip :=
  { s with link := { s.link with lands := s.link.lands.filter (fun x => !(x.src == l.src && x.mtag == l.mtag)) ++ [l] } }

theorem Chip.strays_iff {s : Chip} {l : Land} : (l.dres && !s.delegOut l.dmtag) = true ↔ s.strays l := by
  rw [Bool.and_eq_true, Bool.not_eq_true', Chip.strays]

/-- What makes the window refuse the landing. -/
def Chip.denies (s : Chip) (l : Land) : Prop :=
  s.lwEn l.win = false ∨ s.lwDeleg l.win = true ∨
    l.src &&& s.regF (Reg.lw l.win 0) 16 12 ≠ s.regF (Reg.lw l.win 0) 28 12 &&& s.regF (Reg.lw l.win 0) 16 12 ∨
    s.regF (Reg.lw l.win 0) 53 6 + 1 ≤ s.lwUsed l.win ∨ spanIn l.desc (s.lwSize l.win) = false

theorem Chip.denies_iff {s : Chip} {l : Land} : (s.lwRefuses l.win l.src false || !spanIn l.desc (s.lwSize l.win)) = true ↔ s.denies l := by
  simp only [Chip.lwRefuses, Chip.denies, Chip.regF, Bool.or_eq_true, Bool.not_eq_true', bne_iff_ne, ne_eq, Bool.not_eq_false, decide_eq_true_eq, or_assoc]

/-- What makes the landing engine refuse the landing's layout. -/
def Chip.misfits (s : Chip) (l : Land) : Prop :=
  (checkDesc { dst := true } true l.desc).isSome = true ∨ (l.zc = true ∧ bitB (s.reg Reg.lkCfg) 12 = false) ∨ streamLen l.desc ≠ l.len

theorem Chip.misfits_iff {s : Chip} {l : Land} :
    ((checkDesc { dst := true } true l.desc).isSome || (l.zc && !bitB (s.reg Reg.lkCfg) 12) || streamLen l.desc != l.len) = true ↔
      s.misfits l := by
  simp only [Chip.misfits, Bool.or_eq_true, Bool.and_eq_true, Bool.not_eq_true', bne_iff_ne, or_assoc]

/-- The status of a landing's head. -/
def Chip.statusOf (s : Chip) (l : Land) : Option Nat := s.sheadStatus l.src l.win l.desc l.len l.zc l.dres l.dmtag

theorem Chip.statusOf_strays {l : Land} (h : s.strays l) : s.statusOf l = some 2 := if_pos (Chip.strays_iff.mpr h)

theorem Chip.statusOf_denies {l : Land} (h : ¬ s.strays l) (hd : s.denies l) : s.statusOf l = some 2 :=
  (if_neg (mt Chip.strays_iff.mp h)).trans (if_pos (Chip.denies_iff.mpr hd))

theorem Chip.statusOf_misfits {l : Land} (h : ¬ s.strays l) (hd : ¬ s.denies l) (hm : s.misfits l) : s.statusOf l = some 3 :=
  (if_neg (mt Chip.strays_iff.mp h)).trans ((if_neg (mt Chip.denies_iff.mp hd)).trans (if_pos (Chip.misfits_iff.mpr hm)))

theorem Chip.statusOf_accepted {l : Land} (h : ¬ s.strays l) (hd : ¬ s.denies l) (hm : ¬ s.misfits l) : s.statusOf l = none :=
  (if_neg (mt Chip.strays_iff.mp h)).trans ((if_neg (mt Chip.denies_iff.mp hd)).trans (if_neg (mt Chip.misfits_iff.mp hm)))

theorem Chip.sheadFrame_cut (h : ¬ Frame.wholeHead f) : s.sheadFrame n f = s.malFrame n f.hdr := by
  refine if_pos ?_
  by_contra hno
  simp only [not_or, not_not, Bool.not_eq_false] at hno
  exact h hno

/-- The landing is listed; a stray one is counted. -/
def Chip.counts (n : Nat) (l : Land) (s : Chip) : Chip := if l.dres && !s.delegOut l.dmtag then (s.opens l).goneDrop n else s.opens l

theorem Chip.sheadFrame_begins {l : Land} (hl : s.newLand n f = l) (h : Frame.wholeHead f) (hst : s.statusOf l = none) :
    s.sheadFrame n f = (s.opens l).landStep l.src l.mtag := by
  obtain ⟨h28, h29, h30, h31, hroute⟩ := h
  have hwhole : ¬ (fldN (Frame.word f 28) 48 16 ≠ 0 ∨ fldN (Frame.word f 29) 48 15 ≠ 0 ∨ fldN (Frame.word f 30) 19 45 ≠ 0 ∨
      fldN (Frame.word f 31) 13 51 ≠ 0 ∨ routeValid 16 (fldN (Frame.word f 28) 0 48) = false) := by simp [h28, h29, h30, h31, hroute]
  rw [Chip.statusOf] at hst
  simp only [Chip.sheadFrame, if_neg hwhole, hl, hst]
  rfl

theorem Chip.sheadFrame_refused {l : Land} (hl : s.newLand n f = l) (h : Frame.wholeHead f) {k : Nat} (hst : s.statusOf l = some k) :
    s.sheadFrame n f = (if k = 3 then (s.counts n l).malformed n else s.counts n l).endLand l k := by
  obtain ⟨h28, h29, h30, h31, hroute⟩ := h
  have hwhole : ¬ (fldN (Frame.word f 28) 48 16 ≠ 0 ∨ fldN (Frame.word f 29) 48 15 ≠ 0 ∨ fldN (Frame.word f 30) 19 45 ≠ 0 ∨
      fldN (Frame.word f 31) 13 51 ≠ 0 ∨ routeValid 16 (fldN (Frame.word f 28) 0 48) = false) := by simp [h28, h29, h30, h31, hroute]
  rw [Chip.statusOf] at hst
  simp only [Chip.sheadFrame, if_neg hwhole, hl, hst]
  rfl

section
variable {l : Land} (hl : s.newLand n f = l) (h : Frame.wholeHead f)
include hl h

theorem Chip.sheadFrame_strays (hs : s.strays l) : s.sheadFrame n f = ((s.opens l).goneDrop n).endLand l 2 := by
  have hcount : s.counts n l = (s.opens l).goneDrop n := if_pos (Chip.strays_iff.mpr hs)
  rw [Chip.sheadFrame_refused hl h (Chip.statusOf_strays hs), if_neg (by decide), hcount]

theorem Chip.sheadFrame_denied (hs : ¬ s.strays l) (hd : s.denies l) : s.sheadFrame n f = (s.opens l).endLand l 2 := by
  have hcount : s.counts n l = s.opens l := if_neg (mt Chip.strays_iff.mp hs)
  rw [Chip.sheadFrame_refused hl h (Chip.statusOf_denies hs hd), if_neg (by decide), hcount]

theorem Chip.sheadFrame_misfits (hs : ¬ s.strays l) (hd : ¬ s.denies l) (hm : s.misfits l) :
    s.sheadFrame n f = ((s.opens l).malformed n).endLand l 3 := by
  have hcount : s.counts n l = s.opens l := if_neg (mt Chip.strays_iff.mp hs)
  rw [Chip.sheadFrame_refused hl h (Chip.statusOf_misfits hs hd hm), if_pos rfl, hcount]

end

/-! ### What a handed over frame leaves as it was -/

theorem Chip.newLand_handedOver (i : InFrame) : (s.handedOver n i).newLand n f = s.newLand n f := by
  simp only [Chip.newLand, Chip.lwPart, Chip.lwAsid, Chip.lwRoot, Chip.lwBase, Chip.lwKcnt, Chip.regF, Chip.reg_handedOver]

theorem Chip.strays_handedOver (i : InFrame) {l : Land} : (s.handedOver n i).strays l ↔ s.strays l := by
  rw [Chip.strays, Chip.delegOut_handedOver, ← Chip.strays]

theorem Chip.denies_handedOver (i : InFrame) {l : Land} : (s.handedOver n i).denies l ↔ s.denies l := by
  simp only [Chip.denies, Chip.lwEn, Chip.lwDeleg, Chip.lwSize, Chip.regF, Chip.reg_handedOver, Chip.lwUsed_handedOver]

theorem Chip.misfits_handedOver (i : InFrame) {l : Land} : (s.handedOver n i).misfits l ↔ s.misfits l := by
  simp only [Chip.misfits, Chip.reg_handedOver]

/-! ### SDATA (R422, R433) -/

theorem Chip.sdataFrame_unknown (hl : s.landAt (hSrc f.hdr) (hMtag f.hdr) = none) : s.sdataFrame n f = s.malFrame n f.hdr := by
  simp only [Chip.sdataFrame, hl]

section
variable {l : Land} (hl : s.landAt (hSrc f.hdr) (hMtag f.hdr) = some l)
include hl

theorem Chip.sdataFrame_plain (hst : l.status = none) (hlt : l.next < l.len) (hzc : l.zc = false) :
    s.sdataFrame n f = s.landBytes l (f.payload.take (l.len - l.next)) := by
  simp [Chip.sdataFrame, hl, hst, hzc, Nat.not_le.mpr hlt]

theorem Chip.sdataFrame_coded (hst : l.status = none) (hlt : l.next < l.len) (hzc : l.zc = true) :
    s.sdataFrame n f = Chip.landChunks n l.src l.mtag f.hdr ((l.raw ++ f.payload).length / 8 + 1)
      (s.updLand l fun _ => { l with raw := l.raw ++ f.payload }) := by
  have hopen : ¬ l.status = some 0 := by simp [hst]
  have hlive : ¬ l.status.isSome = true := by simp [hst]
  simp only [Chip.sdataFrame, hl, if_neg hopen, if_neg hlive, if_neg (Nat.not_le.mpr hlt), if_pos hzc]
  rfl

theorem Chip.sdataFrame_beyond (h : l.status = some 0 ∨ (l.status = none ∧ l.len ≤ l.next)) : s.sdataFrame n f = s.malFrame n f.hdr := by
  rcases h with hst | ⟨hst, hle⟩
  · simp [Chip.sdataFrame, hl, hst]
  · simp [Chip.sdataFrame, hl, hst, hle]

theorem Chip.sdataFrame_refused {st : Nat} (hst : l.status = some st) (hne : st ≠ 0) :
    s.sdataFrame n f = if l.dres = true ∧ s.delegOut l.dmtag = false then s.goneDrop n else s := by
  simp [Chip.sdataFrame, hl, hst, hne]

end
end

/-! ### Landing bursts (R422) -/

/-- The answer of a burst's write; one that the row cache took is good. -/
def Chip.burstAnswer (id : Nat) (s : Chip) : Rsp :=
  match s.ports.fills.find? (fun x => x.r.id == id) with | some x => x.rsp | none => .ok

section
variable {s : Chip} {id : Nat} {l : Land} {b : Nat × Nat × Nat}

/-- The burst is no longer on its way. -/
def Chip.burstOver (id : Nat) (l : Land) (s : Chip) : Chip :=
  (s.dropFill id).updLand l fun x => { x with bursts := x.bursts.filter (fun b => b.1 != id) }

theorem landingBurst_answered (hl : s.link.lands.find? (fun l => l.bursts.any (fun b => b.1 == id)) = some l)
    (hb : l.bursts.find? (fun b => b.1 == id) = some b) (hno : ∀ r ∈ s.allRequests, r.id ≠ id) :
    landingBurst id s =
      if s.burstAnswer id = .ok then
        (if s.ksPart l.kcnt = l.part then (s.burstOver id l).signal l.kcnt b.2.2
          else (s.burstOver id l).bump (Reg.lk l.port 0x20) 48 16 1).landStep l.src l.mtag
      else (s.burstOver id l).landFault l := by
  have hout : ¬ s.allRequests.any (fun r => r.id == id) = true := by simpa using hno
  simp only [landingBurst, hl, if_neg hout, hb]
  rfl

theorem Chip.landFault_live (hst : l.status = none) (t : Chip) : t.landFault l = (t.endLand l 4).linkReport l.port Src.lwfault :=
  if_neg (by simp [hst])

end

/-! ### Completions at the sender (R423–R425) -/

section
variable {s : Chip} {n : Nat} {f : Frame} {m : Msg}

/-- A message of a number, changed so that it keeps the number. -/
theorem Chip.msgAt_updMsg {id : Nat} {g : Msg → Msg} (hg : ∀ x, (g x).id = x.id) (hm : s.msgAt id = some m) :
    (s.updMsg id g).msgAt id = some (g m) := by
  have hid : m.id = id := by simpa using List.find?_some hm
  have hsame : ((fun x : Msg => x.id == id) ∘ fun x : Msg => if x.id == id then g x else x) = fun x => x.id == id := by
    funext x
    dsimp only [Function.comp]
    split
    · rw [hg]
    · rfl
  rw [Chip.msgAt, Chip.updMsg, List.find?_map, hsame, ← Chip.msgAt, hm, Option.map_some, hid, beq_self_eq_true, if_pos rfl]

/-- The fields of a completion that no rule gives a use are 0. -/
def Frame.wholeCmpl (f : Frame) : Prop :=
  Frame.word f 0 &&& ~~~(maskBits 12 4 ||| maskBits 16 10) = 0 ∧ fldN (Frame.word f 1) 48 16 = 0 ∧ fldN (Frame.word f 0) 12 4 < 2

/-- What a completion tells of its message. -/
def Msg.told (f : Frame) (t : Nat) (m : Msg) : Msg := { m with acked := max m.acked (fldN (Frame.word f 1) 0 48), heard := t }

/-- The message and its context have heard of the receiver. -/
def Chip.hearsCmpl (f : Frame) (t : Nat) (m : Msg) (s : Chip) : Chip := (s.updMsg m.id (Msg.told f t)).progressed m.ctx

theorem Chip.cmplFrame_unknown (hm : s.msgOfTag (hMtag f.hdr) = none) : s.cmplFrame n f = s.noMsg n (hMtag f.hdr) := by
  simp only [Chip.cmplFrame, hm]

theorem Chip.cmplFrame_malformed (hm : s.msgOfTag (hMtag f.hdr) = some m) (h : ¬ Frame.wholeCmpl f) : s.cmplFrame n f = s.malformed n := by
  have hbad : Frame.word f 0 &&& ~~~(maskBits 12 4 ||| maskBits 16 10) ≠ 0 ∨ fldN (Frame.word f 1) 48 16 ≠ 0 ∨ 2 ≤ fldN (Frame.word f 0) 12 4 := by
    by_contra hno
    simp only [not_or, not_not, Nat.not_le] at hno
    exact h hno
  simp only [Chip.cmplFrame, hm, if_pos hbad]

theorem Chip.cmplFrame_whole (hm : s.msgOfTag (hMtag f.hdr) = some m) (hat : s.msgAt m.id = some m) (h : Frame.wholeCmpl f)
    {t : Nat} (ht : s.time = t) :
    s.cmplFrame n f =
      (if fldN (Frame.word f 0) 12 4 = 0 then (s.hearsCmpl f t m).courseSignals (m.told f t)
        else (s.hearsCmpl f t m).msgEnd (m.told f t) (fldN (Frame.word f 0) 16 8) (fldN (Frame.word f 0) 24 2)).pumpAll := by
  subst ht
  obtain ⟨hz, hb, hkind⟩ := h
  have hgood : ¬ (Frame.word f 0 &&& ~~~(maskBits 12 4 ||| maskBits 16 10) ≠ 0 ∨ fldN (Frame.word f 1) 48 16 ≠ 0 ∨ 2 ≤ fldN (Frame.word f 0) 12 4) := by
    simp only [not_or, not_not, Nat.not_le]
    exact ⟨hz, hb, hkind⟩
  have htold : (s.hearsCmpl f s.time m).msgAt m.id = some (m.told f s.time) := Chip.msgAt_updMsg (g := Msg.told f s.time) (fun _ => rfl) hat
  simp only [Chip.hearsCmpl] at htold
  unfold Msg.told at htold
  simp only [Chip.cmplFrame, hm, if_neg hgood, htold]
  rfl

theorem Chip.creditFrame_unknown (hm : s.link.msgs.find? (fun m => m.deleg && m.mtag == hMtag f.hdr) = none) :
    s.creditFrame n f = s.noMsg n (hMtag f.hdr) := by
  simp only [Chip.creditFrame, hm]

theorem Chip.creditFrame_of (hm : s.link.msgs.find? (fun m => m.deleg && m.mtag == hMtag f.hdr) = some m) :
    s.creditFrame n f = if fldN (Frame.word f 0) 0 32 ≠ hMtag f.hdr then s.malformed n
      else (((s.updMsg m.id fun x => { x with granted := x.granted + fldN (Frame.word f 0) 32 32 }).progressed m.ctx).framesOut m.id).heard m.ctx := by
  simp only [Chip.creditFrame, hm]

theorem completionTimeout_of {id : Nat} (hm : s.msgAt id = some m) :
    completionTimeout id s = if m.heard + s.rto ≤ s.time then (s.msgEnd m 1 2).pumpAll else s := by
  simp only [completionTimeout, hm]

end

/-- Settles O59: each frame of the landing engine by its case, the end of a burst, the completions and timers of the sender. -/
theorem linkMessages : Obligations.LinkMessages := by
  refine ⟨fun s n i hi => ?_, fun s id l b hl hb hno => ?_, fun s n i hi => ?_, fun s n => ⟨fun id m hm => ⟨fun ht => ?_, fun ht => ?_⟩, rfl⟩⟩
  · intro f t
    refine ⟨fun hty => ?_, fun hty => ⟨fun hl => ?_, fun l hl => ⟨fun hst hlt hzc => ?_, fun hst hlt hzc => ?_, fun h => ?_, fun st hst hne => ?_⟩⟩⟩
    · have hrun := Chip.onFrame_delivered hi hty (Chip.sheadFrame n)
      intro w l u whole stray denied bad
      have hl : (s.chip.handedOver n i).newLand n f = l := Chip.newLand_handedOver i
      refine ⟨fun h => ?_, fun h hs => ?_, fun h hs hd => ?_, fun h hs hd hm => ?_, fun h hs hd hm => ?_⟩
      · exact next_to (hrun.trans (Chip.sheadFrame_cut h))
      · exact next_to (hrun.trans (Chip.sheadFrame_strays hl h ((Chip.strays_handedOver i).mpr hs)))
      · exact next_to (hrun.trans (Chip.sheadFrame_denied hl h (mt (Chip.strays_handedOver i).mp hs) ((Chip.denies_handedOver i).mpr hd)))
      · exact next_to (hrun.trans (Chip.sheadFrame_misfits hl h (mt (Chip.strays_handedOver i).mp hs) (mt (Chip.denies_handedOver i).mp hd)
          ((Chip.misfits_handedOver i).mpr hm)))
      · exact next_to (hrun.trans (Chip.sheadFrame_begins hl h (Chip.statusOf_accepted (mt (Chip.strays_handedOver i).mp hs)
          (mt (Chip.denies_handedOver i).mp hd) (mt (Chip.misfits_handedOver i).mp hm))))
    · exact next_to ((Chip.onFrame_delivered hi hty _).trans (Chip.sdataFrame_unknown ((Chip.landAt_handedOver ..).trans hl)))
    · exact next_to ((Chip.onFrame_delivered hi hty _).trans (Chip.sdataFrame_plain ((Chip.landAt_handedOver ..).trans hl) hst hlt hzc))
    · exact next_to ((Chip.onFrame_delivered hi hty _).trans (Chip.sdataFrame_coded ((Chip.landAt_handedOver ..).trans hl) hst hlt hzc))
    · exact next_to ((Chip.onFrame_delivered hi hty _).trans (Chip.sdataFrame_beyond ((Chip.landAt_handedOver ..).trans hl) h))
    · exact next_to ((Chip.onFrame_delivered hi hty _).trans (Chip.sdataFrame_refused ((Chip.landAt_handedOver ..).trans hl) hst hne))
  · have hrun := landingBurst_answered hl hb hno
    intro u rsp
    refine ⟨fun hok hp => ?_, fun hok hp => ?_, fun hbad hst => ?_⟩
    · exact next_to (hrun.trans ((if_pos hok).trans (congrArg (Chip.landStep l.src l.mtag) (if_pos hp))))
    · exact next_to (hrun.trans ((if_pos hok).trans (congrArg (Chip.landStep l.src l.mtag) (if_neg hp))))
    · exact next_to (hrun.trans ((if_neg hbad).trans (Chip.landFault_live hst _)))
  · intro f t a b tag
    refine ⟨fun hty => ⟨fun hm => ?_, fun m hm hat => ?_⟩, fun hty => ⟨fun hm => ?_, fun m hm => ⟨fun htag => ?_, fun htag => ?_⟩⟩⟩
    · exact next_to ((Chip.onFrame_delivered hi hty _).trans (Chip.cmplFrame_unknown ((Chip.msgOfTag_handedOver ..).trans hm)))
    · have hrun := Chip.onFrame_delivered hi hty (Chip.cmplFrame n)
      have hwhole := fun h => Chip.cmplFrame_whole (f := f) (n := n) ((Chip.msgOfTag_handedOver s.chip n i _).trans hm) ((Chip.msgAt_handedOver ..).trans hat) h
        (Chip.handedOver_time ..)
      intro whole u m'
      refine ⟨fun h => ?_, fun h hk => ?_, fun h hk => ?_⟩
      · exact next_to (hrun.trans (Chip.cmplFrame_malformed ((Chip.msgOfTag_handedOver ..).trans hm) h))
      · exact next_to (hrun.trans ((hwhole h).trans (congrArg Chip.pumpAll (if_pos hk))))
      · exact next_to (hrun.trans ((hwhole h).trans (congrArg Chip.pumpAll (if_neg (hk.trans_ne Nat.one_ne_zero)))))
    · exact next_to ((Chip.onFrame_delivered hi hty (Chip.creditFrame n)).trans (Chip.creditFrame_unknown ((Chip.delegOfTag_handedOver ..).trans hm)))
    · exact next_to ((Chip.onFrame_delivered hi hty (Chip.creditFrame n)).trans ((Chip.creditFrame_of ((Chip.delegOfTag_handedOver ..).trans hm)).trans (if_pos htag)))
    · exact next_to ((Chip.onFrame_delivered hi hty (Chip.creditFrame n)).trans ((Chip.creditFrame_of ((Chip.delegOfTag_handedOver ..).trans hm)).trans (if_neg fun h => h htag)))
  · exact next_to ((completionTimeout_of hm).trans (if_pos ht))
  · exact next_to ((completionTimeout_of hm).trans (if_neg (Nat.not_le.mpr ht)))

end Sys2Proof.Machine
end

section
/-! Delegated requests at their owner (R421, R426–R429). -/

namespace Sys2Proof.Machine

/-! ### DHEAD -/

/-- The request that a DHEAD opens. -/
def Chip.newDeleg (f : Frame) (s : Chip) : Deleg :=
  { src := hSrc f.hdr, mtag := hMtag f.hdr, win := fldN (Frame.word f 2) 0 8, rlwin := fldN (Frame.word f 2) 8 8,
    part := s.lwPart (fldN (Frame.word f 2) 0 8), tagp := hPart f.hdr, cls := hClass f.hdr, rroute := fldN (Frame.word f 1) 0 48,
    word := Frame.word f 0, len := fldN (Frame.word f 3) 0 48 }

/-- The fields of a DHEAD that no rule gives a use are 0, and its instruction has the form of a delegated one. -/
def Frame.wholeRequest (f : Frame) : Prop :=
  fldN (Frame.word f 1) 48 16 = 0 ∧ fldN (Frame.word f 2) 27 37 = 0 ∧ fldN (Frame.word f 3) 48 16 = 0 ∧
    (∀ k, k < 28 → Frame.word f (4 + k) = 0) ∧ guestWordOk (Frame.word f 0) = true

/-- The model's test of a DHEAD's form. -/
theorem Frame.not_wholeRequest_iff {f : Frame} :
    (fldN (Frame.word f 1) 48 16 ≠ 0 ∨ fldN (Frame.word f 2) 27 37 ≠ 0 ∨ fldN (Frame.word f 3) 48 16 ≠ 0 ∨
      (List.range 28).any (fun k => Frame.word f (4 + k) != 0) = true ∨ guestWordOk (Frame.word f 0) = false) ↔ ¬ Frame.wholeRequest f := by
  simp only [Frame.wholeRequest, not_and_or, List.any_eq_true, List.mem_range, bne_iff_ne, not_forall, exists_prop, Bool.not_eq_true, ne_eq]

/-- A request that is answered at once with a status. -/
def Chip.refuses (d : Deleg) (status : Nat) (s : Chip) : Chip :=
  (s.overDeleg d).sendCmpl d.cls d.tagp d.src d.mtag d.rroute 1 status 0 0

/-- The request waits at its owner, in the place of an earlier one of its source and tag. -/
def Chip.listsDeleg (d : Deleg) (s : Chip) : Chip :=
  { s.dropDeleg d.src d.mtag with
    link := { (s.dropDeleg d.src d.mtag).link with delegs := (s.dropDeleg d.src d.mtag).link.delegs ++ [d] } }

theorem Chip.listsDeleg_delegs (s : Chip) (d : Deleg) :
    (s.listsDeleg d).link.delegs = s.link.delegs.filter (fun x => !(x.src == d.src && x.mtag == d.mtag)) ++ [d] := rfl

/-- A listed request changes no memory, no context and no register. -/
theorem Chip.listsDeleg_rest (s : Chip) (d : Deleg) :
    (s.listsDeleg d).mem = s.mem ∧ (s.listsDeleg d).ctx = s.ctx ∧ (s.listsDeleg d).regs = s.regs := ⟨rfl, rfl, rfl⟩

section
variable {s : Chip} {n : Nat} {f : Frame}

theorem Chip.dheadFrame_cut (hr : routeValid 16 (fldN (Frame.word f 1) 0 48) = false) : s.dheadFrame n f = s.malFrame n f.hdr := if_pos hr

section
variable {d : Deleg} (hd : s.newDeleg f = d) (hr : routeValid 16 d.rroute = true)
include hd hr

theorem Chip.dheadFrame_malformed (h : ¬ Frame.wholeRequest f) : s.dheadFrame n f = (s.malformed n).refuses d 3 := by
  subst hd
  exact (if_neg (Bool.eq_false_iff.not_left.mpr hr)).trans (if_pos (Frame.not_wholeRequest_iff.mpr h))

variable (h : Frame.wholeRequest f)
include h

theorem Chip.dheadFrame_closed (ht : ¬ bitB (s.reg Reg.lkCfg) 13 = true) : s.dheadFrame n f = s.refuses d 5 := by
  subst hd
  exact (if_neg (Bool.eq_false_iff.not_left.mpr hr)).trans ((if_neg fun hn => Frame.not_wholeRequest_iff.mp hn h).trans
    (if_pos (Bool.eq_false_iff.mpr ht)))

variable (ht : bitB (s.reg Reg.lkCfg) 13 = true)
include ht

theorem Chip.dheadFrame_refused (hw : s.lwRefuses d.win d.src true = true) : s.dheadFrame n f = s.refuses d 2 := by
  subst hd
  exact (if_neg (Bool.eq_false_iff.not_left.mpr hr)).trans ((if_neg fun hn => Frame.not_wholeRequest_iff.mp hn h).trans
    ((if_neg (Bool.eq_false_iff.not_left.mpr ht)).trans (if_pos hw)))

variable (hw : s.lwRefuses d.win d.src true = false)
include hw

theorem Chip.dheadFrame_guestless (hg : s.hasGuest d.part = false) : s.dheadFrame n f = s.refuses d 5 := by
  subst hd
  exact (if_neg (Bool.eq_false_iff.not_left.mpr hr)).trans ((if_neg fun hn => Frame.not_wholeRequest_iff.mp hn h).trans
    ((if_neg (Bool.eq_false_iff.not_left.mpr ht)).trans ((if_neg (Bool.eq_false_iff.mp hw)).trans (if_pos hg))))

theorem Chip.dheadFrame_waits (hg : s.hasGuest d.part = true) :
    s.dheadFrame n f = s.listsDeleg d := by
  subst hd
  exact (if_neg (Bool.eq_false_iff.not_left.mpr hr)).trans ((if_neg fun hn => Frame.not_wholeRequest_iff.mp hn h).trans
    ((if_neg (Bool.eq_false_iff.not_left.mpr ht)).trans ((if_neg (Bool.eq_false_iff.mp hw)).trans (if_neg (Bool.eq_false_iff.not_left.mpr hg)))))

end

/-! ### DDATA -/

theorem Chip.ddataFrame_unknown (hx : s.link.delegs.find? (fun d => d.src == hSrc f.hdr && d.mtag == hMtag f.hdr) = none) :
    s.ddataFrame n f = s.malFrame n f.hdr := by
  simp only [Chip.ddataFrame, hx]

section
variable {x : Deleg} (hx : s.link.delegs.find? (fun d => d.src == hSrc f.hdr && d.mtag == hMtag f.hdr) = some x)
include hx

theorem Chip.ddataFrame_over (he : x.ended = true) : s.ddataFrame n f = s := by
  simp only [Chip.ddataFrame, hx, he, if_true]

theorem Chip.ddataFrame_image (he : x.ended = false) (hi : x.images.length < 768) :
    s.ddataFrame n f = s.updDeleg { x with images := x.images ++ f.payload } := by
  simp only [Chip.ddataFrame, hx, he, Bool.false_eq_true, if_false, if_pos hi]

/-- The operand bytes of a frame that are the request's. -/
def Deleg.more (x : Deleg) (f : Frame) : List Byte := x.ops ++ f.payload.take (x.len - x.ops.length)

theorem Chip.ddataFrame_beyond (he : x.ended = false) (hi : 768 ≤ x.images.length)
    (h : x.len ≤ x.ops.length ∨ x.granted < (x.more f).length) : s.ddataFrame n f = s.malFrame n f.hdr := by
  rw [Deleg.more, List.length_append] at h
  have hbad : x.len - x.ops.length = 0 ∨ x.granted < x.ops.length + (f.payload.take (x.len - x.ops.length)).length :=
    h.imp_left Nat.sub_eq_zero_of_le
  simp only [Chip.ddataFrame, hx, he, Bool.false_eq_true, if_false, if_neg (Nat.not_lt.mpr hi), if_pos hbad]

/-- How many grants the operands so far make due. -/
def Deleg.due (x : Deleg) (f : Frame) : Nat := (x.more f).length / 16384 - x.taken

/-- The request with the operands of a frame. -/
def Deleg.takes (x : Deleg) (f : Frame) : Deleg :=
  { x with ops := x.more f, taken := (x.more f).length / 16384, granted := x.granted + 16384 * x.due f }

/-- What the owner does with the operands: the request holds them, the next bytes are granted. -/
def Chip.ddataTaken (x : Deleg) (f : Frame) (s : Chip) : Chip := Chip.grantMore (x.takes f) (x.due f) (s.updDeleg (x.takes f))

section
variable (he : x.ended = false) (hi : 768 ≤ x.images.length) (hlt : x.ops.length < x.len) (hg : (x.more f).length ≤ x.granted)
include he hi hlt hg

theorem Chip.ddataFrame_waits (h : x.guest = none ∨ (x.more f).length ≠ x.len) : s.ddataFrame n f = s.ddataTaken x f := by
  rw [Deleg.more, List.length_append] at hg
  have hgood : ¬ (x.len - x.ops.length = 0 ∨ x.granted < x.ops.length + (f.payload.take (x.len - x.ops.length)).length) := by omega
  cases hguest : x.guest with
  | none => simp only [Chip.ddataFrame, hx, he, Bool.false_eq_true, if_false, if_neg (Nat.not_lt.mpr hi), if_neg hgood, hguest, Chip.ddataTaken, Deleg.takes,
      Deleg.due, Deleg.more]
  | some c =>
    have hlen : ¬ (x.ops ++ f.payload.take (x.len - x.ops.length)).length = x.len := h.resolve_left (by simp [hguest])
    simp only [Chip.ddataFrame, hx, he, Bool.false_eq_true, if_false, if_neg (Nat.not_lt.mpr hi), if_neg hgood, hguest, if_neg hlen,
      Chip.ddataTaken, Deleg.takes, Deleg.due, Deleg.more]

theorem Chip.ddataFrame_begins {c : Nat} (hguest : x.guest = some c) (hlen : (x.more f).length = x.len) :
    s.ddataFrame n f = (s.ddataTaken x f).guestBegin c (x.takes f) := by
  rw [Deleg.more, List.length_append] at hg
  have hgood : ¬ (x.len - x.ops.length = 0 ∨ x.granted < x.ops.length + (f.payload.take (x.len - x.ops.length)).length) := by omega
  rw [Deleg.more] at hlen
  simp only [Chip.ddataFrame, hx, he, Bool.false_eq_true, if_false, if_neg (Nat.not_lt.mpr hi), if_neg hgood, hguest, if_pos hlen,
    Chip.ddataTaken, Deleg.takes, Deleg.due, Deleg.more]

end
end

/-! ### GONE -/

theorem Chip.goneFrame_unknown (hx : s.link.delegs.find? (fun d => d.src == hSrc f.hdr && d.mtag == hMtag f.hdr && !d.ended) = none) :
    s.goneFrame n f = s.bump (Reg.lk n 0x10) 48 16 1 := by
  simp only [Chip.goneFrame, hx]

section
variable {x : Deleg} (hx : s.link.delegs.find? (fun d => d.src == hSrc f.hdr && d.mtag == hMtag f.hdr && !d.ended) = some x)
include hx

theorem Chip.goneFrame_waiting (hg : x.guest = none) : s.goneFrame n f = s.dropDeleg x.src x.mtag := by
  simp only [Chip.goneFrame, hx, hg]

theorem Chip.goneFrame_served {c : Nat} (hg : x.guest = some c) : s.goneFrame n f = (s.dropDeleg x.src x.mtag).abortGuest c := by
  simp only [Chip.goneFrame, hx, hg]

end
end

/-! ### A guest takes a request -/

theorem guestDispatch_of {s : Chip} {p c : Nat} {x : Deleg}
    (hx : s.link.delegs.find? (fun d => d.part == p && d.guest.isNone && !d.ended) = some x) (hc : s.boundGuest p = some c) :
    guestDispatch p s =
      if x.images.length = 768 ∧ ¬ s.freeTags.isEmpty = true ∧
          s.creditNeed c x.word ≤ (s.yieldStg c (s.slotMover c) (s.creditNeed c x.word)).freeCredits (s.slotMover c)
      then (s.yieldStg c (s.slotMover c) (s.creditNeed c x.word)).dispatchTo c x else s := by
  simp only [guestDispatch, hx, hc]

section
variable (s : Chip) (n : Nat) (i : InFrame)

theorem Chip.handedOver_rest :
    (s.handedOver n i).mem = s.mem ∧ (s.handedOver n i).ctx = s.ctx ∧ (s.handedOver n i).regs = s.regs := ⟨rfl, rfl, rfl⟩

theorem Chip.newDeleg_handedOver (f : Frame) : (s.handedOver n i).newDeleg f = s.newDeleg f := by
  simp only [Chip.newDeleg, Chip.lwPart, Chip.regF, Chip.reg_handedOver]

theorem Chip.lwRefuses_handedOver (w src : Nat) (b : Bool) : (s.handedOver n i).lwRefuses w src b = s.lwRefuses w src b := by
  simp only [Chip.lwRefuses, Chip.lwEn, Chip.lwDeleg, Chip.reg_handedOver, Chip.lwUsed_handedOver]

theorem Chip.find_delegs_handedOver (which : Deleg → Bool) : (s.handedOver n i).link.delegs.find? which = s.link.delegs.find? which := by
  rw [Chip.handedOver_delegs]

theorem Chip.hasGuest_handedOver (p : Nat) : (s.handedOver n i).hasGuest p = s.hasGuest p := by
  simp only [Chip.hasGuest, Chip.ctxGuest, Chip.ctxPart, Chip.regF, Chip.reg_handedOver, Chip.handedOver_build]

end

/-- Settles O60: each frame for the owner by its case, and a guest with room. -/
theorem delegationAtOwner : Obligations.DelegationAtOwner := by
  refine ⟨fun s n i hi => ?_, fun s p c x hx hc => ⟨fun hi ht hn => ?_, fun h => ?_⟩⟩
  · intro f t w src tag win d whole takes refused
    refine ⟨fun hty => ?_, fun hty => ⟨fun hx => ?_, fun x hx => ?_⟩, fun hty => ⟨fun hx => ?_, fun x hx => ⟨fun hg => ?_, fun c hg => ?_⟩⟩⟩
    · have hrun := Chip.onFrame_delivered hi hty (Chip.dheadFrame n)
      have hd : (s.chip.handedOver n i).newDeleg f = d := Chip.newDeleg_handedOver ..
      have htakes : bitB ((s.chip.handedOver n i).reg Reg.lkCfg) 13 = bitB (s.chip.reg Reg.lkCfg) 13 := by rw [Chip.reg_handedOver]
      have hwin : (s.chip.handedOver n i).lwRefuses win src true = s.chip.lwRefuses win src true := Chip.lwRefuses_handedOver ..
      have hguest : (s.chip.handedOver n i).hasGuest (s.chip.lwPart win) = s.chip.hasGuest (s.chip.lwPart win) := Chip.hasGuest_handedOver ..
      refine ⟨fun hr => ?_, fun hr h => ?_, fun hr h ht => ?_, fun hr h ht hw => ?_, fun hr h ht hw hg => ?_, fun hr h ht hw hg => ?_⟩
      · exact next_to (hrun.trans (Chip.dheadFrame_cut hr))
      · exact next_to (hrun.trans (Chip.dheadFrame_malformed hd hr h))
      · exact next_to (hrun.trans (Chip.dheadFrame_closed hd hr h fun hb => ht (htakes.symm.trans hb)))
      · exact next_to (hrun.trans (Chip.dheadFrame_refused hd hr h (htakes.trans ht) (hwin.trans hw)))
      · exact next_to (hrun.trans (Chip.dheadFrame_guestless hd hr h (htakes.trans ht) (hwin.trans hw) (hguest.trans hg)))
      · refine ⟨_, next_to (hrun.trans (Chip.dheadFrame_waits hd hr h (htakes.trans ht) (hwin.trans hw) (hguest.trans hg))), ?_, ?_⟩
        · rw [Chip.listsDeleg_delegs, Chip.handedOver_delegs]
        · obtain ⟨hmem, hctx, hregs⟩ := (s.chip.handedOver n i).listsDeleg_rest d
          obtain ⟨hm, hc, hr⟩ := s.chip.handedOver_rest n i
          exact ⟨hmem.trans hm, hctx.trans hc, hregs.trans hr⟩
    · exact next_to ((Chip.onFrame_delivered hi hty (Chip.ddataFrame n)).trans (Chip.ddataFrame_unknown ((Chip.find_delegs_handedOver ..).trans hx)))
    · have hrun := Chip.onFrame_delivered hi hty (Chip.ddataFrame n)
      intro bs ops more x' u
      refine ⟨fun he => ?_, fun he hm => ?_, fun he hm hb => ?_, fun he hm hlt hg => ⟨fun hw => ?_, fun c hc hl => ?_⟩⟩
      · exact next_to (hrun.trans (Chip.ddataFrame_over ((Chip.find_delegs_handedOver ..).trans hx) he))
      · exact next_to (hrun.trans (Chip.ddataFrame_image ((Chip.find_delegs_handedOver ..).trans hx) he hm))
      · exact next_to (hrun.trans (Chip.ddataFrame_beyond ((Chip.find_delegs_handedOver ..).trans hx) he hm hb))
      · exact next_to (hrun.trans (Chip.ddataFrame_waits ((Chip.find_delegs_handedOver ..).trans hx) he hm hlt hg hw))
      · exact next_to (hrun.trans (Chip.ddataFrame_begins ((Chip.find_delegs_handedOver ..).trans hx) he hm hlt hg hc hl))
    · exact next_to ((Chip.onFrame_delivered hi hty (Chip.goneFrame n)).trans (Chip.goneFrame_unknown ((Chip.find_delegs_handedOver ..).trans hx)))
    · exact next_to ((Chip.onFrame_delivered hi hty (Chip.goneFrame n)).trans (Chip.goneFrame_waiting ((Chip.find_delegs_handedOver ..).trans hx) hg))
    · exact next_to ((Chip.onFrame_delivered hi hty (Chip.goneFrame n)).trans (Chip.goneFrame_served ((Chip.find_delegs_handedOver ..).trans hx) hg))
  · exact next_to ((guestDispatch_of hx hc).trans (if_pos ⟨hi, mt List.isEmpty_iff.mp ht, hn⟩))
  · refine next_to ((guestDispatch_of hx hc).trans (if_neg fun hok => ?_))
    obtain ⟨hi, ht, hn⟩ := hok
    rcases h with h | h | h
    · exact h hi
    · exact ht (List.isEmpty_iff.mpr h)
    · exact Nat.not_le.mpr h hn

end Sys2Proof.Machine
end

section
/-! No register write changes the test access port: `f_tap` says it of the operation `f` (R564–R567). -/

namespace Sys2Proof.Machine

@[simp] theorem tap_ite (p : Prop) [Decidable p] (s t : Chip) : (if p then s else t).tap = if p then s.tap else t.tap := apply_ite ..

@[simp] theorem foldl_tap {α : Type} {f : Chip → α → Chip} (hf : ∀ t x, (f t x).tap = t.tap) (l : List α) (s : Chip) :
    (l.foldl f s).tap = s.tap := by
  induction l generalizing s with
  | nil => rfl
  | cons x r ih => exact (ih _).trans (hf s x)

/-- Steps that may fail, one after another. -/
theorem bind_foldl_tap {α : Type} {f : Chip → α → Option Chip} (hf : ∀ s t x, f s x = some t → t.tap = s.tap) {l : List α} {s t : Chip}
    (h : l.foldl (fun o x => o.bind fun u => f u x) (some s) = some t) : t.tap = s.tap := by
  induction l generalizing s with
  | nil =>
    cases h
    rfl
  | cons x r ih =>
    rw [List.foldl_cons, Option.bind_some] at h
    cases hx : f s x with
    | none =>
      have hnone : ∀ l : List α, l.foldl (fun o x => o.bind fun u => f u x) none = none := fun l => by
        induction l with
        | nil => rfl
        | cons _ _ ih => exact ih
      rw [hx, hnone] at h
      cases h
    | some u =>
      rw [hx] at h
      exact (ih h).trans (hf s u x hx)

/-- A register write, if any, leaves the test access port as it is. -/
def KeepsTap (o : Option (Chip → Chip)) : Prop := ∀ f, o = some f → ∀ s : Chip, (f s).tap = s.tap

@[simp] theorem keepsTap_none : KeepsTap none := fun _ h => nomatch h

@[simp] theorem keepsTap_some {f : Chip → Chip} : KeepsTap (some f) ↔ ∀ s : Chip, (f s).tap = s.tap :=
  ⟨fun h => h f rfl, fun h _ hf => Option.some.inj hf ▸ h⟩

theorem keepsTap_ite {p : Prop} [Decidable p] {a b : Option (Chip → Chip)} (ha : KeepsTap a) (hb : KeepsTap b) : KeepsTap (if p then a else b) := by
  split <;> assumption

theorem keepsTap_orElse {a b : Option (Chip → Chip)} (ha : KeepsTap a) (hb : KeepsTap b) : KeepsTap (orElse a b) := by
  cases a with
  | none => exact hb
  | some f => exact ha

/-! ### `Machine/Report.lean` -/

@[simp] theorem Chip.logCtl_tap (code unit : Nat) (s : Chip) : (s.logCtl code unit).tap = s.tap := by simp [Chip.logCtl]

@[simp] theorem Chip.progressed_tap (c : Nat) (s : Chip) : (s.progressed c).tap = s.tap := by simp [Chip.progressed]

@[simp] theorem Chip.progressOf_tap (r : PortReq) (s : Chip) : (s.progressOf r).tap = s.tap := by
  rw [Chip.progressOf]
  split <;> simp

@[simp] theorem Chip.enq_tap (r : PortReq) (s : Chip) : (s.enq r).tap = s.tap := by simp [Chip.enq]

theorem Chip.maintWrite_tap {kind : ReqKind} {pa : Nat} {bs : List Byte} {ctx part : Option Nat} {cls : Nat} {s t : Chip}
    (h : s.maintWrite kind pa bs ctx part cls = some t) : t.tap = s.tap := by
  obtain ⟨p, -, rfl⟩ := Option.map_eq_some_iff.mp h
  simp

@[simp] theorem Chip.ringDrop_tap (ctl : Nat) (s : Chip) : (s.ringDrop ctl).tap = s.tap := by simp [Chip.ringDrop]

@[simp] theorem Chip.ringPut_tap (b ctl : Nat) (kind : ReqKind) (entry : List Byte) (ctx part : Option Nat) (s : Chip) :
    (s.ringPut b ctl kind entry ctx part).tap = s.tap := by
  simp only [Chip.ringPut]
  split
  · simp
  · split
    case h_1 t ht => exact Chip.maintWrite_tap ht
    case h_2 => simp

@[simp] theorem Chip.trace_tap (c ev val ia : Nat) (x : Word) (s : Chip) : (s.trace c ev val ia x).tap = s.tap := by simp [Chip.trace]

@[simp] theorem Chip.setSt_tap (c : Nat) (st : CState) (w : Option WaitCause) (s : Chip) :
    (s.setSt c st w).tap = s.tap := by simp [Chip.setSt]

@[simp] theorem Chip.yieldMover_tap (c : Nat) (s : Chip) : (s.yieldMover c).tap = s.tap := by
  simp [Chip.yieldMover]
  split <;> simp

@[simp] theorem Chip.waitFor_tap (c : Nat) (w : WaitCause) (s : Chip) : (s.waitFor c w).tap = s.tap := by simp [Chip.waitFor]

@[simp] theorem Chip.wake_tap (c : Nat) (s : Chip) : (s.wake c).tap = s.tap := by simp [Chip.wake]

@[simp] theorem Chip.ownFault_tap (c src : Nat) (s : Chip) : (s.ownFault c src).tap = s.tap := by simp [Chip.ownFault]

theorem Chip.acceptAny_tap {body : Chip → Chip} (hbody : ∀ t : Chip, (body t).tap = t.tap) (s : Chip) : (s.acceptAny body).tap = s.tap := by
  rw [Chip.acceptAny]
  split
  · rw [hbody]
    split <;> rfl
  · rfl

theorem Chip.accept_tap {body : Chip → Chip} (hbody : ∀ t : Chip, (body t).tap = t.tap) (s : Chip) : (s.accept body).tap = s.tap :=
  Chip.acceptAny_tap (fun t => by split <;> simp [hbody]) s

theorem Chip.guarded_tap {body : Chip → Chip} (hbody : ∀ t : Chip, (body t).tap = t.tap) (s : Chip) : (s.guarded body).tap = s.tap := by
  rw [Chip.guarded]
  split
  · exact hbody _
  · simp

/-! ### `Machine/Sync.lean` -/

@[simp] theorem Chip.ksHost_tap (k : Nat) (set : Bool) (v : BitVec 48) (s : Chip) : (s.ksHost k set v).tap = s.tap := by simp [Chip.ksHost]

@[simp] theorem Chip.signal_tap (k n : Nat) (s : Chip) : (s.signal k n).tap = s.tap := by simp [Chip.signal]

@[simp] theorem Chip.evalWatch_tap (w : Nat) (s : Chip) : (s.evalWatch w).tap = s.tap := by simp [Chip.evalWatch]

@[simp] theorem ksVal_tap (n : Nat) (v : Word) (s : Chip) : (ksVal n v s).tap = s.tap :=
  Chip.accept_tap (fun t => by simp) s

@[simp] theorem ksAdd_tap (n : Nat) (v : Word) (s : Chip) : (ksAdd n v s).tap = s.tap :=
  Chip.accept_tap (fun t => by simp) s

@[simp] theorem kwatchCfg_tap (w : Nat) (v : Word) (s : Chip) : (kwatchCfg w v s).tap = s.tap :=
  Chip.accept_tap (fun t => by simp) s

/-! ### `Machine/RowCache.lean` -/

@[simp] theorem Chip.startWb_tap (kind : ReqKind) (g cls grp : Nat) (c : Option Nat) (s : Chip) :
    (s.startWb kind g cls grp c).tap = s.tap := by simp [Chip.startWb]

@[simp] theorem Chip.staleWb_tap (g : Nat) (m : BitVec 256) (s : Chip) : (s.staleWb g m).tap = s.tap := by simp [Chip.staleWb]

@[simp] theorem Chip.evictLine_tap (g cls : Nat) (s : Chip) : (s.evictLine g cls).tap = s.tap := by simp [Chip.evictLine]

theorem Chip.rcRoom_tap {g cls : Nat} {s t : Chip} (h : s.rcRoom g cls = some t) : t.tap = s.tap := by
  simp only [Chip.rcRoom] at h
  repeat' split at h
  case isTrue => cases h; rfl
  case isFalse.isTrue => cases h; rfl
  case isFalse.isFalse.isTrue => cases h; rfl
  case isFalse.isFalse.isFalse =>
    obtain ⟨p, -, rfl⟩ := Option.map_eq_some_iff.mp h
    simp

@[simp] theorem Chip.lineUse_tap (g cls : Nat) (hit : Bool) (s : Chip) : (s.lineUse g cls hit).tap = s.tap := by simp [Chip.lineUse]

theorem Chip.rcWrite_tap {g : Nat} {m : BitVec 256} {d : Granule} {part cls : Nat} {hit : Bool} {s t : Chip}
    (h : s.rcWrite g m d part cls hit = some t) : t.tap = s.tap := by
  obtain ⟨u, hu, rfl⟩ := Option.map_eq_some_iff.mp h
  simp [Chip.rcRoom_tap hu]

@[simp] theorem Chip.countRowSectors_tap (off : Nat) (v : BitVec 4) (s : Chip) :
    (s.countRowSectors off v).tap = s.tap := by simp [Chip.countRowSectors]

/-! ### `Machine/Translate.lean` -/

@[simp] theorem Chip.tlbTouch_tap (m part : Nat) (asid : BitVec 16) (va : Nat) (s : Chip) : (s.tlbTouch m part asid va).tap = s.tap := by
  simp only [Chip.tlbTouch]
  repeat' split
  all_goals simp

@[simp] theorem Chip.lookTouch_tap (c va : Nat) (s : Chip) : (s.lookTouch c va).tap = s.tap := by
  rw [Chip.lookTouch]
  split <;> simp

@[simp] theorem Chip.setHalt_tap (c : Nat) (h : Halt) (s : Chip) : (s.setHalt c h).tap = s.tap := by simp [Chip.setHalt]

@[simp] theorem Chip.trFault_tap (c : Nat) (req : WalkReq) (code level : Nat) (s : Chip) :
    (s.trFault c req code level).tap = s.tap := by simp [Chip.trFault]

@[simp] theorem Chip.walkOut_tap (id k : Nat) (s : Chip) : (Chip.walkOut id k s).tap = s.tap := by
  induction k generalizing s with
  | zero => rfl
  | succ k ih =>
    rw [Chip.walkOut]
    split
    · rfl
    · split
      · rfl
      · split <;> simp [ih]

@[simp] theorem Chip.nextWalk_tap (s : Chip) : (s.nextWalk).tap = s.tap := by
  rw [Chip.nextWalk]
  split <;> simp

@[simp] theorem Chip.needWalk_tap (f : WalkFor) (mov : Option Nat) (part : Nat) (asid : BitVec 16) (root va cls : Nat) (s : Chip) :
    (s.needWalk f mov part asid root va cls).tap = s.tap := by
  rw [Chip.needWalk]
  split <;> simp

@[simp] theorem Chip.startWalk_tap (c : Nat) (req : WalkReq) (s : Chip) : (s.startWalk c req).tap = s.tap := by simp [Chip.startWalk]

@[simp] theorem Chip.leaveWalk_tap (f : WalkFor) (s : Chip) : (s.leaveWalk f).tap = s.tap := by simp [Chip.leaveWalk]

@[simp] theorem Chip.invalidate_tap (scope part : Nat) (asid : BitVec 16) (s : Chip) : (s.invalidate scope part asid).tap = s.tap :=
  (foldl_tap (fun _ _ => Chip.updCtx_tap ..) _ _).trans (foldl_tap (fun _ _ => Chip.updMov_tap ..) _ _)

@[simp] theorem trInv_tap (scope part : Nat) (asid : BitVec 16) (s : Chip) : (trInv scope part asid s).tap = s.tap :=
  Chip.accept_tap (fun t => by simp) s

@[simp] theorem Chip.staleRing_tap (kind : ReqKind) (s : Chip) : (s.staleRing kind).tap = s.tap := by simp [Chip.staleRing]

@[simp] theorem Chip.ringWrite_tap (b r : Nat) (kind : ReqKind) (v : Word) (s : Chip) : (s.ringWrite b r kind v).tap = s.tap := by
  simp only [Chip.ringWrite]
  split <;> simp

@[simp] theorem trqEnable_tap (q r : Nat) (v : Word) (s : Chip) : (trqEnable q r v s).tap = s.tap :=
  Chip.accept_tap (fun t => by simp) s

/-! ### `Machine/Issue.lean` -/

@[simp] theorem Chip.useRd_tap (m : Nat) (s : Chip) : (s.useRd m).tap = s.tap := by simp [Chip.useRd]

@[simp] theorem Chip.useWr_tap (m : Nat) (s : Chip) : (s.useWr m).tap = s.tap := by simp [Chip.useWr]

@[simp] theorem Chip.useRm_tap (m : Nat) (s : Chip) : (s.useRm m).tap = s.tap := by simp [Chip.useRm]

@[simp] theorem Chip.dropLine_tap (m : Nat) (f : ICFill) (s : Chip) : (s.dropLine m f).tap = s.tap := by simp [Chip.dropLine]

@[simp] theorem Chip.leaveLines_tap (c : Nat) (s : Chip) : (s.leaveLines c).tap = s.tap :=
  foldl_tap (fun t x => by split <;> simp) _ _

@[simp] theorem Chip.icInvalidate_tap (m : Nat) (which : BitVec 16 → Bool) (s : Chip) :
    (s.icInvalidate m which).tap = s.tap := by simp [Chip.icInvalidate]

@[simp] theorem invall_tap (m : Nat) (s : Chip) : (invall m s).tap = s.tap :=
  Chip.accept_tap (fun t => by simp) s

@[simp] theorem invasid_tap (m : Nat) (asid : BitVec 16) (s : Chip) : (invasid m asid s).tap = s.tap :=
  Chip.accept_tap (fun t => by simp) s

/-! ### `Machine/Control.lean` -/

@[simp] theorem Chip.releaseStg_tap (c : Nat) (s : Chip) : (s.releaseStg c).tap = s.tap := by simp [Chip.releaseStg]

@[simp] theorem Chip.toBound_tap (c exit : Nat) (s : Chip) : (s.toBound c exit).tap = s.tap := by simp [Chip.toBound]

@[simp] theorem Chip.lostFault_tap (c : Nat) (s : Chip) : (s.lostFault c).tap = s.tap := by simp [Chip.lostFault]

/-! ### `Machine/Faults.lean` -/

@[simp] theorem Chip.setRec_tap (r : Nat) (x : FRec) (s : Chip) : (s.setRec r x).tap = s.tap := by simp [Chip.setRec]

@[simp] theorem Chip.request_tap (r : Rung) (s : Chip) : (s.request r).tap = s.tap := by simp [Chip.request]

@[simp] theorem fcAck_tap (v : Word) (s : Chip) : (fcAck v s).tap = s.tap :=
  Chip.acceptAny_tap (fun _ => by exact foldl_tap (fun t x => by split <;> simp) _ _) s

@[simp] theorem fcSwrep_tap (v : Word) (s : Chip) : (fcSwrep v s).tap = s.tap :=
  Chip.accept_tap (fun t => by simp) s

@[simp] theorem fcInjStore_tap (v : Word) (s : Chip) : (fcInjStore v s).tap = s.tap := by simp [fcInjStore]

@[simp] theorem fcInjArm_tap (v : Word) (s : Chip) : (fcInjArm v s).tap = s.tap := by
  refine Chip.accept_tap (fun t => ?_) s
  split
  · exact Chip.guarded_tap (fun u => by simp) t
  · simp

@[simp] theorem Chip.loadLfsr_tap (m : Nat) (s : Chip) : (s.loadLfsr m).tap = s.tap := by simp [Chip.loadLfsr]

@[simp] theorem Chip.loadLfsrs_tap (s : Chip) : (s.loadLfsrs).tap = s.tap := by simp [Chip.loadLfsrs]

@[simp] theorem shdConfigWrite_tap (off : Nat) (v : Word) (s : Chip) : (shdConfigWrite off v s).tap = s.tap :=
  Chip.accept_tap (fun t => by simp) s

/-! ### `Machine/Context.lean` -/

@[simp] theorem Chip.refuse_tap (code : Nat) (s : Chip) : (s.refuse code).tap = s.tap := by simp [Chip.refuse]

@[simp] theorem Chip.ctxOk_tap (c : Nat) (s : Chip) : (s.ctxOk c).tap = s.tap := by simp [Chip.ctxOk]

theorem Chip.command_tap (c : Nat) (ok : Ctx → Bool) {body : Chip → Chip} (hbody : ∀ t : Chip, (body t).tap = t.tap) (s : Chip) :
    (s.command c ok body).tap = s.tap :=
  Chip.accept_tap (fun t => by simp [hbody]) s

@[simp] theorem Chip.takeSlot_tap (c m w : Nat) (s : Chip) : (s.takeSlot c m w).tap = s.tap := by simp [Chip.takeSlot]

@[simp] theorem bind_tap (c : Nat) (s : Chip) : (bind c s).tap = s.tap :=
  Chip.command_tap _ _ (fun t => by split <;> simp) s

@[simp] theorem Chip.muteWork_tap (c : Nat) (s : Chip) : (s.muteWork c).tap = s.tap := by simp [Chip.muteWork]

@[simp] theorem Chip.startAbort_tap (c : Nat) (cause : AbortCause) (s : Chip) :
    (s.startAbort c cause).tap = s.tap := by simp [Chip.startAbort]

@[simp] theorem Chip.hostAbort_tap (c : Nat) (s : Chip) : (s.hostAbort c).tap = s.tap := by simp [Chip.hostAbort]

@[simp] theorem Chip.busyEnd_tap (c : Nat) (s : Chip) : (s.busyEnd c).tap = s.tap := by simp [Chip.busyEnd]

@[simp] theorem unbind_tap (c : Nat) (s : Chip) : (unbind c s).tap = s.tap :=
  Chip.accept_tap (fun t => by simp) s

@[simp] theorem start_tap (c : Nat) (s : Chip) : (start c s).tap = s.tap :=
  Chip.accept_tap (fun t => by simp) s

@[simp] theorem Chip.stopNow_tap (c : Nat) (s : Chip) : (s.stopNow c).tap = s.tap := by simp [Chip.stopNow]

@[simp] theorem Chip.disown_tap (c : Nat) (s : Chip) : (s.disown c).tap = s.tap := by simp [Chip.disown]

@[simp] theorem stop_tap (c : Nat) (s : Chip) : (stop c s).tap = s.tap :=
  Chip.command_tap _ _ (fun t => by dsimp only; split <;> simp) s

@[simp] theorem abort_tap (c : Nat) (s : Chip) : (abort c s).tap = s.tap :=
  Chip.accept_tap (fun t => by simp) s

@[simp] theorem clear_tap (c : Nat) (s : Chip) : (clear c s).tap = s.tap :=
  Chip.accept_tap (fun t => by simp) s

@[simp] theorem Chip.cmdFailed_tap (c : Nat) (s : Chip) : (s.cmdFailed c).tap = s.tap := by simp [Chip.cmdFailed]

theorem Chip.imageReqs_tap {c : Nat} {write : Bool} {bs : List Byte} {s t : Chip} (h : s.imageReqs c write bs = some t) :
    t.tap = s.tap := by
  refine bind_foldl_tap (fun u v g hu => ?_) h
  obtain ⟨p, -, rfl⟩ := Option.map_eq_some_iff.mp hu
  simp

@[simp] theorem Chip.moveImage_tap (c : Nat) (write : Bool) (bs : List Byte) (s : Chip) : (s.moveImage c write bs).tap = s.tap := by
  rw [Chip.moveImage, tap_ite]
  refine iteInduction (motive := fun w => w = s.tap) (fun _ => rfl) fun _ => ?_
  split
  case h_1 t ht => exact Chip.imageReqs_tap ht
  case h_2 => simp

@[simp] theorem loadregs_tap (c : Nat) (s : Chip) : (loadregs c s).tap = s.tap :=
  Chip.accept_tap (fun t => by simp) s

@[simp] theorem saveregs_tap (c : Nat) (s : Chip) : (saveregs c s).tap = s.tap :=
  Chip.accept_tap (fun t => by simp) s

@[simp] theorem ctxWrite_tap (c r : Nat) (v : Word) (s : Chip) : (ctxWrite c r v s).tap = s.tap := by
  simp only [ctxWrite]
  split
  · simp
  · split
    case h_1 =>
      split
      · exact Chip.guarded_tap (fun t => by simp) s
      · simp
    all_goals simp

@[simp] theorem gangForm_tap (v : Word) (s : Chip) : (gangForm v s).tap = s.tap :=
  Chip.accept_tap (fun t => by simp) s

theorem Chip.whenMapped_tap {body : Chip → Chip} (hbody : ∀ t : Chip, (body t).tap = t.tap) (s : Chip) :
    (s.whenMapped body).tap = s.tap := by
  rw [Chip.whenMapped]
  split
  · exact hbody s
  · exact Chip.guarded_tap hbody s

@[simp] theorem partMov_tap (k : Nat) (v : Word) (s : Chip) : (partMov k v s).tap = s.tap := by
  refine Chip.accept_tap (fun t => ?_) s
  dsimp only
  generalize (if k < 4 then min 16 (t.build.nmov - 16 * k) else 0) = n
  split
  · simp
  · exact Chip.whenMapped_tap (fun u => by simp) t

@[simp] theorem ksPart_tap (k : Nat) (v : Word) (s : Chip) : (ksPart k v s).tap = s.tap := by
  refine Chip.accept_tap (fun t => ?_) s
  split
  · simp
  · exact Chip.whenMapped_tap (fun u => by simp) t

/-! ### `Machine/Frames.lean` -/

@[simp] theorem Chip.updPort_tap (n : Nat) (f : LinkPort → LinkPort) (s : Chip) : (s.updPort n f).tap = s.tap := by simp [Chip.updPort]

@[simp] theorem Chip.linkReport_tap (n src : Nat) (s : Chip) : (s.linkReport n src).tap = s.tap := by simp [Chip.linkReport]

@[simp] theorem Chip.heardFrom_tap (id : Option Nat) (s : Chip) : (s.heardFrom id).tap = s.tap := by simp [Chip.heardFrom]

@[simp] theorem Chip.sendOne_tap (n : Nat) (e : EgFrame) (s : Chip) : (s.sendOne n e).tap = s.tap := by simp [Chip.sendOne]

@[simp] theorem Chip.linkSend_tap (n k : Nat) (s : Chip) : (Chip.linkSend n k s).tap = s.tap := by
  induction k generalizing s with
  | zero => rfl
  | succ k ih =>
    rw [Chip.linkSend]
    split
    · rfl
    · split <;> simp [ih]

@[simp] theorem Chip.linkFlush_tap (n : Nat) (s : Chip) : (s.linkFlush n).tap = s.tap := by simp [Chip.linkFlush]

@[simp] theorem Chip.queueFrame_tap (n : Nat) (e : EgFrame) (s : Chip) : (s.queueFrame n e).tap = s.tap := by simp [Chip.queueFrame]

@[simp] theorem Chip.engineFrame_tap (ty cls part dst mtag route : Nat) (words : List Nat) (s : Chip) :
    (s.engineFrame ty cls part dst mtag route words).tap = s.tap := by simp [Chip.engineFrame]

@[simp] theorem Chip.sendCmpl_tap (cls part dst mtag route kind status detail bytes : Nat) (s : Chip) :
    (s.sendCmpl cls part dst mtag route kind status detail bytes).tap = s.tap := by simp [Chip.sendCmpl]

@[simp] theorem Chip.undetach_tap (c id : Nat) (s : Chip) : (s.undetach c id).tap = s.tap := by simp [Chip.undetach]

@[simp] theorem Chip.courseSignals_tap (m : Msg) (s : Chip) : (s.courseSignals m).tap = s.tap := by
  simp [Chip.courseSignals]
  split <;> simp

@[simp] theorem Chip.finalSignal_tap (m : Msg) (ok : Bool) (s : Chip) : (s.finalSignal m ok).tap = s.tap := by
  rw [Chip.finalSignal]
  split <;> simp

@[simp] theorem Chip.complRecord_tap (m : Msg) (status detail : Nat) (s : Chip) :
    (s.complRecord m status detail).tap = s.tap := by simp [Chip.complRecord]

@[simp] theorem Chip.delegDone_tap (src mtag status bytes : Nat) (s : Chip) : (s.delegDone src mtag status bytes).tap = s.tap := by
  rw [Chip.delegDone]
  split <;> simp

@[simp] theorem Chip.guestFree_tap (c : Nat) (s : Chip) : (s.guestFree c).tap = s.tap := by simp [Chip.guestFree]

@[simp] theorem Chip.endLand_tap (l : Land) (status : Nat) (s : Chip) : (s.endLand l status).tap = s.tap := by simp [Chip.endLand]

@[simp] theorem Chip.msgEnd_tap (m : Msg) (status detail : Nat) (s : Chip) : (s.msgEnd m status detail).tap = s.tap := by
  simp [Chip.msgEnd]
  split <;> simp

@[simp] theorem Chip.loseMsgs_tap (ids : List Nat) (detail : Nat) (s : Chip) : (s.loseMsgs ids detail).tap = s.tap :=
  foldl_tap (fun t x => by split <;> simp) _ _

@[simp] theorem Chip.loseLand_tap (src tag : Nat) (s : Chip) : (s.loseLand src tag).tap = s.tap := by simp [Chip.loseLand]

@[simp] theorem Chip.discarded_tap (locals : List Nat) (hs : List (BitVec 128)) (s : Chip) : (s.discarded locals hs).tap = s.tap :=
  (foldl_tap (fun t x => by dsimp only; split <;> simp) _ _).trans (Chip.loseMsgs_tap ..)

@[simp] theorem Chip.countDown_tap (n : Nat) (s : Chip) : (s.countDown n).tap = s.tap := by simp [Chip.countDown]

@[simp] theorem Chip.portDown_tap (n : Nat) (s : Chip) : (s.portDown n).tap = s.tap := by simp [Chip.portDown]

/-! ### `Machine/Send.lean` -/

@[simp] theorem Chip.updMsg_tap (id : Nat) (f : Msg → Msg) (s : Chip) : (s.updMsg id f).tap = s.tap := by simp [Chip.updMsg]

@[simp] theorem Chip.sendFrame_tap (m : Msg) (ty : Nat) (payload : List Byte) (s : Chip) :
    (s.sendFrame m ty payload).tap = s.tap := by simp [Chip.sendFrame]

@[simp] theorem Chip.openMsg_tap (m : Msg) (s : Chip) : (s.openMsg m).tap = s.tap := by simp [Chip.openMsg]

@[simp] theorem Chip.frameOut_tap (id k : Nat) (s : Chip) : (Chip.frameOut id k s).tap = s.tap := by
  induction k generalizing s with
  | zero => rfl
  | succ k ih =>
    rw [Chip.frameOut]
    split
    · rfl
    · dsimp only
      split
      · split <;> simp [ih]
      · rfl

@[simp] theorem Chip.framesOut_tap (id : Nat) (s : Chip) : (s.framesOut id).tap = s.tap := by
  rw [Chip.framesOut]
  split <;> simp

@[simp] theorem Chip.countChunks_tap (old : Option Msg) (id : Nat) (s : Chip) : (s.countChunks old id).tap = s.tap := by
  simp only [Chip.countChunks]
  split <;> simp

@[simp] theorem Chip.feedMsg_tap (id : Nat) (bs : List Byte) (whole : Bool) (s : Chip) :
    (s.feedMsg id bs whole).tap = s.tap := by simp [Chip.feedMsg]

@[simp] theorem Chip.openSend_tap (c : Nat) (w : Word) (tb : Desc) (s : Chip) : (s.openSend c w tb).1.tap = s.tap := by simp [Chip.openSend]

@[simp] theorem Chip.openDeleg_tap (c : Nat) (o : XOp) (ops : List Byte) (s : Chip) :
    (s.openDeleg c o ops).1.tap = s.tap := by simp [Chip.openDeleg]

/-! ### `Machine/Walk.lean` -/

@[simp] theorem Chip.updXfer_tap (c : Nat) (f : Xfer → Xfer) (s : Chip) : (s.updXfer c f).tap = s.tap := by simp [Chip.updXfer]

@[simp] theorem Chip.count_tap (c r lo n k : Nat) (s : Chip) : (s.count c r lo n k).tap = s.tap := by simp [Chip.count]

@[simp] theorem Chip.holdFault_tap (c : Nat) (r : Report) (s : Chip) : (s.holdFault c r).tap = s.tap := by simp [Chip.holdFault]

@[simp] theorem Chip.lastFrames_tap (t : Xfer) (s : Chip) : (s.lastFrames t).tap = s.tap := by
  rw [Chip.lastFrames]
  split <;> simp

@[simp] theorem Chip.faultStep_tap (c : Nat) (s : Chip) : (s.faultStep c).tap = s.tap := by
  simp only [Chip.faultStep]
  split
  · rfl
  · split <;> simp

@[simp] theorem Chip.walkFault_tap (c code : Nat) (s : Chip) : (s.walkFault c code).tap = s.tap := by
  rw [Chip.walkFault]
  split <;> simp

@[simp] theorem Chip.walkTrFault_tap (c : Nat) (req : WalkReq) (code level : Nat) (s : Chip) :
    (s.walkTrFault c req code level).tap = s.tap := by
  rw [Chip.walkTrFault]
  split <;> simp

@[simp] theorem Chip.deliver_tap (d : Dest) (g : Granule) (s : Chip) : (s.deliver d g).tap = s.tap := by simp [Chip.deliver]

@[simp] theorem Chip.updReq_tap (id : Nat) (f : PortReq → PortReq) (s : Chip) : (s.updReq id f).tap = s.tap := by simp [Chip.updReq]

@[simp] theorem Chip.fillGranule_tap (g : Nat) (need : BitVec 4) (r : PortReq) (d : List Dest) (s : Chip) :
    (s.fillGranule g need r d).tap = s.tap := by
  rw [Chip.fillGranule]
  split <;> simp

@[simp] theorem Chip.fetchGranule_tap (c cls va : Nat) (d : Dest) (p : Place) (tr : Option Leaf) (cached : Bool) (s : Chip) :
    (s.fetchGranule c cls va d p tr cached).tap = s.tap := by simp [Chip.fetchGranule]

@[simp] theorem Chip.serve_tap (c cls va : Nat) (row : Bool) (d : Dest) (p : Place) (tr : Option Leaf) (s : Chip) :
    (s.serve c cls va row d p tr).tap = s.tap := by simp [Chip.serve]

@[simp] theorem Chip.noteRead_tap (c g : Nat) (m : BitVec 256) (s : Chip) : (s.noteRead c g m).tap = s.tap := by simp [Chip.noteRead]

@[simp] theorem Chip.noteDst_tap (c g : Nat) (m : BitVec 256) (s : Chip) : (s.noteDst c g m).tap = s.tap := by simp [Chip.noteDst]

@[simp] theorem Chip.askStage_tap (c : Nat) (t : Xfer) (l : SLine) (s : Chip) : (s.askStage c t l).1.tap = s.tap := by
  simp only [Chip.askStage]
  repeat' split
  all_goals simp

@[simp] theorem Chip.takeCredits_tap (c : Nat) (shared : Bool) (s : Chip) : (s.takeCredits c shared).tap = s.tap := by
  rw [Chip.takeCredits]
  split <;> simp

@[simp] theorem Chip.countTried_tap (c : Nat) (r : Tried) (s : Chip) : (s.countTried c r).tap = s.tap := by
  simp only [Chip.countTried]
  split <;> simp

@[simp] theorem Chip.readStep_tap (c : Nat) (t : Xfer) (v : View) (xi : XI) (l : List Need) (s : Chip) :
    (s.readStep c t v xi l).1.tap = s.tap := by
  simp only [Chip.readStep]
  repeat' split
  all_goals simp

theorem Chip.joinWrite_tap {c g crs : Nat} {m : BitVec 256} {d keep : Granule} {s t : Chip} (h : s.joinWrite c g crs m d keep = some t) :
    t.tap = s.tap := by
  rw [Chip.joinWrite] at h
  split at h
  · split at h
    · cases h
      simp
    · cases h
  · cases h

theorem Chip.putGranule_tap {c cls grp : Nat} {join : Bool} {o : OutWr} {p : Place} {tr : Option Leaf} {s t : Chip}
    (h : s.putGranule c cls grp join o p tr = some t) : t.tap = s.tap := by
  simp only [Chip.putGranule] at h
  split at h
  · cases h
  · split at h
    · exact Chip.rcWrite_tap h
    · split at h
      case h_1 u hu =>
        cases h
        split at hu
        · exact Chip.joinWrite_tap hu
        · cases hu
      case h_2 =>
        cases h
        simp

@[simp] theorem Chip.pagesFor_tap (c : Nat) (l : List Nat) (s : Chip) : (Chip.pagesFor c l s).1.tap = s.tap := by
  induction l generalizing s with
  | nil => rfl
  | cons va r ih =>
    rw [Chip.pagesFor]
    split
    · rfl
    · dsimp only
      split
      · exact ih s
      · split <;> simp [ih]

@[simp] theorem Chip.useWrs_tap (m n : Nat) (s : Chip) : (s.useWrs m n).tap = s.tap := by simp [Chip.useWrs]

theorem Chip.putOut_tap {c grp : Nat} {x : Xfer} {o : OutWr} {s t : Chip} (h : s.putOut c grp x o = some t) : t.tap = s.tap := by
  rw [Chip.putOut] at h
  split at h
  · cases h
    rfl
  · split at h
    · cases h
    · obtain ⟨u, hu, rfl⟩ := Option.map_eq_some_iff.mp h
      simp [Chip.putGranule_tap hu]

@[simp] theorem Chip.outStep_tap (c : Nat) (t : Xfer) (o : OutWr) (s : Chip) : (s.outStep c t o).1.tap = s.tap := by
  simp only [Chip.outStep]
  split
  · rfl
  · split
    case h_1 => rfl
    case h_2 u hu => simp [Chip.putOut_tap hu]

@[simp] theorem Chip.advance_tap (c : Nat) (xi : XI) (o : UOut) (s : Chip) : (s.advance c xi o).tap = s.tap := by simp [Chip.advance]

@[simp] theorem Chip.loadRoute_tap (c n : Nat) (img : List Byte) (s : Chip) : (s.loadRoute c n img).tap = s.tap :=
  foldl_tap (fun t x => by simp) _ _

@[simp] theorem Chip.qsumFails_tap (c : Nat) (t : Xfer) (s : Chip) : (s.qsumFails c t).tap = s.tap := by simp [Chip.qsumFails]

@[simp] theorem Chip.putStream_tap (c : Nat) (o : UOut) (xi : XI) (pop : Xfer → Xfer) (s : Chip) :
    (s.putStream c o xi pop).1.tap = s.tap := by
  simp only [Chip.putStream]
  repeat' split
  all_goals simp

@[simp] theorem Chip.putWrites_tap (c : Nat) (t : Xfer) (xi : XI) (o : UOut) (s : Chip) : (s.putWrites c t xi o).1.tap = s.tap := by
  simp only [Chip.putWrites]
  repeat' split
  all_goals simp

@[simp] theorem Chip.putBag_tap (c : Nat) (t : Xfer) (xi : XI) (o : UOut) (s : Chip) : (s.putBag c t xi o).1.tap = s.tap := by
  simp only [Chip.putBag]
  split
  · simp
  · split
    · simp
    · split
      · simp
      · split
        case h_1 => simp
        case h_2 u hu =>
          have hput := bind_foldl_tap (fun _ _ _ h => Chip.putOut_tap h) hu
          simp [hput]

@[simp] theorem Chip.acceptRow_tap (c pos mem : Nat) (o : XOp) (cls crs : Nat) (l : List (Nat × Nat × List SegOp × Leaf)) (s : Chip) :
    (s.acceptRow c pos mem o cls crs l).tap = s.tap := by simp [Chip.acceptRow]

@[simp] theorem Chip.acceptGroup_tap (c pos mem cls crs : Nat) (pages : List (Nat × Nat × Leaf)) (h : Nat) (ws : List Wr) (s : Chip) :
    (s.acceptGroup c pos mem cls crs pages h ws).tap = s.tap := by simp [Chip.acceptGroup]

@[simp] theorem Chip.putRow_tap (c : Nat) (t : Xfer) (xi : XI) (o : UOut) (s : Chip) : (s.putRow c t xi o).1.tap = s.tap := by
  simp only [Chip.putRow]
  repeat' split
  all_goals simp

@[simp] theorem Chip.cinvGranule_tap (c cls loc : Nat) (s : Chip) : (s.cinvGranule c cls loc).tap = s.tap := by simp [Chip.cinvGranule]

@[simp] theorem Chip.putCinv_tap (c : Nat) (t : Xfer) (xi : XI) (o : UOut) (s : Chip) : (s.putCinv c t xi o).1.tap = s.tap := by
  simp only [Chip.putCinv]
  repeat' split
  all_goals simp

@[simp] theorem Chip.walkEnds_tap (c : Nat) (s : Chip) : (s.walkEnds c).tap = s.tap := by
  simp only [Chip.walkEnds, Chip.updXfer_tap]
  split
  · split <;> simp
  · rfl

@[simp] theorem Chip.commitUnit_tap (c : Nat) (t : Xfer) (xi : XI) (o : UOut) (s : Chip) : (s.commitUnit c t xi o).1.tap = s.tap := by
  simp only [Chip.commitUnit]
  repeat' split
  all_goals simp

@[simp] theorem Chip.unitStep_tap (c : Nat) (t : Xfer) (v : View) (xi : XI) (s : Chip) : (s.unitStep c t v xi).1.tap = s.tap := by
  simp only [Chip.unitStep]
  repeat' split
  all_goals simp

@[simp] theorem Chip.poolStep_tap (c : Nat) (t : Xfer) (xi : XI) (s : Chip) : (s.poolStep c t xi).1.tap = s.tap := by
  simp only [Chip.poolStep]
  repeat' split
  all_goals simp

@[simp] theorem Chip.stageStep_tap (c : Nat) (t : Xfer) (xi : XI) (s : Chip) : (s.stageStep c t xi).1.tap = s.tap := by
  simp only [Chip.stageStep]
  repeat' split
  all_goals simp

@[simp] theorem Chip.listStep_tap (c : Nat) (t : Xfer) (xi : XI) (l : List Need) (s : Chip) : (s.listStep c t xi l).1.tap = s.tap := by
  simp only [Chip.listStep]
  repeat' split
  all_goals simp

@[simp] theorem Chip.sampleIf_tap (c : Nat) (cand : Bool) (s : Chip) : (s.sampleIf c cand).tap = s.tap := by
  rw [Chip.sampleIf]
  split <;> simp

@[simp] theorem Chip.msetPrep_tap (c : Nat) (t : Xfer) (xi : XI) (s : Chip) : (s.msetPrep c t xi).1.tap = s.tap := by
  simp only [Chip.msetPrep]
  repeat' split
  all_goals simp

@[simp] theorem Chip.msetStep_tap (c : Nat) (t : Xfer) (xi : XI) (s : Chip) : (s.msetStep c t xi).1.tap = s.tap := by
  simp only [Chip.msetStep]
  repeat' split
  all_goals simp

@[simp] theorem Chip.delegStep_tap (c : Nat) (t : Xfer) (xi : XI) (s : Chip) : (s.delegStep c t xi).1.tap = s.tap := by
  simp only [Chip.delegStep]
  repeat' split
  all_goals simp

@[simp] theorem Chip.sendStep_tap (c : Nat) (t : Xfer) (xi : XI) (s : Chip) : (s.sendStep c t xi).1.tap = s.tap := by
  simp only [Chip.sendStep]
  repeat' split
  all_goals simp

@[simp] theorem Chip.prefetchEnds_tap (c : Nat) (s : Chip) : (s.prefetchEnds c).tap = s.tap := by simp [Chip.prefetchEnds]

@[simp] theorem Chip.prefetchIssue_tap (c : Nat) (t : Xfer) (va : Nat) (p : Place) (tr : Leaf) (s : Chip) :
    (s.prefetchIssue c t va p tr).tap = s.tap := by simp [Chip.prefetchIssue]

@[simp] theorem Chip.prefetchStep_tap (c : Nat) (t : Xfer) (xi : XI) (s : Chip) : (s.prefetchStep c t xi).1.tap = s.tap := by
  simp only [Chip.prefetchStep]
  repeat' split
  all_goals simp

@[simp] theorem Chip.pushMsg_tap (t : Xfer) (s : Chip) : (s.pushMsg t).1.tap = s.tap := by
  rw [Chip.pushMsg]
  split <;> simp

@[simp] theorem Chip.walkStep_tap (c : Nat) (s : Chip) : (s.walkStep c).1.tap = s.tap := by
  simp only [Chip.walkStep]
  repeat' split
  all_goals simp

@[simp] theorem Chip.pumpN_tap (c n : Nat) (s : Chip) : (Chip.pumpN c n s).1.tap = s.tap := by
  induction n generalizing s with
  | zero => rfl
  | succ n ih =>
    have hstep := Chip.walkStep_tap c s
    rw [Chip.pumpN]
    split
    case h_1 t ht => rw [ih, ← hstep, ht]
    case h_2 => exact hstep

/-! ### `Machine/LandWrite.lean` -/

@[simp] theorem Chip.updLand_tap (l : Land) (f : Land → Land) (s : Chip) : (s.updLand l f).tap = s.tap := by simp [Chip.updLand]

@[simp] theorem Chip.landFault_tap (l : Land) (s : Chip) : (s.landFault l).tap = s.tap := by simp [Chip.landFault]

@[simp] theorem Chip.landTouch_tap (l : Land) (va : Nat) (s : Chip) : (s.landTouch l va).tap = s.tap := by
  simp [Chip.landTouch]
  split <;> simp

theorem Chip.putBurst_tap {l : Land} {w : BurstWr} {p : Place} {f : Leaf} {s t : Chip} (h : s.putBurst l w p f = some t) :
    t.tap = s.tap := by
  simp only [Chip.putBurst] at h
  split at h
  · cases h
  · split at h
    · rw [Chip.rcWrite_tap h]
      simp
    · cases h
      simp

@[simp] theorem Chip.landPump_tap (src mtag k : Nat) (s : Chip) : (Chip.landPump src mtag k s).tap = s.tap := by
  induction k generalizing s with
  | zero => rfl
  | succ k ih =>
    rw [Chip.landPump]
    split
    · rfl
    · split
      · rfl
      · split
        · rfl
        · split
          · simp
          · split
            · split
              case h_1 t ht => exact (ih t).trans (Chip.putBurst_tap ht)
              case h_2 => rfl
            · simp

@[simp] theorem Chip.landGo_tap (src mtag : Nat) (s : Chip) : (s.landGo src mtag).tap = s.tap := by
  rw [Chip.landGo]
  split <;> simp

@[simp] theorem Chip.landsGo_tap (s : Chip) : (s.landsGo).tap = s.tap := by simp [Chip.landsGo]

/-! ### `Machine/Save.lean` -/

theorem Chip.areaReqs_tap {c : Nat} {kind : ReqKind} {write : Bool} {gs : List (Nat × List Byte)} {s t : Chip}
    (h : s.areaReqs c kind write gs = some t) : t.tap = s.tap := by
  refine bind_foldl_tap (fun u v g hu => ?_) h
  obtain ⟨p, -, rfl⟩ := Option.map_eq_some_iff.mp hu
  simp

@[simp] theorem Chip.saveWalk_tap (c : Nat) (t : Xfer) (h : Halt) (s : Chip) : (s.saveWalk c t h).tap = s.tap := by
  simp only [Chip.saveWalk]
  split
  case h_1 u hu => simp [Chip.areaReqs_tap hu]
  case h_2 => simp

@[simp] theorem Chip.haltStep_tap (c : Nat) (s : Chip) : (s.haltStep c).tap = s.tap := by
  simp only [Chip.haltStep]
  split
  · split <;> simp
  · rfl

@[simp] theorem Chip.askArea_tap (c : Nat) (t : Xfer) (s : Chip) : (s.askArea c t).tap = s.tap := by
  rw [Chip.askArea]
  split
  case h_1 u hu => simp [Chip.areaReqs_tap hu]
  case h_2 => simp

/-! ### `Machine/Transfer.lean` -/

@[simp] theorem Chip.pump_tap (c : Nat) (s : Chip) : (s.pump c).tap = s.tap := by
  have hwalk := Chip.pumpN_tap c 65536 s
  simp only [Chip.pump, Chip.haltStep_tap, Chip.faultStep_tap]
  split
  · split
    case h_1 t ht => simp [← hwalk, ht]
    case h_2 t g _ ht => rw [← hwalk, ht]
  · rfl

@[simp] theorem Chip.nudge_tap (c : Nat) (s : Chip) : (s.nudge c).tap = s.tap := by simp [Chip.nudge]

@[simp] theorem Chip.pumpCur_tap (m : Nat) (s : Chip) : (s.pumpCur m).tap = s.tap := by
  rw [Chip.pumpCur]
  split <;> simp

@[simp] theorem Chip.pumpAll_tap (s : Chip) : (s.pumpAll).tap = s.tap := by simp [Chip.pumpAll]

@[simp] theorem Chip.yieldStg_tap (c m n : Nat) (s : Chip) : (s.yieldStg c m n).tap = s.tap := by simp [Chip.yieldStg]

@[simp] theorem Chip.resumeTransfer_tap (c : Nat) (s : Chip) : (s.resumeTransfer c).tap = s.tap := by
  rw [Chip.resumeTransfer]
  split <;> simp

@[simp] theorem resume_tap (c : Nat) (s : Chip) : (resume c s).tap = s.tap :=
  Chip.accept_tap (fun t => by simp) s

/-! ### `Machine/Irq.lean` -/

@[simp] theorem icPset_tap (k : Nat) (v : Word) (s : Chip) : (icPset k v s).tap = s.tap :=
  Chip.accept_tap (fun _ => by exact foldl_tap (fun _ _ => Chip.raise_tap ..) _ _) s

@[simp] theorem Chip.clearPend_tap (s : Chip) (n : Nat) : (s.clearPend n).tap = s.tap := by simp [Chip.clearPend]

@[simp] theorem icPclr_tap (k : Nat) (v : Word) (s : Chip) : (icPclr k v s).tap = s.tap :=
  Chip.accept_tap (fun t => by simp) s

@[simp] theorem icMset_tap (k : Nat) (v : Word) (s : Chip) : (icMset k v s).tap = s.tap :=
  Chip.accept_tap (fun _ => by exact foldl_tap (fun _ _ => Chip.updSrc_tap ..) _ _) s

@[simp] theorem icMclr_tap (k : Nat) (v : Word) (s : Chip) : (icMclr k v s).tap = s.tap :=
  Chip.accept_tap (fun _ => by exact foldl_tap (fun _ _ => Chip.updSrc_tap ..) _ _) s

@[simp] theorem icEvtcfg_tap (v : Word) (s : Chip) : (icEvtcfg v s).tap = s.tap := by
  refine Chip.accept_tap (fun t => ?_) s
  dsimp only
  split
  · exact (foldl_tap (fun _ _ => Chip.updSrc_tap ..) _ _).trans (Chip.setReg_tap ..)
  · simp

@[simp] theorem icSrc_tap (n : Nat) (v : Word) (s : Chip) : (icSrc n v s).tap = s.tap :=
  Chip.accept_tap (fun t => by simp) s

@[simp] theorem icSst_tap (n : Nat) (v : Word) (s : Chip) : (icSst n v s).tap = s.tap :=
  Chip.accept_tap (fun t => by simp) s

@[simp] theorem icEoi_tap (t : Nat) (v : Word) (s : Chip) : (icEoi t v s).tap = s.tap :=
  Chip.accept_tap (fun t => by simp) s

@[simp] theorem icTcfg_tap (t : Nat) (v : Word) (s : Chip) : (icTcfg t v s).tap = s.tap :=
  Chip.accept_tap (fun t => by simp) s

@[simp] theorem icVbase_tap (t : Nat) (v : Word) (s : Chip) : (icVbase t v s).tap = s.tap := by simp [icVbase]

@[simp] theorem icTstat_tap (t : Nat) (v : Word) (s : Chip) : (icTstat t v s).tap = s.tap := by simp [icTstat]

/-! ### `Machine/Link.lean` -/

@[simp] theorem Chip.freeIngress_tap (n vl : Nat) (s : Chip) : (s.freeIngress n vl).tap = s.tap := by simp [Chip.freeIngress]

@[simp] theorem Chip.dropWaiting_tap (n : Nat) (s : Chip) : (s.dropWaiting n).tap = s.tap := by simp [Chip.dropWaiting]

@[simp] theorem Chip.linkDown_tap (n : Nat) (s : Chip) : (s.linkDown n).tap = s.tap := by simp [Chip.linkDown]

@[simp] theorem lkCfg_tap (v : Word) (s : Chip) : (lkCfg v s).tap = s.tap :=
  Chip.accept_tap (fun t => by simp) s

@[simp] theorem lkPctl_tap (n : Nat) (v : Word) (s : Chip) : (lkPctl n v s).tap = s.tap :=
  Chip.accept_tap (fun t => by simp) s

@[simp] theorem rtEntryWrite_tap (p e r : Nat) (v : Word) (s : Chip) : (rtEntryWrite p e r v s).tap = s.tap := by
  refine Chip.accept_tap (fun t => ?_) s
  dsimp only
  split
  · simp
  · split <;> simp

@[simp] theorem lwWrite_tap (w r : Nat) (v : Word) (s : Chip) : (lwWrite w r v s).tap = s.tap := by
  refine Chip.accept_tap (fun t => ?_) s
  dsimp only
  split
  · simp
  · split <;> simp

/-! ### `Machine/Recovery.lean` -/

@[simp] theorem rsqMoverReset_tap (t : Nat) (s : Chip) : (rsqMoverReset t s).tap = s.tap :=
  Chip.accept_tap (fun t => by simp) s

@[simp] theorem rsqPartitionReset_tap (t : Nat) (s : Chip) : (rsqPartitionReset t s).tap = s.tap :=
  Chip.accept_tap (fun t => by simp) s

@[simp] theorem glbRst_tap (v : Word) (s : Chip) : (glbRst v s).tap = s.tap :=
  Chip.accept_tap (fun t => by simp) s

@[simp] theorem rsqTmo_tap (v : Word) (s : Chip) : (rsqTmo v s).tap = s.tap :=
  Chip.accept_tap (fun t => by simp) s

@[simp] theorem rsqDump_tap (v : Word) (s : Chip) : (rsqDump v s).tap = s.tap :=
  Chip.accept_tap (fun t => by simp) s

/-! ### `Machine/Startup.lean` -/

@[simp] theorem guard_tap (v : Word) (s : Chip) : (guard v s).tap = s.tap := by
  simp [guard]
  split <;> simp

@[simp] theorem clkGate_tap (v : Word) (s : Chip) : (clkGate v s).tap = s.tap :=
  Chip.accept_tap (fun t => by simp) s

@[simp] theorem snsUseroff_tap (off : Nat) (v : Word) (s : Chip) : (snsUseroff off v s).tap = s.tap :=
  Chip.accept_tap (fun t => by dsimp only; split <;> simp) s

@[simp] theorem snsThreshold_tap (off : Nat) (v : Word) (s : Chip) : (snsThreshold off v s).tap = s.tap :=
  Chip.accept_tap (fun t => by simp) s

@[simp] theorem trcStore_tap (v : Word) (s : Chip) : (trcStore v s).tap = s.tap := by simp [trcStore]

@[simp] theorem trcCfg_tap (v : Word) (s : Chip) : (trcCfg v s).tap = s.tap := by
  refine Chip.accept_tap (fun t => ?_) s
  split
  · exact Chip.guarded_tap (trcStore_tap v) t
  · simp

/-! ### `Machine/Tier.lean` -/

@[simp] theorem Chip.legacyStart_tap (was : Word) (s : Chip) : (s.legacyStart was).tap = s.tap := by simp [Chip.legacyStart]

@[simp] theorem regionConfigWrite_tap (off : Nat) (v : Word) (s : Chip) : (regionConfigWrite off v s).tap = s.tap := by
  refine Chip.accept_tap (fun t => ?_) s
  dsimp only
  split <;> simp

@[simp] theorem Chip.updTier_tap (f : TierSt → TierSt) (s : Chip) : (s.updTier f).tap = s.tap := by simp [Chip.updTier]

@[simp] theorem Chip.cmtFail_tap (err : Nat) (s : Chip) : (s.cmtFail err).tap = s.tap := by simp [Chip.cmtFail]

@[simp] theorem Chip.fillShadow_tap (s : Chip) : (s.fillShadow).1.tap = s.tap := by
  rw [Chip.fillShadow]
  split <;> simp

@[simp] theorem Chip.cmtOps_tap (v : Word) (s : Chip) : (s.cmtOps v).tap = s.tap := by
  simp only [Chip.cmtOps]
  split <;> simp

@[simp] theorem cmtCtl_tap (v : Word) (s : Chip) : (cmtCtl v s).tap = s.tap := by
  refine Chip.accept_tap (fun t => ?_) s
  split
  · simp
  · split
    · exact Chip.whenMapped_tap (Chip.cmtOps_tap v) t
    · simp

@[simp] theorem govConfigWrite_tap (off : Nat) (v : Word) (s : Chip) : (govConfigWrite off v s).tap = s.tap :=
  Chip.accept_tap (fun t => by simp) s

@[simp] theorem rcEmbcfg_tap (v : Word) (s : Chip) : (rcEmbcfg v s).tap = s.tap :=
  Chip.accept_tap (fun t => by simp) s

/-! ### `Machine/RegWrite.lean` -/

@[simp] theorem plainWrite_tap (off : Nat) (v : Word) (s : Chip) : (plainWrite off v s).tap = s.tap :=
  Chip.accept_tap (fun t => by simp) s

@[simp] theorem ignoreWrite_tap (s : Chip) : (ignoreWrite s).tap = s.tap := Chip.accept_tap (fun _ => by rfl) s

@[simp] theorem ctxCmd_tap (c : Nat) (v : Word) (s : Chip) : (ctxCmd c v s).tap = s.tap := by
  have hcmd : ∀ f, ctxCmd c v = f → (f s).tap = s.tap := fun f hf => by
    unfold ctxCmd at hf
    split at hf <;> subst hf
    case h_10 => exact Chip.accept_tap (fun t => by simp) s
    all_goals simp
  exact hcmd _ rfl

@[simp] theorem icctl_tap (m : Nat) (v : Word) (s : Chip) : (icctl m v s).tap = s.tap := by
  simp only [icctl]
  repeat' split
  all_goals simp

@[simp] theorem trInvWrite_tap (v : Word) (s : Chip) : (trInvWrite v s).tap = s.tap := by
  rw [trInvWrite]
  split
  · simp
  · exact Chip.accept_tap (fun _ => by rfl) s

@[simp] theorem tnStkWrite_tap (k : Nat) (v : Word) (s : Chip) : (tnStkWrite k v s).tap = s.tap :=
  Chip.accept_tap (fun t => by simp) s

@[simp] theorem legCfgWrite_tap (v : Word) (s : Chip) : (legCfgWrite v s).tap = s.tap :=
  Chip.accept_tap (fun t => by simp) s

@[simp] theorem cmtWrite_tap (h : Nat) (v : Word) (s : Chip) : (cmtWrite h v s).tap = s.tap :=
  Chip.accept_tap (fun t => by simp) s

@[simp] theorem ringRegWrite_tap (k r : Nat) (v : Word) (s : Chip) : (ringRegWrite k r v s).tap = s.tap :=
  Chip.accept_tap (fun t => by simp) s

@[simp] theorem trcRingWrite_tap (r : Nat) (v : Word) (s : Chip) : (trcRingWrite r v s).tap = s.tap :=
  Chip.accept_tap (fun t => by simp) s

@[simp] theorem rsqReq_tap (v : Word) (s : Chip) : (rsqReq v s).tap = s.tap := by
  have hreq : ∀ f, rsqReq v = f → (f s).tap = s.tap := fun f hf => by
    unfold rsqReq at hf
    split at hf <;> subst hf
    case h_4 => exact Chip.accept_tap (fun _ => by rfl) s
    all_goals simp
  exact hreq _ rfl

@[simp] theorem statWrite_tap (key : Nat) (v : Word) (s : Chip) : (statWrite key v s).tap = s.tap :=
  Chip.accept_tap (fun _ => by rfl) s

@[simp] theorem ctxRegWrite_tap (c r : Nat) (v : Word) (s : Chip) : (ctxRegWrite c r v s).tap = s.tap := by
  rw [ctxRegWrite]
  split
  · simp
  · exact Chip.accept_tap (ctxWrite_tap c r v) s

theorem lowWrite_tap (off : Nat) (v : Word) : KeepsTap (lowWrite off v) := by
  unfold lowWrite
  repeat refine keepsTap_ite (by simp) ?_
  repeat' split
  all_goals simp

theorem linkWrite_tap (off : Nat) (v : Word) : KeepsTap (linkWrite off v) := by
  unfold linkWrite
  repeat refine keepsTap_ite (by simp) ?_
  repeat' split
  all_goals simp

theorem irqWrite_tap (off : Nat) (v : Word) : KeepsTap (irqWrite off v) := by
  have hvbase := fun t => Chip.accept_tap (icVbase_tap t v)
  have htstat := fun t => Chip.accept_tap (icTstat_tap t v)
  unfold irqWrite
  repeat refine keepsTap_ite (by simp) ?_
  repeat' split
  all_goals simp [hvbase, htstat]

theorem highWrite_tap (off : Nat) (v : Word) : KeepsTap (highWrite off v) := by
  unfold highWrite
  repeat refine keepsTap_ite (by simp) ?_
  repeat' split
  all_goals simp

@[simp] theorem writeReg_tap (off : Nat) (v : Word) (s : Chip) : (writeReg off v s).tap = s.tap := by
  have hwrites : KeepsTap (orElse (lowWrite off v) (orElse (linkWrite off v) (orElse (irqWrite off v) (highWrite off v)))) :=
    keepsTap_orElse (lowWrite_tap off v) (keepsTap_orElse (linkWrite_tap off v) (keepsTap_orElse (irqWrite_tap off v) (highWrite_tap off v)))
  rw [writeReg]
  split
  · simp
  · split
    case h_1 f hf => exact hwrites f hf s
    case h_2 => simp

end Sys2Proof.Machine
end

section
/-! The register that a write reaches (R533, R538–R540, R597), the test access port and its network (R564–R567). -/

namespace Sys2Proof.Machine

/-! ### Blocks of registers -/

theorem blockOf_outside {base stride n off : Nat} (h : off < base ∨ base + stride * n ≤ off) : blockOf base stride n off = none :=
  if_neg (by omega)

theorem blockOf_inside {base stride n off k r : Nat} (hlo : base ≤ off) (hhi : off < base + stride * n) (hk : (off - base) / stride = k)
    (hr : (off - base) % stride = r) : blockOf base stride n off = some (k, r) := by
  rw [blockOf, if_pos ⟨hlo, hhi⟩, hk, hr]

/-- A sensor's register lies among those of the sensors. -/
theorem snsReg_bounds {i : Nat} (hi : i < 20) : 0x0E0000 ≤ snsReg i ∧ snsReg i < 0x0E00A0 ∧ snsReg i % 8 = 0 := by
  simp only [snsReg, Reg.snsT, Reg.snsV]
  split <;> omega

theorem snsOf_outside {off : Nat} (h : off < 0x0E0000 ∨ 0x0E00A0 ≤ off) : snsOf off = none := by
  refine List.find?_eq_none.mpr fun i hi => ?_
  have hb := snsReg_bounds (List.mem_range.mp hi)
  rw [beq_iff_eq]
  omega

/-! ### No status register -/

/-- The offset names a register, and none of a unit's status registers in any build. -/
def plainOffset (off : Nat) : Prop :=
  (off < 0x0A2000 ∨ 0x0A2158 ≤ off) ∧ (0x020000 ≤ off → off < 0x030000 → (off - 0x020000) % 0x400 ≠ 0x70) ∧
    (off < 0x054000 ∨ 0x054600 ≤ off) ∧ (0x060000 ≤ off → off < 0x060200 → (off - 0x060000) % 0x40 ≠ 8) ∧
    (0x070100 ≤ off → off < 0x070500 → (off - 0x070100) % 0x40 ≠ 0x28) ∧ off % 8 = 0 ∧ off < 0x120000

theorem blockOf_some {base stride n off k r : Nat} (h : blockOf base stride n off = some (k, r)) :
    base ≤ off ∧ off < base + stride * n ∧ r = (off - base) % stride := by
  rw [blockOf] at h
  split at h
  case isTrue hb =>
    cases h
    exact ⟨hb.1, hb.2, rfl⟩
  case isFalse => cases h

/-- The build has no more units than the register map has blocks for (R597). -/
def Build.fitsMap (b : Build) : Prop := b.nmov ≤ 64 ∧ b.nsp ≤ 24 ∧ b.nfp ≤ 8 ∧ b.nlp ≤ 16

section
variable {b : Build} (hfits : Build.fitsMap b) {off : Nat}
include hfits

theorem statUnit_none (h : plainOffset off) : statUnit b off = none := by
  obtain ⟨hm, hs, hf, hl⟩ := hfits
  obtain ⟨hust, hmov, hsp, hfp, hlk, -⟩ := h
  have hsp' : blockOf 0x054000 0x40 b.nsp off = none := blockOf_outside (by omega)
  simp only [statUnit, blockOf_outside (show off < 0x0A2000 ∨ 0x0A2000 + 8 * 43 ≤ off by omega), hsp']
  cases hm : blockOf 0x020000 0x400 b.nmov off with
  | some x =>
    obtain ⟨hlo, hhi, hr⟩ := blockOf_some hm
    exact if_neg (hr ▸ hmov hlo (by omega))
  | none =>
    cases hf : blockOf 0x060000 0x40 b.nfp off with
    | some x =>
      obtain ⟨hlo, hhi, hr⟩ := blockOf_some hf
      exact if_neg (hr ▸ hfp hlo (by omega))
    | none =>
      cases hl : blockOf 0x070100 0x40 b.nlp off with
      | some x =>
        obtain ⟨hlo, hhi, hr⟩ := blockOf_some hl
        exact if_neg (hr ▸ hlk hlo (by omega))
      | none => rfl

/-- The register of an offset with rules of its own, if any. -/
def regWrite (off : Nat) (v : Word) : Option (Chip → Chip) :=
  orElse (lowWrite off v) (orElse (linkWrite off v) (orElse (irqWrite off v) (highWrite off v)))

/-- A write of 64 bits that passes the decode checks is that of the register it names. -/
theorem registerWrite_reaches {s : Chip} (hb : s.build = b) (h : plainOffset off) {v : Word}
    {f : Chip → Chip} (hw : regWrite off v = some f) : registerWrite off 3 v s = f s := by
  obtain ⟨-, -, -, -, -, hal, hlt⟩ := id h
  have hok : ¬ (off % 8 ≠ 0 ∨ Reg.inRegion off = false) := by simp [hal, Reg.inRegion, hlt]
  rw [regWrite] at hw
  simp only [registerWrite, ne_eq, not_true_eq_false, if_false, if_neg hok, writeReg, hb, statUnit_none hfits h, hw]

end

/-! ### The four parts of the register space -/

section
variable {off : Nat} (v : Word)

theorem lowWrite_above (h : 0x060000 ≤ off) : lowWrite off v = none := by
  simp (disch := omega) only [lowWrite, Reg.glbRst, Reg.clkGate, Reg.guard, Reg.gangForm, Reg.trInv, Reg.tnCfg, Reg.tnRes, Reg.cmtCtl,
    Reg.legCfg, if_neg, blockOf_outside]

theorem linkWrite_outside (h : off < 0x060000 ∨ 0x080000 ≤ off) : linkWrite off v = none := by
  simp (disch := omega) only [linkWrite, Reg.tpWin, Reg.lkCfg, if_neg, blockOf_outside]

theorem irqWrite_outside (h : off < 0x080000 ∨ 0x0A0000 ≤ off) : irqWrite off v = none := by
  simp (disch := omega) only [irqWrite, Reg.icEvtcfg, if_neg, blockOf_outside]

theorem regWrite_low {f : Chip → Chip} (h : lowWrite off v = some f) : regWrite off v = some f := by
  rw [regWrite, h]
  rfl

theorem regWrite_link {f : Chip → Chip} (h : 0x060000 ≤ off) (hf : linkWrite off v = some f) : regWrite off v = some f := by
  rw [regWrite, lowWrite_above v h, hf]
  rfl

theorem regWrite_irq {f : Chip → Chip} (h : 0x080000 ≤ off) (hf : irqWrite off v = some f) : regWrite off v = some f := by
  rw [regWrite, lowWrite_above v (by omega), linkWrite_outside v (by omega), hf]
  rfl

theorem regWrite_high {f : Chip → Chip} (h : 0x0A0000 ≤ off) (hf : highWrite off v = some f) : regWrite off v = some f := by
  rw [regWrite, lowWrite_above v (by omega), linkWrite_outside v (by omega), irqWrite_outside v (by omega)]
  exact hf

end

/-! ### The registers of a block -/

section
variable (v : Word)

theorem lowWrite_ctx {c : Nat} (hc : c < 256) : lowWrite (Reg.ctx c 0x30) v = some (ctxCmd c v) := by
  have hblock : blockOf 0x010000 0x100 256 (Reg.ctx c 0x30) = some (c, 0x30) := blockOf_inside (by simp only [Reg.ctx]; omega) (by simp only [Reg.ctx]; omega)
    (by simp only [Reg.ctx]; omega) (by simp only [Reg.ctx]; omega)
  simp only [Reg.ctx] at hblock ⊢
  simp (disch := omega) only [lowWrite, Reg.glbRst, Reg.clkGate, Reg.guard, Reg.gangForm, Reg.trInv, Reg.tnCfg, Reg.tnRes, Reg.cmtCtl, Reg.legCfg, if_neg, hblock, ctxRegWrite, if_true]

theorem lowWrite_mov {m : Nat} (hm : m < 64) : lowWrite (Reg.mov m 0x10) v = some (icctl m v) := by
  have hblock : blockOf 0x020000 0x400 64 (Reg.mov m 0x10) = some (m, 0x10) := blockOf_inside (by simp only [Reg.mov]; omega) (by simp only [Reg.mov]; omega)
    (by simp only [Reg.mov]; omega) (by simp only [Reg.mov]; omega)
  simp only [Reg.mov] at hblock ⊢
  simp (disch := omega) only [lowWrite, Reg.glbRst, Reg.clkGate, Reg.guard, Reg.gangForm, Reg.trInv, Reg.tnCfg, Reg.tnRes, Reg.cmtCtl, Reg.legCfg, if_neg, blockOf_outside, hblock, if_true]

theorem lowWrite_partMov {k : Nat} (hk : k < 4) : lowWrite (Reg.partMov k) v = some (partMov k v) := by
  have hblock : blockOf 0x030010 8 4 (Reg.partMov k) = some (k, 0) := blockOf_inside (by simp only [Reg.partMov]; omega) (by simp only [Reg.partMov]; omega)
    (by simp only [Reg.partMov]; omega) (by simp only [Reg.partMov]; omega)
  simp only [Reg.partMov] at hblock ⊢
  simp (disch := omega) only [lowWrite, Reg.glbRst, Reg.clkGate, Reg.guard, Reg.gangForm, Reg.trInv, Reg.tnCfg, Reg.tnRes, Reg.cmtCtl, Reg.legCfg, if_neg, blockOf_outside, hblock]

theorem lowWrite_ksPart {k : Nat} (hk : k < 4) : lowWrite (Reg.ksPart k) v = some (ksPart k v) := by
  have hblock : blockOf 0x030040 8 4 (Reg.ksPart k) = some (k, 0) := blockOf_inside (by simp only [Reg.ksPart]; omega) (by simp only [Reg.ksPart]; omega)
    (by simp only [Reg.ksPart]; omega) (by simp only [Reg.ksPart]; omega)
  simp only [Reg.ksPart] at hblock ⊢
  simp (disch := omega) only [lowWrite, Reg.glbRst, Reg.clkGate, Reg.guard, Reg.gangForm, Reg.trInv, Reg.tnCfg, Reg.tnRes, Reg.cmtCtl, Reg.legCfg, if_neg, blockOf_outside, hblock]

theorem lowWrite_trq {q r : Nat} (hq : q < 16) (hr : r < 64) : lowWrite (Reg.trq q r) v = some (trqEnable q r v) := by
  have hblock : blockOf 0x041000 0x40 16 (Reg.trq q r) = some (q, r) := blockOf_inside (by simp only [Reg.trq]; omega) (by simp only [Reg.trq]; omega)
    (by simp only [Reg.trq]; omega) (by simp only [Reg.trq]; omega)
  simp only [Reg.trq] at hblock ⊢
  simp (disch := omega) only [lowWrite, Reg.glbRst, Reg.clkGate, Reg.guard, Reg.gangForm, Reg.trInv, Reg.tnCfg, Reg.tnRes, Reg.cmtCtl, Reg.legCfg, if_neg, blockOf_outside, hblock]

theorem linkWrite_lk {n : Nat} (hn : n < 16) : linkWrite (Reg.lk n 0) v = some (lkPctl n v) := by
  have hblock : blockOf 0x070100 0x40 16 (Reg.lk n 0) = some (n, 0) := blockOf_inside (by simp only [Reg.lk]; omega) (by simp only [Reg.lk]; omega)
    (by simp only [Reg.lk]; omega) (by simp only [Reg.lk]; omega)
  simp only [Reg.lk] at hblock ⊢
  simp (disch := omega) only [linkWrite, Reg.tpWin, Reg.lkCfg, if_neg, blockOf_outside, hblock, if_true]

theorem linkWrite_rt {p e r : Nat} (hp : p < 8) (he : e < 64) (hr : r < 32) : linkWrite (Reg.rt p e r) v = some (rtEntryWrite p e r v) := by
  have hblock : blockOf 0x071000 0x20 512 (Reg.rt p e r) = some (64 * p + e, r) := blockOf_inside (by simp only [Reg.rt]; omega)
    (by simp only [Reg.rt]; omega) (by simp only [Reg.rt]; omega) (by simp only [Reg.rt]; omega)
  have hp' : (64 * p + e) / 64 = p := by omega
  have he' : (64 * p + e) % 64 = e := by omega
  simp only [Reg.rt] at hblock ⊢
  simp (disch := omega) only [linkWrite, Reg.tpWin, Reg.lkCfg, if_neg, blockOf_outside, hblock, hp', he']

theorem linkWrite_lw {w r : Nat} (hw : w < 256) (hr : r < 32) : linkWrite (Reg.lw w r) v = some (lwWrite w r v) := by
  have hblock : blockOf 0x075000 0x20 256 (Reg.lw w r) = some (w, r) := blockOf_inside (by simp only [Reg.lw]; omega) (by simp only [Reg.lw]; omega)
    (by simp only [Reg.lw]; omega) (by simp only [Reg.lw]; omega)
  simp only [Reg.lw] at hblock ⊢
  simp (disch := omega) only [linkWrite, Reg.tpWin, Reg.lkCfg, if_neg, blockOf_outside, hblock]

theorem irqWrite_icPset {k : Nat} (hk : k < 12) : irqWrite (Reg.icPset k) v = some (icPset k v) := by
  have hblock : blockOf 0x080000 8 12 (Reg.icPset k) = some (k, 0) := blockOf_inside (by simp only [Reg.icPset]; omega) (by simp only [Reg.icPset]; omega)
    (by simp only [Reg.icPset]; omega) (by simp only [Reg.icPset]; omega)
  simp only [Reg.icPset] at hblock ⊢
  simp (disch := omega) only [irqWrite, Reg.icEvtcfg, if_neg, hblock]

theorem irqWrite_icPclr {k : Nat} (hk : k < 12) : irqWrite (Reg.icPclr k) v = some (icPclr k v) := by
  have hblock : blockOf 0x080080 8 12 (Reg.icPclr k) = some (k, 0) := blockOf_inside (by simp only [Reg.icPclr]; omega) (by simp only [Reg.icPclr]; omega)
    (by simp only [Reg.icPclr]; omega) (by simp only [Reg.icPclr]; omega)
  simp only [Reg.icPclr] at hblock ⊢
  simp (disch := omega) only [irqWrite, Reg.icEvtcfg, if_neg, blockOf_outside, hblock]

theorem irqWrite_icMset {k : Nat} (hk : k < 12) : irqWrite (Reg.icMset k) v = some (icMset k v) := by
  have hblock : blockOf 0x080100 8 12 (Reg.icMset k) = some (k, 0) := blockOf_inside (by simp only [Reg.icMset]; omega) (by simp only [Reg.icMset]; omega)
    (by simp only [Reg.icMset]; omega) (by simp only [Reg.icMset]; omega)
  simp only [Reg.icMset] at hblock ⊢
  simp (disch := omega) only [irqWrite, Reg.icEvtcfg, if_neg, blockOf_outside, hblock]

theorem irqWrite_icMclr {k : Nat} (hk : k < 12) : irqWrite (Reg.icMclr k) v = some (icMclr k v) := by
  have hblock : blockOf 0x080180 8 12 (Reg.icMclr k) = some (k, 0) := blockOf_inside (by simp only [Reg.icMclr]; omega) (by simp only [Reg.icMclr]; omega)
    (by simp only [Reg.icMclr]; omega) (by simp only [Reg.icMclr]; omega)
  simp only [Reg.icMclr] at hblock ⊢
  simp (disch := omega) only [irqWrite, Reg.icEvtcfg, if_neg, blockOf_outside, hblock]

theorem irqWrite_icTcfg {t : Nat} (ht : t < 8) : irqWrite (Reg.icTgt t 8) v = some (icTcfg t v) := by
  have hblock : blockOf 0x081000 0x40 8 (Reg.icTgt t 8) = some (t, 8) := blockOf_inside (by simp only [Reg.icTgt]; omega) (by simp only [Reg.icTgt]; omega)
    (by simp only [Reg.icTgt]; omega) (by simp only [Reg.icTgt]; omega)
  simp only [Reg.icTgt] at hblock ⊢
  simp (disch := omega) only [irqWrite, Reg.icEvtcfg, if_neg, blockOf_outside, hblock, if_true]

theorem irqWrite_icEoi {t : Nat} (ht : t < 8) : irqWrite (Reg.icTgt t 0x10) v = some (icEoi t v) := by
  have hblock : blockOf 0x081000 0x40 8 (Reg.icTgt t 0x10) = some (t, 0x10) := blockOf_inside (by simp only [Reg.icTgt]; omega) (by simp only [Reg.icTgt]; omega)
    (by simp only [Reg.icTgt]; omega) (by simp only [Reg.icTgt]; omega)
  simp only [Reg.icTgt] at hblock ⊢
  simp (disch := omega) only [irqWrite, Reg.icEvtcfg, if_neg, blockOf_outside, hblock, if_true]

theorem irqWrite_icSrc {n : Nat} (hn : n < 768) : irqWrite (Reg.icSrc n) v = some (icSrc n v) := by
  have hblock : blockOf 0x088000 8 768 (Reg.icSrc n) = some (n, 0) := blockOf_inside (by simp only [Reg.icSrc]; omega) (by simp only [Reg.icSrc]; omega)
    (by simp only [Reg.icSrc]; omega) (by simp only [Reg.icSrc]; omega)
  simp only [Reg.icSrc] at hblock ⊢
  simp (disch := omega) only [irqWrite, Reg.icEvtcfg, if_neg, blockOf_outside, hblock]

theorem irqWrite_icSst {n : Nat} (hn : n < 768) : irqWrite (Reg.icSst n) v = some (icSst n v) := by
  have hblock : blockOf 0x08A000 8 768 (Reg.icSst n) = some (n, 0) := blockOf_inside (by simp only [Reg.icSst]; omega) (by simp only [Reg.icSst]; omega)
    (by simp only [Reg.icSst]; omega) (by simp only [Reg.icSst]; omega)
  simp only [Reg.icSst] at hblock ⊢
  simp (disch := omega) only [irqWrite, Reg.icEvtcfg, if_neg, blockOf_outside, hblock]

theorem highWrite_ksVal {n : Nat} (hn : n < 4096) : highWrite (Reg.ksVal n) v = some (ksVal n v) := by
  have hblock : blockOf 0x100000 0x10 4096 (Reg.ksVal n) = some (n, 0) := blockOf_inside (by simp only [Reg.ksVal]; omega) (by simp only [Reg.ksVal]; omega)
    (by simp only [Reg.ksVal]; omega) (by simp only [Reg.ksVal]; omega)
  simp only [Reg.ksVal] at hblock ⊢
  simp (disch := omega) only [highWrite, Reg.fcAck, Reg.fcSwrep, Reg.fcInj, Reg.shdCfg, Reg.shdSeed, Reg.rsqTmo, Reg.rsqReq, Reg.rsqDump,
    Reg.govSplit, Reg.govCred, Reg.govArb, Reg.rcEmbcfg, Reg.snsTthr, Reg.snsVthr, Reg.trcCfg, if_neg, blockOf_outside, hblock, snsOf_outside, Option.isSome_none,
    Bool.false_eq_true, if_false, if_true]

theorem highWrite_ksAdd {n : Nat} (hn : n < 4096) : highWrite (Reg.ksAdd n) v = some (ksAdd n v) := by
  have hblock : blockOf 0x100000 0x10 4096 (Reg.ksAdd n) = some (n, 8) := blockOf_inside (by simp only [Reg.ksAdd]; omega) (by simp only [Reg.ksAdd]; omega)
    (by simp only [Reg.ksAdd]; omega) (by simp only [Reg.ksAdd]; omega)
  simp only [Reg.ksAdd] at hblock ⊢
  simp (disch := omega) only [highWrite, Reg.fcAck, Reg.fcSwrep, Reg.fcInj, Reg.shdCfg, Reg.shdSeed, Reg.rsqTmo, Reg.rsqReq, Reg.rsqDump,
    Reg.govSplit, Reg.govCred, Reg.govArb, Reg.rcEmbcfg, Reg.snsTthr, Reg.snsVthr, Reg.trcCfg, if_neg, blockOf_outside, hblock, snsOf_outside, Option.isSome_none,
    Bool.false_eq_true, if_false]

theorem highWrite_kwatchCfg {w : Nat} (hw : w < 16) : highWrite (Reg.kwatchCfg w) v = some (kwatchCfg w v) := by
  have hblock : blockOf 0x110000 0x10 16 (Reg.kwatchCfg w) = some (w, 0) := blockOf_inside (by simp only [Reg.kwatchCfg]; omega) (by simp only [Reg.kwatchCfg]; omega)
    (by simp only [Reg.kwatchCfg]; omega) (by simp only [Reg.kwatchCfg]; omega)
  simp only [Reg.kwatchCfg] at hblock ⊢
  simp (disch := omega) only [highWrite, Reg.fcAck, Reg.fcSwrep, Reg.fcInj, Reg.shdCfg, Reg.shdSeed, Reg.rsqTmo, Reg.rsqReq, Reg.rsqDump,
    Reg.govSplit, Reg.govCred, Reg.govArb, Reg.rcEmbcfg, Reg.snsTthr, Reg.snsVthr, Reg.trcCfg, if_neg, blockOf_outside, hblock, snsOf_outside, Option.isSome_none,
    Bool.false_eq_true, if_false, if_true]

theorem highWrite_snsReg {i : Nat} (hi : i < 20) : highWrite (snsReg i) v = some (snsUseroff (snsReg i) v) := by
  have hsns : (snsOf (snsReg i)).isSome = true := by rw [snsOf_snsReg hi, Option.isSome_some]
  obtain ⟨hlo, hhi, -⟩ := snsReg_bounds hi
  generalize snsReg i = off at hsns hlo hhi
  simp (disch := omega) only [highWrite, Reg.fcAck, Reg.fcSwrep, Reg.fcInj, Reg.shdCfg, Reg.shdSeed, Reg.rsqTmo, Reg.rsqReq, Reg.rsqDump,
    Reg.govSplit, Reg.govCred, Reg.govArb, Reg.rcEmbcfg, Reg.snsTthr, Reg.snsVthr, Reg.trcCfg, if_neg, hsns, if_true]

end

/-! ### A write is the register's command -/

section
variable {s : State} (hfits : Build.fitsMap s.chip.build) (v : Word)
include hfits

/-- A command whose meaning is a register's write is what a write of the register's offset does. -/
theorem exec_registerWrite {off : Nat} (h : plainOffset off) {f : Chip → Chip} (hw : regWrite off v = some f) {i : Instr}
    (hi : exec i s = .next (s.to (f s.chip))) : exec (.registerWrite off 3 v) s = exec i s :=
  (next_to (registerWrite_reaches hfits rfl h hw)).trans hi.symm

theorem exec_write_ctx {c : Nat} (hc : c < 256) {f : Chip → Chip} (hcmd : ctxCmd c v = f) {i : Instr} (hi : exec i s = .next (s.to (f s.chip))) :
    exec (.registerWrite (Reg.ctx c 0x30) 3 v) s = exec i s :=
  exec_registerWrite hfits v (by simp only [plainOffset, Reg.ctx]; omega) (regWrite_low v (lowWrite_ctx v hc)) (hcmd ▸ hi)

theorem exec_write_mov {m : Nat} (hc : m < 64) {f : Chip → Chip} (hcmd : icctl m v = f) {i : Instr} (hi : exec i s = .next (s.to (f s.chip))) :
    exec (.registerWrite (Reg.mov m 0x10) 3 v) s = exec i s :=
  exec_registerWrite hfits v (by simp only [plainOffset, Reg.mov]; omega) (regWrite_low v (lowWrite_mov v hc)) (hcmd ▸ hi)

theorem exec_write_trInv {f : Chip → Chip} (hcmd : trInvWrite v = f) {i : Instr} (hi : exec i s = .next (s.to (f s.chip))) :
    exec (.registerWrite Reg.trInv 3 v) s = exec i s :=
  exec_registerWrite hfits v (by unfold plainOffset; decide) (regWrite_low v rfl) (hcmd ▸ hi)

theorem exec_write_rsqReq {f : Chip → Chip} (hcmd : rsqReq v = f) {i : Instr} (hi : exec i s = .next (s.to (f s.chip))) :
    exec (.registerWrite Reg.rsqReq 3 v) s = exec i s :=
  exec_registerWrite hfits v (by unfold plainOffset; decide) (regWrite_high v (by decide) rfl) (hcmd ▸ hi)

/-- A write of a register below 0x06_0000 that has one offset. -/
theorem exec_write_low {off : Nat} (h : plainOffset off) {f : Chip → Chip} (hw : lowWrite off v = some f) {i : Instr}
    (hi : exec i s = .next (s.to (f s.chip))) : exec (.registerWrite off 3 v) s = exec i s :=
  exec_registerWrite hfits v h (regWrite_low v hw) hi

theorem exec_write_link {off : Nat} (h : plainOffset off) (hlo : 0x060000 ≤ off) {f : Chip → Chip} (hw : linkWrite off v = some f) {i : Instr}
    (hi : exec i s = .next (s.to (f s.chip))) : exec (.registerWrite off 3 v) s = exec i s :=
  exec_registerWrite hfits v h (regWrite_link v hlo hw) hi

theorem exec_write_irq {off : Nat} (h : plainOffset off) (hlo : 0x080000 ≤ off) {f : Chip → Chip} (hw : irqWrite off v = some f) {i : Instr}
    (hi : exec i s = .next (s.to (f s.chip))) : exec (.registerWrite off 3 v) s = exec i s :=
  exec_registerWrite hfits v h (regWrite_irq v hlo hw) hi

theorem exec_write_high {off : Nat} (h : plainOffset off) (hlo : 0x0A0000 ≤ off) {f : Chip → Chip} (hw : highWrite off v = some f) {i : Instr}
    (hi : exec i s = .next (s.to (f s.chip))) : exec (.registerWrite off 3 v) s = exec i s :=
  exec_registerWrite hfits v h (regWrite_high v hlo hw) hi

end

end Sys2Proof.Machine
end

section
/-! A register write, the test access port and its network: the statement (R533, R538–R540, R564–R567). -/

namespace Sys2Proof.Machine

/-! ### Decode errors, and writes while RST_DONE is 0 -/

theorem Chip.decodeError_clocked {s : Chip} (hc : s.clocked = true) (src : Nat) :
    s.decodeError src = (s.accepted.report { src := src, kind := .shared, unit := 0 }).answer .decerr := by
  rw [Chip.decodeError, Chip.acceptAny_clocked hc]

theorem registerWrite_size {s : Chip} {off size : Nat} {v : Word} (h : size ≠ 3) : registerWrite off size v s = s.decodeError Src.rpsize := if_pos h

theorem registerWrite_offset {s : Chip} {off : Nat} {v : Word} (h : off % 8 ≠ 0 ∨ 0x120000 ≤ off) :
    registerWrite off 3 v s = s.decodeError Src.rpaddr := by
  have hbad : off % 8 ≠ 0 ∨ Reg.inRegion off = false := h.imp_right fun h => by simpa [Reg.inRegion] using h
  exact (if_neg fun h => h rfl).trans (if_pos hbad)

theorem Chip.accept_held {s : Chip} (hc : s.clocked = true) (hr : s.pins.rstDone = false) (body : Chip → Chip) :
    s.accept body = s.accepted.answer .err := by
  rw [Chip.accept, Chip.acceptAny_clocked hc, if_neg (by rw [Chip.accepted_pins, hr]; decide)]

/-! ### The test access port's controller (R564) -/

section
variable (s : Chip) (off : Nat) (v : Word) (tdi : Bool)

theorem netWrite_tap : (netWrite off v s).tap = s.tap := by
  simp only [netWrite]
  repeat' split
  all_goals simp

theorem Chip.loadDr_fsm (d : Nat) : (s.updTap fun t => { t with dr := d }).tap.fsm = s.tap.fsm := rfl

theorem Chip.tapCapture_fsm : s.tapCapture.tap.fsm = s.tap.fsm := by
  rw [Chip.tapCapture]
  split
  case h_1 => exact Chip.loadDr_fsm s _
  case h_2 => exact Chip.loadDr_fsm s _
  case h_3 => exact Chip.loadDr_fsm s _

theorem Chip.tapAct_fsm : (s.tapAct tdi).tap.fsm = s.tap.fsm := by
  rw [Chip.tapAct]
  split
  case h_1 => exact Chip.tapCapture_fsm s
  all_goals rfl

theorem Chip.tapEnter_fsm : (s.tapEnter off v).tap.fsm = s.tap.fsm := by
  rw [Chip.tapEnter]
  split
  case h_3 => split <;> simp only [netWrite_tap, Chip.updTap_tap]
  all_goals simp only [Chip.updTap_tap]

/-- An edge of TCK takes the controller to its next state. -/
theorem Chip.tapEvent_fsm (tms : Bool) : (s.tapEvent off v (.edge tms tdi)).tap.fsm = s.tap.fsm.next tms := by
  refine (Chip.tapEnter_fsm _ off v).trans ?_
  rw [Chip.updTap_tap, Chip.tapAct_fsm]

theorem Chip.tapEnter_reset {s : Chip} (h : s.tap.fsm = .reset) (off : Nat) (v : Word) :
    s.tapEnter off v = s.updTap fun t => { t with ir := 0x02 } := by
  simp only [Chip.tapEnter, h]

/-- Test-Logic-Reset selects IDCODE as it is entered. -/
theorem Chip.tapEvent_reset {tms : Bool} (h : s.tap.fsm.next tms = .reset) : (s.tapEvent off v (.edge tms tdi)).tap.ir = 0x02 := by
  have hfsm : ((s.tapAct tdi).updTap fun t => { t with fsm := t.fsm.next tms }).tap.fsm = .reset := by
    rw [Chip.updTap_tap, Chip.tapAct_fsm, h]
  rw [Chip.tapEvent, Chip.tapEnter_reset hfsm, Chip.updTap_tap]

end

/-- Five edges with TMS = 1 end in Test-Logic-Reset, whatever the state. -/
theorem TapFsm.next_five (f : TapFsm) : ((((f.next true).next true).next true).next true).next true = .reset := by
  cases f <;> rfl

theorem tapNetaccWrite_five (s : Chip) (off : Nat) (v : Word) (tdi : Bool) :
    (tapNetaccWrite (List.replicate 5 (.edge true tdi)) off v s).tap.fsm = .reset ∧
      (tapNetaccWrite (List.replicate 5 (.edge true tdi)) off v s).tap.ir = 0x02 := by
  have hstep := fun u : Chip => Chip.tapEvent_fsm u off v tdi true
  have hend : ((((s.tapEvent off v (.edge true tdi)).tapEvent off v (.edge true tdi)).tapEvent off v (.edge true tdi)).tapEvent off v
      (.edge true tdi)).tap.fsm.next true = .reset := by
    rw [hstep, hstep, hstep, hstep, TapFsm.next_five]
  exact ⟨(hstep _).trans hend, Chip.tapEvent_reset _ off v tdi hend⟩

/-! ### One edge (R564–R566) -/

section
variable {s : Chip} (off : Nat) (v : Word) (tdi : Bool)

theorem tapEdge_idcode (h : s.tap.fsm = .capDr) (hir : tapInstr s.tap.ir = .idcode) :
    s.tapEvent off v (.edge false tdi) = s.updTap fun t => { t with fsm := .shiftDr, dr := s.idcode.toNat } := by
  simp only [Chip.tapEvent, Chip.tapAct, h, Chip.tapCapture, hir, Chip.tapEnter, Chip.updTap, TapFsm.next]
  rfl

theorem tapEdge_bypass (h : s.tap.fsm = .capDr) (hir : tapInstr s.tap.ir = .bypass) :
    s.tapEvent off v (.edge false tdi) = s.updTap fun t => { t with fsm := .shiftDr, dr := 0 } := by
  simp only [Chip.tapEvent, Chip.tapAct, h, Chip.tapCapture, hir, Chip.tapEnter, Chip.updTap, TapFsm.next]
  rfl

theorem tapEdge_shift (h : s.tap.fsm = .shiftDr) :
    s.tapEvent off v (.edge false tdi) = s.updTap fun t => { t with dr := tapShift (tapInstr t.ir).len tdi t.dr } := by
  simp only [Chip.tapEvent, Chip.tapAct, h, Chip.tapEnter, Chip.updTap, TapFsm.next, Bool.false_eq_true, if_false]

theorem TapSt.tdo_shift {t : TapSt} (h : t.fsm = .shiftDr) : t.tdo = some (t.dr.testBit 0) := by
  rw [TapSt.tdo, h]

theorem tapEdge_updIr (h : s.tap.fsm = .exit1Ir ∨ s.tap.fsm = .exit2Ir) :
    s.tapEvent off v (.edge true tdi) = s.updTap fun t => { t with fsm := .updIr, ir := t.irs } := by
  rcases h with h | h <;> simp only [Chip.tapEvent, Chip.tapAct, h, Chip.tapEnter, Chip.updTap, TapFsm.next, if_true]

/-- Update-DR is entered. -/
theorem tapEdge_updDr (h : s.tap.fsm = .exit1Dr ∨ s.tap.fsm = .exit2Dr) :
    s.tapEvent off v (.edge true tdi) = (s.updTap fun t => { t with fsm := .updDr }).tapEnter off v := by
  rcases h with h | h <;> simp only [Chip.tapEvent, Chip.tapAct, h, Chip.updTap, TapFsm.next, if_true]

theorem tapEnter_boundary (h : s.tap.fsm = .updDr) (hir : s.tap.ir = 0x00 ∨ s.tap.ir = 0x01) :
    s.tapEnter off v = s.updTap fun t => { t with bnd := t.dr } := by
  rcases hir with hir | hir <;> simp only [Chip.tapEnter, h, hir] <;> rfl

theorem tapEnter_network (h : s.tap.fsm = .updDr) (hir : s.tap.ir = 0x10) : s.tapEnter off v = netWrite off v s := by
  simp only [Chip.tapEnter, h, hir]
  rfl

end

theorem tapInstr_unlisted {c : BitVec 8} (h0 : c ≠ 0x00) (h1 : c ≠ 0x01) (h2 : c ≠ 0x02) (h3 : c ≠ 0x10) : tapInstr c = .bypass :=
  (if_neg h0).trans ((if_neg h1).trans ((if_neg h2).trans (if_neg h3)))

/-! ### The network (R567) -/

section
variable {s : Chip} {off : Nat} (v : Word) (hc : s.clocked = true)
include hc

theorem netWrite_locked (hf : s.pins.ftm = false) : netWrite off v s = s.logCtl Src.guardref 8 := by
  simp only [netWrite, hc, hf, Bool.not_true, Bool.not_false, Bool.false_eq_true, if_false, if_true]

variable (hf : s.pins.ftm = true)
include hf

theorem netWrite_ignored (h : off = Reg.guard ∨ 0x120000 ≤ off) : netWrite off v s = s := by
  have hbad : off % 8 ≠ 0 ∨ Reg.inRegion off = false ∨ off = Reg.guard := by
    rcases h with h | h
    · exact .inr (.inr h)
    · exact .inr (.inl (by simpa [Reg.inRegion] using h))
  simp only [netWrite, hc, hf, Bool.not_true, Bool.false_eq_true, if_false, if_pos hbad]

variable (hal : off % 8 = 0) (hlt : off < 0x120000) (hg : off ≠ Reg.guard)
include hal hlt hg

theorem netWrite_raw (h : netRaw off ≠ 0) : netWrite off v s = s.setReg off (mergeMask (netRaw off) (s.reg off) v) := by
  have hok : ¬ (off % 8 ≠ 0 ∨ Reg.inRegion off = false ∨ off = Reg.guard) := by simp [hal, Reg.inRegion, hlt, hg]
  simp only [netWrite, hc, hf, Bool.not_true, Bool.false_eq_true, if_false, if_neg hok, if_pos h]

theorem netWrite_register (h : netRaw off = 0) :
    netWrite off v s = { writeReg off v s with rp := s.rp, guard := if s.guard = .key1 then .key1 else (writeReg off v s).guard } := by
  have hok : ¬ (off % 8 ≠ 0 ∨ Reg.inRegion off = false ∨ off = Reg.guard) := by simp [hal, Reg.inRegion, hlt, hg]
  simp only [netWrite, hc, hf, Bool.not_true, Bool.false_eq_true, if_false, if_neg hok, if_neg (not_not.mpr h)]

end

theorem netRaw_fuse {k : Nat} (hk : k < 64) : netRaw (Reg.fuseShd k) = maskBits 0 32 := by
  have hblock : blockOf 0x0E0400 8 64 (Reg.fuseShd k) = some (k, 0) := blockOf_inside (by simp only [Reg.fuseShd]; omega)
    (by simp only [Reg.fuseShd]; omega) (by simp only [Reg.fuseShd]; omega) (by simp only [Reg.fuseShd]; omega)
  rw [netRaw, hblock]
  rfl

theorem netRaw_sensor {i : Nat} (hi : i < 20) : netRaw (snsReg i) = maskBits 0 49 := by
  obtain ⟨-, hhi, -⟩ := snsReg_bounds hi
  rw [netRaw, blockOf_outside (by omega), if_neg (by decide), snsOf_snsReg hi, if_pos Option.isSome_some]

theorem registerWrite_decoded {s : Chip} {off : Nat} (v : Word) (hal : off % 8 = 0) (hlt : off < 0x120000) :
    registerWrite off 3 v s = writeReg off v s :=
  (if_neg fun h => h rfl).trans (if_neg (by simp [hal, Reg.inRegion, hlt]))

theorem trInvWrite_scope {v : Word} {k : Nat} (hk : fldN v 0 3 = k) (hle : k ≤ 4) :
    trInvWrite v = trInv k (if k = 0 then 0 else fldN v 8 3) (if k = 2 ∨ k = 3 then fld v 16 16 else 0) := by
  rw [trInvWrite, if_pos (hk.trans_le hle), hk]

/-- Settles O49: decode errors and held writes, the register that each offset reaches, the edges of TCK, and the network. Five edges with
TMS = 1 end in Test-Logic-Reset whatever the network writes on the way, since no register write changes the test access port. -/
theorem registerWrites : Obligations.RegisterWrites := by
  refine ⟨fun s v => ?_, ?_, ?_⟩
  · intro at_ guardOff
    refine ⟨fun hc => ⟨fun off size hsize => ?_, fun off hoff => ?_⟩, fun hc hr i hi => ?_, fun hm hs hf hl => ?_⟩
    · exact next_to ((registerWrite_size hsize).trans (Chip.decodeError_clocked hc _))
    · exact next_to ((registerWrite_offset hoff).trans (Chip.decodeError_clocked hc _))
    · simp only [List.mem_cons, List.not_mem_nil, or_false] at hi
      rcases hi with rfl | rfl | rfl | rfl | rfl | rfl <;> exact next_to (Chip.accept_held hc hr _)
    · have hfits : Build.fitsMap s.chip.build := ⟨hm, hs, hf, hl⟩
      refine ⟨?_, ?_, ?_, ?_, fun k hk => ⟨?_, ?_⟩, fun c hc => ?_, fun m hm' => ⟨fun h0 => ?_, fun h0 h1 => ?_⟩, fun h => ?_, fun h => ?_, fun h => ?_,
        fun h => ?_, fun h => ?_, fun q r hq hr hr8 => ?_, fun off hoff => ?_, ?_, ?_, ?_, fun n hn => ?_, fun p e r hp he hr hr8 => ?_,
        fun w r hw hr hr8 => ?_, fun k hk => ⟨?_, ?_, ?_, ?_⟩, ?_, fun t ht => ⟨?_, ?_⟩, fun n hn => ⟨?_, ?_⟩, ?_, ?_, ?_, fun off hoff => ?_, ?_, ?_,
        fun h => ?_, fun h => ?_, fun off hoff => ?_, ?_, fun i hi => ?_, fun off hoff => ?_, ?_, fun n hn => ⟨?_, ?_⟩, fun w hw => ?_⟩
      · exact exec_write_low hfits v (by unfold plainOffset; decide) rfl rfl
      · exact exec_write_low hfits v (by unfold plainOffset; decide) rfl rfl
      · exact exec_write_low hfits v (by unfold plainOffset; decide) rfl rfl
      · exact exec_write_low hfits v (by unfold plainOffset; decide) rfl rfl
      · exact exec_write_low hfits v (by simp only [plainOffset, Reg.partMov]; omega) (lowWrite_partMov v hk) rfl
      · exact exec_write_low hfits v (by simp only [plainOffset, Reg.ksPart]; omega) (lowWrite_ksPart v hk) rfl
      · intro cmd
        exact ⟨fun h => exec_write_ctx hfits v hc (by simp only [ctxCmd, h]) rfl, fun h => exec_write_ctx hfits v hc (by simp only [ctxCmd, h]) rfl, fun h => exec_write_ctx hfits v hc (by simp only [ctxCmd, h]) rfl, fun h => exec_write_ctx hfits v hc (by simp only [ctxCmd, h]) rfl, fun h => exec_write_ctx hfits v hc (by simp only [ctxCmd, h]) rfl, fun h => exec_write_ctx hfits v hc (by simp only [ctxCmd, h]) rfl, fun h => exec_write_ctx hfits v hc (by simp only [ctxCmd, h]) rfl, fun h => exec_write_ctx hfits v hc (by simp only [ctxCmd, h]) rfl, fun h => exec_write_ctx hfits v hc (by simp only [ctxCmd, h]) rfl⟩
      · exact exec_write_mov hfits v hm' (if_pos h0) rfl
      · exact exec_write_mov hfits v hm' ((if_neg (Bool.eq_false_iff.mp h0)).trans (if_pos h1)) rfl
      · exact exec_write_trInv hfits v (trInvWrite_scope h (by decide)) rfl
      · exact exec_write_trInv hfits v (trInvWrite_scope h (by decide)) rfl
      · exact exec_write_trInv hfits v (trInvWrite_scope h (by decide)) rfl
      · exact exec_write_trInv hfits v (trInvWrite_scope h (by decide)) rfl
      · exact exec_write_trInv hfits v (trInvWrite_scope h (by decide)) rfl
      · exact exec_write_low hfits v (by simp only [plainOffset, Reg.trq]; omega) (lowWrite_trq v hq hr) rfl
      · simp only [List.mem_cons, List.not_mem_nil, or_false] at hoff
        rcases hoff with rfl | rfl | rfl
        · exact exec_write_low hfits v (by unfold plainOffset; decide) rfl rfl
        · exact exec_write_low hfits v (by unfold plainOffset; decide) rfl rfl
        · exact exec_write_link hfits v (by unfold plainOffset; decide) (by decide) rfl rfl
      · exact exec_write_low hfits v (by unfold plainOffset; decide) rfl rfl
      · exact exec_write_low hfits v (by unfold plainOffset; decide) rfl rfl
      · exact exec_write_link hfits v (by unfold plainOffset; decide) (by decide) rfl rfl
      · exact exec_write_link hfits v (by simp only [plainOffset, Reg.lk]; omega) (by simp only [Reg.lk]; omega) (linkWrite_lk v hn) rfl
      · exact exec_write_link hfits v (by simp only [plainOffset, Reg.rt]; omega) (by simp only [Reg.rt]; omega) (linkWrite_rt v hp he hr) rfl
      · exact exec_write_link hfits v (by simp only [plainOffset, Reg.lw]; omega) (by simp only [Reg.lw]; omega) (linkWrite_lw v hw hr) rfl
      · exact exec_write_irq hfits v (by simp only [plainOffset, Reg.icPset]; omega) (by simp only [Reg.icPset]; omega) (irqWrite_icPset v hk) rfl
      · exact exec_write_irq hfits v (by simp only [plainOffset, Reg.icPclr]; omega) (by simp only [Reg.icPclr]; omega) (irqWrite_icPclr v hk) rfl
      · exact exec_write_irq hfits v (by simp only [plainOffset, Reg.icMset]; omega) (by simp only [Reg.icMset]; omega) (irqWrite_icMset v hk) rfl
      · exact exec_write_irq hfits v (by simp only [plainOffset, Reg.icMclr]; omega) (by simp only [Reg.icMclr]; omega) (irqWrite_icMclr v hk) rfl
      · exact exec_write_irq hfits v (by unfold plainOffset; decide) (by decide) rfl rfl
      · exact exec_write_irq hfits v (by simp only [plainOffset, Reg.icTgt]; omega) (by simp only [Reg.icTgt]; omega) (irqWrite_icTcfg v ht) rfl
      · exact exec_write_irq hfits v (by simp only [plainOffset, Reg.icTgt]; omega) (by simp only [Reg.icTgt]; omega) (irqWrite_icEoi v ht) rfl
      · exact exec_write_irq hfits v (by simp only [plainOffset, Reg.icSrc]; omega) (by simp only [Reg.icSrc]; omega) (irqWrite_icSrc v hn) rfl
      · exact exec_write_irq hfits v (by simp only [plainOffset, Reg.icSst]; omega) (by simp only [Reg.icSst]; omega) (irqWrite_icSst v hn) rfl
      · exact exec_write_high hfits v (by unfold plainOffset; decide) (by decide) rfl rfl
      · exact exec_write_high hfits v (by unfold plainOffset; decide) (by decide) rfl rfl
      · exact exec_write_high hfits v (by unfold plainOffset; decide) (by decide) rfl rfl
      · simp only [List.mem_cons, List.not_mem_nil, or_false] at hoff
        rcases hoff with rfl | rfl
        · exact exec_write_high hfits v (by unfold plainOffset; decide) (by decide) rfl rfl
        · exact exec_write_high hfits v (by unfold plainOffset; decide) (by decide) rfl rfl
      · exact exec_write_high hfits v (by unfold plainOffset; decide) (by decide) rfl rfl
      · exact exec_write_high hfits v (by unfold plainOffset; decide) (by decide) rfl rfl
      · exact exec_write_rsqReq hfits v (by simp only [rsqReq, h]) rfl
      · exact exec_write_rsqReq hfits v (by simp only [rsqReq, h]) rfl
      · simp only [List.mem_cons, List.not_mem_nil, or_false] at hoff
        rcases hoff with rfl | rfl | rfl
        · exact exec_write_high hfits v (by unfold plainOffset; decide) (by decide) rfl rfl
        · exact exec_write_high hfits v (by unfold plainOffset; decide) (by decide) rfl rfl
        · exact exec_write_high hfits v (by unfold plainOffset; decide) (by decide) rfl rfl
      · exact exec_write_high hfits v (by unfold plainOffset; decide) (by decide) rfl rfl
      · obtain ⟨hlo, hhi, hal⟩ := snsReg_bounds hi
        exact exec_write_high hfits v (by unfold plainOffset; omega) (by omega) (highWrite_snsReg v hi) rfl
      · simp only [List.mem_cons, List.not_mem_nil, or_false] at hoff
        rcases hoff with rfl | rfl
        · exact exec_write_high hfits v (by unfold plainOffset; decide) (by decide) rfl rfl
        · exact exec_write_high hfits v (by unfold plainOffset; decide) (by decide) rfl rfl
      · exact exec_write_high hfits v (by unfold plainOffset; decide) (by decide) rfl rfl
      · exact exec_write_high hfits v (by simp only [plainOffset, Reg.ksVal]; omega) (by simp only [Reg.ksVal]; omega) (highWrite_ksVal v hn) rfl
      · exact exec_write_high hfits v (by simp only [plainOffset, Reg.ksAdd]; omega) (by simp only [Reg.ksAdd]; omega) (highWrite_ksAdd v hn) rfl
      · exact exec_write_high hfits v (by simp only [plainOffset, Reg.kwatchCfg]; omega) (by simp only [Reg.kwatchCfg]; omega) (highWrite_kwatchCfg v hw) rfl
  · intro s off v tdi tap edge at_
    refine ⟨rfl, ⟨_, rfl, tapNetaccWrite_five s.chip off v tdi⟩, fun h hir => ?_, fun h hir => ?_, fun h => ⟨?_, TapSt.tdo_shift h⟩, fun h => ?_,
      fun h => ⟨fun hir => ?_, fun hir => ?_⟩, fun c h0 h1 h2 h3 => ?_⟩
    · exact next_to (tapEdge_idcode off v tdi h (by rw [hir]; rfl))
    · exact next_to (tapEdge_bypass off v tdi h hir)
    · exact next_to (tapEdge_shift off v tdi h)
    · exact next_to (tapEdge_updIr off v tdi h)
    · exact next_to ((tapEdge_updDr off v tdi h).trans (tapEnter_boundary off v rfl hir))
    · exact next_to ((tapEdge_updDr off v tdi h).trans (tapEnter_network off v rfl hir))
    · rw [tapInstr_unlisted h0 h1 h2 h3]
      exact ⟨rfl, rfl⟩
  · intro s off v hc u
    refine ⟨netWrite_locked v hc, fun hf => ⟨fun k hk hoff => ?_, fun i hi hoff => ?_, fun hlt hal hraw hg => ?_, netWrite_ignored v hc hf⟩⟩
    · subst hoff
      have hraw := netRaw_fuse hk
      have hnet := netWrite_raw v hc hf (off := Reg.fuseShd k) (by simp only [Reg.fuseShd]; omega) (by simp only [Reg.fuseShd]; omega)
        (by simp only [Reg.fuseShd, Reg.guard]; omega) (by rw [hraw]; decide)
      rwa [hraw] at hnet
    · subst hoff
      have hraw := netRaw_sensor hi
      obtain ⟨hlo, hhi, hal⟩ := snsReg_bounds hi
      have hnet := netWrite_raw v hc hf hal (by omega) (by simp only [Reg.guard]; omega) (by rw [hraw]; decide)
      rwa [hraw] at hnet
    · refine ⟨writeReg off v s.chip, next_to (registerWrite_decoded v hal hlt), ?_⟩
      have hnet : u = _ := netWrite_register v hc hf hal hlt hg hraw
      rw [hnet]
      exact ⟨rfl, rfl, rfl, rfl, rfl⟩

end Sys2Proof.Machine
end
